-- ==== Sys2Proof/Word.lean ====
section
/-! DEFINITION. The byte and the sparse tables keyed by numbers that the state is built from. -/

namespace Sys2Proof

/-- A byte of memory, of a packet or of a parameter block. -/
abbrev Byte := BitVec 8

/-- A sparse table keyed by numbers, ascending, no key twice. -/
abbrev Tab (α : Type) := List (Nat × α)

end Sys2Proof
end

