-- ==== Sys2Proof/Syntax.lean ====
section
/-! DEFINITION. The commands of the node: one constructor per row of opcode_table.json, and the operand types
that say what a sender, a link partner, a regulator or one of the node's own units supplies. -/

namespace Sys2Proof

/-- Where a command packet comes from (11, Paths): a queue pair of a PCIe function (0 the PF, n VF n), a control or
fabric connection by CONN_ID, or an MCTP endpoint: that of the I3C or SMBus binding, or that of MCTP over PCIe VDM (R273, R507). -/
inductive Source where
  | qp (fn q : Nat)
  | conn (id : Nat)
  | mctp (pcie : Bool)
  deriving DecidableEq, Repr, Inhabited

/-- A command packet as it reached the node: its 64-byte header and parameter area (R276), and, on a queue pair, the
REPLY_LEN of its ring entry (R476). -/
structure Packet where
  bytes : List Byte
  replyLen : Nat
  deriving DecidableEq, Repr, Inhabited

/-- A page in transit between nodes: its record (R62), its tiles, and the 32-bit words of record then tiles that
travel poisoned (R41). -/
structure PageImage where
  record : List Byte
  tiles : List Byte
  poison : List Nat
  deriving DecidableEq, Repr, Inhabited

/-- One rail's report on AVSBus (R420): the cell, its voltage and current, and whether its status raises an alert. -/
structure RailRead where
  cell : Nat
  mv : Nat
  ma : Nat
  alert : Bool
  deriving DecidableEq, Repr, Inhabited

/-- A reference input (R421). -/
inductive RefKind where
  | pcie | serdes | system
  deriving DecidableEq, Repr, Inhabited

/-- Which side missed three heartbeats of R434. -/
inductive HeartbeatSide where
  | securityMissed | controlMissed
  deriving DecidableEq, Repr, Inhabited

/-- The unit that does not return a context's resources (R438). -/
inductive StuckUnit where
  | core (cell core : Nat)
  | cellUnit (cell unit : Nat)
  | hubBlock (unit : Nat)
  deriving DecidableEq, Repr, Inhabited

/-- A transport packet after its link and IP layers (R357): its source address (16 bytes; read on a Weftlink port), the ESP fields, whether its ICV and ICRC check, BTH, the
Spray extension header (R361), RETH, ImmDt, AETH and payload; `pkey` and `tver` of the BTH, whether it came as an IP fragment, and the
bytes of its Ethernet frame (R339, R353). -/
structure NetPacket where
  port : Nat
  src : List Byte := []
  qpn : Nat
  spi : Nat
  espSeq : Nat
  auth : Bool
  ce : Bool
  opcode : Nat
  psn : Nat
  ackReq : Bool
  seh : List Byte
  reth : Option (Nat × Nat × Nat)
  imm : Option Nat
  aeth : Nat
  payload : List Byte
  pkey : Nat := 0xFFFF
  tver : Nat := 0
  fragment : Bool := false
  frame : Nat := 0
  deriving DecidableEq, Repr, Inhabited

/-- What every received transport packet shows before its own content (R352, R353, R357, R372), with the fields of `NetPacket`. -/
structure NetHead where
  port : Nat := 0
  src : List Byte := []
  qpn : Nat := 0
  spi : Nat := 0
  espSeq : Nat := 0
  auth : Bool := true
  pkey : Nat := 0xFFFF
  tver : Nat := 0
  fragment : Bool := false
  frame : Nat := 0
  deriving DecidableEq, Repr, Inhabited

/-- The SACK block of R364, and what its packet shows besides QPN, SPI and authenticity. -/
structure Sack where
  cum : Nat
  ceEcho : Nat
  nakCode : Nat
  nakMsn : Nat
  bitmap : Nat
  port : Nat := 0
  src : List Byte := []
  espSeq : Nat := 1
  pkey : Nat := 0xFFFF
  tver : Nat := 0
  fragment : Bool := false
  frame : Nat := 0
  deriving DecidableEq, Repr, Inhabited

/-- PLDM over MCTP (R507): a type 2 sensor reading, and the type 5 steps that reach FW_STAGE and FW_ACTIVATE. -/
inductive PldmReq where
  | sensor (id : Nat)
  | fwData (offset imageLen : Nat) (final : Bool) (chunk : List Byte)
  | fwActivate
  deriving DecidableEq, Repr, Inhabited

/-- A ring of R484. -/
inductive RingId where
  | event
  | pool (i : Nat)
  deriving DecidableEq, Repr, Inhabited

/-- Which part of a 64-bit register an access covers (R474). -/
inductive Half where
  | low | high | full
  deriving DecidableEq, Repr, Inhabited

/-- What the TAP controller is asked (R511, R460): reset by TRST_N or TMS, an instruction register load, a data
register shift of so many bits. -/
inductive TapOp where
  | reset
  | loadIr (code : Nat)
  | shiftDr (din : List Bool)
  deriving DecidableEq, Repr, Inhabited

/-- The commands: one constructor per row of the opcode table, in its order. -/
inductive Instr where
  /-- NOP (R312). -/
  | nop (src : Source) (pkt : Packet)
  /-- IDENTIFY (R312). -/
  | identify (src : Source) (pkt : Packet)
  /-- READ_STATE (R297). -/
  | readState (src : Source) (pkt : Packet)
  /-- CONFIG_STAGE (R289). -/
  | configStage (src : Source) (pkt : Packet)
  /-- CONFIG_COMMIT (R291). -/
  | configCommit (src : Source) (pkt : Packet)
  /-- PARTITION_CREATE (R314). -/
  | partitionCreate (src : Source) (pkt : Packet)
  /-- PARTITION_DESTROY (R314). -/
  | partitionDestroy (src : Source) (pkt : Packet)
  /-- METER_REPORT (R231). -/
  | meterReport (src : Source) (pkt : Packet)
  /-- EVENT_SUBSCRIBE (R315). -/
  | eventSubscribe (src : Source) (pkt : Packet)
  /-- SEQ_CREATE (R316). -/
  | seqCreate (src : Source) (pkt : Packet)
  /-- SEQ_DESTROY (R316). -/
  | seqDestroy (src : Source) (pkt : Packet)
  /-- APPEND (R215). -/
  | appendCmd (src : Source) (pkt : Packet)
  /-- PAGE_PIN (R89). -/
  | pagePin (src : Source) (pkt : Packet)
  /-- PAGE_SHARE (R78). -/
  | pageShare (src : Source) (pkt : Packet)
  /-- PAGE_MIGRATE (R90). -/
  | pageMigrate (src : Source) (pkt : Packet)
  /-- PAGE_LEND (R91). -/
  | pageLend (src : Source) (pkt : Packet)
  /-- PAGE_RECALL (R93). -/
  | pageRecall (src : Source) (pkt : Packet)
  /-- SEQ_MAP_EDIT (R318). -/
  | seqMapEdit (src : Source) (pkt : Packet)
  /-- POOL_SET (R83). -/
  | poolSet (src : Source) (pkt : Packet)
  /-- FORMAT_TABLE_LOAD (R123). -/
  | formatTableLoad (src : Source) (pkt : Packet)
  /-- ATTEND (R144). -/
  | attend (src : Source) (pkt : Packet)
  /-- ATTEND_BWD (R198). -/
  | attendBwd (src : Source) (pkt : Packet)
  /-- MERGE (R151). -/
  | mergeCmd (src : Source) (pkt : Packet)
  /-- DIGEST_BUILD (R160). -/
  | digestBuild (src : Source) (pkt : Packet)
  /-- SCORER_LOAD (R182). -/
  | scorerLoad (src : Source) (pkt : Packet)
  /-- CANCEL (R28). -/
  | cancel (src : Source) (pkt : Packet)
  /-- MATCH_INSERT (R238). -/
  | matchInsert (src : Source) (pkt : Packet)
  /-- MATCH_DELETE (R239). -/
  | matchDelete (src : Source) (pkt : Packet)
  /-- MATCH_SEARCH (R249). -/
  | matchSearch (src : Source) (pkt : Packet)
  /-- MATCH_STEP (R247). -/
  | matchStep (src : Source) (pkt : Packet)
  /-- MATCH_CONFIG (R236). -/
  | matchConfig (src : Source) (pkt : Packet)
  /-- BANK_OP (R264). -/
  | bankOp (src : Source) (pkt : Packet)
  /-- BANK_OPSTAT (R269). -/
  | bankOpstat (src : Source) (pkt : Packet)
  /-- CONN_CREATE (R355). -/
  | connCreate (src : Source) (pkt : Packet)
  /-- CONN_MODIFY (R354). -/
  | connModify (src : Source) (pkt : Packet)
  /-- CONN_DESTROY (R379). -/
  | connDestroy (src : Source) (pkt : Packet)
  /-- REGION_REGISTER (R370). -/
  | regionRegister (src : Source) (pkt : Packet)
  /-- REGION_REVOKE (R371). -/
  | regionRevoke (src : Source) (pkt : Packet)
  /-- SA_INSTALL (R373). -/
  | saInstall (src : Source) (pkt : Packet)
  /-- SRQ_POST (R368). -/
  | srqPost (src : Source) (pkt : Packet)
  /-- LEASE_ACQUIRE (R219). -/
  | leaseAcquire (src : Source) (pkt : Packet)
  /-- LEASE_RENEW (R219). -/
  | leaseRenew (src : Source) (pkt : Packet)
  /-- LEASE_HANDOFF (R220). -/
  | leaseHandoff (src : Source) (pkt : Packet)
  /-- LEASE_HANDOFF_AT_HOME (R219). -/
  | leaseHandoffAtHome (src : Source) (pkt : Packet)
  /-- LEASE_PROMPT (R221). -/
  | leasePrompt (src : Source) (pkt : Packet)
  /-- LEASE_RELEASE (R219). -/
  | leaseRelease (src : Source) (pkt : Packet)
  /-- PLACE_SET (R204). -/
  | placeSet (src : Source) (pkt : Packet)
  /-- ATTEST_GET (R396). -/
  | attestGet (src : Source) (pkt : Packet)
  /-- JOB_KEY_INSTALL (R387). -/
  | jobKeyInstall (src : Source) (pkt : Packet)
  /-- KEY_ROTATE (R391). -/
  | keyRotate (src : Source) (pkt : Packet)
  /-- ZEROISE (R400). -/
  | zeroise (src : Source) (pkt : Packet)
  /-- POWER_STATE (R410). -/
  | powerState (src : Source) (pkt : Packet)
  /-- BUDGET_SET (R422). -/
  | budgetSet (src : Source) (pkt : Packet)
  /-- RESET_LEVEL (R431). -/
  | resetLevel (src : Source) (pkt : Packet)
  /-- DUMP_COLLECT (R453). -/
  | dumpCollect (src : Source) (pkt : Packet)
  /-- DUMP_READ (R457). -/
  | dumpRead (src : Source) (pkt : Packet)
  /-- FROST_ARM (R458). -/
  | frostArm (src : Source) (pkt : Packet)
  /-- FW_STAGE (R464). -/
  | fwStage (src : Source) (pkt : Packet)
  /-- FW_ACTIVATE (R465). -/
  | fwActivate (src : Source) (pkt : Packet)
  /-- SUB_REQUEST (R208). -/
  | subRequest (src : Source) (pkt : Packet)
  /-- MIRROR_READ (R225). -/
  | mirrorRead (src : Source) (pkt : Packet)
  /-- RECONSTRUCTION (R229). -/
  | reconstruction (src : Source) (pkt : Packet)
  /-- LEND_NEIGHBOUR_ATTEND (R92). -/
  | lendNeighbourAttend (src : Source) (pkt : Packet)
  /-- WRITE_THROUGH (R216). -/
  | writeThrough (src : Source) (pkt : Packet)
  /-- LENT_PAGE_RECEIVE (R91). -/
  | lentPageReceive (conn ownerGen : Nat) (page : PageImage) (table : List Byte)
  /-- LEND_RELEASE (R94). -/
  | lendRelease (conn ownerGen handle : Nat)
  /-- LENT_LOSS_REPORT (R94). -/
  | lentLossReport (conn : Nat) (handles : List Nat)
  /-- RESYNC_PAGE (R224). -/
  | resyncPage (conn part job seq span epoch : Nat) (page : PageImage)
  /-- PARITY_STREAM (R228). -/
  | parityStream (conn part job group codePos pos : Nat) (page : PageImage) (last : Bool)
  /-- MEMBER_REPLY (R209). -/
  | memberReply (ctx sub status detail : Nat) (payload : List Byte)
  /-- MEMBER_WAIT_EXPIRY (R210). -/
  | memberWaitExpiry (ctx sub : Nat)
  /-- SPAN_DEADLINE_EXPIRY (R210). -/
  | spanDeadlineExpiry (ctx sub : Nat)
  /-- HOME_RECORD_EXPIRY (R217). -/
  | homeRecordExpiry (part record : Nat)
  /-- LEASE_EXPIRY (R221). -/
  | leaseExpiry (part record : Nat)
  /-- PROMPT_REPEAT (R221). -/
  | promptRepeat (part record : Nat)
  /-- RENEW_TIMER (R219). -/
  | renewTimer (part job seq span : Nat)
  /-- OWNER_LEASE_END (R218). -/
  | ownerLeaseEnd (part job seq span : Nat)
  /-- DISPATCH_ADMIT (R20). -/
  | dispatchAdmit (cell : Nat)
  /-- TOKEN_PULL (R21). -/
  | tokenPull (cell core : Nat)
  /-- PAGE_FETCH (R22). -/
  | pageFetch (cell : Nat)
  /-- PAGE_FETCH_DONE (R22). -/
  | pageFetchDone (cell core place inc : Nat)
  /-- V_TILE_CONSUMED (R23). -/
  | vTileConsumed (cell core : Nat)
  /-- TOKEN_FINISH (R24). -/
  | tokenFinish (cell core inc : Nat)
  /-- CELL_PARTIAL_RECEIVE (R24). -/
  | cellPartialReceive (cell : Nat)
  /-- DEADLINE_EXPIRY (R145). -/
  | deadlineExpiry (ctx : Nat)
  /-- SELECTION_DONE (R176). -/
  | selectionDone (cell core inc : Nat)
  /-- GSET_QUEUE_RESUME (R194). -/
  | gsetQueueResume (part gset : Nat)
  /-- GRAD_MESSAGE_DONE (R196). -/
  | gradMessageDone (ctx : Nat) (ok : Bool)
  /-- EDIT_QUEUE_RESUME (R71). -/
  | editQueueResume (part job seq : Nat)
  /-- EPOCH_ADVANCE (R72). -/
  | epochAdvance (part : Nat)
  /-- CLOCK_SWEEP (R84). -/
  | clockSweep (part : Nat)
  /-- EVICTION (R86). -/
  | eviction (part : Nat)
  /-- POOL_STAT_UPDATE (R490). -/
  | poolStatUpdate (part : Nat)
  /-- SCRUB_GRANULE (R47). -/
  | scrubGranule (cell : Nat) (raced : Bool)
  /-- SCRUB_REWRITE (R43). -/
  | scrubRewrite (cell : Nat)
  /-- STACK_TEMP_REPORT (R50). -/
  | stackTempReport (cell temp : Nat)
  /-- DIE_TEMP_REPORT (R426). -/
  | dieTempReport (die temp : Nat)
  /-- THROTTLE_CLEAR (R424). -/
  | throttleClear (cause : Nat)
  /-- AVS_POLL (R420). -/
  | avsPoll (packageW : Nat) (peak : Bool) (rails : List RailRead)
  /-- AVS_VOLTAGE_REACHED (R419). -/
  | avsVoltageReached (cell mv : Nat)
  /-- AVS_TIMEOUT (R420). -/
  | avsTimeout (cell : Nat)
  /-- ENVELOPE_TICK (R423). -/
  | envelopeTick (draws : List (Nat × Nat))
  /-- THERMTRIP (R427). -/
  | thermtrip
  /-- CELL_OFF_DRAINED (R411). -/
  | cellOffDrained (cell : Nat)
  /-- DRIZZLE_QUIESCED (R414). -/
  | drizzleQuiesced
  /-- DRIZZLE_QUIESCE_EXPIRY (R414). -/
  | drizzleQuiesceExpiry
  /-- WAKE (R417). -/
  | wake
  /-- DRIZZLE_TIMER_EXPIRY (R416). -/
  | drizzleTimerExpiry
  /-- WAKE_N (R416). -/
  | wakeN (low : Bool)
  /-- REF_LOSS (R421). -/
  | refLoss (kind : RefKind)
  /-- CTX_WD_TRIP (R438). -/
  | ctxWdTrip (ctx : Nat)
  /-- CORE_WD_TRIP (R439). -/
  | coreWdTrip (cell core : Nat)
  /-- CELL_WD_TRIP (R440). -/
  | cellWdTrip (cell unit : Nat)
  /-- HUB_WD_TRIP (R441). -/
  | hubWdTrip (unit : Nat)
  /-- HEARTBEAT_MISS (R434). -/
  | heartbeatMiss (side : HeartbeatSide)
  /-- CORE_SELF_CHECK_DONE (R439). -/
  | coreSelfCheckDone (cell core : Nat) (pass : Bool)
  /-- CORE_RESET_TIMEOUT (R444). -/
  | coreResetTimeout (cell core : Nat)
  /-- PART_RESET_TIMEOUT (R444). -/
  | partResetTimeout (part : Nat)
  /-- NODE_RESET_TIMEOUT (R444). -/
  | nodeResetTimeout
  /-- CONTROL_RESTART_TIMEOUT (R444). -/
  | controlRestartTimeout
  /-- PARTITION_RESET_DONE (R440). -/
  | partitionResetDone (part : Nat)
  /-- NODE_RESET_DONE (R441). -/
  | nodeResetDone (present : Nat)
  /-- DUMP_HOLD_EXPIRY (R442). -/
  | dumpHoldExpiry
  /-- DUMP_UNIT_WAIT_EXPIRY (R454). -/
  | dumpUnitWaitExpiry (unit : Nat)
  /-- DUMP_TRUNCATED (R454). -/
  | dumpTruncated
  /-- FW_REPORT_RUNNING (R465). -/
  | fwReportRunning
  /-- FW_ACTIVATE_TIMEOUT (R466). -/
  | fwActivateTimeout
  /-- PWR_GOOD (R468). -/
  | pwrGood (straps : Nat) (resetN tamperN selfTestOk : Bool)
  /-- RESET_N (R443). -/
  | resetN
  /-- PERST_N (R472). -/
  | perstN (low : Bool)
  /-- POWER_LOSS (R506). -/
  | powerLoss
  /-- TAMPER_N (R400). -/
  | tamperN
  /-- ENTROPY_TEST_FAIL (R399). -/
  | entropyTestFail (test : Nat)
  /-- FROST_N_FALL (R458). -/
  | frostNFall
  /-- FROST_N_RISE (R462). -/
  | frostNRise
  /-- FROST_TRIGGER (R458). -/
  | frostTrigger
  /-- SPDM_REQUEST (R392). -/
  | spdmRequest (code param : Nat) (body : List Byte)
  /-- PLDM_REQUEST (R507). -/
  | pldmRequest (req : PldmReq)
  /-- BATCH_CLOSE (R242). -/
  | batchClose (part batch : Nat)
  /-- SWEEP_START (R243). -/
  | sweepStart (cell : Nat)
  /-- SWEEP_DONE (R244). -/
  | sweepDone (cell : Nat)
  /-- PATROL_COMPARE (R252). -/
  | patrolCompare (cell : Nat)
  /-- CURSOR_TIMEOUT (R247). -/
  | cursorTimeout (part cursor : Nat)
  /-- BANK_ELEMENT_DONE (R265). -/
  | bankElementDone (cell bank : Nat)
  /-- ELEMENT_WAIT_EXPIRY (R266). -/
  | elementWaitExpiry (cell bank : Nat)
  /-- OP_RECORD_EXPIRY (R269). -/
  | opRecordExpiry (part opId : Nat)
  /-- STD_PACKET_RECEIVE (R359). -/
  | stdPacketReceive (p : NetPacket)
  /-- SPRAY_PACKET_RECEIVE (R362). -/
  | sprayPacketReceive (p : NetPacket)
  /-- SPRAY_ACK_RECEIVE (R366). -/
  | sprayAckReceive (qpn spi : Nat) (auth : Bool) (a : Sack)
  /-- ACK_DELAY_EXPIRY (R364). -/
  | ackDelayExpiry (conn : Nat)
  /-- ACK_TIMEOUT (R366). -/
  | ackTimeout (conn psn : Nat)
  /-- CAPABILITY_DATAGRAM (R356). -/
  | capabilityDatagram (port : Nat) (fromAddr : List Byte) (d : List Byte)
  /-- CAP_RETRY (R355). -/
  | capRetry (conn : Nat)
  /-- CNP_RECEIVE (R374). -/
  | cnpReceive (qpn : NetHead)
  /-- CC_TIMER (R374). -/
  | ccTimer (conn : Nat)
  /-- RNR_NAK_RECEIVE (R359). -/
  | rnrNakReceive (qpn : NetHead) (psn : Nat)
  /-- ARP_ND_RECEIVE (R377). -/
  | arpNdReceive (port : Nat) (isNd isRequest : Bool) (target sender mac : List Byte)
  /-- AUTONEG (R336). -/
  | autoneg (port page : Nat) (speeds : Nat) (eee : Bool)
  /-- LINK_TRAINING_DONE (R337). -/
  | linkTrainingDone (port : Nat)
  /-- LINK_LOCK_TIMEOUT (R337). -/
  | linkLockTimeout (port : Nat)
  /-- CAPABILITY_BLOCK (R340). -/
  | capabilityBlock (port : Nat) (block : List Byte)
  /-- WEFT_TRAINING_DONE (R342). -/
  | weftTrainingDone (port failed : Nat) (tag : Nat)
  /-- LINK_LOSS (R344). -/
  | linkLoss (port : Nat)
  /-- LPI_ENTRY (R338). -/
  | lpiEntry (port : Nat)
  /-- PARK_REQ (R345). -/
  | parkReq (port : Nat)
  /-- PARK_ACK (R345). -/
  | parkAck (port : Nat)
  /-- UNPARK (R346). -/
  | unpark (port : Nat) (checkOk : Bool)
  /-- FAST_RETRAIN_TIMEOUT (R348). -/
  | fastRetrainTimeout (port : Nat)
  /-- SQ_DOORBELL (R479). -/
  | sqDoorbell (fn qp tail : Nat)
  /-- CQ_DOORBELL (R479). -/
  | cqDoorbell (fn qp head : Nat)
  /-- SQ_ENTRY_FETCH (R477). -/
  | sqEntryFetch (fn qp : Nat) (entry params : List Byte) (fault : Bool)
  /-- COMPLETION_POST (R478). -/
  | completionPost (fn qp : Nat) (fault : Bool)
  /-- COAL_US_EXPIRY (R483). -/
  | coalUsExpiry (fn qp : Nat)
  /-- QP_ENABLE (R481). -/
  | qpEnable (fn qp : Nat) (cfg : BitVec 64)
  /-- QP_DISABLE (R481). -/
  | qpDisable (fn qp : Nat) (cfg : BitVec 64)
  /-- QP_QUIESCE_DONE (R481). -/
  | qpQuiesceDone (fn qp : Nat)
  /-- FLR (R472). -/
  | flr (fn : Nat)
  /-- D3HOT (R472). -/
  | d3hot (fn : Nat) (bmeOnly : Bool)
  /-- RING_ENABLE (R484). -/
  | ringEnable (fn : Nat) (ring : RingId) (ctl : BitVec 64)
  /-- RING_HEAD_WRITE (R484). -/
  | ringHeadWrite (fn : Nat) (ring : RingId) (head : Nat)
  /-- RAW_APERTURE_ACCESS (R486). -/
  | rawApertureAccess (fn part off len : Nat) (data : Option (List Byte))
  /-- RWS_WRITE (R290). -/
  | rwsWrite (fn off : Nat) (half : Half) (val : BitVec 64)
  /-- COMMIT (R292). -/
  | commit (fn off : Nat)
  /-- DISCARD (R292). -/
  | discard (fn off : Nat)
  /-- SELFTEST (R401). -/
  | selftest (fn : Nat)
  /-- RELEASE (R461). -/
  | release
  /-- MTR_SEL (R492). -/
  | mtrSel (fn job : Nat)
  /-- NODE_ID_WRITE (R489). -/
  | nodeIdWrite (fn id : Nat)
  /-- REGISTER_WRITE (R5). -/
  | registerWrite (fn : Nat) (bar : Nat) (off : Nat) (half : Half) (val : BitVec 64)
  /-- FABRIC_REPLY (R219). -/
  | fabricReply (conn tag status detail : Nat) (ret : List Byte)
  /-- HANDOFF_TIMEOUT (R219). -/
  | handoffTimeout (part job seq span : Nat)
  /-- RECALL_REQUEST (R93). -/
  | recallRequest (conn tag ownerGen handle : Nat)
  /-- LEND_RELEASE_WAIT_EXPIRY (R95). -/
  | lendReleaseWaitExpiry (part : Nat)
  /-- CELL_OFF_EXIT_DONE (R412). -/
  | cellOffExitDone (cell : Nat)
  /-- PCIE_LINK_DOWN (R472). -/
  | pcieLinkDown
  /-- RETURN_TO_D0 (R472). -/
  | returnToD0 (fn : Nat)
  /-- VF_ENABLE_CLEAR (R472). -/
  | vfEnableClear (numVfs : Nat)
  /-- RESET_N_RELEASE (R443). -/
  | resetNRelease
  /-- TAP_ACCESS (R511). -/
  | tapAccess (op : TapOp)
  /-- I3C_MODE_ENTRY (R507). -/
  | i3cModeEntry
  /-- CONTROL_RESTART_DONE (R467). -/
  | controlRestartDone
  /-- CONTEXT_RESET_TIMEOUT (R438). -/
  | contextResetTimeout (ctx : Nat) (unit : StuckUnit)
  /-- RNR_TIMER_EXPIRY (R359). -/
  | rnrTimerExpiry (conn : Nat)
  /-- PACKET_SEND (R360). -/
  | packetSend (conn : Nat)
  /-- SELFTEST_DONE (R401). -/
  | selftestDone (failed : Nat)
  /-- METERING_SECOND (R230). -/
  | meteringSecond (part : Nat)
  /-- BOOT_DONE (R468). -/
  | bootDone (present : Nat)
  /-- CAPABILITY_BLOCK_REPEAT (R340). -/
  | capabilityBlockRepeat (port : Nat)
  /-- CONTROL_FRAME_RECEIVE (R339). -/
  | controlFrameReceive (port : Nat)
  deriving DecidableEq, Repr, Inhabited

end Sys2Proof
end

