-- ==== Sys2Proof/Decode.lean ====
section
/-! DEFINITION. The rows of opcode_table.json give no bits: no word spells a command. -/

namespace Sys2Proof

/-- The command that a word spells by the table's bits. The table gives none of its rows bits, so no word spells one. -/
def decodeTableWord (_nbits _w : Nat) : Option Instr := none

end Sys2Proof
end

