-- ==== Sys2Proof/Config.lean ====
section
/-! DEFINITION. What an implementation fixes and the spec leaves open: values and functions without a body
(assumption log 3). Nothing can be proved of what they answer. -/

namespace Sys2Proof.Config

/-- The n-th value that the spec leaves free: a DRBG draw, the allocator's choice among free places. -/
opaque freeNat : Nat → Nat

/-- The unpublished mapping of exp2 (R520): from which argument on, by the order key of FP32, the result is at least the
FP32 code asked for. Machine/Float.lean holds it within R135's bounds. -/
opaque exp2Cut : Nat → Int

/-- The unpublished mapping of tanh (R520) on non-negative arguments, as `exp2Cut`. -/
opaque tanhCut : Nat → Int

/-- The fused identity private key (R382): a P-384 scalar, taken modulo the group's order. -/
opaque identityScalar : Nat

/-- The fused device root secret (R382), 256 bits. -/
opaque rootSecret : Nat

/-- The vendor's P-384 public key whose digest is fused (R382): 97 bytes in SEC1 uncompressed form. -/
opaque vendorKey : List Byte

/-- The key check value of a job key generation (R327): no rule says of which key; job secret and generation. -/
opaque rotateCheck : List Byte → Nat → Nat

/-- The SPDM certificate chain of slot 0 (R396). -/
opaque certChain : List Byte

/-- The PCI vendor ID that IDENTIFY reports (R312). -/
opaque vendorId : Nat

/-- What a granule reads as under a tweak or key it was not written under (R57, R262): address and byte. -/
opaque scrambled : Nat → Nat → Byte

/-- Which of the candidates of weight 3 that are left is the Hsiao column of the n-th data bit from the top (R40). -/
opaque hsiaoPick : Nat → Nat

/-- The fused trim of a cell's VDD_CELL rail (R419), in mV above -40; used modulo 51. -/
opaque vddTrim : Nat → Nat

/-- Bytes of a unit's status registers and of state images whose layout the spec does not give (R456, R460). -/
opaque imageByte : Nat → Nat → Byte

/-- Word places of the channel from a cell's merge unit to the node's, but one (R16). -/
opaque reportPlaces : Nat

/-- Packet buffers of the transport engine's send buffer for one connection, but one (R19). -/
opaque packetBuffers : Nat

/-- Commands that the hub's command buffer holds, but one (R358). -/
opaque commandBuffer : Nat

/-- The number of capture objects (R460), used modulo 4,097. -/
opaque captureObjects : Nat

/-- A capture object of the directory (R460): its unit code, kind and length. -/
opaque captureObject : Nat → Nat × Nat × Nat

/-- The bytes of capture objects, which hold no key (R460): the time of the islands' state, the directory index, the offset. -/
opaque captureImage : Nat → Nat → Nat → Byte

/-- The bytes in which READ_STATE shows what the spec names of an object without a layout (R297, R381): a function of the KIND and of the
numbers that make the object up; the first byte, then the rest (log 3). -/
opaque objBytes : Nat → List Nat → Byte × List Byte

/-- The equaliser settings that training leaves on a lane (R347): the session's draw, 0 for the negotiated rate or 1 for 25 Gb/s, the
lane. -/
opaque trained : Nat → Nat → Nat → Nat

/-- The measurement of the boot ROM (R382, R393). -/
opaque romDigest : List Byte

end Sys2Proof.Config
end

