-- ==== Sys2Proof/Machine/Bytes.lean ====
section
/-! DEFINITION. Byte strings, little-endian fields (R4), bit ranges, and the sparse tables' operations. -/

namespace Sys2Proof.Machine

/-- The value of a list of bytes, least significant byte first (R4). -/
def leVal : List Byte → Nat
  | [] => 0
  | b :: bs => b.toNat + 256 * leVal bs

/-- `n` bytes of the value `v`, least significant byte first (R4). -/
def toLe : Nat → Nat → List Byte
  | 0, _ => []
  | n + 1, v => BitVec.ofNat 8 v :: toLe n (v / 256)

/-- Bytes [off, off + len) of a string; bytes beyond the end are absent. -/
def slice (b : List Byte) (off len : Nat) : List Byte := (b.drop off).take len

/-- The little-endian field of `n` bytes at `off`. -/
def leAt (b : List Byte) (off n : Nat) : Nat := leVal (slice b off n)

/-- One-byte field. -/
def u8 (b : List Byte) (off : Nat) : Nat := leAt b off 1
/-- Two-byte field. -/
def u16 (b : List Byte) (off : Nat) : Nat := leAt b off 2
/-- Four-byte field. -/
def u32 (b : List Byte) (off : Nat) : Nat := leAt b off 4
/-- Six-byte field (a SEQ_ID). -/
def u48 (b : List Byte) (off : Nat) : Nat := leAt b off 6
/-- Eight-byte field. -/
def u64 (b : List Byte) (off : Nat) : Nat := leAt b off 8

/-- Every byte of the string is zero. -/
def allZero (b : List Byte) : Bool := b.all (· == 0)

/-- Bytes [lo, hi) of the string are zero. -/
def zeroIn (b : List Byte) (lo hi : Nat) : Bool := allZero (slice b lo (hi - lo))

/-- The first multiple of 32 at or after `n` (R301). -/
def align32 (n : Nat) : Nat := (n + 31) / 32 * 32

/-- ⌈a ÷ b⌉. -/
def ceilDiv (a b : Nat) : Nat := (a + b - 1) / b

/-- `n` zero bytes. -/
def zeros (n : Nat) : List Byte := List.replicate n 0

/-- A string cut or padded with zeros to exactly `n` bytes. -/
def padTo (n : Nat) (b : List Byte) : List Byte := b.take n ++ zeros (n - b.length)

/-- Bytes `data` written over the string at `off`; the string keeps its length. -/
def overlay (b : List Byte) (off : Nat) (data : List Byte) : List Byte :=
  (b.take off ++ data ++ b.drop (off + data.length)).take b.length

/-- Bits [lo, lo + n) of a number. -/
def bitsOf (v lo n : Nat) : Nat := v / 2 ^ lo % 2 ^ n

/-- Bit `i` of a number. -/
def bitOf (v i : Nat) : Bool := v / 2 ^ i % 2 == 1

/-- 1 for true, 0 for false. -/
def b2n (b : Bool) : Nat := if b then 1 else 0

/-- The numbers below `n` whose bit is set, ascending. -/
def bitList (v n : Nat) : List Nat := (List.range n).filter (bitOf v)

/-- The mask with the listed bits set. -/
def maskOf (l : List Nat) : Nat := l.foldl (fun m i => if bitOf m i then m else m + 2 ^ i) 0

/-- A number with bit `i` set. -/
def setBit (v i : Nat) : Nat := if bitOf v i then v else v + 2 ^ i

/-- A number with bit `i` cleared. -/
def clearBit (v i : Nat) : Nat := if bitOf v i then v - 2 ^ i else v

/-- Room for one more where `more + 1` places are there and `used` of them are taken. -/
def placesLeft (more : Nat) : Nat → Bool
  | 0 => true
  | k + 1 => decide (k < more)

/-- Saturating increase. -/
def satAdd (cap v k : Nat) : Nat := min cap (v + k)

/-- What a sparse table holds at a key. -/
def tget? {α : Type} : Tab α → Nat → Option α
  | [], _ => none
  | (j, v) :: t, k => if j = k then some v else tget? t k

/-- What a sparse table holds at a key, or the default. -/
def tget {α : Type} (d : α) (t : Tab α) (k : Nat) : α := (tget? t k).getD d

/-- Whether a sparse table holds the key. -/
def thas {α : Type} (t : Tab α) (k : Nat) : Bool := (tget? t k).isSome

/-- A sparse table with the key's value replaced or inserted in its place. -/
def tset {α : Type} : Tab α → Nat → α → Tab α
  | [], k, v => [(k, v)]
  | (j, w) :: t, k, v =>
    if k < j then (k, v) :: (j, w) :: t
    else if k = j then (k, v) :: t
    else (j, w) :: tset t k v

/-- A sparse table without the key. -/
def tdel {α : Type} (t : Tab α) (k : Nat) : Tab α := t.filter (fun e => e.1 != k)

/-- A sparse table with the key's value changed by `f`, where it holds the key. -/
def tmod {α : Type} (t : Tab α) (k : Nat) (f : α → α) : Tab α :=
  match tget? t k with
  | some v => tset t k (f v)
  | none => t

/-- The values of a sparse table in ascending key order. -/
def tvals {α : Type} (t : Tab α) : List α := t.map (·.2)

/-- The least number at or after `start` and below `n`, wrapping, that is free; `fuel` numbers are tried. -/
def findFree (taken : Nat → Bool) (n : Nat) : Nat → Nat → Option Nat
  | 0, _ => none
  | fuel + 1, k =>
    let k := if k < n then k else 0
    if n = 0 then none else if taken k then findFree taken n fuel (k + 1) else some k

/-- The sum of a list. -/
def sumBy {α : Type} (l : List α) (f : α → Nat) : Nat := l.foldl (fun a x => a + f x) 0

/-- The element with the greatest key, the earliest of equals. -/
def maxBy {α : Type} (f : α → Nat) : List α → Option α
  | [] => none
  | x :: xs =>
    match maxBy f xs with
    | none => some x
    | some y => if f x < f y then some y else some x

/-- The element with the least key, the earliest of equals. -/
def minBy {α : Type} (f : α → Nat) : List α → Option α
  | [] => none
  | x :: xs =>
    match minBy f xs with
    | none => some x
    | some y => if f y < f x then some y else some x

/-- The polynomial of CRC-32C, reflected (PRESUMED, Castagnoli; log 7). -/
def crcPoly : Nat := 0x82F63B78

/-- One bit of CRC-32C. -/
def crcBit (c : Nat) : Nat := if c % 2 = 1 then Nat.xor (c / 2) crcPoly else c / 2

/-- One byte of CRC-32C. -/
def crcByte (c : Nat) (b : Byte) : Nat :=
  crcBit (crcBit (crcBit (crcBit (crcBit (crcBit (crcBit (crcBit (Nat.xor c b.toNat))))))))

/-- CRC-32C of a byte string (R75, R356). -/
def crc32c (b : List Byte) : Nat := Nat.xor (b.foldl crcByte 0xFFFFFFFF) 0xFFFFFFFF

end Sys2Proof.Machine
end

