-- ==== Sys2Proof/Machine/Float.lean ====
section
/-! DEFINITION. The number formats of chapter 04 as bit patterns, their exact values, and the roundings of R96 and of
FP32 arithmetic. -/

namespace Sys2Proof.Machine

/-- A floating-point format: mantissa bits, exponent bias, bits in all, the code of the largest finite magnitude, and
whether infinities exist. -/
structure FFmt where
  mant : Nat
  bias : Nat
  width : Nat
  maxCode : Nat
  hasInf : Bool
  deriving DecidableEq, Repr, Inhabited

/-- FP8 E4M3. -/
def fE4M3 : FFmt := ⟨3, 7, 8, 0x7E, false⟩
/-- FP8 E5M2. -/
def fE5M2 : FFmt := ⟨2, 15, 8, 0x7B, true⟩
/-- BF16. -/
def fBF16 : FFmt := ⟨7, 127, 16, 0x7F7F, true⟩
/-- FP16. -/
def fFP16 : FFmt := ⟨10, 15, 16, 0x7BFF, true⟩
/-- FP32. -/
def fFP32 : FFmt := ⟨23, 127, 32, 0x7F7FFFFF, true⟩

/-- The format of a FORMAT code of R62 that is a floating-point format; FP32 otherwise. -/
def ffmtOf (code : Nat) : FFmt :=
  if code = 1 then fE4M3 else if code = 2 then fE5M2 else if code = 5 then fBF16
  else if code = 6 then fFP16 else fFP32

/-- 2^k for an integer k. -/
def pow2 (k : Int) : Rat := if k < 0 then 1 / (2 ^ k.natAbs : Rat) else (2 ^ k.natAbs : Rat)

/-- The sign bit of a code. -/
def fNeg (f : FFmt) (c : Nat) : Bool := bitOf c (f.width - 1)
/-- The magnitude bits of a code. -/
def fMag (f : FFmt) (c : Nat) : Nat := c % 2 ^ (f.width - 1)
/-- The code is an infinity. -/
def fIsInf (f : FFmt) (c : Nat) : Bool := f.hasInf && fMag f c == f.maxCode + 1
/-- The code is a NaN. -/
def fIsNan (f : FFmt) (c : Nat) : Bool := f.maxCode < fMag f c && !fIsInf f c
/-- The code is finite. -/
def fFinite (f : FFmt) (c : Nat) : Bool := fMag f c ≤ f.maxCode

/-- The exact value of a finite code; subnormals are values like any other. -/
def fVal (f : FFmt) (c : Nat) : Rat :=
  let m := fMag f c
  let e := m / 2 ^ f.mant
  let frac := m % 2 ^ f.mant
  let v : Rat := if e = 0 then (frac : Rat) * pow2 (1 - (f.bias : Int) - f.mant)
    else ((2 ^ f.mant + frac : Nat) : Rat) * pow2 ((e : Int) - f.bias - f.mant)
  if fNeg f c then -v else v

/-- ⌊log2(n ÷ d)⌋ of positive numbers. -/
def floorLog2 (n d : Nat) : Int :=
  let e : Int := (Nat.log2 n : Int) - Nat.log2 d
  let below := if e < 0 then n * 2 ^ e.natAbs < d else n < d * 2 ^ e.natAbs
  if below then e - 1 else e

/-- n ÷ d to the nearest integer, ties to even. -/
def rneDiv (n d : Nat) : Nat :=
  let q := n / d
  let r := n % d
  if 2 * r < d then q else if d < 2 * r then q + 1 else q + q % 2

/-- An exact value to the nearest integer, ties to even. -/
def rneInt (q : Rat) : Int :=
  let m : Int := rneDiv q.num.natAbs q.den
  if q < 0 then -m else m

/-- How a value between two codes is rounded: to nearest even, up, or down. -/
inductive Rnd where
  | near | up | down
  deriving DecidableEq, Repr, Inhabited

/-- The magnitude code of a positive value, rounded; it may exceed the format's largest. -/
def roundMag (f : FFmt) (away near : Bool) (n d : Nat) : Nat :=
  let emin : Int := 1 - (f.bias : Int)
  let e := max (floorLog2 n d) emin
  let k := e - f.mant
  let n' := if k < 0 then n * 2 ^ k.natAbs else n
  let d' := if k < 0 then d else d * 2 ^ k.natAbs
  let m := if near then rneDiv n' d' else if away then (n' + d' - 1) / d' else n' / d'
  (e - emin).toNat * 2 ^ f.mant + m

/-- An exact value rounded into a format. With `sat`, a magnitude beyond the largest finite one becomes the largest
(R96); without, it becomes the infinity as IEEE 754 rounds. `negZero` is the sign of a zero result. -/
def fRound (f : FFmt) (md : Rnd) (sat negZero : Bool) (q : Rat) : Nat :=
  let neg := if q = 0 then negZero else decide (q < 0)
  let away := (md = .up && !neg) || (md = .down && neg)
  let m := if q = 0 then 0 else roundMag f away (md = .near) q.num.natAbs q.den
  let m := if m ≤ f.maxCode then m
    else if sat || !f.hasInf || (md ≠ .near && !away) then f.maxCode else f.maxCode + 1
  m + (if neg then 2 ^ (f.width - 1) else 0)

/-- The quiet NaN of FP32 (PRESUMED, IEEE 754; log 8). -/
def f32NaN : Nat := 0x7FC00000
/-- +∞ in FP32. -/
def f32Inf : Nat := 0x7F800000
/-- −∞ in FP32. -/
def f32NegInf : Nat := 0xFF800000
/-- 1.0 in FP32. -/
def f32One : Nat := 0x3F800000

/-- FP32 value of an exact number, to nearest, IEEE overflow. -/
def f32 (q : Rat) : Nat := fRound fFP32 .near false false q
/-- FP32 value of an exact number, to nearest, saturating (R96). -/
def f32Sat (q : Rat) : Nat := fRound fFP32 .near true false q
/-- Value of finite FP32 bits. -/
def f32Val (c : Nat) : Rat := fVal fFP32 c

/-- FP32 product under a rounding mode. -/
def f32Mul (md : Rnd) (sat : Bool) (a b : Nat) : Nat :=
  let neg := fNeg fFP32 a != fNeg fFP32 b
  let s := if neg then 2 ^ 31 else 0
  if fIsNan fFP32 a || fIsNan fFP32 b then f32NaN
  else if fIsInf fFP32 a || fIsInf fFP32 b then
    if fMag fFP32 a = 0 || fMag fFP32 b = 0 then f32NaN else f32Inf + s
  else fRound fFP32 md sat neg (f32Val a * f32Val b)

/-- FP32 sum under a rounding mode. -/
def f32Add (md : Rnd) (sat : Bool) (a b : Nat) : Nat :=
  if fIsNan fFP32 a || fIsNan fFP32 b then f32NaN
  else if fIsInf fFP32 a then
    if fIsInf fFP32 b && fNeg fFP32 a != fNeg fFP32 b then f32NaN else a
  else if fIsInf fFP32 b then b
  else
    let bothNeg := fNeg fFP32 a && fNeg fFP32 b && fMag fFP32 a == 0 && fMag fFP32 b == 0
    fRound fFP32 md sat (bothNeg || (md = .down && fNeg fFP32 a != fNeg fFP32 b)) (f32Val a + f32Val b)

/-- The negation of FP32 bits. -/
def f32Neg (a : Nat) : Nat := if fNeg fFP32 a then a - 2 ^ 31 else a + 2 ^ 31

/-- FP32 quotient, to nearest, saturating or not; the divisor is finite and not zero. -/
def f32Div (sat : Bool) (a b : Nat) : Nat :=
  let neg := fNeg fFP32 a != fNeg fFP32 b
  if fIsNan fFP32 a || fIsNan fFP32 b then f32NaN
  else if fIsInf fFP32 a then f32Inf + (if neg then 2 ^ 31 else 0)
  else if fMag fFP32 b = 0 then (if fMag fFP32 a = 0 then f32NaN else f32Inf + (if neg then 2 ^ 31 else 0))
  else fRound fFP32 .near sat neg (f32Val a / f32Val b)

/-- fp32(o + p·v), the product exact and one rounding (R112). -/
def f32Fma (o p v : Nat) : Nat :=
  if fFinite fFP32 o && fFinite fFP32 p && fFinite fFP32 v then
    let q := f32Val o + f32Val p * f32Val v
    if q = 0 then f32Add .near false o (if fNeg fFP32 p != fNeg fFP32 v then 2 ^ 31 else 0) else f32 q
  else f32Add .near false o (f32Mul .near false p v)

/-- An order key of FP32 bits that are not NaN: −0 and +0 are equal. -/
def f32Key (a : Nat) : Int := if fNeg fFP32 a then -(fMag fFP32 a : Int) else (fMag fFP32 a : Int)

/-- The greater of two FP32 numbers, +0 above −0. -/
def f32Max (a b : Nat) : Nat := if f32Key a < f32Key b || (f32Key a = f32Key b && fNeg fFP32 a) then b else a

/-- a < b in FP32. -/
def f32Lt (a b : Nat) : Bool := decide (f32Key a < f32Key b)

/-- LOG2E of R136. -/
def log2e : Nat := 0x3FB8AA3B

/-- lg(x) = fp32(x × LOG2E), lg(±∞) = ±∞; saturating under R96 (DEDUCED, log 8). -/
def lg (md : Rnd) (x : Nat) : Nat := f32Mul md true x log2e

/-! ### exp2 and tanh (R135, R520)

Each result is an FP32 code within R135's distance of the exact value; which of the few codes there is chosen by a cut per
code: the greatest code whose cut lies at or below the argument. So every mapping that R135 and R520 allow is some choice
of cuts, and every choice of cuts gives a mapping that never decreases. -/

/-- The scale of the exact values below: 2^128. -/
def fixOne : Nat := 2 ^ 128
/-- ln 2 at that scale, rounded down. -/
def fixLn2 : Nat := 0xB17217F7D1CF79ABC9E3B39803F2F6AF

/-- e^t at the scale, for t from 0 to 1, from its power series: `k` terms from the n-th on, `term` the n-th. -/
def fixExp (t : Nat) : Nat → Nat → Nat → Nat
  | 0, _, _ => 0
  | k + 1, n, term => term + fixExp t k (n + 1) (term * t / (fixOne * (n + 1)))

/-- The code of the greatest FP32 number at or below n ÷ d, from 0 up. -/
def f32Floor (n d : Nat) : Nat := if n = 0 then 0 else roundMag fFP32 false false n d

/-- The greatest code from `v` to `v + k` such that every cut above `v` up to it lies at or below the argument. -/
def climbCuts (cut : Nat → Int) (key : Int) : Nat → Nat → Nat
  | 0, v => v
  | k + 1, v => if cut (v + 1) ≤ key then climbCuts cut key k (v + 1) else v

/-- The code of the greatest FP32 number at or below 2^y, y from −149 to 127. -/
def exp2Floor (y : Rat) : Nat :=
  let k := y.num / (y.den : Int)
  let f := (y.num - k * y.den).toNat * fixOne / y.den
  let v := fixExp (f * fixLn2 / fixOne) 40 0 fixOne
  if 0 ≤ k then f32Floor (v * 2 ^ k.toNat) fixOne else f32Floor v (fixOne * 2 ^ k.natAbs)

/-- exp2 of R135, R187 and R520: the fixed points hold, a result lies within 1 ulp, and above 127 it is the largest finite
number. -/
def exp2 (y : Nat) : Nat :=
  if fIsNan fFP32 y then f32NaN
  else if fMag fFP32 y = 0 then f32One
  else if f32Key y < f32Key 0xC3150000 then 0
  else if f32Key 0x42FE0000 < f32Key y then 0x7F7FFFFF
  else
    let q := f32Val y
    let f := exp2Floor q
    let v := if q.den = 1 then climbCuts Config.exp2Cut (f32Key y) 2 (f - 1) else climbCuts Config.exp2Cut (f32Key y) 1 f
    if fNeg fFP32 y then min v f32One else max v f32One

/-- The code of the greatest FP32 number at or below tanh of a finite positive code under 9.1. Below 2^−13 that is the
number before the argument. -/
def tanhFloor (m : Nat) : Nat :=
  if m < 0x39000000 then m - 1
  else
    let x := (2 * f32Val m * (fixOne : Rat)).floor.toNat
    let k := x / fixLn2 + 1
    let e := fixExp (k * fixLn2 - x) 40 0 fixOne / 2 ^ k
    f32Floor (fixOne - e) (fixOne + e)

/-- tanh of R135 and R520: odd, 0 at 0, ±1 from 9.1, elsewhere within 2 ulp: from one code below the floor, where there is one, to two
above it. -/
def tanh32 (y : Nat) : Nat :=
  let s := if fNeg fFP32 y then 2 ^ 31 else 0
  let m := fMag fFP32 y
  if fIsNan fFP32 y then f32NaN
  else if m = 0 then y
  else if fIsInf fFP32 y || decide ((91 / 10 : Rat) ≤ f32Val m) then f32One + s
  else min (climbCuts Config.tanhCut (m : Int) (min 3 (tanhFloor m + 2)) (tanhFloor m - 1)) f32One + s

/-- The weight exp2(fp32(lg a − lg b)) of R136 and R140. -/
def expDiff (a b : Nat) : Nat :=
  exp2 (f32Add .near true (lg .near a) (f32Neg (lg .near b)))

/-- exp2(lg a − lg b) rounded up as R168 rounds it: each step upward and 2 ulp more. -/
def expDiffUp (a b : Nat) : Nat :=
  let e := exp2 (f32Add .up true (lg .up a) (f32Neg (lg .down b)))
  if e < f32Inf - 2 then e + 2 else f32Inf

/-- FP16 bits of an exact non-negative value rounded up, +∞ on overflow (R140, R168). -/
def f16Up (q : Rat) : Nat := fRound fFP16 .up false false q

/-- The FP32 bits of a finite code of a format. -/
def toF32 (f : FFmt) (c : Nat) : Nat :=
  if fIsNan f c then f32NaN
  else if fIsInf f c then (if fNeg f c then f32NegInf else f32Inf)
  else fRound fFP32 .near true (fNeg f c) (fVal f c)

end Sys2Proof.Machine
end

