-- ==== Sys2Proof/Machine/Formats.lean ====
section
/-! DEFINITION. Cache formats, quantisation (R97 to R100) and fixed-rate compression of blocks (R113 to R117, R127). -/

namespace Sys2Proof.Machine

/-- The elements of a head-dimension code (R301). -/
def dimOf (code : Nat) : Nat := 64 * 2 ^ code

/-- Bits of an element of a cache format (chapter 04); code 0 stands for FP32 here. -/
def elemBits (format : Nat) : Nat :=
  if format = 0 then 32 else if format = 4 then 4 else if format = 5 || format = 6 then 16 else 8

/-- The format is INT8 or INT4. -/
def isInt (format : Nat) : Bool := format == 3 || format == 4

/-- The format is FP8. -/
def isFp8 (format : Nat) : Bool := format == 1 || format == 2

/-- 2^(b − 1) of an integer format: 128 or 8. -/
def intMid (format : Nat) : Nat := if format = 4 then 8 else 128

/-- The largest code of an integer format: 255 or 15. -/
def intMax (format : Nat) : Nat := if format = 4 then 15 else 255

/-- Bytes per token and tile (R58). -/
def tokenBytes (format dim : Nat) : Nat := dimOf dim * elemBits format / 8

/-- The combinations of class, format and head dimension that R58 supports. -/
def supported (cls format dim : Nat) : Bool :=
  (cls == 0 && ((isFp8 format || format == 3) && dim == 0 || format == 4 && dim == 1)) ||
  (cls == 1 && ((isFp8 format || format == 3) && dim == 1 || (format == 5 || format == 6) && dim == 0)) ||
  (cls == 2 && (isFp8 format && dim == 2 || (format == 5 || format == 6) && dim == 1))

/-- The compression modes that R113 allows a cache format. -/
def compOk (format mode : Nat) : Bool :=
  mode == 0 || (mode ≤ 4 && (isFp8 format || format == 3)) ||
  ((mode == 1 || mode == 3) && (format == 5 || format == 6))

/-- The mode is a dense sub-encoding. -/
def isDense (mode : Nat) : Bool := mode == 2 || mode == 4

/-- A ZERO byte as a code-space zero point (R98). -/
def zeroPoint (format zs : Nat) : Int :=
  (if 128 ≤ zs then (zs : Int) - 256 else zs) + intMid format

/-- A code-space zero point as a ZERO byte. -/
def zeroByte (format : Nat) (z : Int) : Nat := ((z - intMid format) % 256).toNat

/-- An integer kept within [lo, hi]. -/
def clampI (lo hi x : Int) : Int := max lo (min hi x)

/-- Quantising a value (R98): the quotient in FP32, to the nearest integer, offset and clamped. -/
def quantise (format : Nat) (x s : Rat) (z : Int) : Nat :=
  (clampI 0 (intMax format) (rneInt (f32Val (f32Sat (x / s))) + z)).toNat

/-- The clamp of R98 changes the code. -/
def clipped (format : Nat) (x s : Rat) (z : Int) : Bool :=
  let u := rneInt (f32Val (f32Sat (x / s))) + z
  u < 0 || (intMax format : Int) < u

/-- Least of a list of values and 0. -/
def minZero (l : List Rat) : Rat := l.foldl min 0
/-- Greatest of a list of values and 0. -/
def maxZero (l : List Rat) : Rat := l.foldl max 0

/-- The range rule of R99: the scale's bits in the scale format, and the zero point in code space. -/
def rangeRule (format : Nat) (sf : FFmt) (values : List Rat) : Nat × Int :=
  let lo := minZero values
  let hi := maxZero values
  if lo = hi then (fRound sf .near true false 1, intMid format)
  else
    let s0 := fRound sf .near true false ((hi - lo) / intMax format)
    let s := if fMag sf s0 = 0 then 1 else s0
    (s, clampI 0 (intMax format) (rneInt (f32Val (f32Sat (-lo / fVal sf s)))))

/-- A decode table in use (R122): its 4-bit and 2-bit entries. -/
structure DTable where
  tformat : Nat := 0
  e16 : List Nat := []
  e4 : List Nat := []
  deriving DecidableEq, Repr, Inhabited

/-- The decode table that 64 bytes hold (R122). -/
def dtableOf (b : List Byte) : DTable :=
  { tformat := u8 b 0, e16 := (slice b 0x10 16).map (·.toNat), e4 := (slice b 0x20 4).map (·.toNat) }

/-- The value of one element: s·(u − z) for integer formats, the code's value otherwise. -/
def elemVal (format : Nat) (s : Rat) (z : Int) (c : Nat) : Rat :=
  if isInt format then s * ((c : Int) - z : Int) else fVal (ffmtOf format) c

/-- The magnitude by which R114 keeps elements. -/
def elemMag (format : Nat) (z : Int) (c : Nat) : Rat :=
  if isInt format then (((c : Int) - z).natAbs : Rat)
  else if fFinite (ffmtOf format) c then |fVal (ffmtOf format) c| else pow2 200

/-- Full and encoded size of a block (R113): mode 0 full, 1 and 2 a half, 3 and 4 a quarter. -/
def blockFull (format : Nat) : Nat := 8 * elemBits format
/-- Encoded size E of a block. -/
def blockSize (format mode : Nat) : Nat :=
  if mode = 0 then blockFull format else if mode ≤ 2 then blockFull format / 2 else blockFull format / 4

/-- Elements kept by a sparse block: 24 at 2:1, 8 at 4:1. -/
def keepCount (mode : Nat) : Nat := if mode = 1 then 24 else 8

/-- 64 codes packed as a raw block (R59). -/
def packRaw (format : Nat) (codes : List Nat) : List Byte :=
  if format = 4 then
    (List.range (codes.length / 2)).map
      (fun i => BitVec.ofNat 8 (codes.getD (2 * i) 0 + 16 * codes.getD (2 * i + 1) 0))
  else codes.flatMap (toLe (elemBits format / 8))

/-- The `n` codes that raw bytes hold (R59). -/
def unpackRaw (format n : Nat) (b : List Byte) : List Nat :=
  if format = 4 then (List.range n).map (fun i => bitsOf (u8 b (i / 2)) (4 * (i % 2)) 4)
  else (List.range n).map (fun i => leAt b (i * (elemBits format / 8)) (elemBits format / 8))

/-- Whether R114 keeps element `i` of the block. -/
def keeps (mags : List Rat) (k i : Nat) : Bool :=
  let m := mags.getD i 0
  m != 0 && ((List.range mags.length).filter
    (fun j => decide (m < mags.getD j 0) || (mags.getD j 0 == m && j < i))).length < k

/-- A sparse block (R114): bitmap, kept values, zeros. `zs` gives each element's zero point. -/
def encSparse (format mode : Nat) (zs : List Int) (codes : List Nat) : List Byte :=
  let mags := codes.zipIdx.map (fun (c, i) => elemMag format (zs.getD i 0) c)
  let kept := (List.range codes.length).filter (keeps mags (keepCount mode))
  padTo (blockSize format mode)
    (toLe 8 (maskOf kept) ++ kept.flatMap (fun i => toLe (elemBits format / 8) (codes.getD i 0)))

/-- The codes of a sparse block: an element that is not kept is +0, or code z for INT8. -/
def decSparse (format : Nat) (zs : List Int) (b : List Byte) : List Nat :=
  let map := u64 b 0
  let w := elemBits format / 8
  (List.range 64).map (fun i =>
    if bitOf map i then leAt b (8 + w * ((List.range i).filter (bitOf map)).length) w
    else if format = 3 then (zs.getD i 0).toNat else 0)

/-- The entries that a dense mode's indices select from (R115). -/
def entriesOf (t : DTable) (mode : Nat) : List Nat := if mode = 2 then t.e16 else t.e4

/-- The block scale β of R115, FP16 bits; 1.0 for INT8. -/
def blockBeta (format : Nat) (entries codes : List Nat) : Nat :=
  if isInt format then 0x3C00 else
    let mx := (codes.map (fun c => |fVal (ffmtOf format) c|)).foldl max 0
    let me := (entries.map (fun c => |fVal (ffmtOf format) c|)).foldl max 0
    if mx = 0 || me = 0 then 0x3C00 else fRound fFP16 .near true false (mx / me)

/-- The index whose decoded value lies nearest, ties to the lower index (R115). -/
def nearestIdx (cands : List Rat) (x : Rat) : Nat :=
  (minBy (fun (p : Nat × Rat) => |p.2 - x|) (cands.zipIdx.map (fun (v, i) => (i, v)))).elim 0 (·.1)
where
  /-- The pair of least distance, the earliest of equals. -/
  minBy (f : Nat × Rat → Rat) : List (Nat × Rat) → Option (Nat × Rat)
    | [] => none
    | p :: ps =>
      match minBy f ps with
      | none => some p
      | some q => if f q < f p then some q else some p

/-- The indices of a dense block packed (R115). -/
def packIdx (mode : Nat) (idx : List Nat) : List Byte :=
  if mode = 2 then packRaw 4 idx
  else (List.range (idx.length / 4)).map (fun i => BitVec.ofNat 8
    (idx.getD (4 * i) 0 + 4 * idx.getD (4 * i + 1) 0 + 16 * idx.getD (4 * i + 2) 0 + 64 * idx.getD (4 * i + 3) 0))

/-- The indices that a dense block holds. -/
def unpackIdx (mode : Nat) (b : List Byte) : List Nat :=
  (List.range 64).map (fun i =>
    if mode = 2 then bitsOf (u8 b (i / 2)) (4 * (i % 2)) 4 else bitsOf (u8 b (i / 4)) (2 * (i % 4)) 2)

/-- A block as the arrays read it: its codes in the base format (INT codes, or FP codes), and the block scale β of a
dense FP8 block (1.0 otherwise). -/
structure Block where
  codes : List Nat := []
  beta : Nat := 0x3C00
  deriving DecidableEq, Repr, Inhabited

/-- Decoding an encoded or escaped block (R114, R115). -/
def decBlock (format mode : Nat) (escaped : Bool) (t : DTable) (beta : Nat) (zs : List Int) (b : List Byte) : Block :=
  if mode = 0 || escaped then { codes := unpackRaw format 64 b }
  else if isDense mode then
    { codes := (unpackIdx mode b).map (fun i => (entriesOf t mode).getD i 0)
      beta := if isInt format then 0x3C00 else beta }
  else { codes := decSparse format zs b }

/-- The decoded values of a block: β·entry for a dense FP8 block, s·(u − z) for integers (R112). -/
def blockVals (format : Nat) (ss : List Rat) (zs : List Int) (b : Block) : List Rat :=
  b.codes.zipIdx.map (fun (c, i) =>
    if isInt format then elemVal format (ss.getD i 0) (zs.getD i 0) c
    else if fFinite (ffmtOf format) c then fVal fFP16 b.beta * fVal (ffmtOf format) c else 0)

/-- Whether the loss of R116 exceeds the bound: numerator and denominator are exact sums, and are compared exactly. -/
def lossExceeds (x xhat : List Rat) (bound : Rat) : Bool :=
  let num := ((x.zip xhat).map (fun (a, b) => (a - b) * (a - b))).sum
  let den := (x.map (fun a => a * a)).sum
  num != 0 && (den == 0 || decide (bound * den < num))

/-- What the encoder makes of one block (R114 to R116). -/
structure Encoded where
  bytes : List Byte := []
  escaped : Bool := false
  beta : Nat := 0x3C00
  deriving DecidableEq, Repr, Inhabited

/-- Encoding a block of base-format codes in a mode, with the escape decision of R116 against the bound. -/
def encBlock (format mode : Nat) (t : DTable) (ss : List Rat) (zs : List Int) (bound : Rat) (codes : List Nat) :
    Encoded :=
  if mode = 0 then { bytes := packRaw format codes }
  else
    let beta := if isDense mode then blockBeta format (entriesOf t mode) codes else 0x3C00
    let vals := blockVals format ss zs { codes := codes }
    let bytes :=
      if isDense mode then
        let cands := (entriesOf t mode).map (fun (c : Nat) =>
          if isInt format then (c : Rat) else fVal fFP16 beta * fVal (ffmtOf format) c)
        packIdx mode (codes.zipIdx.map (fun (c, i) =>
          if isInt format then nearestIdx cands (c : Rat) else nearestIdx cands (vals.getD i 0)))
      else encSparse format mode zs codes
    let hat := blockVals format ss zs (decBlock format mode false t beta zs bytes)
    let bad := !isInt format && codes.any (fun c => !fFinite (ffmtOf format) c)
    let esc := bad || lossExceeds vals hat bound
    { bytes := if esc then packRaw format codes else bytes, escaped := esc, beta := beta }

/-- Blocks per packing group of a compressed tile (R117). -/
def packGroup (format mode : Nat) : Nat := max 1 (64 / blockSize format mode)

/-- Where in its tile block `g` stands: its byte offset and length, given the tile's escape bits (R117). -/
def blockPlace (format mode : Nat) (esc : Nat → Bool) (g : Nat) : Nat × Nat :=
  let full := blockFull format
  if mode = 0 || esc g then (g * full, full)
  else
    let G := packGroup format mode
    let first := ((List.range G).map (· + g / G * G)).find? (fun b => !esc b)
    (first.getD g * full + g % G * blockSize format mode, blockSize format mode)

end Sys2Proof.Machine
end

