-- ==== Sys2Proof/Machine/Partial.lean ====
section
/-! DEFINITION. Row partials, the merge rule and query preparation: the arithmetic of chapters 05 and 06 that needs no
state (R106 to R110, R134 to R142, R163, R164, R168). -/

namespace Sys2Proof.Machine

/-- A row partial inside the node (R137): FP32 bits of M, L and o; ERR_BOUND in FP16 bits; the flags [4:0]. -/
structure Part where
  m : Nat := f32NegInf
  l : Nat := 0
  skipped : Nat := 0
  err : Nat := 0
  empty : Bool := true
  incomplete : Bool := false
  poisoned : Bool := false
  approx : Bool := false
  det : Bool := false
  o : List Nat := []
  deriving DecidableEq, Repr, Inhabited

/-- The empty partial of R138 for d elements. -/
def emptyPart (d : Nat) : Part := { o := List.replicate d 0 }

/-- ERR_BOUND of a merge (R140): rounded up; a term that is +∞ stays +∞. -/
def mergeErr (a b fa fb : Nat) : Nat :=
  if a = 0x7C00 || b = 0x7C00 then 0x7C00
  else if fFinite fFP32 fa && fFinite fFP32 fb then
    let pa := f32Mul .up false (toF32 fFP16 a) fa
    let pb := f32Mul .up false (toF32 fFP16 b) fb
    let t := f32Add .up false pa pb
    if fFinite fFP32 t then f16Up (f32Val t) else 0x7C00
  else if a = 0 && b = 0 then 0 else 0x7C00

/-- The merge rule of R140. -/
def mergePart (a b : Part) : Part :=
  let f (p : Part) : Part :=
    { p with skipped := min (a.skipped + b.skipped) 0xFFFFFFFF
             incomplete := a.incomplete || b.incomplete
             poisoned := a.poisoned || b.poisoned
             approx := a.approx || b.approx
             det := a.det && b.det }
  if a.empty then f b
  else if b.empty then f a
  else
    let m := f32Max a.m b.m
    let fa := expDiff a.m m
    let fb := expDiff b.m m
    let add (x y : Nat) := f32Add .near false (f32Mul .near false x fa) (f32Mul .near false y fb)
    f { m := m, l := add a.l b.l, empty := false, err := mergeErr a.err b.err fa fb
        o := (a.o.zip b.o).map (fun p => add p.1 p.2) }

/-- The left fold of R147; the empty list gives an empty partial. -/
def foldParts (d : Nat) : List Part → Part
  | [] => emptyPart d
  | p :: ps => ps.foldl mergePart p

/-- Merging two lists of row partials row by row. -/
def mergeRows (a b : List Part) : List Part := (a.zip b).map (fun p => mergePart p.1 p.2)

/-- FLAGS of R137 with the ESC bits. -/
def partFlags (p : Part) (esc : Nat) : Nat :=
  b2n p.empty + 2 * b2n p.incomplete + 4 * b2n p.poisoned + 8 * b2n p.approx + 16 * b2n p.det + 256 * esc

/-- The header of a row partial (R137). -/
def partHeader (p : Part) (esc : Nat) : List Byte :=
  toLe 4 p.m ++ toLe 4 p.l ++ toLe 4 p.skipped ++ toLe 2 p.err ++ toLe 2 (partFlags p esc)

/-- BF16 of FP32 bits, as R96 converts; infinities stay. -/
def toBf16 (c : Nat) : Nat :=
  let s := if fNeg fFP32 c then 2 ^ 15 else 0
  if fIsNan fFP32 c then 0x7FC0
  else if fIsInf fFP32 c then 0x7F80 + s
  else fRound fBF16 .near true (fNeg fFP32 c) (f32Val c)

/-- A row partial in a reply (R137, R139): OUT_FORMAT 0 FP32 or 1 BF16, OUT_COMP 0 none, 1 or 2 sparse, and the escape
bound. -/
def partBytes (outFormat outComp : Nat) (bound : Rat) (p : Part) : List Byte :=
  let fmt := if outFormat = 0 then 0 else 5
  let codes := if outFormat = 0 then p.o else p.o.map toBf16
  if outComp = 0 then partHeader p 0 ++ packRaw fmt codes
  else
    let mode := if outComp = 1 then 1 else 3
    let blocks := (List.range (p.o.length / 64)).map (fun j => (codes.drop (64 * j)).take 64)
    let encs := blocks.map (encBlock fmt mode {} [] [] bound)
    partHeader p (maskOf ((List.range encs.length).filter (fun j => (encs.getD j {}).escaped)))
      ++ encs.flatMap (·.bytes)

/-- Bytes of an uncompressed FP32 partial of d elements. -/
def partSize (d : Nat) : Nat := 16 + 4 * d

/-- Reading an uncompressed FP32 partial of R137. -/
def readPart (d : Nat) (b : List Byte) : Part :=
  let fl := u16 b 0x0E
  { m := u32 b 0, l := u32 b 4, skipped := u32 b 8, err := u16 b 0x0C
    empty := bitOf fl 0, incomplete := bitOf fl 1, poisoned := bitOf fl 2, approx := bitOf fl 3, det := bitOf fl 4
    o := (List.range d).map (fun c => u32 b (16 + 4 * c)) }

/-- A partial given to MERGE is refused (R151): ESC or reserved flag bits, or R138 broken. -/
def partBad (d : Nat) (b : List Byte) : Bool :=
  let p := readPart d b
  bitsOf (u16 b 0x0E) 5 11 != 0 ||
  (if p.empty then p.m != f32NegInf || p.l != 0 || p.skipped != 0 || p.err != 0 || p.o.any (· != 0)
   else p.m == f32NegInf)

/-! ### Queries (R106 to R110) -/

/-- One query row as the score array takes it. `ops` are exact operand values; for integer caches `groups` hold, per
64-element group, the scale's bits, the zero point and the codes of R108. -/
structure Query where
  q : List Rat := []
  e : Int := 0
  ops : List Rat := []
  groups : List (Nat × Int × List Nat) := []
  deriving DecidableEq, Repr, Inhabited

/-- e of R107: clamp(⌊log2(448 ÷ a)⌋, −126, 126), 0 when a is 0. -/
def rowExp (a : Rat) : Int :=
  if a = 0 then 0 else clampI (-126) 126 (floorLog2 (448 * a.den) a.num.natAbs)

/-- The groups of 64 of a list. -/
def groups64 {α : Type} (l : List α) : List (List α) :=
  (List.range (l.length / 64)).map (fun j => (l.drop (64 * j)).take 64)

/-- R108: one group of query values quantised with an FP32 scale. -/
def quantGroup (v : List Rat) : Nat × Int × List Nat :=
  let (s, z) := rangeRule 3 fFP32 v
  (s, z, v.map (fun x => quantise 3 x (f32Val s) z))

/-- Preparing a query row for a cache format (R106, R107, R108). -/
def prepQuery (cache qFormat : Nat) (wide : Bool) (codes : List Nat) : Query :=
  let q := codes.map (fVal (ffmtOf qFormat))
  if isFp8 cache && !wide && qFormat != 1 then
    let e := rowExp ((q.map (fun x => |x|)).foldl max 0)
    { q := q, e := e, ops := q.map (fun x => fVal fE4M3 (fRound fE4M3 .near true false (x * pow2 e))) }
  else if isInt cache then { q := q, ops := q, groups := (groups64 q).map quantGroup }
  else { q := q, ops := q }

/-- The static preparation of R110 for one page: per group q' codes, s', z' and C_j; `ss`, `zs` are the K channels'
scales and zero points. -/
def prepStatic (q : Query) (ss : List Rat) (zs : List Int) : List (Nat × Int × List Nat × Nat) :=
  let q' := (q.q.zip ss).map (fun p => f32Sat (p.1 * p.2))
  let qz := (q'.map f32Val).zip zs
  (groups64 qz).map (fun g =>
    let (s, z, us) := quantGroup (g.map (·.1))
    (s, z, us, g.foldl (fun acc p => if fFinite fFP32 acc then f32 (f32Val acc + p.1 * (p.2 : Rat)) else acc) 0))

/-- Exact dot product of two lists. -/
def dotQ (a b : List Rat) : Rat := ((a.zip b).map (fun p => p.1 * p.2)).sum

/-- Exact integer dot product of two code lists. -/
def dotN (a b : List Nat) : Nat := ((a.zip b).map (fun p => p.1 * p.2)).sum

/-- The K side of one token: per block its decoded block, and for integers its scale, zero point and K_SUM. -/
structure KBlock where
  blk : Block := {}
  scale : Nat := 0
  zero : Int := 0
  ksum : Nat := 0
  deriving DecidableEq, Repr, Inhabited

/-- One block's result of R109 for a floating-point cache. -/
def scoreFp (cache : Nat) (ops : List Rat) (k : KBlock) : Nat :=
  let dot := f32 (dotQ ops (k.blk.codes.map (fVal (ffmtOf cache))))
  if k.blk.beta = 0x3C00 then dot else f32Mul .near false dot (toF32 fFP16 k.blk.beta)

/-- One block's result of R109 for a dynamically scaled integer cache. -/
def scoreDyn (g : Nat × Int × List Nat) (k : KBlock) : Nat :=
  let (sq, zq, us) := g
  let bracket : Int := (dotN us k.blk.codes : Int) - k.zero * us.sum - zq * k.ksum + 64 * zq * k.zero
  f32Mul .near false (f32Mul .near false sq (toF32 fFP16 k.scale)) (f32 (bracket : Rat))

/-- One block's result of R110 for a statically scaled integer cache. -/
def scoreStatic (g : Nat × Int × List Nat × Nat) (k : KBlock) : Nat :=
  let (s, z, us, c) := g
  let inner : Int := (dotN us k.blk.codes : Int) - z * k.ksum
  f32Add .near false (f32Mul .near false s (f32 (inner : Rat))) (f32Neg c)

/-- s0 of R134: the block results added in ascending order, times 2^−e. -/
def score0 (cache : Nat) (static : Option (List (Nat × Int × List Nat × Nat))) (q : Query) (ks : List KBlock) : Nat :=
  let res := ks.zipIdx.map (fun (k, j) =>
    if isInt cache then
      match static with
      | some st => scoreStatic (st.getD j (0, 0, [], 0)) k
      | none => scoreDyn (q.groups.getD j (0, 0, [])) k
    else scoreFp cache ((q.ops.drop (64 * j)).take 64) k)
  let sum := match res with
    | [] => 0
    | x :: xs => xs.foldl (f32Add .near false) x
  if q.e = 0 || !fFinite fFP32 sum then sum else f32Sat (f32Val sum * pow2 (-q.e))

/-- The score parameters of R130. -/
structure ScoreCfg where
  scale : Nat := f32One
  bias : Bool := false
  softcap : Nat := 0
  deriving DecidableEq, Repr, Inhabited

/-- s3 of R134 from s0, the row's slope and k − POS. -/
def scoreTail (c : ScoreCfg) (slope : Nat) (delta : Int) (s0 : Nat) : Nat :=
  let s1 := f32Mul .near true s0 c.scale
  let s2 := if c.bias then f32Add .near true s1 (f32Mul .near true slope (f32 (delta : Rat))) else s1
  if fMag fFP32 c.softcap = 0 then s2
  else f32Mul .near true c.softcap (tanh32 (f32Div true s2 c.softcap))

/-- The running state of R136 for one row, with the skip sum and reference of R168. -/
structure RowState where
  m : Nat := f32NegInf
  l : Nat := 0
  o : List Nat := []
  any : Bool := false
  incomplete : Bool := false
  poisoned : Bool := false
  skipped : Nat := 0
  e : Nat := 0
  r : Nat := f32NegInf
  deriving DecidableEq, Repr, Inhabited

/-- BF16 of a weight, as FP32 bits (R112, R136). -/
def weightBf16 (c : Nat) : Nat := toF32 fBF16 (toBf16 c)

/-- R136 for one page and one row: `keys` are the attended tokens' scores with their decoded values in FP32 bits. -/
def pageUpdate (st : RowState) (keys : List (Nat × List Nat)) : RowState :=
  match keys with
  | [] => st
  | k0 :: ks =>
    let mPage := ks.foldl (fun m k => f32Max m k.1) k0.1
    let st :=
      if f32Lt st.m mPage then
        let alpha := if st.m = f32NegInf then 0 else expDiff st.m mPage
        { st with l := f32Mul .near false st.l alpha, o := st.o.map (fun x => f32Mul .near false x alpha), m := mPage }
      else st
    keys.foldl (fun st k =>
      let p := weightBf16 (expDiff k.1 st.m)
      { st with l := f32Add .near false st.l p
                o := (st.o.zip k.2).map (fun x => f32Fma x.1 p x.2), any := true }) st

/-- T of R166 for a row: the greater of its running maximum and its floor. -/
def rowT (st : RowState) (floor : Nat) : Nat := f32Max st.m floor

/-- U < T − τ, exactly (R166); +∞ and −∞ compare as they must. -/
def belowBound (u t tau : Nat) : Bool :=
  if u = f32Inf || t = f32NegInf then false
  else if t = f32Inf || u = f32NegInf then true
  else decide (f32Val u < f32Val t - f32Val tau)

/-- Raising the reference r of R168 to a higher T. -/
def raiseRef (st : RowState) (t : Nat) : RowState :=
  if f32Lt st.r t then
    { st with e := if st.r = f32NegInf then st.e else f32Mul .up false st.e (expDiffUp st.r t), r := t }
  else st

/-- Recording a skipped page with n attended keys and bound U (R168). -/
def skipPage (st : RowState) (floor u n : Nat) : RowState :=
  let st := raiseRef st (rowT st floor)
  { st with e := f32Add .up false st.e (f32Mul .up false (f32 (n : Rat)) (expDiffUp u st.r))
            skipped := satAdd 0xFFFFFFFF st.skipped 1 }

/-- The row partial that a finished token sends (R24, R142). -/
def statePart (d : Nat) (det : Bool) (st : RowState) : Part :=
  if st.any then
    { m := st.m, l := st.l, o := st.o, empty := false, incomplete := st.incomplete, poisoned := st.poisoned
      det := det }
  else { emptyPart d with incomplete := st.incomplete, poisoned := st.poisoned, det := det }

/-- ERR_BOUND and PAGES_SKIPPED after the cell merge unit has merged a token's row partial (R168). -/
def addSkip (p : Part) (e r skipped : Nat) : Part :=
  if e = 0 then { p with skipped := satAdd 0xFFFFFFFF p.skipped skipped }
  else
    let t := f32Mul .up false e (expDiffUp r p.m)
    { p with skipped := satAdd 0xFFFFFFFF p.skipped skipped
             err := if p.err = 0x7C00 || !fFinite fFP32 t then 0x7C00
                    else f16Up (fVal fFP16 p.err + f32Val t) }

/-! ### Bounds (R163, R164) -/

/-- FP32 bits of an exact value rounded up. -/
def f32Up (q : Rat) : Nat := fRound fFP32 .up false false q

/-- U0 of R163: lo, hi the digest's values per dimension, q~ the effective query, `extra` Σ|q'_c·z_c| of static
pages. -/
def bound0 (qt lo hi : List Rat) (extra : Rat) : Nat :=
  let b := ((qt.zip (lo.zip hi)).map (fun p => max (p.1 * p.2.1) (p.1 * p.2.2))).sum
  let a := ((qt.zip (lo.zip hi)).map (fun p => |p.1| * max |p.2.1| |p.2.2|)).sum + extra
  f32Add .up false (f32Up b) (f32Up (a * pow2 (-14)))

/-- The effective query of R162. -/
def effQuery (cache : Nat) (static : Option (List (Nat × Int × List Nat × Nat) × List Rat)) (q : Query) : List Rat :=
  if isInt cache then
    match static with
    | some (st, ss) =>
      let vals := st.flatMap (fun g => g.2.2.1.map (fun u => f32Val g.1 * (((u : Int) - g.2.1 : Int) : Rat)))
      (vals.zip ss).map (fun p => f32Val (f32Sat (p.1 / p.2)))
    | none => q.groups.flatMap (fun g => g.2.2.map (fun u => f32Val g.1 * (((u : Int) - g.2.1 : Int) : Rat)))
  else q.ops.map (fun x => x * pow2 (-q.e))

end Sys2Proof.Machine
end

