-- ==== Sys2Proof/Machine/StateMatch.lean ====
section
/-! DEFINITION. State of the match array and of the bank-side units (chapters 09 and 10). -/

namespace Sys2Proof.Machine

/-- A raw unit of the match array (R232). A unit that is not listed is the empty marker. -/
structure MUnit where
  value : Nat := 0xFFFFFFFFFFFFFFFF
  mask : Nat := 0
  deriving DecidableEq, Repr, Inhabited

/-- A shadow record (R250), with the classes of its eight words as R40 names them: 0 good, 1 single-bit, 2 the poison bit alone,
3 uncorrectable, 4 known poisoned; the empty list when all are good. -/
structure Shadow where
  value : Nat := 0
  mask : Nat := 0
  assoc : Nat := 0
  gen : Nat := 0
  width : Nat := 0
  valid : Bool := false
  head : Bool := false
  cls : List Nat := []
  deriving DecidableEq, Repr, Inhabited

/-- A match (R244): its entry index in the partition, priority, ENTRY_GEN and ASSOC as verified. -/
structure Hit where
  index : Nat := 0
  prio : Nat := 0
  gen : Nat := 0
  assoc : Nat := 0
  deriving DecidableEq, Repr, Inhabited

/-- A cursor (R247). -/
structure Cursor where
  held : List Hit := []
  more : Bool := false
  restart : Nat := 0
  used : Nat := 0
  reserved : Bool := false
  deriving DecidableEq, Repr, Inhabited

/-- A key of a batch (R242): the context it serves and its place there, 64-bit parts, START_AFTER. -/
structure BKey where
  ctx : Nat := 0
  key : Nat := 0
  parts : List Nat := []
  after : Nat := 0
  again : Bool := false
  deriving DecidableEq, Repr, Inhabited

/-- What one cell reports for one key (R244, R245): verified hits, whether its list was cut and where, its count, whether a
candidate failed. -/
structure KeyReport where
  hits : List Hit := []
  horizon : Option (Nat × Nat) := none
  count : Nat := 0
  failed : Bool := false
  deriving DecidableEq, Repr, Inhabited

/-- A batch of keys for one bank set and width (R242); `lost`: a marker replaced a cell of it. -/
structure Batch where
  placement : Bool := false
  width : Nat := 2
  keys : List BKey := []
  closed : Bool := false
  waitFor : List Nat := []
  reports : List (Nat × List KeyReport) := []
  lost : Bool := false
  deriving DecidableEq, Repr, Inhabited

/-- The keys and results of a MATCH_SEARCH in its context (R245, R247). -/
structure Search where
  width : Nat := 0
  step : Bool := false
  keys : Nat := 0
  results : Tab (List Hit × Nat × Bool × Bool × Bool) := []
  cursors : List Nat := []
  deriving DecidableEq, Repr, Inhabited

/-- An element of bank-side work (R256), with the operands its BANK_OP shares, or one of the node's own gradient adds. -/
structure Elem where
  op : Nat := 0
  rowA : Nat := 0
  rowB : Nat := 0
  rowD : Nat := 0
  colA : Nat := 0
  colD : Nat := 0
  ncol : Nat := 0
  lane : Nat := 0
  lo : Nat := 0
  hi : Nat := 0
  fill : List Byte := []
  check : List Byte := []
  opId : Nat := 0
  index : Nat := 0
  add : Option (Nat × Nat × Nat) := none
  queuedAt : Nat := 0
  first : Bool := false
  deriving DecidableEq, Repr, Inhabited

/-- A BANK_OP under way or its op record (R264, R269); `released`: BANK_OPSTAT has released the record before the op ended. -/
structure BankOp where
  mode : Nat := 0
  cmd : Option Nat := none
  ctx : Nat := 0
  total : Nat := 0
  done : Nat := 0
  dropped : Nat := 0
  lost : Nat := 0
  cancelled : Bool := false
  flags : Nat := 0
  finished : Bool := false
  status : Nat := 0
  detail : Nat := 0
  endAt : Nat := 0
  released : Bool := false
  deriving DecidableEq, Repr, Inhabited

/-- The match configuration of a partition (R236); WIDTH of a bank that is not listed is 2. -/
structure MatchCfg where
  placeBanks : Nat := 128
  placeDuty : Nat := 10
  dutyCap : Nat := 10
  widths : Tab Nat := []
  deriving DecidableEq, Repr, Inhabited

/-- A duty bucket (R243): bank time in ns at a hub time. -/
structure Bucket where
  ns : Nat := 1440
  at_ : Nat := 0
  deriving DecidableEq, Repr, Inhabited

end Sys2Proof.Machine
end

