-- ==== Sys2Proof/Machine/StatePages.lean ====
section
/-! DEFINITION. State of cells' memory and of pages, sequences, maps and the pool (chapters 02 and 03). -/

namespace Sys2Proof.Machine

/-- A protected 64-byte granule as stored (R32, R40, R54): its plaintext, the tweak and key generation it was written
under, and the class of each of its sixteen words (empty: all good). -/
structure Granule where
  data : List Byte := []
  uid : Nat := 0
  idx : Nat := 0
  kind : Nat := 0
  ownerGen : Nat := 0
  keyGen : Nat := 0
  cls : List Nat := []
  deriving DecidableEq, Repr, Inhabited

/-- A granule of the metadata region as an element of bank-side work left it (R257, R259), with the bytes that its object's fields
showed then: it stands there until the object writes the granule anew. -/
structure MetaGran where
  gran : Granule := {}
  seen : List Byte := []
  deriving DecidableEq, Repr, Inhabited

/-- The metadata record of a page (R62); arrays are sparse, an entry that is not listed reads as zero. -/
structure PRec where
  format : Nat := 0
  dim : Nat := 0
  scaling : Nat := 0
  kComp : Nat := 0
  vComp : Nat := 0
  table : Nat := 0
  shared : Bool := false
  poisoned : Bool := false
  pinned : Bool := false
  lent : Bool := false
  digestValid : Bool := false
  uid : Nat := 0
  gen : Nat := 0
  epoch : Nat := 0
  tokens : Nat := 0
  job : Nat := 0
  seq : Nat := 0
  layer : Nat := 0
  kvHead : Nat := 0
  pageIndex : Nat := 0
  escK : Nat := 0
  escV : Nat := 0
  digScale : Nat := 0
  digZero : Nat := 0
  escMap : Nat := 0
  scale : Tab Nat := []
  zero : Tab Nat := []
  kSum : Tab Nat := []
  mean : Tab Nat := []
  dmin : Tab Nat := []
  dmax : Tab Nat := []
  deriving DecidableEq, Repr, Inhabited

/-- A page of a cell's page region: its class and record, the place of the record in the metadata region, and its entries of
the system region: reference count (R82), pin count and T1 holds (R89), age (R84), committed reads within the sweep
period (R88). -/
structure Page where
  cls : Nat := 0
  r : PRec := {}
  recPlace : Nat := 0
  refs : Nat := 1
  pins : Nat := 0
  t1Holds : Nat := 0
  age : Nat := 0
  reads : Nat := 0
  deriving DecidableEq, Repr, Inhabited

/-- The lend entry of a page lent by this partition (R91), in the system region of the owner's cell. `image` and `table` are what
the page held and the contents of its decode table slot when it was lent: a lent page is FULL and never written, so they are what
its owner compares with and sends on (R215, R224; log 92). -/
structure LendEntry where
  node : Nat := 0
  part : Nat := 0
  handle : Nat := 0
  uid : Nat := 0
  cls : Nat := 0
  conn : Nat := 0
  job : Nat := 0
  age : Nat := 0
  lost : Bool := false
  recalling : Bool := false
  releasing : Bool := false
  image : PageImage := { record := [], tiles := [], poison := [] }
  table : List Byte := []
  deriving DecidableEq, Repr, Inhabited

/-- A page lent to this partition (R91), in a cell's lend region: its owner, its record with LENT set, its tiles; the job
secret and the borrowing generation from which its lend key was derived (R53, R383); `recon` names the context of a
reconstruction that recovered it (R229). `recCls` holds the word classes of those granules of its record that are not good. -/
structure LentPage where
  ownerNode : Nat := 0
  ownerPart : Nat := 0
  ownerGen : Nat := 0
  job : Nat := 0
  cls : Nat := 0
  r : PRec := {}
  secret : List Byte := []
  borrowGen : Nat := 0
  table : List Byte := []
  grans : Tab Granule := []
  recCls : Tab (List Nat) := []
  recon : Option Nat := none
  deriving DecidableEq, Repr, Inhabited

/-- A block of the metadata region: root, layer block or map block (R67, R68), or a group digest object (R157). -/
structure Blk where
  handle : Nat := 0
  uid : Nat := 0
  units : Nat := 1
  deriving DecidableEq, Repr, Inhabited

/-- One pin of a sequence (R89): its T1 bit and the positions it still holds. -/
structure Pin where
  t1 : Bool := false
  pos : List Nat := []
  deriving DecidableEq, Repr, Inhabited

/-- Token slots cut off by a truncation that a walker may still read (R73): layer, first cut position, ε of the swap. -/
structure TruncWait where
  layer : Nat := 0
  lo : Nat := 0
  hi : Nat := 0
  eps : Nat := 0
  deriving DecidableEq, Repr, Inhabited

/-- A sequence: its entry (R65), root (R67), blocks (R68) and map. Positions are keyed by
(layer · 64 + KV head) · 65,536 + page index; blocks by 0 the root, 1 + L the layer block of layer L, and
1,024 + (L · 64 + j) · 64 + b the map block b of KV head j. `member` says that the node holds it as a member of another home's
sequence, so that its lengths are not the sequence's (R200, R223). `cutOff` holds, by block key, what stood below a block whose handle
an element has overwritten (R262). -/
structure Seq where
  job : Nat := 0
  seq : Nat := 0
  format : Nat := 0
  dim : Nat := 0
  cls : Nat := 0
  placement : Nat := 0
  layers : Nat := 0
  kvHeads : Nat := 0
  scaling : Nat := 0
  kComp : Nat := 0
  vComp : Nat := 0
  hash : Nat := 0
  gen : Nat := 1
  editing : Bool := false
  prefixed : Bool := false
  member : Bool := false
  evicting : Bool := false
  age : Nat := 0
  pinCount : Nat := 0
  pins : List Pin := []
  len : Tab Nat := []
  map : Tab Nat := []
  blocks : Tab Blk := []
  cuts : List TruncWait := []
  cutOff : Tab (Tab Nat) := []
  waiting : List Nat := []
  deriving DecidableEq, Repr, Inhabited

/-- An item of the reclamation list (R72): a page (its handle) or a block, with the ε of its root swap. -/
structure Recl where
  eps : Nat := 0
  page : Bool := true
  handle : Nat := 0
  units : Nat := 1
  deriving DecidableEq, Repr, Inhabited

/-- The settings of POOL_SET (R83). -/
structure PoolCfg where
  highWm : Nat := 80
  lowWm : Nat := 40
  hardFloor : Nat := 10
  sweepMs : Nat := 1000
  minEvictAge : Nat := 2
  t1Promote : Nat := 4
  lendAccept : Bool := false
  lendJobs : List Nat := []
  deriving DecidableEq, Repr, Inhabited

/-- CELL_POOL_STAT as last updated (R490). -/
structure PoolStat where
  level : Nat := 0
  evicting : Bool := false
  admitStop : Bool := false
  allocStop : Bool := false
  freeUnits : Nat := 0
  deriving DecidableEq, Repr, Inhabited

/-- The region layout of a partition's cells (R36), in MiB. -/
structure Layout where
  rawMib : Nat := 1024
  pageMib : Nat := 69632
  metaMib : Nat := 8704
  deriving DecidableEq, Repr, Inhabited

end Sys2Proof.Machine
end

