-- ==== Sys2Proof/Machine/StateAttn.lean ====
section
/-! DEFINITION. State of requests on the attention path: contexts, work tokens, rings, cores, merge entries and records
(chapters 01, 05, 06, 07), and gradient sets, scorers and decode table slots. -/

namespace Sys2Proof.Machine

/-- The parameters of an ATTEND or ATTEND_BWD (R130, R162, R184). Query, dO and O rows run in the order of R131. -/
structure Req where
  bwd : Bool := false
  job : Nat := 0
  seq : Nat := 0
  layer : Nat := 0
  kvSet : Nat := 0
  qTokens : Nat := 0
  group : Nat := 1
  dim : Nat := 0
  qFormat : Nat := 5
  wide : Bool := false
  mask : Nat := 0
  window : Nat := 0
  keyLo : Nat := 0
  keyHi : Nat := 0xFFFFFFFF
  sc : ScoreCfg := {}
  sparse : Nat := 0
  distrib : Nat := 0
  outFormat : Nat := 0
  outComp : Nat := 0
  outBound : Nat := 0
  reply : Nat := 0
  replyConn : Nat := 0
  replyRkey : Nat := 0
  replyOffset : Nat := 0
  tau : Nat := 0
  topPages : Nat := 0
  fanout : Nat := 0
  sink : Nat := 0
  recent : Nat := 0
  scorer : Nat := 0
  specPlaces : Nat := 0
  pos : List Nat := []
  slopes : List Nat := []
  q : List (List Nat) := []
  gset : Nat := 0
  gradMode : Nat := 0
  gradComp : Nat := 0
  gradBound : Nat := 0
  gradConn : Nat := 0
  gradRkey : Nat := 0
  gradOffset : Nat := 0
  gradLimit : Nat := 0
  dO : List (List Nat) := []
  lse : List Nat := []
  dd : List Nat := []
  nTotal : Tab Nat := []
  deriving DecidableEq, Repr, Inhabited

/-- What is merged for one row: the partial of a forward request, or the dQ row of a backward one (R189). -/
structure RowOut where
  p : Part := {}
  keys : Nat := 0
  pOver : Nat := 0
  excluded : Nat := 0
  deriving DecidableEq, Repr, Inhabited

/-- A merge record of the node merge unit (R19, R146): one query group, which contributors still owe a report, what has
been merged, in deterministic mode the places of R147 with their order keys, and when it was done among the arrivals of its
request (R141). -/
structure MRec where
  kv : Nat := 0
  first : Nat := 0
  rows : Nat := 0
  started : Bool := false
  unsent : List Nat := []
  waitFor : List Nat := []
  arrived : List (Nat × List RowOut) := []
  acc : List RowOut := []
  done : Bool := false
  came : Nat := 0
  deriving DecidableEq, Repr, Inhabited

/-- A member's part in a distributed request (R207 to R210): its span, node, connection, whether it has answered, the time it
was sent, whether it has been re-issued or could not be (`again`), whether its node still owes the answer to what was sent last (`asked`),
and the connection and tag of what was sent before that (R210). -/
structure SubReq where
  span : Nat := 0
  node : Nat := 0
  conn : Nat := 0
  kind : Nat := 0
  tag : Nat := 0
  state : Nat := 0
  sentAt : Nat := 0
  tries : Nat := 0
  bytes : List Byte := []
  handles : List Nat := []
  came : Nat := 0
  first : Nat := 0
  epoch : Nat := 0
  again : Bool := false
  asked : Bool := false
  was : List (Nat × Nat) := []
  deriving DecidableEq, Repr, Inhabited

/-- What an APPEND has clipped on one KV head's statically scaled pages (R104): the values of K and V of every token written, the
channels clipped in each. -/
structure Clips where
  format : Nat := 0
  dim : Nat := 0
  kv : List (List Rat) := []
  vv : List (List Rat) := []
  kc : List Nat := []
  vc : List Nat := []
  deriving DecidableEq, Repr, Inhabited

/-- A request context (R27): its command, parameters, snapshot (R69), query groups, and the outcome gathered so far; for an
APPEND, by KV head, what it has clipped (R104); for a lending neighbour's part, the lent pages that the sub-request named and those
of them that saw committed use (R92). -/
structure Ctx where
  cmd : Nat := 0
  kind : Nat := 0
  search : Search := {}
  rerun : Bool := false
  part : Nat := 0
  cls : Nat := 0
  r : Req := {}
  gen : Nat := 0
  len : Nat := 0
  eps : Nat := 0
  walker : Bool := false
  map : Tab Nat := []
  cacheFormat : Nat := 0
  cacheScaling : Nat := 0
  cells : List Nat := []
  credits : Tab Nat := []
  groups : Tab MRec := []
  excluded : List Nat := []
  attended : List Nat := []
  skipped : Nat := 0
  unavail : List Nat := []
  unfilled : List Nat := []
  lostPos : List Nat := []
  subDetail : Nat := 0
  subUnavail : Nat := 0
  subAttended : Nat := 0
  base : List Nat := []
  shipped : Nat := 0
  sentBytes : Nat := 0
  stopped : Bool := false
  shipping : Bool := false
  owed : List (Nat × Nat) := []
  subs : Tab SubReq := []
  arrivals : Nat := 0
  deadline : Nat := 0
  progress : Nat := 0
  waiting : Bool := false
  finished : Bool := false
  clips : List (Nat × Clips) := []
  named : List Nat := []
  used : List Nat := []
  deriving DecidableEq, Repr, Inhabited

/-- What an operand place holds (R119): the record, and both tiles' bytes, as read. -/
structure PlaceData where
  r : PRec := {}
  k : List Byte := []
  v : List Byte := []
  dt : DTable := {}
  deriving DecidableEq, Repr, Inhabited

/-- A run-ahead fetch of a selecting core (R175 to R178): the selection it serves, its place, page and handle, whether the
page has landed, whether it met a corrected or uncorrectable word (R42), and the data. -/
structure RunAhead where
  ctx : Nat := 0
  grp : Nat := 0
  idx : Nat := 0
  page : Nat := 0
  handle : Nat := 0
  landed : Bool := false
  bad : Bool := false
  data : PlaceData := {}
  deriving DecidableEq, Repr, Inhabited

/-- A work token (R18): its request, query group, KV head, pages as (page index, handle), its sequence number, whether it
is a selection token (R165), the ring places it holds for tokens to come, the adopted run-ahead fetches whose places are
reserved for it (R176), and its re-issues (R439). -/
structure Token where
  ctx : Nat := 0
  grp : Nat := 0
  kv : Nat := 0
  pages : List (Nat × Nat) := []
  num : Nat := 0
  select : Bool := false
  bounded : Bool := false
  extra : Nat := 0
  kept : List RunAhead := []
  last : Bool := true
  reissues : Nat := 0
  deriving DecidableEq, Repr, Inhabited

/-- A token in the ring (R26): its class and the core it is directed to, if any. -/
structure RTok where
  tok : Token := {}
  cls : Nat := 0
  core : Option Nat := none
  deriving DecidableEq, Repr, Inhabited

/-- A place reserved for a page of a held token (R21 to R23). st: 0 reserved, 1 fetch credit granted, 2 being read, 3 filled,
4 freed after consumption, 5 skipped, 6 excluded. `held` says that `data` holds an adopted page already (R176), `promote`
that the read under way brings the page's reads to T1_PROMOTE (R88). -/
structure Place where
  idx : Nat := 0
  page : Nat := 0
  handle : Nat := 0
  st : Nat := 0
  order : Nat := 0
  held : Bool := false
  promote : Bool := false
  data : PlaceData := {}
  deriving DecidableEq, Repr, Inhabited

/-- A token held by a core: its places, its row states and floors (R136, R167), dQ sums (R188); for a selection token how
many candidates have been scored so far (R171, R175). -/
structure HTok where
  tok : Token := {}
  places : List Place := []
  rows : List RowState := []
  floors : List Nat := []
  outs : List RowOut := []
  done : Bool := false
  scored : Nat := 0
  deriving DecidableEq, Repr, Inhabited

/-- A Shuttle core. st: 0 in service, 1 in reset and self-check, 2 out of service (R439). `resets` holds the times of its
watchdog trips and failed self-checks (R444), `ahead` its run-ahead fetches (R175). -/
structure Core where
  held : List HTok := []
  inc : Nat := 0
  st : Nat := 0
  resets : List Nat := []
  checkAt : Nat := 0
  cmd : Option Nat := none
  cause : Nat := 0
  grants : Nat := 0
  progress : Nat := 0
  carry : List (Nat × Nat × List RowState) := []
  ahead : List RunAhead := []
  deriving DecidableEq, Repr, Inhabited

/-- A merge entry of a cell (R20, R24): the tokens still owed, the state merged so far, the reports that wait for the fold
order of R147. -/
structure MEntry where
  ctx : Nat := 0
  grp : Nat := 0
  bytes : Nat := 0
  owed : Nat := 0
  nextNum : Nat := 0
  total : Nat := 0
  acc : List RowOut := []
  any : Bool := false
  reports : List (Nat × List RowOut × List (Nat × Nat × Nat)) := []
  dropped : List Nat := []
  deriving DecidableEq, Repr, Inhabited

/-- A partial on its way from a cell merge unit to the node merge unit (R24), with the sender's incarnation (R435). -/
structure CellReport where
  ctx : Nat := 0
  grp : Nat := 0
  inc : Nat := 0
  lowPage : Nat := 0
  rows : List RowOut := []
  deriving DecidableEq, Repr, Inhabited

/-- A decode table slot (R123): contents, LOAD_COUNT, references, and when its count last became zero. -/
structure TableSlot where
  loaded : Bool := false
  bytes : List Byte := []
  loadCount : Nat := 0
  refs : Nat := 0
  zeroAt : Nat := 0
  deriving DecidableEq, Repr, Inhabited

/-- A scorer slot (R183): its job, shape, SERIAL, table, columns (plaintext payload) and references. -/
structure Scorer where
  job : Nat := 0
  dim : Nat := 0
  rank : Nat := 0
  layers : Nat := 0
  kvHeads : Nat := 0
  wformat : Nat := 0
  wcomp : Nat := 0
  serial : Nat := 0
  table : List Byte := []
  payload : List Byte := []
  refs : Nat := 0
  deriving DecidableEq, Repr, Inhabited

/-- A gradient page of a set (R191, R193): its position, cell, first bank and row, and flags (R195). -/
structure GPage where
  kv : Nat := 0
  page : Nat := 0
  cell : Nat := 0
  bank : Nat := 0
  row : Nat := 0
  excluded : Bool := false
  missing : Bool := false
  deriving DecidableEq, Repr, Inhabited

/-- A gradient set (R191 to R196). `adds` counts the fills and adds of its pages that are still queued, `done` the ones that have
completed; `serial` tells it from
an earlier set of the same number. -/
structure GSet where
  job : Nat := 0
  seq : Nat := 0
  layer : Nat := 0
  kvSet : Nat := 0
  lo : Nat := 0
  hi : Nat := 0
  dim : Nat := 0
  closed : Bool := false
  pages : List GPage := []
  adds : Nat := 0
  done : Nat := 0
  queue : List Nat := []
  shipped : Nat := 0
  serial : Nat := 0
  deriving DecidableEq, Repr, Inhabited

/-- A group of a group digest object (R157). -/
structure DGroup where
  scale : Nat := 0
  zero : Nat := 0
  built : Bool := false
  open_ : Bool := false
  idx : List Nat := []
  mean : List Nat := []
  deriving DecidableEq, Repr, Inhabited

/-- A digest index entry with its object (R157, R159). -/
structure DigestObj where
  job : Nat := 0
  seq : Nat := 0
  layer : Nat := 0
  kv : Nat := 0
  chunk : Nat := 0
  handle : Nat := 0
  gen : Nat := 0
  uid : Nat := 0
  units : Nat := 2
  groups : List DGroup := []
  deriving DecidableEq, Repr, Inhabited

end Sys2Proof.Machine
end

