-- ==== Sys2Proof/Machine/StateHost.lean ====
section
/-! DEFINITION. State of commands, replies, queue pairs, rings and staged configuration (chapters 11, 12 and 18). -/

namespace Sys2Proof.Machine

/-- An accepted command that has not completed (R283): its issuer's partition, header fields (R276), parameter block,
fabric extension (R206), when it was accepted, its deadline (R145), the references that it has held since then: a decode
table slot (R124, R125) and a scorer slot (R183). `tableBad` is the LOAD_COUNT of a slot whose pair did not fit then; `items` and `pool` are the
settings that it keeps from then on (R294); `editing` says that it holds EDITING of the sequence that its block names (R71). -/
structure Cmd where
  src : Source := .mctp false
  part : Nat := 0
  tag : Nat := 0
  opcode : Nat := 0
  fence : Bool := false
  notify : Bool := false
  fabric : Bool := false
  qos : Nat := 0
  objectId : Nat := 0
  epoch : Nat := 0
  block : List Byte := []
  ext : List Byte := []
  homeEpoch : Nat := 0
  senderGen : Nat := 0
  replyLen : Nat := 0
  at_ : Nat := 0
  deadline : Nat := 0
  held : Bool := false
  rerun : Bool := false
  discard : Bool := false
  ctx : Option Nat := none
  tref : Option Nat := none
  tableBad : Option Nat := none
  scorer : Option Nat := none
  items : Tab (List Nat) := []
  pool : PoolCfg := {}
  editing : Bool := false
  deriving DecidableEq, Repr, Inhabited

/-- A status reply and its payload (R281). -/
structure Reply where
  status : Nat := 0
  detail : Nat := 0
  ret : List Byte := []
  payload : List Byte := []
  deriving DecidableEq, Repr, Inhabited

/-- A completion that waits for its CQ slot to be written (R478). -/
structure Completion where
  bytes : List Byte := []
  payload : List Byte := []
  notify : Bool := false
  deriving DecidableEq, Repr, Inhabited

/-- A queue pair: its registers and doorbells (R479, R480), PHASE, and the completions not yet posted (R478). -/
structure Qp where
  sqBase : Nat := 0
  cqBase : Nat := 0
  sqLog : Nat := 4
  cqLog : Nat := 4
  vector : Nat := 0
  en : Bool := false
  coalCount : Nat := 0
  coalUs : Nat := 0
  state : Nat := 0
  err : Nat := 0
  errEvt : Bool := false
  sqHead : Nat := 0
  cqTail : Nat := 0
  lost : Nat := 0
  sqTail : Nat := 0
  cqHead : Nat := 0
  phase : Bool := true
  ready : List Completion := []
  coalesced : Nat := 0
  coalAt : Nat := 0
  malformed : Nat := 0
  deriving DecidableEq, Repr, Inhabited

/-- A ring of R484; `waiting` holds the receive completions that wait for a slot. -/
structure Ring where
  base : Nat := 0
  logSize : Nat := 6
  en : Bool := false
  vector : Nat := 0
  head : Nat := 0
  tail : Nat := 0
  lost : Nat := 0
  waiting : List (List Byte) := []
  deriving DecidableEq, Repr, Inhabited

/-- A PCIe function: power state, Bus Master Enable, its queue pairs and its event ring. -/
structure Fn where
  d0 : Bool := true
  bme : Bool := true
  qps : Tab Qp := []
  evt : Ring := {}
  pending : List Nat := []
  deriving DecidableEq, Repr, Inhabited

/-- A staged configuration item (R289) other than a calibration set: its number and its settings. -/
structure Staged where
  item : Nat := 0
  vals : List Nat := []
  size : Nat := 0
  deriving DecidableEq, Repr, Inhabited

/-- The calibration entry of one layer and KV head (R101, R105): 2·d FP16 scales and ZERO bytes, K channels first, scale epoch,
SATURATED, and the clipped and total counts of K and V in the most recent APPEND that counted clips. -/
structure CalEntry where
  scale : List Nat := []
  zero : List Nat := []
  epoch : Nat := 0
  saturated : Bool := false
  clips : List Nat := [0, 0, 0, 0]
  deriving DecidableEq, Repr, Inhabited

/-- A calibration set, staged or active (R101, R102): dimensions, and entries by layer · 64 + KV head. -/
structure CalSet where
  layers : Nat := 0
  kvHeads : Nat := 0
  dim : Nat := 0
  parts : Tab (Nat × Nat × Nat) := []
  entries : Tab CalEntry := []
  deriving DecidableEq, Repr, Inhabited

/-- A commit register (R292): COMMIT_ERR and ERR_ITEM; COMMIT and DISCARD have always acted when they are read. -/
structure CommitReg where
  err : Bool := false
  errItem : Nat := 0
  deriving DecidableEq, Repr, Inhabited

/-- An event subscription (R315): its mask, and the connection that takes its records, or the function's ring. -/
structure Sub where
  src : Source := .mctp false
  part : Nat := 0
  mask : Nat := 0
  conn : Option Nat := none
  deriving DecidableEq, Repr, Inhabited

/-- A transport packet that the node sends (R357, R361): connection, port, IP (source and destination address, DSCP, ECN 2 is ECT(0), DF),
ESP, UDP ports, BTH, Spray extension header, RETH, ImmDt, AETH, SACK block, payload. -/
structure PktOut where
  conn : Nat := 0
  port : Nat := 0
  src : List Byte := []
  dst : List Byte := []
  dscp : Nat := 0
  ecn : Nat := 2
  df : Bool := true
  spi : Nat := 0
  espSeq : Nat := 0
  srcPort : Nat := 0
  dstPort : Nat := 0
  opcode : Nat := 0
  pkey : Nat := 0xFFFF
  tver : Nat := 0
  qpn : Nat := 0
  psn : Nat := 0
  ackReq : Bool := false
  seh : List Byte := []
  reth : Option (Nat × Nat × Nat) := none
  imm : Option Nat := none
  aeth : Option Nat := none
  sack : List Byte := []
  payload : List Byte := []
  deriving DecidableEq, Repr, Inhabited

/-- What the node has driven outwards, one entry each (log 5). -/
inductive Output where
  /-- A status reply handed to its path (R281). -/
  | reply (src : Source) (bytes payload : List Byte)
  /-- A CQ entry written to host memory (R478). -/
  | cqEntry (fn qp slot : Nat) (bytes : List Byte)
  /-- An MSI-X vector raised (R482). -/
  | msix (fn vector : Nat)
  /-- A record written to a function's event ring (R484). -/
  | eventRecord (fn slot : Nat) (bytes : List Byte)
  /-- An event record sent to a control connection (R315). -/
  | eventMessage (conn : Nat) (bytes : List Byte)
  /-- A record written to a receive pool's completion ring (R369). -/
  | poolRecord (part pool slot : Nat) (bytes : List Byte)
  /-- A read of the raw aperture answered (R486). -/
  | apertureData (fn : Nat) (bytes : List Byte)
  /-- A transport packet sent (R357). -/
  | packet (p : PktOut)
  /-- A capability datagram (R355, R356): connection, port, destination address and UDP port, bytes. -/
  | datagram (conn port : Nat) (dst : List Byte) (udp : Nat) (bytes : List Byte)
  /-- An ARP or Neighbour Discovery reply (R377). -/
  | neighbour (port : Nat) (bytes : List Byte)
  /-- A message between nodes: connection, kind code, the numbers it carries, its bytes. -/
  | fabric (conn kind : Nat) (nums : List Nat) (bytes : List Byte)
  /-- An action on a link port: port, kind code, bytes (a page, a block, a LINK_FAULT). -/
  | link (port kind : Nat) (bytes : List Byte)
  /-- A voltage written over AVSBus: cell, mV (R419). -/
  | avs (cell mv : Nat)
  /-- An output pin driven: name code and level (R497). -/
  | pin (name : Nat) (high : Bool)
  /-- An MCTP, SPDM or PLDM response. -/
  | mctp (kind : Nat) (bytes : List Byte)
  /-- Bits shifted out at TDO (R511). -/
  | tdo (bits : List Bool)
  deriving DecidableEq, Repr, Inhabited

end Sys2Proof.Machine
end

