-- ==== Sys2Proof/Machine/StateNet.lean ====
section
/-! DEFINITION. State of connections, receive pools and registered regions (chapter 14). -/

namespace Sys2Proof.Machine

/-- A receive buffer (R368): the RKEY of its region, its length, its offset in the region. -/
structure Buf where
  rkey : Nat := 0
  len : Nat := 0
  off : Nat := 0
  deriving DecidableEq, Repr, Inhabited

/-- A receive pool (R368). -/
structure Pool where
  bufLen : Nat := 0
  bufs : List Buf := []
  posted : Nat := 0
  deriving DecidableEq, Repr, Inhabited

/-- A registered region (R370): messages accepted and in flight, ever accepted, refused while revoking. -/
structure Region where
  rkey : Nat := 0
  cell : Nat := 0
  off : Nat := 0
  len : Nat := 0
  writable : Bool := false
  revoking : Bool := false
  accepted : Nat := 0
  ever : Nat := 0
  refused : Nat := 0
  revokeCmd : Option Nat := none
  deriving DecidableEq, Repr, Inhabited

/-- A message being received (R362 to R365): numbering, its kind, where it goes, what has been placed. -/
structure MsgIn where
  msn : Nat := 0
  start : Nat := 0
  last : Option Nat := none
  bytes : Nat := 0
  isSend : Bool := true
  imm : Option Nat := none
  buf : Option Buf := none
  region : Option Nat := none
  va : Nat := 0
  dma : Nat := 0
  refused : Nat := 0
  marked : List Nat := []
  data : Tab (List Byte) := []
  deriving DecidableEq, Repr, Inhabited

/-- What a message that the node sends carries (R351). -/
inductive Purpose where
  | reply
  | attendWrite (cmd : Nat)
  | gradient (ctx : Nat)
  | fabric
  | event
  deriving DecidableEq, Repr, Inhabited

/-- A message being sent: its kind (SEND, or RDMA WRITE with immediate to a region of the peer), bytes, and progress; once it
has failed, its packets from `voidFrom` on leave as VOID packets (R365). -/
structure MsgOut where
  msn : Nat := 0
  start : Nat := 0
  send : Bool := true
  cls : Nat := 0
  rkey : Nat := 0
  va : Nat := 0
  imm : Nat := 0
  bytes : List Byte := []
  sent : Nat := 0
  failed : Nat := 0
  voidFrom : Nat := 0
  purpose : Purpose := .reply
  deriving DecidableEq, Repr, Inhabited

/-- A PSN sent and not yet acknowledged: when it was last sent, how often resent, on which entropy index (R366). -/
structure Unacked where
  psn : Nat := 0
  msn : Nat := 0
  sentAt : Nat := 0
  resends : Nat := 0
  entropy : Nat := 0
  marked : Bool := false
  deriving DecidableEq, Repr, Inhabited

/-- A security association (R372, R373, R390): SPI, sequence number, replay window, key check value, packets. -/
structure Sa where
  spi : Nat := 0
  seqNo : Nat := 0
  seen : List Nat := []
  kcv : Nat := 0
  packets : Nat := 0
  deriving DecidableEq, Repr, Inhabited

/-- Congestion state (R374, R375): parameters, exact rate, target and alpha, and the times of R374. -/
structure Cc where
  g : Nat := 256
  alpha0 : Nat := 65535
  ai : Nat := 400
  timer : Nat := 55
  cnpInterval : Nat := 50
  minRate : Nat := 1000
  rate : Rat := 0
  target : Rat := 0
  alpha : Rat := 0
  nextTimer : Nat := 0
  signalAt : Option Nat := none
  signalled : Bool := false
  cnpSentAt : Option Nat := none
  pendingParams : List Nat := []
  deriving DecidableEq, Repr, Inhabited

/-- A connection (R351 to R379). kind 0 data, 1 control, 2 fabric; mode 0 Standard, 1 Spray; state 0 INIT, 1 READY,
2 ERROR. `ackedAt` is when the last acknowledgement came or the wait for one began (R359), `rnrMsn` the message whose RNR NAKs are
counted. -/
structure Conn where
  reuse : Nat := 0
  kind : Nat := 0
  mode : Nat := 0
  asked : Nat := 0
  state : Nat := 0
  part : Nat := 0
  job : Nat := 0
  peerQpn : Nat := 0
  peerNode : Nat := 0
  peerPart : Nat := 0
  pool : Nat := 0
  port : Nat := 0
  peerAddr : List Byte := []
  localAddr : List Byte := []
  cls : Nat := 0
  capCmd : Option Nat := none
  capTries : Nat := 0
  capDue : Nat := 0
  initPsn : Nat := 0
  peerInit : Nat := 0
  startSet : Bool := false
  entropy : Nat := 16
  nextEntropy : Nat := 0
  skip : Tab Nat := []
  sndNext : Nat := 0
  sndCum : Nat := 0
  msnOut : Nat := 0
  sendQ : List MsgOut := []
  unacked : List Unacked := []
  rnrCount : Nat := 0
  rnrUntil : Option Nat := none
  rnrMsn : Nat := 0
  ackedAt : Nat := 0
  rcvCum : Nat := 0
  window : List Nat := []
  msnIn : Nat := 0
  msgs : List MsgIn := []
  sinceAck : Nat := 0
  ackDue : Option Nat := none
  nakSent : Bool := false
  ceEcho : Nat := 0
  cc : Cc := {}
  saOut : Option Sa := none
  saIn : List Sa := []
  jgIn : Nat := 0
  lostReplies : Nat := 0
  resends : Nat := 0
  refusals : Nat := 0
  malformed : Nat := 0
  dropped : Nat := 0
  deriving DecidableEq, Repr, Inhabited

/-- The routing and address items as tables (R376, R377, R380). -/
structure Neigh where
  addr : List Byte := []
  mac : List Byte := []
  deriving DecidableEq, Repr, Inhabited

end Sys2Proof.Machine
end

