-- ==== Sys2Proof/Machine/StateNode.lean ====
section
/-! DEFINITION. State of placement, leases and metering (chapter 08), of links (13), security (15), power (16), recovery
and capture (17), and the two large records built from the parts: a cell and a partition. -/

namespace Sys2Proof.Machine

/-- A placement entry with its record (R201 to R203); `key` and `mask` are 128-bit numbers, `index` the entry index. While
CODE_BUILDING is set, `codedStreams` are the data streams complete at this node as a parity member, `codedBy` the parity members
whose completion the home has heard of, `codedShort` the streams of which a parity member found no room for a page (R228). -/
structure PlaceRec where
  key : Nat := 0
  mask : Nat := 0
  index : Nat := 0
  job : Nat := 0
  seq : Nat := 0
  kind : Nat := 0
  span : Nat := 0
  owner : Nat := 0
  mirror : Nat := 0xFFFF
  epoch : Nat := 0
  firstPage : Nat := 0
  lastPage : Nat := 0
  flags : Nat := 0
  codeGroup : Nat := 0
  codeK : Nat := 0
  codePos : Nat := 0
  parity0 : Nat := 0
  parity1 : Nat := 0xFFFF
  leaseEnd : Nat := 0
  holder : Nat := 0xFFFF
  promptAt : Nat := 0
  expired : Bool := false
  codedStreams : List Nat := []
  codedBy : List Nat := []
  codedShort : List Nat := []
  deriving DecidableEq, Repr, Inhabited

/-- What a node holds of a span as owner or mirror (R218 to R222, R225): lease epoch and end, fencing, ISSUED_EPOCH, the
highest HOME_EPOCH and the highest epoch for the span met, the home, the stream epoch, and the handoff under way: its command, target
and the time at which it ends with TIMEOUT. -/
structure SpanSt where
  job : Nat := 0
  seq : Nat := 0
  span : Nat := 0
  mirror : Bool := false
  epoch : Nat := 0
  valid : Bool := false
  fenced : Bool := false
  endAt : Nat := 0
  sentAt : Nat := 0
  renewAt : Nat := 0
  issued : Nat := 0
  homeEpoch : Nat := 0
  home : Nat := 0
  stream : Nat := 0
  seen : Nat := 0
  handoff : Option (Nat × Nat × Nat) := none
  deriving DecidableEq, Repr, Inhabited

/-- A command or message that this node has sent over a fabric connection and whose reply it awaits; of a lease command the HOME_EPOCH
under which it was sent and the validity in µs that its settings gave then (R218, R294). -/
structure Await where
  conn : Nat := 0
  tag : Nat := 0
  kind : Nat := 0
  job : Nat := 0
  seq : Nat := 0
  span : Nat := 0
  arg : Nat := 0
  cmd : Option Nat := none
  at_ : Nat := 0
  homeEpoch : Nat := 0
  us : Nat := 0
  deriving DecidableEq, Repr, Inhabited

/-- A multi-step edit or send under way for a command: PAGE_LEND, PAGE_RECALL, RECOPY, a distributed APPEND; for PAGE_LEND
the ε that its walk recorded (R72), for PAGE_RECALL the page allocated for the one it waits for (R93). -/
structure Job where
  cmd : Nat := 0
  kind : Nat := 0
  seqKey : Nat := 0
  conn : Nat := 0
  todo : List Nat := []
  done : Nat := 0
  eps : Nat := 0
  slot : Option Nat := none
  deriving DecidableEq, Repr, Inhabited

/-- The seven counters of a composition (R230). -/
structure Meter where
  cellNs : Nat := 0
  pageS : Nat := 0
  lendPageS : Nat := 0
  attnPages : Nat := 0
  requests : Nat := 0
  bytesTx : Nat := 0
  bytesRx : Nat := 0
  deriving DecidableEq, Repr, Inhabited

/-- A job secret with its owner key and generation (R387), and the connections on which a rotation is in progress, each with
the first PSN sent under the new generation (R391). -/
structure JobKey where
  secret : List Byte := []
  owner : List Byte := []
  jkg : Nat := 0
  rotating : List (Nat × Nat) := []
  deriving DecidableEq, Repr, Inhabited

/-- A home that a member has told of a greater HOME_EPOCH (R209, R217): the sequence, the home and HOME_EPOCH that it named. -/
structure Deposed where
  job : Nat := 0
  seq : Nat := 0
  node : Nat := 0
  epoch : Nat := 0
  deriving DecidableEq, Repr, Inhabited

/-- A parity page (R227, R228): its group, position, slot and record bytes accumulated; `heads` is one more than the greatest KV
head among the records that have come, from which the group's KV_HEADS is known; `bad` the words that a poisoned source word has
spoilt (R41). -/
structure ParityPage where
  group : Nat := 0
  member : Nat := 0
  bytes : List Byte := []
  uid : Nat := 0
  units : Nat := 1
  job : Nat := 0
  handle : Nat := 0
  heads : Nat := 1
  bad : List Nat := []
  deriving DecidableEq, Repr, Inhabited

/-- The power side of a cell (R411 to R420, R429). -/
structure CellPwr where
  st : Nat := 3
  target : Option Nat := none
  cmd : Option Nat := none
  prev : Nat := 3
  askMhz : Nat := 1500
  coreMhz : Nat := 0
  ceilMhz : Nat := 1800
  vddMv : Nat := 0
  pendMhz : Option Nat := none
  wroteAt : Option Nat := none
  wroteMv : Nat := 0
  fault : Bool := false
  alert : Bool := false
  at_ : Nat := 0
  temp : Nat := 0
  loomT : Nat := 0
  deriving DecidableEq, Repr, Inhabited

/-- A cell (chapters 01, 02, 03, 06, 09, 10, 16, 17). `metaCls` and `metaData` hold, by granule of the metadata region, the classes
of its words where one is not good, and what an element wrote there. `writeQ` holds the commands whose write of an entry waits for the sweep of
its bank to end (R240); `sweepAhead`, by bank that the sweep under way covers, how many elements came to it before the sweep (R265). `reports` are the words in the channel from the cell's merge unit to the node's and in its input buffer,
`sentWords` how many word places they take, so that the channel's credit counter reads the places less that number (R16); `outbox` waits
for a credit. -/
structure Cell where
  pwr : CellPwr := {}
  ce : Nat := 0
  ue : Nat := 0
  poisonEvt : Bool := false
  scrubLap : Bool := false
  dblRefresh : Bool := false
  poisonLog : List (Nat × Nat) := []
  poisonCount : Nat := 0
  rewriteQ : List Nat := []
  scrubPos : Nat := 0
  pages : Tab Page := []
  retired : List Nat := []
  retiredSlots : Nat := 0
  places : Tab Nat := []
  metaCls : Tab (List Nat) := []
  metaData : Tab MetaGran := []
  lends : Tab LendEntry := []
  lent : Tab LentPage := []
  t1 : List Nat := []
  digests : List DigestObj := []
  credits : Nat := 4096
  waiting : List (Nat × Nat) := []
  ring : List RTok := []
  pulls : Nat := 0
  lastCore : Nat := 15
  lastFetch : Nat := 15
  entries : List MEntry := []
  reports : List CellReport := []
  sentWords : Nat := 0
  outbox : List CellReport := []
  cores : Tab Core := []
  inc : Nat := 0
  progress : Nat := 0
  units : Tab MUnit := []
  shadow : Tab Shadow := []
  repairs : Nat := 0
  lostEntries : Nat := 0
  repairEvt : Bool := false
  lostEvt : Bool := false
  patrolLap : Bool := false
  patrolPos : Nat := 0
  tenantDuty : Bucket := {}
  placeDuty : Bucket := {}
  sweeps : List Nat := []
  sweeping : Option Nat := none
  writeQ : List Nat := []
  sweepAhead : Tab Nat := []
  banks : Tab (List Elem) := []
  incRows : Tab (List Nat) := []
  incDone : List (Nat × Nat × Nat) := []
  retiredCores : Nat := 0
  engineResets : Nat := 0
  staleDrops : Nat := 0
  deriving DecidableEq, Repr, Inhabited

/-- A partition: its identity, configuration, and everything that its reset clears. `met` holds, by sequence key, the home and
the greatest HOME_EPOCH that a message has carried (R206); `codeAsks` the homes that wait to hear that a coding group's streams are
complete: group, connection, tag (R228); `commitQ` the commit registers whose COMMIT waits for its turn, each with the number of the
next command to be accepted then (R293). `destroying`: PARTITION_DESTROY `resetCmd` waits for the confirmations of releases (R95). -/
structure Partn where
  exists_ : Bool := false
  inReset : Bool := false
  resetAt : Nat := 0
  resetCmd : Option Nat := none
  resetCause : Nat := 0
  creating : Bool := false
  destroying : Bool := false
  mask : Nat := 0
  inc : Nat := 0
  gen : Nat := 0
  layout : Layout := {}
  configGen : Nat := 0
  stageSerial : Nat := 0
  staged : List Staged := []
  calStaged : Tab CalSet := []
  items : Tab (List Nat) := []
  cal : Tab CalSet := []
  commits : Tab CommitReg := []
  commitQ : List (Nat × Nat) := []
  pool : PoolCfg := {}
  stat : PoolStat := {}
  seqs : Tab Seq := []
  eps : Nat := 0
  epsAt : Nat := 0
  recl : List Recl := []
  uidNext : Nat := 1
  orphans : Nat := 0
  tables : Tab TableSlot := []
  lentTables : List (List Byte) := []
  scorers : Tab Scorer := []
  scorerSerials : Tab Nat := []
  gsets : Tab GSet := []
  keys : Tab JobKey := []
  match_ : MatchCfg := {}
  cursors : Tab Cursor := []
  batches : Tab Batch := []
  placeRecs : Tab PlaceRec := []
  spans : Tab SpanSt := []
  deposed : List Deposed := []
  met : Tab (Nat × Nat) := []
  awaits : List Await := []
  codeAsks : List (Nat × Nat × Nat) := []
  jobs : List Job := []
  ops : Tab BankOp := []
  meters : Tab Meter := []
  mtrSel : Nat := 0
  mtrValid : Bool := false
  mtr : List Nat := []
  subs : List Sub := []
  log : List (List Byte) := []
  pools : Tab Pool := []
  poolRings : Tab Ring := []
  regions : Tab Region := []
  emerg : Bool := false
  throttleEvt : Bool := false
  aperture : Nat := 0
  pfAperture : Nat := 0
  sweepAt : Nat := 0
  resets : List Nat := []
  envelope : Option Nat := none
  drawW : Nat := 0
  parity : Tab ParityPage := []
  deriving DecidableEq, Repr, Inhabited

end Sys2Proof.Machine
end

