-- ==== Sys2Proof/Machine/State.lean ====
section
/-! DEFINITION. The state of the node as plain data, what can stop a step, and the state at reset. -/

namespace Sys2Proof.Machine

/-- What the node as a whole is doing (chapters 16, 17, 19). -/
inductive Phase where
  /-- PWR_GOOD is low: the node is off (R504). -/
  | off
  /-- The boot ROM runs after PWR_GOOD or a node reset (R468). -/
  | booting
  /-- Neither slot holds a verified image (R469). -/
  | recovery
  /-- The node serves commands. -/
  | active
  /-- Drizzle is being entered (R414). -/
  | quiescing
  /-- Drizzle (R415). -/
  | drizzle
  /-- Drizzle is being left (R417). -/
  | waking
  /-- A level 4 reset is under way (R441). -/
  | level4
  /-- The node waits in the dump hold before a power cycle, or for one (R442). -/
  | held
  /-- THERMTRIP has latched (R427). -/
  | tripped
  deriving DecidableEq, Repr, Inhabited

/-- A firmware slot in flash (R464, R510): an image's version, whether it verified, its bytes, and the link configuration
record (NODE_ID) when it holds one. -/
structure FwSlot where
  present : Bool := false
  verified : Bool := false
  version : Nat := 0
  body : List Byte := []
  nodeId : Option Nat := none
  lanes : Option (List Nat) := none
  weft : Option (List Nat) := none
  deriving DecidableEq, Repr, Inhabited

/-- Firmware being staged (R464). -/
structure FwStage where
  len : Nat := 0
  bytes : List Byte := []
  deriving DecidableEq, Repr, Inhabited

/-- A control restart under way (R467): its start, whether it activates new firmware and for which command. -/
structure Restart where
  at_ : Nat := 0
  activate : Bool := false
  cmd : Option Nat := none
  engine : Bool := false
  deriving DecidableEq, Repr, Inhabited

/-- Hub, always-on domain and flash; `linkChecked`: the stored link state has been checked since the reset (R350). `nodeIncs` and
`partIncs` are the latest incarnations of other nodes, and of their partitions, by node and by node · 65,536 + partition, that replies
have shown (R281): of a partition with the NODE_INC under which it was seen. -/
structure Node where
  phase : Phase := .off
  time : Nat := 0
  nodeId : Nat := 0
  cellsPresent : Nat := 0
  trayPos : Nat := 0
  nodeInc : Nat := 0
  slots : Tab FwSlot := []
  slotSelect : Nat := 0
  activeSlot : Nat := 0
  fwStage : FwStage := {}
  restart : Option Restart := none
  activating : Bool := false
  restartTimes : List Nat := []
  resetTimes : List Nat := []
  level4At : Nat := 0
  kept : List Nat := []
  engineReset : Bool := false
  resetHeld : Bool := false
  holdUntil : Nat := 0
  pwrcyc : Bool := false
  i3c : Bool := false
  sharedCe : Nat := 0
  sharedUe : Nat := 0
  drizzleCmd : Option Nat := none
  drizzleAt : Nat := 0
  drizzleWake : Nat := 0
  faultN : Bool := false
  refLoss : Bool := false
  nextCmd : Nat := 1
  nextDump : Nat := 1
  nextOp : Nat := 1
  nextTag : Nat := 1
  hubInc : Nat := 0
  ctrlInc : Nat := 0
  bootNonce : Nat := 0
  reportSerial : Nat := 0
  perstHeld : Bool := false
  linkChecked : Bool := false
  nodeIncs : Tab Nat := []
  partIncs : Tab (Nat × Nat) := []
  deriving DecidableEq, Repr, Inhabited

/-- The security module (chapter 15): SEC_NODE_STAT's fields (R401). -/
structure Sec where
  mstate : Nat := 0
  zeroised : Bool := false
  tamperSeen : Bool := false
  selftest : Bool := false
  failedTest : Nat := 0
  spdmVersion : Bool := false
  spdmCaps : Bool := false
  spdmAlgs : Bool := false
  engineInc : Nat := 0
  deriving DecidableEq, Repr, Inhabited

/-- The power manager (chapter 16): causes of the emergency throttle with the time at which each began to clear, the
status bits, package power, temperatures, package budget. -/
structure Pwr where
  causes : Nat := 0
  clearing : Tab Nat := []
  emerg : Bool := false
  warn : Bool := false
  overT : Bool := false
  thermtrip : Bool := false
  pkgW : Nat := 0
  hubTemp : Nat := 0
  budget : Nat := 3000
  nodeCmd : Option Nat := none
  deriving DecidableEq, Repr, Inhabited

/-- A port of the lanes (chapter 13): negotiated state and statistics of XPT_GROUP_STAT (R349), and negotiation in
progress. What the always-on domain keeps (R347): the PHY type's kind (`cable`), the partner's page or block, per lane the equaliser
settings of the last session at its rate (`taps`) and at 25 Gb/s, and which group carries the lanes of a degraded port (R342).
`blockAt` is when the port last sent its block. -/
structure Port where
  st : Nat := 1
  rate : Nat := 0
  fec : Nat := 0
  degraded : Bool := false
  eeeOn : Bool := false
  fastLast : Bool := false
  evt : Bool := false
  partner : Nat := 0
  downs : Nat := 0
  ctrlDrops : Nat := 0
  dropQpn : Nat := 0
  page : Nat := 0
  width4 : Bool := false
  block : List Byte := []
  run : Nat := 0
  since : Nat := 0
  tag : Nat := 0
  coef : Bool := false
  parkAsked : Bool := false
  park : Bool := false
  fast : Bool := false
  fastAt : Option Nat := none
  speed : Nat := 0
  lastBusy : Nat := 0
  cable : Bool := false
  taps : List Nat := []
  taps25 : List Nat := []
  goodGroup : Option Nat := none
  blockAt : Option Nat := none
  deriving DecidableEq, Repr, Inhabited

/-- A unit record of a dump (R456): unit code, RFLAGS, incarnation, data bytes; for an event log, its events. -/
structure DumpRec where
  unit : Nat := 0
  flags : Nat := 0
  inc : Nat := 0
  len : Nat := 0
  log : List (List Byte) := []
  deriving DecidableEq, Repr, Inhabited

/-- A dump held in the dump SRAM (R453 to R457): the fields of its header and its records. -/
structure Dump where
  id : Nat := 0
  level : Nat := 0
  cause : Nat := 0
  part : Nat := 0xFFFF
  flags : Nat := 0
  time : Nat := 0
  recs : List DumpRec := []
  deriving DecidableEq, Repr, Inhabited

/-- A dump being collected (R453, R454): the command that waits for it, and when it began. -/
structure Collect where
  dump : Dump := {}
  cmd : Option Nat := none
  at_ : Nat := 0
  deriving DecidableEq, Repr, Inhabited

/-- Recovery status, dumps and capture (chapter 17). `tripped` is a watchdog trip (level and unit) that a trigger has frozen
before any fence (R458). -/
structure Dbg where
  lastLevel : Nat := 0
  lastCause : Nat := 0
  nodeResets : Nat := 0
  partResets : Nat := 0
  halted : List (Nat × Nat) := []
  recoveryEvt : Bool := false
  dumps : List Dump := []
  collect : Option Collect := none
  frozen : Bool := false
  frozenAt : Nat := 0
  frozenUs : Nat := 0
  source : Nat := 0
  driving : Bool := false
  dumpsLost : Nat := 0
  rxDrops : Nat := 0
  object : Nat := 0
  offset : Nat := 0
  armTrigger : Nat := 0
  armLevel : Nat := 0
  armCode : Nat := 0
  armDelay : Nat := 0
  fired : Option Nat := none
  tripped : Option (Nat × Nat × Nat) := none
  tapIr : Nat := 1
  tapAddr : Nat := 0
  deriving DecidableEq, Repr, Inhabited

/-- The state of the node. `pending` is the queue of commands that wait, first in first out; `oracle` and `free` supply
free values (log 3); `out` holds what the node has driven outwards, newest first (log 5). -/
structure State where
  pending : List Instr := []
  oracle : List Nat := []
  free : Nat := 0
  out : List Output := []
  node : Node := {}
  sec : Sec := {}
  pwr : Pwr := {}
  ports : Tab Port := []
  neigh : List Neigh := []
  dbg : Dbg := {}
  fns : Tab Fn := []
  parts : Tab Partn := []
  cells : Tab Cell := []
  ctxs : Tab Ctx := []
  cmds : Tab Cmd := []
  conns : Tab Conn := []
  reuse : Tab Nat := []
  raw : List Host.Cell := []
  pmem : Tab Granule := []
  deriving DecidableEq, Repr, Inhabited

/-- Why the machine would stop with a fault. No command of the node stops it: a fault of the node is a status, an event,
a status bit or a pin (INVENTORY, Faults). -/
inductive Fault where
  /-- Raised by nothing; named so that the type has a value. Safe. -/
  | none
  deriving DecidableEq, Repr, Inhabited

/-- Why a command has no meaning in the model. -/
inductive Refusal where
  /-- Raised by Dispatch.lean alone, for a row of the table without a meaning; safe. -/
  | notModelled (mnemonic : String)
  deriving DecidableEq, Repr, Inhabited

/-- The two firmware slots as the model takes them at reset (log 4): slot 0 holds a verified image of version 1. -/
def resetSlots : Tab FwSlot := [(0, { present := true, verified := true, version := 1 }), (1, {})]

/-- The node before PWR_GOOD: every field at the value of its Reset column, or at the one that log 4 names. -/
def State.reset : State := { node := { slots := resetSlots } }

end Sys2Proof.Machine
end

