-- ==== Sys2Proof/Machine/Ops.lean ====
section
/-! DEFINITION. Named operations over the state that every family shares: access by number, free values, outputs, rings
and vectors, events, status replies, metering. -/

namespace Sys2Proof.Machine

/-! ### Access -/

/-- The partition of a number. -/
def part (s : State) (p : Nat) : Partn := tget {} s.parts p
/-- The state with a partition replaced. -/
def setPart (p : Nat) (v : Partn) (s : State) : State := { s with parts := tset s.parts p v }
/-- The state with a partition changed. -/
def modPart (p : Nat) (f : Partn → Partn) (s : State) : State := setPart p (f (part s p)) s
/-- A core of a cell. -/
def coreOf (c : Cell) (k : Nat) : Core := tget {} c.cores k
/-- The cell of a number. -/
def cell (s : State) (c : Nat) : Cell := tget {} s.cells c
/-- The state with a cell replaced. -/
def setCell (c : Nat) (v : Cell) (s : State) : State := { s with cells := tset s.cells c v }
/-- The state with a cell changed. -/
def modCell (c : Nat) (f : Cell → Cell) (s : State) : State := setCell c (f (cell s c)) s
/-- The state with a core changed. -/
def modCore (c k : Nat) (f : Core → Core) (s : State) : State :=
  modCell c (fun v => { v with cores := tset v.cores k (f (coreOf v k)) }) s
/-- The function of a number. -/
def fnOf (s : State) (f : Nat) : Fn := tget {} s.fns f
/-- The state with a function changed. -/
def modFn (f : Nat) (g : Fn → Fn) (s : State) : State := { s with fns := tset s.fns f (g (fnOf s f)) }
/-- A queue pair of a function. -/
def qpOf (s : State) (f q : Nat) : Qp := tget {} (fnOf s f).qps q
/-- The state with a queue pair changed. -/
def modQp (f q : Nat) (g : Qp → Qp) (s : State) : State :=
  modFn f (fun v => { v with qps := tset v.qps q (g (tget {} v.qps q)) }) s
/-- The state with a request context changed, where it exists. -/
def modCtx (i : Nat) (f : Ctx → Ctx) (s : State) : State := { s with ctxs := tmod s.ctxs i f }
/-- The context of a number. -/
def ctxOf (s : State) (i : Nat) : Ctx := tget {} s.ctxs i
/-- The state with an accepted command changed, where it exists. -/
def modCmd (i : Nat) (f : Cmd → Cmd) (s : State) : State := { s with cmds := tmod s.cmds i f }
/-- The state with a connection changed, where it exists. -/
def modConn (i : Nat) (f : Conn → Conn) (s : State) : State := { s with conns := tmod s.conns i f }
/-- The connection of an index. -/
def connOf (s : State) (i : Nat) : Conn := tget {} s.conns i
/-- The state with a port changed. -/
def modPort (g : Nat) (f : Port → Port) (s : State) : State := { s with ports := tset s.ports g (f (tget {} s.ports g)) }
/-- The port of a number. -/
def portOf (s : State) (g : Nat) : Port := tget {} s.ports g

/-- The key of a sequence in its partition's table. -/
def seqKey (job seq : Nat) : Nat := job * 2 ^ 48 + seq
/-- The sequence of a key. -/
def seqOf (s : State) (p key : Nat) : Option Seq := tget? (part s p).seqs key
/-- The state with a sequence replaced. -/
def setSeq (p key : Nat) (q : Seq) (s : State) : State := modPart p (fun v => { v with seqs := tset v.seqs key q }) s
/-- The state with a sequence changed, where it exists. -/
def modSeq (p key : Nat) (f : Seq → Seq) (s : State) : State := modPart p (fun v => { v with seqs := tmod v.seqs key f }) s

/-- The cells that a partition owns, ascending: c_0 … c_(n−1) of R75. -/
def partCells (s : State) (p : Nat) : List Nat := bitList (part s p).mask 24
/-- The tenant partition that owns a cell, 0 when none does (R11). -/
def cellOwner (s : State) (c : Nat) : Nat :=
  ((s.parts.find? (fun e => e.1 != 0 && e.2.exists_ && bitOf e.2.mask c)).map (·.1)).getD 0
/-- Existing tenant partitions. -/
def tenants (s : State) : List Nat := (s.parts.filter (fun e => e.1 != 0 && e.2.exists_)).map (·.1)
/-- A cell is powered with its stack on: not in Cell-off (R411). -/
def cellUp (s : State) (c : Nat) : Bool := (cell s c).pwr.st ≤ 1

/-! ### Free values and outputs -/

/-- A value that the spec leaves free (log 3). -/
def draw (s : State) : Nat × State :=
  match s.oracle with
  | n :: rest => (n, { s with oracle := rest })
  | [] => (Config.freeNat s.free, { s with free := s.free + 1 })

/-- Driving an output. -/
def emit (o : Output) (s : State) : State := { s with out := o :: s.out }
/-- Driving several outputs in order. -/
def emits (l : List Output) (s : State) : State := l.foldl (fun s o => emit o s) s

/-- The node's time in µs (R493). -/
def now (s : State) : Nat := s.node.time
/-- The state with the hub's record changed. -/
def modNode (f : Node → Node) (s : State) : State := { s with node := f s.node }
/-- The state with the capture record changed. -/
def modDbg (f : Dbg → Dbg) (s : State) : State := { s with dbg := f s.dbg }
/-- The state with the security record changed. -/
def modSec (f : Sec → Sec) (s : State) : State := { s with sec := f s.sec }
/-- The state with the power record changed. -/
def modPwr (f : Pwr → Pwr) (s : State) : State := { s with pwr := f s.pwr }

/-! ### Vectors and rings (R482 to R484) -/

/-- Raising an MSI-X vector of a function; in D3hot or with Bus Master Enable clear it stays pending (R472). -/
def raiseMsi (fn vec : Nat) (s : State) : State :=
  if (fnOf s fn).d0 && (fnOf s fn).bme then emit (.msix fn vec) s
  else modFn fn (fun v => { v with pending := if vec ∈ v.pending then v.pending else v.pending ++ [vec] }) s

/-- A vector of R482 that has one number in the PF and another in a VF. -/
def raiseOf (p pfVec vfVec : Nat) (s : State) : State := raiseMsi p (if p = 0 then pfVec else vfVec) s

/-- Posting an event record into a function's event ring (R484): lost when the ring is full or disabled; it waits while the
function posts nothing (R472). -/
def postEventRing (fn : Nat) (rec : List Byte) (s : State) : State :=
  let r := (fnOf s fn).evt
  let size := 2 ^ r.logSize
  if !r.en || (r.tail + 1 + r.waiting.length) % size = r.head then
    modFn fn (fun v => { v with evt := { v.evt with lost := satAdd 0xFFFF v.evt.lost 1 } }) s
  else if !((fnOf s fn).d0 && (fnOf s fn).bme) then modFn fn (fun v => { v with evt := { v.evt with waiting := v.evt.waiting ++ [rec] } }) s
  else
    let s := emit (.eventRecord fn r.tail rec) (modFn fn (fun v => { v with evt := { v.evt with tail := (r.tail + 1) % size } }) s)
    if r.head = r.tail then raiseOf fn 64 12 s else s

/-- The highest vector that a queue pair or pool ring may name (R482). -/
def vecMax (fn : Nat) : Nat := if fn = 0 then 63 else 11

/-- Writing the receive completions of a pool that wait, as far as its ring has room (R369, R484). -/
def drainPoolRing (p pool : Nat) (s : State) : State :=
  go ((tget {} (part s p).poolRings pool).waiting.length) s
where
  /-- At most so many records. -/
  go : Nat → State → State
    | 0, s => s
    | n + 1, s =>
      let r : Ring := tget {} (part s p).poolRings pool
      let size := 2 ^ r.logSize
      match r.waiting with
      | [] => s
      | rec :: rest =>
        if !r.en || (r.tail + 1) % size = r.head || !((fnOf s p).d0 && (fnOf s p).bme) then s
        else
          let s := modPart p (fun v => { v with poolRings := tset v.poolRings pool { r with waiting := rest, tail := (r.tail + 1) % size } }) s
          let s := emit (.poolRecord p pool r.tail rec) s
          go n (if r.head = r.tail && r.vector ≤ vecMax p then raiseMsi p r.vector s else s)

/-! ### Messages on connections -/

/-- Messages are sent in class order, earlier first within a class (R278). -/
def enqueue (q : List MsgOut) (m : MsgOut) : List MsgOut :=
  if m.sent = 0 then
    q.takeWhile (fun x => 0 < x.sent || m.cls ≤ x.cls) ++ m :: q.dropWhile (fun x => 0 < x.sent || m.cls ≤ x.cls)
  else q ++ [m]

/-- Queueing a message on a connection that is READY; false where it is not. -/
def sendMsg (ci : Nat) (m : MsgOut) (s : State) : State :=
  modConn ci (fun c => { c with sendQ := enqueue c.sendQ m }) s

/-- Whether a CONN_ID names a connection (R352). -/
def connIdx (s : State) (id : Nat) : Option Nat :=
  match tget? s.conns (id % 65536) with
  | some c => if c.reuse = id / 65536 then some (id % 65536) else none
  | none => none

/-- The CONN_ID of a connection. -/
def connId (s : State) (i : Nat) : Nat := (connOf s i).reuse * 65536 + i

/-- The connection of a CONN_ID, where it is READY. -/
def connReady (s : State) (id : Nat) : Bool :=
  match connIdx s id with
  | some i => (connOf s i).state = 1
  | none => false

/-! ### Events (R315, R450) -/

/-- The 32-byte event record (R315). -/
def eventRecord (code p time : Nat) (data : List Byte) : List Byte :=
  toLe 2 code ++ toLe 2 p ++ zeros 4 ++ toLe 8 time ++ padTo 16 data

/-- Delivering an event record to the subscriptions of a partition whose mask has its bit (R315). -/
def deliverEvent (code tp : Nat) (rec : List Byte) (s : State) : State :=
  (part s tp).subs.foldl (fun s sub =>
    if bitOf sub.mask code then
      match sub.conn with
      | none => postEventRing tp rec s
      | some id =>
        if connReady s id then
          sendMsg (id % 65536) { bytes := rec, purpose := .event } (emit (.eventMessage id rec) s)
        else s
    else s) s

/-- Posting an event about partition `p` to partition `tp`; it enters the event log of partition `tp` (R456), and fires
an armed trigger of R458 that waits for its code. -/
def postEvent (code p tp : Nat) (data : List Byte) (s : State) : State :=
  let rb := eventRecord code p (now s) data
  let s := modPart tp (fun v => { v with log := (rb :: v.log).take 1024 }) s
  let s := deliverEvent code tp rb s
  if s.dbg.armTrigger = 2 && s.dbg.armCode = code && s.dbg.fired.isNone then
    modDbg (fun d => { d with fired := some (now s + (d.armDelay + 999) / 1000) }) s
  else s

/-! ### Metering (R230) -/

/-- The entry in which a job of a partition is counted: its own, or the overflow entry when the table is full. -/
def meterKey (v : Partn) (job : Nat) : Nat :=
  if thas v.meters job || (v.meters.filter (fun e => e.1 != 0xFFFFFFFF)).length < 4096 then job else 0xFFFFFFFF

/-- Adding to the counters of a composition. -/
def meter (p job : Nat) (f : Meter → Meter) (s : State) : State :=
  modPart p (fun v => { v with meters := tset v.meters (meterKey v job) (f (tget {} v.meters (meterKey v job))) }) s

/-- A saturating 64-bit count. -/
def sat64 (v k : Nat) : Nat := satAdd (2 ^ 64 - 1) v k

/-! ### Status replies (R281, R300) -/

/-- OK. -/
def stOk : Nat := 0
/-- OK_PARTIAL. -/
def stPartial : Nat := 1
/-- RETRY_LATER. -/
def stRetry : Nat := 0x10
/-- BUSY. -/
def stBusy : Nat := 0x11
/-- NOT_FOUND. -/
def stNotFound : Nat := 0x20
/-- CONFLICT. -/
def stConflict : Nat := 0x21
/-- STALE_EPOCH. -/
def stStale : Nat := 0x22
/-- NO_LEASE. -/
def stNoLease : Nat := 0x23
/-- INVALID_PARAM. -/
def stInvalid : Nat := 0x30
/-- UNSUPPORTED. -/
def stUnsupported : Nat := 0x31
/-- REFUSED_PROTECTED. -/
def stProtected : Nat := 0x32
/-- PAGE_POISONED. -/
def stPoisoned : Nat := 0x40
/-- CELL_UNAVAILABLE. -/
def stUnavail : Nat := 0x41
/-- AUTH_FAIL. -/
def stAuth : Nat := 0x50
/-- TIMEOUT. -/
def stTimeout : Nat := 0x60
/-- CANCELLED. -/
def stCancelled : Nat := 0x61
/-- INTERNAL. -/
def stInternal : Nat := 0xFF

/-- A reply with a status and detail alone. -/
def err (status : Nat) (detail : Nat := 0) : Reply := { status := status, detail := detail }
/-- OK with return bytes. -/
def okRet (ret : List Byte) : Reply := { ret := ret }

/-- The 32-byte status reply (R281). -/
def replyBytes (tag partInc nodeInc : Nat) (r : Reply) : List Byte :=
  toLe 4 tag ++ toLe 2 r.status ++ toLe 2 r.detail ++ toLe 4 r.payload.length ++ toLe 2 partInc ++ toLe 2 nodeInc ++
    padTo 16 r.ret

/-- Handing a status reply to its path (R272, R281): into the queue pair's completions, as one SEND on the connection, or
as an MCTP response. -/
def handReply (src : Source) (tag p cls : Nat) (notify discard : Bool) (r : Reply) (s : State) : State :=
  let b := replyBytes tag (part s p).inc s.node.nodeInc r
  match src with
  | .qp f q =>
    if discard then modQp f q (fun v => { v with lost := satAdd 0xFFFF v.lost 1 }) s
    else emit (.reply src b r.payload)
      (modQp f q (fun v => { v with ready := v.ready ++ [{ bytes := b, payload := r.payload, notify := notify }] }) s)
  | .conn id =>
    if discard || !connReady s id then
      match connIdx s id with
      | some i => modConn i (fun c => { c with lostReplies := c.lostReplies + 1 }) s
      | none => s
    else emit (.reply src b r.payload) (sendMsg (id % 65536) { bytes := b ++ r.payload, cls := cls } s)
  | .mctp _ => emit (.reply src b r.payload) s

/-- Completing an accepted command with its one reply (R284). -/
def complete (id : Nat) (r : Reply) (s : State) : State :=
  match tget? s.cmds id with
  | none => s
  | some c => handReply c.src c.tag c.part c.qos c.notify c.discard r { s with cmds := tdel s.cmds id }

end Sys2Proof.Machine
end

