-- ==== Sys2Proof/Machine/Words.lean ====
section
/-! DEFINITION. Words of protected memory: the Hsiao check bits and the poison bit beside each 32-bit data word, what a read
makes of them (R39, R40), and the tweak of a granule (R54). -/

namespace Sys2Proof.Machine

/-- The 7-bit numbers of weight 3: the candidates for the columns of data bits (the text before R40). -/
def weight3 : List Nat :=
  (List.range 128).filter (fun v => ((List.range 7).filter (bitOf v)).length == 3)

/-- Taking `n` distinct elements of a list, the i-th at a place that the implementation fixes. -/
def pickCols (l : List Nat) : Nat → List Nat
  | 0 => []
  | n + 1 =>
    let c := l.getD (Config.hsiaoPick n % max 1 l.length) 0
    c :: pickCols (l.filter (· != c)) n

/-- The columns of the Hsiao code, data bits 0 to 31: distinct, of weight 3 each; which of the 35 stands for which bit the
spec leaves open (log 71). -/
def hsiaoCols : List Nat := pickCols weight3 32

/-- The seven Hsiao check bits of a 32-bit word. -/
def hsiao (w : Nat) : Nat :=
  (List.range 32).foldl (fun a i => if bitOf w i then Nat.xor a (hsiaoCols.getD i 0) else a) 0

/-- A syndrome equals one column of the code: a check column of weight 1, or a data column. -/
def isColumn (syn : Nat) : Bool := (List.range 7).any (fun i => syn == 2 ^ i) || hsiaoCols.contains syn

/-- What a read makes of a word (R40), from its poison bit and syndrome: 0 good, 1 a single-bit error corrected, 2 the
poison bit alone flipped, 3 uncorrectable, 4 known poisoned. -/
def wordOutcome (poison : Bool) (syn : Nat) : Nat :=
  if syn = 0 then (if poison then 2 else 0)
  else if poison && syn == 0x7F then 4
  else if !poison && isColumn syn then 1
  else 3

/-- The syndrome of a stored word and its check byte: bits [6:0] are the Hsiao code, bit [7] the poison bit. -/
def syndrome (data : List Byte) (check : Byte) : Nat := Nat.xor (hsiao (leVal data)) (check.toNat % 128)

/-- The class of a stored word (R40). -/
def wordClass (data : List Byte) (check : Byte) : Nat := wordOutcome (bitOf check.toNat 7) (syndrome data check)

/-- The check byte of a word stored good, and of one stored poisoned (R40): the poison bit set, the seven bits inverted. -/
def checkByte (data : List Byte) (poison : Bool) : Byte :=
  BitVec.ofNat 8 (if poison then 128 + (127 - hsiao (leVal data)) else hsiao (leVal data))

/-- The classes of a granule's sixteen words; the empty list when all are good. -/
def granClasses (data check : List Byte) : List Nat :=
  let cls := (List.range 16).map (fun w => wordClass (slice data (4 * w) 4) (check.getD w 0))
  if cls.all (· == 0) then [] else cls

/-- Classes after words counted as corrected have been written back and uncorrectable ones written poisoned (R41, R43). -/
def mended (cls : List Nat) : List Nat :=
  let l := cls.map (fun x => if x = 1 || x = 2 then 0 else if x = 3 then 4 else x)
  if l.all (· == 0) then [] else l

/-- The tweak of a granule (R54): uid, granule index, object kind, owner generation. -/
def tweakOf (uid idx kind ownerGen : Nat) : Nat :=
  uid % 2 ^ 64 + idx % 2 ^ 16 * 2 ^ 64 + kind % 256 * 2 ^ 80 + ownerGen % 2 ^ 32 * 2 ^ 88

end Sys2Proof.Machine
end

