-- ==== Sys2Proof/Machine/PageMem.lean ====
section
/-! DEFINITION. Page handles, granules of the page region and their tweaks (R32, R54), the record of R62 as bytes, reading
and writing tiles, poison (R40 to R46), committed reads. -/

namespace Sys2Proof.Machine

/-! ### Handles (R60, R61) -/

/-- A page handle. -/
def mkHandle (cell slot cls : Nat) : Nat := cell * 2 ^ 27 + slot * 8 + cls * 2 + 1
/-- CELL of a handle. -/
def hCell (h : Nat) : Nat := bitsOf h 27 5
/-- SLOT of a handle. -/
def hSlot (h : Nat) : Nat := bitsOf h 3 24
/-- CLASS of a handle. -/
def hCls (h : Nat) : Nat := bitsOf h 1 2
/-- The handle is a lend stub. -/
def isStub (h : Nat) : Bool := bitOf h 0 && hCls h == 3
/-- The handle names a page of this node. -/
def isPage (h : Nat) : Bool := bitOf h 0 && hCls h != 3
/-- A block handle. -/
def mkBlock (cell unit : Nat) : Nat := cell * 2 ^ 27 + unit * 2 + 1
/-- Slot units of a class (R58). -/
def slotUnits (cls : Nat) : Nat := 2 ^ cls
/-- Slot bytes of a class. -/
def slotBytes (cls : Nat) : Nat := 8192 * 2 ^ cls

/-- The key of a map position. -/
def posKey (layer kv page : Nat) : Nat := (layer * 64 + kv) * 65536 + page
/-- Layer of a position. -/
def posLayer (k : Nat) : Nat := k / 65536 / 64
/-- KV head of a position. -/
def posKv (k : Nat) : Nat := k / 65536 % 64
/-- Page index of a position. -/
def posPage (k : Nat) : Nat := k % 65536

/-- The page that a handle names; none of a hole and of a lend stub. -/
def pageOf (s : State) (h : Nat) : Option Page := if isPage h then tget? (cell s (hCell h)).pages (hSlot h) else none
/-- The state with the page of a handle changed. -/
def modPage (h : Nat) (f : Page → Page) (s : State) : State :=
  modCell (hCell h) (fun c => { c with pages := tmod c.pages (hSlot h) f }) s
/-- The lend entry that a stub names (R91). -/
def lendOf (s : State) (h : Nat) : Option LendEntry := tget? (cell s (hCell h)).lends (hSlot h)

/-! ### Granules -/

/-- The key of granule `g` of the slot that starts at slot unit `slot` of a cell. -/
def granKey (cell slot g : Nat) : Nat := (cell * 2 ^ 24 + slot) * 128 + g

/-- The key generation of a partition's page keys (R53): the partition key is derived afresh with every PART_GEN (R57). -/
def keyGen (s : State) (p : Nat) : Nat := (part s p).gen
/-- A granule that no object wrote: what it holds decrypts under no tweak (kind 255). -/
def noGran : Granule := { data := zeros 64, kind := 255 }
/-- The page whose slot holds a slot unit of a cell: its first unit and the page. -/
def slotPage (c : Cell) (unit : Nat) : Option (Nat × Page) :=
  c.pages.find? (fun e => decide (e.1 ≤ unit && unit < e.1 + slotUnits e.2.cls))
/-- What the granule at a key holds where the state lists none: zeros of the page in whose slot it lies, as the clearing of a new
page's slot left them (R59); elsewhere nothing that a key of the node decrypts. -/
def emptyGran (s : State) (k : Nat) : Granule :=
  let c := k / 2 ^ 31
  match slotPage (cell s c) (k / 128 % 2 ^ 24) with
  | some (slot, g) => { data := zeros 64, uid := g.r.uid, idx := k - granKey c slot 0, kind := 1, keyGen := keyGen s (cellOwner s c) }
  | none => noGran
/-- The granule stored at a key. -/
def gran (s : State) (k : Nat) : Granule := (tget? s.pmem k).getD (emptyGran s k)
/-- Storing a granule whole (R32); one that an unlisted place holds is not listed. -/
def setGran (k : Nat) (g : Granule) (s : State) : State :=
  { s with pmem := if g = emptyGran s k then tdel s.pmem k else tset s.pmem k g }

/-- The tweak under which a granule was written (R54). -/
def granTweak (g : Granule) : Nat := tweakOf g.uid g.idx g.kind g.ownerGen

/-- 64 bytes that decrypt to nothing meaningful (R57, R262): what a place holds read under a tweak. -/
def scrambledAt (place tweak : Nat) : List Byte := (List.range 64).map (fun i => Config.scrambled (place * 2 ^ 128 + tweak) i)

/-- The plaintext that a reader with a tweak gets (R54, R56, R262): the data under the tweak it was written with, free
bytes under another. -/
def granData (s : State) (k uid idx kind keyGen : Nat) : List Byte :=
  let g := gran s k
  if granTweak g = tweakOf uid idx kind 0 && g.keyGen = keyGen then g.data
  else scrambledAt k (tweakOf uid idx kind 0)

/-- Bytes [off, off + len) of a page's slot under its uid. -/
def pageBytes (s : State) (h uid keyGen off len : Nat) : List Byte :=
  let g0 := off / 64
  let n := (off + len + 63) / 64 - g0
  slice ((List.range n).flatMap (fun i => granData s (granKey (hCell h) (hSlot h) (g0 + i)) uid (g0 + i) 1 keyGen))
    (off - 64 * g0) len

/-- Writing bytes into a page's slot at `off`: each granule is rewritten whole under the page's tweak, its words good. -/
def writeBytes (h uid keyGen off : Nat) (data : List Byte) (s : State) : State :=
  let g0 := off / 64
  let n := (off + data.length + 63) / 64 - g0
  (List.range n).foldl (fun s i =>
    let g := g0 + i
    let k := granKey (hCell h) (hSlot h) g
    let old := granData s k uid g 1 keyGen
    let lo := max off (64 * g)
    let new := overlay old (lo - 64 * g) ((data.drop (lo - off)).take (64 * g + 64 - lo))
    setGran k { data := new, uid := uid, idx := g, kind := 1, keyGen := keyGen } s) s

/-- Copying a slot as ciphertext, check lanes included (R56, R81): a known poisoned word stays so. -/
def copySlot (src dst units : Nat) (s : State) : State :=
  (List.range (128 * units)).foldl (fun s g =>
    setGran (granKey (hCell dst) (hSlot dst) g) (gran s (granKey (hCell src) (hSlot src) g)) s) s

/-- A copy made by the memory controller or the hub (R516): corrected words arrive corrected, uncorrectable and poisoned
ones arrive poisoned. -/
def cleanGran (g : Granule) : Granule :=
  { g with cls := if g.cls.all (fun c => c < 3) then [] else g.cls.map (fun c => if c < 3 then 0 else 4) }

/-- `copySlot` by the memory controller or the hub. -/
def copySlotClean (src dst units : Nat) (s : State) : State :=
  (List.range (128 * units)).foldl (fun s g =>
    setGran (granKey (hCell dst) (hSlot dst) g) (cleanGran (gran s (granKey (hCell src) (hSlot src) g))) s) s

/-- Clearing a slot of a new page: every granule of it holds zero under the page's tweak (R59). -/
def zeroSlot (h units : Nat) (s : State) : State :=
  { s with pmem := s.pmem.filter (fun e =>
      !(granKey (hCell h) (hSlot h) 0 ≤ e.1 && e.1 < granKey (hCell h) (hSlot h) 0 + 128 * units)) }

/-! ### Committed reads (R41, R43, R516) -/

/-- Recording an object in a cell's poison log (R49). -/
def logPoison (c obj : Nat) (s : State) : State :=
  modCell c (fun v => { v with
    poisonLog := (v.poisonLog ++ [(now s, obj)]).drop (v.poisonLog.length - 63), poisonCount := v.poisonCount + 1 }) s

/-- Counting an uncorrectable word discovered in a cell (R41): UE_COUNT, POISON_EVT with its vector and event. -/
def countPoison (c : Nat) (s : State) : State :=
  let p := cellOwner s c
  let was := (cell s c).poisonEvt
  let s := modCell c (fun v => { v with ue := satAdd 0xFFFF v.ue 1, poisonEvt := true }) s
  let s := if was then s else raiseOf p 65 13 s
  postEvent 1 p p (toLe 1 c ++ toLe 2 (cell s c).ue) s

/-- A poison discovery in a cell (R41): counted, and its object logged. -/
def discoverPoison (c obj : Nat) (s : State) : State := countPoison c (logPoison c obj s)

/-- What a committed read makes of the word classes of one granule (R40, R41, R43), `k` its place in the rewrite queue:
corrected words are counted and the granule queued for rewriting, each uncorrectable word is discovered. -/
def meetWords (c k obj : Nat) (cls : List Nat) (s : State) : State :=
  let corrected := (cls.filter (fun x => x = 1 || x = 2)).length
  let s := if corrected = 0 then s else modCell c (fun v => { v with
    ce := satAdd 0xFFFF v.ce corrected
    rewriteQ := if v.rewriteQ.length < 16 && k ∉ v.rewriteQ then v.rewriteQ ++ [k] else v.rewriteQ }) s
  (cls.filter (fun x => x = 3)).foldl (fun s _ => discoverPoison c obj s) s

/-- What a read whose granule is written back at once makes of word classes: corrected words counted, uncorrectable ones discovered
(R41, R43). -/
def scrubWords (c obj : Nat) (cls : List Nat) (s : State) : State :=
  let n := (cls.filter (fun x => x = 1 || x = 2)).length
  (cls.filter (fun x => x = 3)).foldl (fun s _ => discoverPoison c obj s) (modCell c (fun v => { v with ce := satAdd 0xFFFF v.ce n }) s)

/-- Word classes after the uncorrectable ones have been written back poisoned (R41). -/
def poisonedCls (cls : List Nat) : List Nat := cls.map (fun x => if x = 3 then 4 else x)

/-- A committed read of one granule of a page slot. Answers whether it holds poison. -/
def readGran (c k obj : Nat) (s : State) : Bool × State :=
  let g := gran s k
  let s := if g.cls.any (· == 3) then setGran k { g with cls := poisonedCls g.cls } s else s
  (g.cls.any (fun x => 3 ≤ x), meetWords c k obj g.cls s)

/-- The place in the rewrite queue and in the scrub's pass of granule `g` of the metadata region. -/
def metaKey (g : Nat) : Nat := 2 ^ 40 + g
/-- The classes of the words of granule `g` of a cell's metadata region (R40); an unlisted granule is good. -/
def metaClsOf (c : Cell) (g : Nat) : List Nat := tget [] c.metaCls g
/-- Word classes stored for a metadata granule; good granules are not listed. -/
def setMeta (c g : Nat) (cls : List Nat) (s : State) : State :=
  modCell c (fun v => { v with metaCls := if cls.all (· == 0) then tdel v.metaCls g else tset v.metaCls g cls }) s

/-- A committed read of one granule of the metadata region (R41). -/
def readMeta (c g obj : Nat) (s : State) : Bool × State :=
  let cls := metaClsOf (cell s c) g
  let s := if cls.any (· == 3) then setMeta c g (poisonedCls cls) s else s
  (cls.any (fun x => 3 ≤ x), meetWords c (metaKey g) obj cls s)

/-- Setting a page's poisoned flag with PAGE_GEN (R41, R62), if it is not set already. -/
def poisonPage (h : Nat) (s : State) : State :=
  modPage h (fun p => if p.r.poisoned then p else
    { p with r := { p.r with poisoned := true, gen := (p.r.gen + 1) % 2 ^ 32 } }) s

/-- PAGE_GEN after `n` words of the page were written poisoned (R41, R62; log 72). -/
def bumpGen (h n : Nat) (s : State) : State :=
  if n = 0 then s else modPage h (fun p => { p with r := { p.r with gen := (p.r.gen + n) % 2 ^ 32 } }) s

/-- The uncorrectable words of a granule. -/
def badWords (cls : List Nat) : Nat := (cls.filter (fun x => x = 3)).length

/-- The granules of the metadata region that a page's record lies in and that hold a word not good. -/
def recGrans (s : State) (h : Nat) : List Nat :=
  match pageOf s h with
  | none => []
  | some g => ((cell s (hCell h)).metaCls.map (·.1)).filter (fun m => m / 32 == g.recPlace)

/-- A committed read of a page's record: answers whether it holds poison. -/
def readRec (h : Nat) (s : State) : Bool × State :=
  (recGrans s h).foldl (fun (acc : Bool × State) g =>
    let (b, s) := readMeta (hCell h) g h acc.2
    (acc.1 || b, s)) (false, s)

/-- The classes of granule `g` of an object of which the listed words are known poisoned (R40). -/
def wordMarks (ws : List Nat) (g : Nat) : List Nat :=
  if ws.any (fun w => w / 16 == g) then (List.range 16).map (fun w => if 16 * g + w ∈ ws then 4 else 0) else []

/-- Word classes as a copy by the memory controller or the hub writes them (R516): poison travels, all else is good. -/
def carried (cls : List Nat) : List Nat := cls.map (fun c => if c < 3 then 0 else 4)

/-- A page's record as a copy carries it: the poisoned words of the source's are poisoned in the copy's (R41, R516). -/
def carryRec (src dst : Nat) (s : State) : State :=
  match pageOf s src, pageOf s dst with
  | some a, some b => (recGrans s src).foldl (fun s g =>
      setMeta (hCell dst) (32 * b.recPlace + (g - 32 * a.recPlace)) (carried (metaClsOf (cell s (hCell src)) g)) s) s
  | _, _ => s

/-- The words of a page's record that are poisoned, numbered from its start. -/
def recPoison (s : State) (h : Nat) : List Nat :=
  match pageOf s h with
  | none => []
  | some a => (recGrans s h).flatMap (fun g =>
      (List.range 16).filterMap (fun w => if 3 ≤ (metaClsOf (cell s (hCell h)) g).getD w 0 then some (16 * (g - 32 * a.recPlace) + w) else none))

/-- Words of a page's record written poisoned. -/
def poisonRec (h : Nat) (ws : List Nat) (s : State) : State :=
  match pageOf s h with
  | none => s
  | some a => (ws.map (· / 16)).dedup.foldl (fun s g =>
      setMeta (hCell h) (32 * a.recPlace + g) (wordMarks ws g) s) s

/-- A committed read of the given granules of a page's slot, and of its record, which every fetch reads first (R41, R119):
answers whether any holds poison, and then the page is flagged (R516). -/
def commitRead (h : Nat) (grans : List Nat) (s : State) : Bool × State :=
  let key (g : Nat) : Nat := granKey (hCell h) (hSlot h) g
  let n := sumBy grans (fun g => badWords (gran s (key g)).cls) +
    sumBy (recGrans s h) (fun g => badWords (metaClsOf (cell s (hCell h)) g))
  let (bad, s) := readRec h s
  let (bad, s) := grans.foldl (fun (acc : Bool × State) g =>
    let (b, s) := readGran (hCell h) (key g) h acc.2
    (acc.1 || b, s)) (bad, s)
  let s := bumpGen h n s
  (bad, if bad then poisonPage h s else s)

/-- The lent page of a handle. -/
def lentOf (s : State) (h : Nat) : Option LentPage := tget? (cell s (hCell h)).lent (hSlot h)

/-- The lend key of a lent page is the one in use: derived from the job secret that the partition holds now and its
generation now (R53, R383). Under another its granules decrypt to nothing meaningful. -/
def lendKeyHeld (s : State) (p : Nat) (x : LentPage) : Bool :=
  x.borrowGen == (part s p).gen && ((tget? (part s p).keys x.job).elim false (fun k => k.secret == x.secret))

/-- The plaintext of granule `g` of a lent page's tiles (R54 kind 6, R383): under another lend key, or another tweak, nothing
meaningful. -/
def lentData (s : State) (p h : Nat) (x : LentPage) (g : Nat) : List Byte :=
  let y := tget noGran x.grans g
  let t := tweakOf x.r.uid g 6 x.ownerGen
  if lendKeyHeld s p x && granTweak y == t then y.data else scrambledAt (2 ^ 62 + h) t

/-- What the poison log records of a lent page: its handle in the lend region. -/
def lentObj (h : Nat) : Nat := 2 ^ 40 + h

/-- The places in the rewrite queue of a granule of a lent page's tiles, and of one of its record. -/
def lentKey (slot g : Nat) : Nat := 2 ^ 41 + slot * 512 + g
/-- The place in the rewrite queue of granule `g` of a lent page's record. -/
def lentRecKey (slot g : Nat) : Nat := 2 ^ 43 + slot * 32 + g

/-- A committed read of the given granules of a lent page, and of its record (R41, R516): answers whether any holds poison, and then
the page is flagged. -/
def readLent (h : Nat) (grans : List Nat) (s : State) : Bool × State :=
  match lentOf s h with
  | none => (true, s)
  | some x =>
    let g (i : Nat) : Granule := tget noGran x.grans i
    let bad := x.recCls.any (fun e => e.2.any (fun w => 3 ≤ w)) || grans.any (fun i => (g i).cls.any (fun w => 3 ≤ w))
    let n := sumBy x.recCls (fun e => badWords e.2) + sumBy grans (fun i => badWords (g i).cls)
    let s := x.recCls.foldl (fun s e => meetWords (hCell h) (lentRecKey (hSlot h) e.1) (lentObj h) e.2 s) s
    let s := grans.foldl (fun s i => meetWords (hCell h) (lentKey (hSlot h) i) (lentObj h) (g i).cls s) s
    (bad, modCell (hCell h) (fun c => { c with lent := tmod c.lent (hSlot h) (fun x => { x with
      grans := grans.foldl (fun t i => if (g i).cls.any (· == 3) then tset t i { g i with cls := poisonedCls (g i).cls } else t) x.grans
      recCls := x.recCls.map (fun e => (e.1, poisonedCls e.2))
      r := { x.r with gen := (x.r.gen + n + b2n (bad && !x.r.poisoned)) % 2 ^ 32, poisoned := x.r.poisoned || bad } }) }) s)

/-! ### Records and tiles -/

/-- FLAGS of R62. -/
def recFlags (r : PRec) : Nat :=
  b2n r.shared + 2 * b2n r.poisoned + 4 * b2n r.pinned + 8 * b2n r.lent + 16 * b2n (r.tokens == 64) + 32 * b2n r.digestValid

/-- The sparse array's first `n` entries, `w` bytes each. -/
def arrBytes (t : Tab Nat) (n w : Nat) : List Byte := (List.range n).flatMap (fun i => toLe w (tget 0 t i))

/-- The 2 KiB record of R62. At d = 256 an FP8 page's V block scales lie from 0x280, in place of ZERO and K_SUM. -/
def recBytes (r : PRec) : List Byte :=
  toLe 1 r.format ++ toLe 1 r.dim ++ toLe 1 r.scaling ++ toLe 1 r.kComp ++ toLe 1 r.vComp ++ toLe 1 r.table ++
  toLe 2 (recFlags r) ++ toLe 8 r.uid ++ toLe 4 r.gen ++ toLe 2 r.epoch ++ toLe 1 r.tokens ++ zeros 1 ++
  toLe 4 r.job ++ toLe 6 r.seq ++ toLe 2 r.layer ++ toLe 1 r.kvHead ++ zeros 1 ++ toLe 2 r.pageIndex ++
  toLe 2 r.escK ++ toLe 2 r.escV ++ toLe 2 r.digScale ++ toLe 1 r.digZero ++ zeros 17 ++ toLe 64 r.escMap ++
  arrBytes r.scale 256 2 ++
  (if r.dim = 2 then (List.range 256).flatMap (fun i => toLe 2 (tget 0 r.scale (256 + i)))
   else arrBytes r.zero 256 1 ++ arrBytes r.kSum 128 2) ++
  arrBytes r.mean 256 1 ++ arrBytes r.dmin 256 1 ++ arrBytes r.dmax 256 1 ++ zeros 128

/-- The sparse array that bytes hold. -/
def arrOf (b : List Byte) (off n w : Nat) : Tab Nat :=
  ((List.range n).map (fun i => (i, leAt b (off + w * i) w))).filter (fun e => e.2 != 0)

/-- The record that 2 KiB of bytes hold (R62). -/
def recOf (b : List Byte) : PRec :=
  { format := u8 b 0, dim := u8 b 1, scaling := u8 b 2, kComp := u8 b 3, vComp := u8 b 4, table := u8 b 5
    shared := bitOf (u16 b 6) 0, poisoned := bitOf (u16 b 6) 1, pinned := bitOf (u16 b 6) 2, lent := bitOf (u16 b 6) 3
    digestValid := bitOf (u16 b 6) 5
    uid := u64 b 8, gen := u32 b 0x10, epoch := u16 b 0x14, tokens := u8 b 0x16, job := u32 b 0x18, seq := u48 b 0x1C
    layer := u16 b 0x22, kvHead := u8 b 0x24, pageIndex := u16 b 0x26, escK := u16 b 0x28, escV := u16 b 0x2A
    digScale := u16 b 0x2C, digZero := u8 b 0x2E, escMap := leAt b 0x40 64
    scale := arrOf b 0x80 256 2 ++ (if u8 b 1 = 2 then (arrOf b 0x280 256 2).map (fun e => (e.1 + 256, e.2)) else [])
    zero := if u8 b 1 = 2 then [] else arrOf b 0x280 256 1
    kSum := if u8 b 1 = 2 then [] else arrOf b 0x380 128 2
    mean := arrOf b 0x480 256 1, dmin := arrOf b 0x580 256 1, dmax := arrOf b 0x680 256 1 }

/-- The escape bit of block g of a tile (R62): 0 K, 1 V. -/
def escBit (r : PRec) (v : Bool) (g : Nat) : Bool := bitOf r.escMap (g + if v then 256 else 0)

/-- SCALE entry of block g of a tile (R62, R115). -/
def scaleIdx (r : PRec) (v : Bool) (g : Nat) : Nat := if v then dimOf r.dim + g else g

/-- Scales and zero points of the 64 elements of block g: the group's under dynamic scaling, the channels' under static.
DESIGN CHOICE: an INT4 page takes z = z_s + 8 also where the calibration's z_s lies outside -8 to 7 (log 80). -/
def blockParams (r : PRec) (v : Bool) (g : Nat) : List Rat × List Int :=
  let d := dimOf r.dim
  if !isInt r.format then ([], [])
  else if r.scaling = 2 then
    let base := (if v then d else 0) + 64 * (g % (d / 64))
    ((List.range 64).map (fun i => fVal fFP16 (tget 0 r.scale (base + i))),
     (List.range 64).map (fun i => zeroPoint r.format (tget 0 r.zero (base + i))))
  else
    let e := scaleIdx r v g
    (List.replicate 64 (fVal fFP16 (tget 0 r.scale e)), List.replicate 64 (zeroPoint r.format (tget 0 r.zero e)))

/-- Tile mode of a record. -/
def tileComp (r : PRec) (v : Bool) : Nat := if v then r.vComp else r.kComp

/-- Block g of a tile, decoded from the tile's bytes (R117). -/
def tileBlock (r : PRec) (dt : DTable) (v : Bool) (tile : List Byte) (g : Nat) : Block :=
  let (off, len) := blockPlace r.format (tileComp r v) (escBit r v) g
  decBlock r.format (tileComp r v) (escBit r v g) dt (tget 0 r.scale (scaleIdx r v g)) (blockParams r v g).2
    (slice tile off len)

/-- The decoded values of the vector of token slot t of a tile. -/
def tokenVals (r : PRec) (dt : DTable) (v : Bool) (tile : List Byte) (t : Nat) : List Rat :=
  let nb := dimOf r.dim / 64
  (List.range nb).flatMap (fun j =>
    let g := t * nb + j
    blockVals r.format (blockParams r v g).1 (blockParams r v g).2 (tileBlock r dt v tile g))

/-- Bytes of one tile of a class. -/
def tileLen (cls : Nat) : Nat := slotBytes cls / 2

/-- The granules that a fetch of a page reads for a walker of a length (R119): both tiles whole when uncompressed, else
the packing granules and escaped blocks of the groups that hold slots below the length. -/
def fetchGrans (r : PRec) (cls n : Nat) : List Nat :=
  let one (v : Bool) : List Nat :=
    let base := if v then tileLen cls / 64 else 0
    if tileComp r v = 0 then (List.range (tileLen cls / 64)).map (· + base)
    else
      let nb := dimOf r.dim / 64
      let G := packGroup r.format (tileComp r v)
      let top := ceilDiv (n * nb) G * G
      ((List.range top).flatMap (fun g =>
        let (off, len) := blockPlace r.format (tileComp r v) (escBit r v) g
        (List.range (ceilDiv len 64)).map (fun i => base + off / 64 + i))).dedup
  one false ++ one true

/-- The contents of a decode table slot (R122). -/
def slotTable (s : State) (p id : Nat) : DTable := dtableOf (tget {} (part s p).tables id).bytes

end Sys2Proof.Machine
end

