-- ==== Sys2Proof/Machine/Pool.lean ====
section
/-! DEFINITION. The pool, allocation, reference counts, the reclamation list and edits of a sequence's map (R70 to R88). -/

namespace Sys2Proof.Machine

/-- The active settings of a configuration item, or its defaults. -/
def itemVals (s : State) (p item : Nat) (dflt : List Nat) : List Nat := tget dflt (part s p).items item
/-- One setting of an item. -/
def setting (s : State) (p item i : Nat) (dflt : List Nat) : Nat := (itemVals s p item dflt).getD i 0
/-- One setting of an item as a command took it at its acceptance (R294). -/
def heldSetting (c : Cmd) (item i : Nat) (dflt : List Nat) : Nat := (tget dflt c.items item).getD i 0

/-- The defaults of FABRIC (R213): MEMBER_WAIT, LEASE_TIME, RENEW_PERIOD, LEASE_GUARD, GRACE in µs, SPAN_WARN in pages. -/
def fabricDflt : List Nat := [1000, 2000000, 500000, 50000, 1000000, 64]

/-! ### Level (R82 text, R87, R522) -/

/-- Cells of the partition whose stacks hold pool: those not in Cell-off. -/
def poolCells (s : State) (p : Nat) : List Nat := (partCells s p).filter (cellUp s)
/-- Slot units of one cell. -/
def cellUnits (s : State) (p : Nat) : Nat := (part s p).layout.pageMib * 128
/-- Record places of one cell. -/
def cellPlaces (s : State) (p : Nat) : Nat := (part s p).layout.metaMib * 512
/-- Slot units that pages take in a cell. -/
def usedUnits (c : Cell) : Nat := sumBy c.pages (fun e => slotUnits e.2.cls)
/-- Record places in use in a cell. -/
def usedPlaces (c : Cell) : Nat := sumBy c.places (·.2)
/-- Free slot units of a partition, less retired slots (R46). -/
def freeUnits (s : State) (p : Nat) : Nat :=
  sumBy (poolCells s p) (fun c => cellUnits s p - (cell s c).retired.length - usedUnits (cell s c))
/-- The pool level in per mille, with `extraU` units and `extraP` places counted free besides (R86's projected level). The
level is floored to whole per mille, in the hint and in every comparison alike: a DESIGN CHOICE (log 73). -/
def levelWith (s : State) (p extraU extraP : Nat) : Nat :=
  let cs := poolCells s p
  let tu := sumBy cs (fun c => cellUnits s p - (cell s c).retired.length)
  let tp := sumBy cs (fun _ => cellPlaces s p)
  let fu := freeUnits s p + extraU
  let fp := sumBy cs (fun c => cellPlaces s p - usedPlaces (cell s c)) + extraP
  if tu = 0 || tp = 0 then 1000 else min (fu * 1000 / tu) (fp * 1000 / tp)
/-- The pool level (R82 text), in whole per mille (log 73). -/
def poolLevel (s : State) (p : Nat) : Nat := levelWith s p 0 0

/-- The backoff hint of R87 under settings of the pool. -/
def backoff (c : PoolCfg) (s : State) (p : Nat) : Nat :=
  let lv := poolLevel s p
  if lv < c.hardFloor then 100
  else if lv < c.lowWm then min 100 (10 + 90 * (c.lowWm - lv) / (c.lowWm - c.hardFloor))
  else 10
/-- RETRY_LATER with the hint of R87, under the pool settings that a command took at its acceptance (R294). -/
def retryNow (s : State) (c : Cmd) : Reply := err stRetry (backoff c.pool s c.part)
/-- The pool level lies below the HARD_FLOOR that a command took at its acceptance (R87, R294). -/
def belowFloor (s : State) (c : Cmd) : Bool := decide (poolLevel s c.part < c.pool.hardFloor)

/-! ### Allocation (R75 to R77, R81) -/

/-- The list rotated to start at index i. -/
def rotate (l : List Nat) (i : Nat) : List Nat := l.drop (i % max 1 l.length) ++ l.take (i % max 1 l.length)

/-- Cells in which page k of (layer, KV head) is sought, in order (R75, R76, R77): those in Cell-off are skipped. -/
def pageCells (s : State) (p : Nat) (q : Seq) (layer kv page : Nat) : List Nat :=
  (rotate (partCells s p) (if q.placement = 1 then q.hash + layer + kv else page + q.hash)).filter (cellUp s)
/-- Cells in which a block is sought: the root, a layer block, or a map block by its key (R75, R77). -/
def blockCells (s : State) (p : Nat) (q : Seq) (key : Nat) : List Nat :=
  let i := if key = 0 then q.hash else if key < 1024 then q.hash + (key - 1)
    else q.hash + (key - 1024) / 64 / 64 + (key - 1024) / 64 % 64 + (key - 1024) % 64
  (rotate (partCells s p) i).filter (cellUp s)

/-- Whether slot units [a, a + n) of a cell meet a page or a retired slot. -/
def slotTaken (c : Cell) (a n : Nat) : Bool :=
  c.pages.any (fun e => decide (e.1 < a + n && a < e.1 + slotUnits e.2.cls)) ||
  c.retired.any (fun r => decide (a ≤ r && r < a + n))
/-- Whether record places [a, a + n) of a cell are in use. -/
def placeTaken (c : Cell) (a n : Nat) : Bool := c.places.any (fun e => decide (e.1 < a + n && a < e.1 + e.2))

/-- A free slot of a class in a cell, of a bank colour if one is asked; which free one is the allocator's choice. -/
def freeSlot (s : State) (p c cls : Nat) (colour : Option Nat) (choice : Nat) : Option Nat :=
  let u := slotUnits cls
  let fuel := usedUnits (cell s c) + (cell s c).retired.length + 1
  match colour with
  | none =>
    let n := cellUnits s p / u
    (findFree (fun k => slotTaken (cell s c) (k * u) u) n fuel (choice % max 1 n)).map (· * u)
  | some col =>
    let n := cellUnits s p / 32
    (findFree (fun k => slotTaken (cell s c) (k * 32 + col) u) n fuel (choice % max 1 n)).map (· * 32 + col)

/-- Free record places in a cell: one for a page's record, 2·u for a block of u units. -/
def freePlace (s : State) (p c n choice : Nat) : Option Nat :=
  let fuel := usedPlaces (cell s c) + n * ((cell s c).places.length + 1) + 1
  let m := cellPlaces s p / (if n = 1 then 1 else 2)
  let w := if n = 1 then 1 else 2
  if m * w < n then none else
  (findFree (fun k => placeTaken (cell s c) (k * w) n || decide (m * w < k * w + n)) m fuel (choice % max 1 m)).map (· * w)

/-- A fresh uid of the partition (R55). -/
def newUid (p n : Nat) (s : State) : Nat × State :=
  (s.node.nodeId * 2 ^ 52 + (part s p).uidNext, modPart p (fun v => { v with uidNext := v.uidNext + n }) s)

/-- Placing a page in the first cell of the list with a free slot and record; its handle. -/
def allocPage (p : Nat) (cells : List Nat) (cls : Nat) (colour : Option Nat) (s : State) : Option (Nat × State) :=
  let (d1, s1) := draw s
  let (d2, s1) := draw s1
  match cells with
  | [] => none
  | c :: rest =>
    match freeSlot s p c cls colour d1, freePlace s p c 1 d2 with
    | some sl, some pl =>
      some (mkHandle c sl cls, modCell c (fun v => { v with
        pages := tset v.pages sl { cls := cls, recPlace := pl }, places := tset v.places pl 1 }) s1)
    | _, _ => allocPage p rest cls colour s

/-- Placing a block of u units in the first cell of the list with the places; its block handle. -/
def allocBlock (p : Nat) (cells : List Nat) (u : Nat) (s : State) : Option (Blk × State) :=
  match cells with
  | [] => none
  | c :: rest =>
    let (d, s1) := draw s
    match freePlace s p c (2 * u) d with
    | some pl =>
      let s1 := modCell c (fun v => { v with places := tset v.places pl (2 * u) }) s1
      let (uid, s1) := newUid p 1 s1
      some ({ handle := mkBlock c (pl / 2), uid := uid, units := u }, s1)
    | none => allocBlock p rest u s

/-! ### References and the reclamation list (R72, R74, R82, R124) -/

/-- The state with a decode table slot changed. -/
def modTable (p id : Nat) (f : TableSlot → TableSlot) (s : State) : State :=
  modPart p (fun v => { v with tables := tset v.tables id (f (tget {} v.tables id)) }) s
/-- Dropping a reference to a decode table slot (R123, R124); the order in which counts reach zero is kept. -/
def dropTable (p id : Nat) (s : State) : State :=
  modTable p id (fun t => { t with refs := t.refs - 1, zeroAt := if t.refs ≤ 1 then s.node.nextTag else t.zeroAt })
    { s with node := { s.node with nextTag := s.node.nextTag + 1 } }
/-- Taking a reference to a decode table slot. -/
def takeTable (p id : Nat) (s : State) : State := modTable p id (fun t => { t with refs := t.refs + 1 }) s

/-- Dropping a T1 copy (R88). -/
def dropT1 (h : Nat) (s : State) : State :=
  modCell (hCell h) (fun c => { c with t1 := c.t1.filter (· != h) }) s

/-- What is kept by granule of the metadata region, without `n` record places from `pl`: what is written there next is written whole
(R32). -/
def clearMeta {α : Type} (t : Tab α) (pl n : Nat) : Tab α := t.filter (fun e => !(32 * pl ≤ e.1 && e.1 < 32 * (pl + n)))

/-- Freeing a page: its slot, record place, T1 copy and table reference. A slot that held a poisoned page is rewritten
first and read back; whether a granule then reads back uncorrectable is a free value, and such a slot is retired (R46,
log 10). -/
def freePage (p h : Nat) (s : State) : State :=
  match pageOf s h with
  | none => s
  | some pg =>
    let u := slotUnits pg.cls
    let s := if bitOf pg.r.table 7 then dropTable p (pg.r.table % 4) s else s
    let s := dropT1 h s
    let s := if pg.r.poisoned then
        let (d, s) := draw (zeroSlot h u s)
        if d % 2 = 1 then modCell (hCell h) (fun c => { c with
          retired := c.retired ++ (List.range u).map (· + hSlot h), retiredSlots := satAdd 0xFFFF c.retiredSlots 1 }) s
        else s
      else s
    modCell (hCell h) (fun c => { c with
      pages := tdel c.pages (hSlot h), places := tdel c.places pg.recPlace, metaCls := clearMeta c.metaCls pg.recPlace 1
      metaData := clearMeta c.metaData pg.recPlace 1 }) s

/-- Freeing a block's places. -/
def freeBlock (h : Nat) (s : State) : State :=
  modCell (hCell h) (fun c => { c with
    places := tdel c.places (2 * bitsOf h 1 26)
    metaCls := clearMeta c.metaCls (2 * bitsOf h 1 26) (tget 0 c.places (2 * bitsOf h 1 26))
    metaData := clearMeta c.metaData (2 * bitsOf h 1 26) (tget 0 c.places (2 * bitsOf h 1 26)) }) s

/-- Putting an item on the reclamation list with the ε of its root swap (R72). -/
def retire (p : Nat) (page : Bool) (h units : Nat) (s : State) : State :=
  modPart p (fun v => { v with recl := v.recl ++ [{ eps := v.eps, page := page, handle := h, units := units }] }) s

/-- Dropping one reference to a page; at zero the page is retired (R82). -/
def dropRef (p h : Nat) (s : State) : State :=
  match pageOf s h with
  | none => s
  | some pg =>
    let s := modPage h (fun g => { g with refs := g.refs - 1 }) s
    if pg.refs ≤ 1 then retire p true h 1 s else s

/-- Freeing what the reclamation list holds, where every active walker of the partition recorded a greater ε (R72): the
requests that walk a map, and each PAGE_LEND under way. -/
def reclaim (p : Nat) (s : State) : State :=
  let eps := (s.ctxs.filter (fun e => e.2.part = p && e.2.walker)).map (fun e => e.2.eps) ++
    ((part s p).jobs.filter (fun j => j.kind == 0)).map (·.eps)
  let free (r : Recl) : Bool := eps.all (fun w => decide (r.eps < w)) &&
    (!r.page || ((pageOf s r.handle).elim true (fun g => g.refs == 0)))
  let list := (part s p).recl
  let s := modPart p (fun v => { v with recl := list.filter (fun r => !free r) }) s
  (list.filter free).foldl (fun s r => if r.page then freePage p r.handle s else freeBlock r.handle s) s

/-- The largest reclamation list (R74). -/
def reclMax : Nat := 1048576

/-! ### Blocks and edits (R70, R71) -/

/-- The key of the map block of a position. -/
def mapBlockKey (pos : Nat) : Nat := 1024 + (posLayer pos * 64 + posKv pos) * 64 + posPage pos / 1024
/-- The units of the block of a key. -/
def blockUnits (q : Seq) (key : Nat) : Nat := if 1 ≤ key && key < 1024 then ceilDiv q.kvHeads 16 else 1
/-- Whether a block stays: the root always, a layer block or a map block while a handle stands below it (R73). -/
def blockUsed (q : Seq) (key : Nat) : Bool :=
  key == 0 || q.map.any (fun e => if key < 1024 then 1 + posLayer e.1 == key else mapBlockKey e.1 == key)

/-- Allocating the listed blocks afresh; none where one has no room. -/
def allocBlocks (p : Nat) (q : Seq) (keys : List Nat) (s : State) : Option (Tab Blk × State) :=
  match keys with
  | [] => some (q.blocks, s)
  | k :: ks =>
    match allocBlock p (blockCells s p q k) (blockUnits q k) s with
    | none => none
    | some (b, s) =>
      match allocBlocks p q ks s with
      | none => none
      | some (t, s) => some (tset t k b, s)

/-- The blocks that an extension needs and that are holes yet: filled in place (R70). -/
def extendBlocks (p : Nat) (q : Seq) (positions : List Nat) (s : State) : Option (Tab Blk × State) :=
  let need := (positions.flatMap (fun k => [1 + posLayer k, mapBlockKey k])).dedup.filter (fun k => !thas q.blocks k)
  allocBlocks p q need s

/-- Whether an edit that retires so many items would overflow the reclamation list (R74). -/
def reclFull (s : State) (p n : Nat) : Bool := decide (reclMax < (part s p).recl.length + n)

/-- What an edit of these positions retires that drops the handles `gone`: its blocks, and the pages whose last reference goes (R71, R82). -/
def editItems (s : State) (q : Seq) (changed gone : List Nat) : Nat :=
  ((0 :: changed.flatMap (fun k => [1 + posLayer k, mapBlockKey k])).dedup.filter (fun k => thas q.blocks k)).length +
    (gone.filter (fun h => (pageOf s h).elim false (fun g => decide (g.refs ≤ 1)))).length

/-! ### Pins (R89, R518, R519) -/

/-- T1 bytes that a page's copy takes (R88): its slot and 2 KiB. -/
def t1Size (cls : Nat) : Nat := slotBytes cls + 2048
/-- T1 bytes in use in a cell. -/
def t1Used (c : Cell) : Nat := sumBy c.t1 (fun h => t1Size (hCls h))

/-- Dropping least recently used unpinned copies until so many bytes fit in the 8 MiB of T1 (R88). -/
def t1MakeRoom (c : Cell) (need : Nat) : Cell :=
  go c c.t1.reverse
where
  /-- Least recently used first. -/
  go (c : Cell) : List Nat → Cell
    | [] => c
    | h :: rest =>
      if t1Used c + need ≤ 8 * 2 ^ 20 then c
      else if ((tget? c.pages (hSlot h)).elim 0 (·.t1Holds)) = 0 then go { c with t1 := c.t1.filter (· != h) } rest
      else go c rest

/-- Taking a page's copy into T1, most recent first. -/
def t1Take (h : Nat) (s : State) : State :=
  modCell (hCell h) (fun c =>
    if h ∈ c.t1 then { c with t1 := h :: c.t1.filter (· != h) }
    else
      let c := t1MakeRoom c (t1Size (hCls h))
      if t1Used c + t1Size (hCls h) ≤ 8 * 2 ^ 20 then { c with t1 := h :: c.t1 } else c) s

/-- Reversing one pin on one page: its pin count falls, and its T1 hold where the pin has the T1 bit (R518). -/
def unpinPage (h : Nat) (t1 : Bool) (s : State) : State :=
  modPage h (fun g =>
    { g with pins := g.pins - 1, t1Holds := if t1 then g.t1Holds - 1 else g.t1Holds
             r := { g.r with pinned := decide (1 < g.pins)
                             gen := if g.pins = 1 then (g.r.gen + 1) % 2 ^ 32 else g.r.gen } }) s

/-- Releasing every pin that the sequence holds on a position (R73, R519). -/
def releasePos (p key pos : Nat) (s : State) : State :=
  match seqOf s p key with
  | none => s
  | some q =>
    let h := tget 0 q.map pos
    let s := (q.pins.filter (fun n => pos ∈ n.pos)).foldl (fun s n => unpinPage h n.t1 s) s
    let pins := (q.pins.map (fun n => { n with pos := n.pos.filter (· != pos) }))
    let ended := (pins.filter (fun n => n.pos.isEmpty)).length
    modSeq p key (fun q => { q with pins := pins.filter (fun n => !n.pos.isEmpty), pinCount := q.pinCount - ended }) s

/-! ### Ages and committed use (R84, R85, R88, R177) -/

/-- SEQ_AGE (R84): the least age of a sequence's pages; its own age while it has none. -/
def leastAge (s : State) (q : Seq) : Nat :=
  let ages := q.map.filterMap (fun e => if isStub e.2 then (lendOf s e.2).map (·.age) else (pageOf s e.2).map (·.age))
  match ages with
  | [] => q.age
  | a :: as => as.foldl min a

/-- Committed use of a page by a sequence (R84): SEQ_AGE is the least age, so it falls with the page's. -/
def commitUse (p key h : Nat) (s : State) : State :=
  modSeq p key (fun q => { q with age := 0 }) (modPage h (fun g => { g with age := 0 }) s)

/-- A committed read is counted within the sweep period (R84). -/
def countRead (h : Nat) (s : State) : State := modPage h (fun g => { g with reads := g.reads + 1 }) s

/-- The next committed read of a page brings its reads to T1_PROMOTE: after it the page is copied into T1 (R88). -/
def promotes (s : State) (p h : Nat) : Bool :=
  let n := (part s p).pool.t1Promote
  n != 0 && (pageOf s h).elim false (fun g => g.reads + 1 == n)

end Sys2Proof.Machine
end

