-- ==== Sys2Proof/Machine/Ingest.lean ====
section
/-! DEFINITION. The ingest quantiser: encoding tokens into pages, comparing them with what stands (R215), digests (R154,
R155), scale epochs (R104, R105). -/

namespace Sys2Proof.Machine

/-- One block of a token as the quantiser makes it: codes before compression, the FP16 scale and ZERO byte of its group,
its encoding, and the elements that the clamp changed. -/
structure TokBlock where
  scale : Nat := 0
  zero : Nat := 0
  enc : Encoded := {}
  clips : List Nat := []
  deriving DecidableEq, Repr, Inhabited

/-- The 64 incoming codes of one block turned into base-format codes with their scale and zero point (R97 to R101). -/
def baseCodes (r : PRec) (v : Bool) (g inFmt : Nat) (codes : List Nat) : List Nat × Nat × Nat × List Nat :=
  let f := ffmtOf inFmt
  let vals := codes.map (fVal f)
  if !isInt r.format then
    (if inFmt = r.format then codes
     else codes.map (fun c => fRound (ffmtOf r.format) .near true (fNeg f c) (fVal f c)), 0, 0, [])
  else if r.scaling = 2 then
    let (ss, zs) := blockParams r v g
    let tr := (vals.zip (ss.zip zs)).zipIdx
    (tr.map (fun e => quantise r.format e.1.1 e.1.2.1 e.1.2.2), 0, 0,
     (tr.filter (fun e => clipped r.format e.1.1 e.1.2.1 e.1.2.2)).map (·.2))
  else
    let (s, z) := rangeRule r.format fFP16 vals
    (vals.map (fun x => quantise r.format x (fVal fFP16 s) z), s, zeroByte r.format z, [])

/-- One block of a token quantised and encoded in the page's mode (R116). -/
def tokBlock (r : PRec) (dt : DTable) (bound : Rat) (v : Bool) (g inFmt : Nat) (codes : List Nat) : TokBlock :=
  let (base, s, z, clips) := baseCodes r v g inFmt codes
  let (ss, zs) :=
    if isInt r.format && r.scaling != 2 then
      (List.replicate 64 (fVal fFP16 s), List.replicate 64 (zeroPoint r.format z))
    else blockParams r v g
  { scale := s, zero := z, clips := clips, enc := encBlock r.format (tileComp r v) dt ss zs bound base }

/-- The blocks of one token vector. -/
def tokBlocks (r : PRec) (dt : DTable) (bound : Rat) (v : Bool) (t inFmt : Nat) (codes : List Nat) : List TokBlock :=
  let nb := dimOf r.dim / 64
  (List.range nb).map (fun j => tokBlock r dt bound v (t * nb + j) inFmt ((codes.drop (64 * j)).take 64))

/-- A sparse array with an entry written; zero is not listed. -/
def arrSet (t : Tab Nat) (i v : Nat) : Tab Nat := if v = 0 then tdel t i else tset t i v

/-- The record entries of one block written (R62, R63, R115): SCALE, ZERO, ESC_MAP. -/
def putBlockRec (r : PRec) (v : Bool) (g : Nat) (b : TokBlock) : PRec :=
  let i := scaleIdx r v g
  let r := { r with escMap := if b.enc.escaped then setBit r.escMap (g + if v then 256 else 0)
                              else clearBit r.escMap (g + if v then 256 else 0) }
  if isInt r.format then
    if r.scaling = 2 then r else { r with scale := arrSet r.scale i b.scale, zero := arrSet r.zero i b.zero }
  else if isDense (tileComp r v) then { r with scale := arrSet r.scale i b.enc.beta }
  else r

/-- One block's bytes written into a tile that is held as bytes (R117). -/
def putBlockBytes (r : PRec) (v : Bool) (g : Nat) (b : TokBlock) (tile : List Byte) : List Byte :=
  overlay tile (blockPlace r.format (tileComp r v) (escBit r v) g).1 b.enc.bytes

/-- A page as the quantiser works on it: record and both tiles. -/
structure WorkPage where
  r : PRec := {}
  k : List Byte := []
  v : List Byte := []
  deriving DecidableEq, Repr, Inhabited

/-- The places that the blocks of a token slot have held so far, cleared (R117): bytes that no encoded block occupies are
zero, also where a slot written again (R73, R517) had a block packed in an earlier slot's granule, whatever TOKEN_COUNT is now. The places
of a slot that was never written are zero and lie in no other block's. -/
def clearOld (r : PRec) (v : Bool) (t : Nat) (tile : List Byte) : List Byte :=
  let nb := dimOf r.dim / 64
  (List.range nb).foldl (fun tile j =>
    let x := blockPlace r.format (tileComp r v) (escBit r v) (t * nb + j)
    overlay tile x.1 (zeros x.2)) tile

/-- Writing one token vector into a tile: the places that it held and its own full-size places are cleared, then its blocks
written. -/
def putVector (r : PRec) (v : Bool) (t : Nat) (bs : List TokBlock) (tile : List Byte) : PRec × List Byte :=
  let nb := dimOf r.dim / 64
  let tile := clearOld r v t tile
  let r := bs.zipIdx.foldl (fun r e => putBlockRec r v (t * nb + e.2) e.1) r
  let tile := overlay tile (t * tokenBytes r.format r.dim) (zeros (tokenBytes r.format r.dim))
  (r, bs.zipIdx.foldl (fun tile e => putBlockBytes r v (t * nb + e.2) e.1 tile) tile)

/-- K_SUM of a token's groups, from the codes as the score array reads them (R111). -/
def putKSum (r : PRec) (dt : DTable) (k : List Byte) (t : Nat) : PRec :=
  if !isInt r.format then r
  else
    let nb := dimOf r.dim / 64
    (List.range nb).foldl (fun r j =>
      { r with kSum := arrSet r.kSum (t * nb + j) (tileBlock r dt false k (t * nb + j)).codes.sum }) r

/-- One token written into a page (R63): K and V vectors, record entries, K_SUM. -/
def putToken (w : WorkPage) (dt : DTable) (t : Nat) (kb vb : List TokBlock) : WorkPage :=
  let (r, k) := putVector w.r false t kb w.k
  let (r, v) := putVector r true t vb w.v
  { r := putKSum r dt k t, k := k, v := v }

/-! ### Digests (R153 to R156) -/

/-- z_D of a record (R153). -/
def digZ (r : PRec) : Int := (if 128 ≤ r.digZero then (r.digZero : Int) - 256 else r.digZero) + 128
/-- The value of a digest code (R153). -/
def digVal (r : PRec) (c : Nat) : Rat := fVal fFP16 r.digScale * (((c : Int) - digZ r : Int) : Rat)

/-- Setting the digest scale from values (R154); `twice` is the headroom factor. -/
def digInit (r : PRec) (vals : List Rat) (twice : Bool) : PRec :=
  let lo := vals.foldl min (vals.headD 0)
  let hi := vals.foldl max (vals.headD 0)
  let m : Rat := if twice then 2 else 1
  let (s, z) := rangeRule 3 fFP16 [m * lo, m * hi]
  { r with digScale := s, digZero := ((z - 128) % 256).toNat, digestValid := true, mean := [], dmin := [], dmax := [] }

/-- c_lo and c_hi of R155, before the clamp. -/
def digCodes (r : PRec) (x : Rat) : Int × Int :=
  let s := fVal fFP16 r.digScale
  (⌊f32Val (fRound fFP32 .down true false (x / s))⌋ + digZ r, ⌈f32Val (fRound fFP32 .up true false (x / s))⌉ + digZ r)

/-- DIG_MIN, DIG_MAX and DIGEST_VALID after one token's decoded K vector (R155). -/
def digToken (r : PRec) (first : Bool) (x : List Rat) : PRec :=
  x.zipIdx.foldl (fun r e =>
    let (lo, hi) := digCodes r e.1
    let lc := (clampI 0 255 lo).toNat
    let hc := (clampI 0 255 hi).toNat
    { r with dmin := arrSet r.dmin e.2 (if first then lc else min lc (tget 0 r.dmin e.2))
             dmax := arrSet r.dmax e.2 (if first then hc else max hc (tget 0 r.dmax e.2))
             digestValid := r.digestValid && decide (0 ≤ lo) && decide (hi ≤ 255) }) r

/-- DIG_MEAN from the sum of values per dimension over so many tokens, old mean included (R155). -/
def digMean (r : PRec) (n k : Nat) (sums : List Rat) : PRec :=
  sums.zipIdx.foldl (fun r e =>
    let mu := if n = 0 then 0 else digVal r (tget 0 r.mean e.2)
    let v := (mu * (n : Rat) + e.1) / ((n + k : Nat) : Rat)
    let c := (clampI 0 255 (rneInt (v / fVal fFP16 r.digScale) + digZ r)).toNat
    { r with mean := arrSet r.mean e.2 c }) r

/-- Column sums of vectors. -/
def colSums (d : Nat) (vs : List (List Rat)) : List Rat :=
  (List.range d).map (fun c => (vs.map (fun x => x.getD c 0)).sum)

/-- The record brought up to date after tokens [t0, t1) were written (R63, R155, R517). `fresh`: the page had no token
before; `left`: slots at or beyond the length held tokens before (R517). Slots at or beyond the new TOKEN_COUNT that a
truncation had cut off keep their bytes: R59 would have them zero, while R63, R73 and R517 let no other slot be written: a
DESIGN CHOICE (log 75). -/
def finishRec (w : WorkPage) (dt : DTable) (fresh left : Bool) (t0 t1 : Nat) : WorkPage :=
  let d := dimOf w.r.dim
  let vals (t : Nat) := tokenVals w.r dt false w.k t
  let new := (List.range (t1 - t0)).map (fun i => vals (t0 + i))
  let r := if fresh then digInit w.r new.flatten true else w.r
  let r := (new.zipIdx).foldl (fun r e => digToken r (fresh && e.2 == 0) e.1) r
  let r := if left then digMean { r with mean := [] } 0 t1 (colSums d ((List.range t1).map vals))
           else digMean r t0 (t1 - t0) (colSums d new)
  let cnt (v : Bool) := ((List.range 256).filter (fun g => escBit r v g && decide (g < t1 * (d / 64)))).length
  { w with r := { r with tokens := t1, escK := cnt false, escV := cnt true, gen := (r.gen + 1) % 2 ^ 32 } }

/-! ### Comparing a token with what stands (R215) -/

/-- Whether one block of an incoming token equals the stored one. -/
def sameBlock (r : PRec) (v : Bool) (g : Nat) (b : TokBlock) (tile : List Byte) : Bool :=
  let (off, len) := blockPlace r.format (tileComp r v) (escBit r v) g
  escBit r v g == b.enc.escaped && slice tile off len == b.enc.bytes &&
  (if isInt r.format then
     r.scaling == 2 || (tget 0 r.scale (scaleIdx r v g) == b.scale && tget 0 r.zero (scaleIdx r v g) == b.zero)
   else !isDense (tileComp r v) || tget 0 r.scale (scaleIdx r v g) == b.enc.beta)

/-- Whether an incoming token equals the stored one. -/
def sameToken (w : WorkPage) (dt : DTable) (bound : Rat) (t inFmt : Nat) (k v : List Nat) : Bool :=
  let nb := dimOf w.r.dim / 64
  let chk (isV : Bool) (codes : List Nat) (tile : List Byte) :=
    ((tokBlocks w.r dt bound isV t inFmt codes).zipIdx).all (fun e => sameBlock w.r isV (t * nb + e.2) e.1 tile)
  chk false k w.k && chk true v w.v

/-! ### Loading and storing pages -/

/-- A page as the quantiser reads it. -/
def loadPage (s : State) (p h : Nat) : WorkPage :=
  match pageOf s h with
  | none => {}
  | some g =>
    let n := tileLen g.cls
    { r := g.r, k := pageBytes s h g.r.uid (keyGen s p) 0 n, v := pageBytes s h g.r.uid (keyGen s p) n n }

/-- Storing a page's record, and the granules of its tiles that hold the given token slots (R63, R118). -/
def storePage (p h : Nat) (w : WorkPage) (t0 t1 : Nat) (s : State) : State :=
  match pageOf s h with
  | none => s
  | some g =>
    let n := tileLen g.cls
    let tb := tokenBytes w.r.format w.r.dim
    let nb := dimOf w.r.dim / 64
    let one (v : Bool) (tile : List Byte) (s : State) : State :=
      let gs := ((List.range ((t1 - t0) * nb)).map (fun i => (blockPlace w.r.format (tileComp w.r v) (escBit w.r v) (t0 * nb + i)).1 / 64)
        ++ (List.range ((t1 - t0) * nb)).map (fun i => (blockPlace g.r.format (tileComp g.r v) (escBit g.r v) (t0 * nb + i)).1 / 64)
        ++ (List.range (ceilDiv ((t1 - t0) * tb) 64)).map (fun i => t0 * tb / 64 + i)).dedup
      gs.foldl (fun s i => writeBytes h w.r.uid (keyGen s p) ((if v then n else 0) + 64 * i) (slice tile (64 * i) 64) s) s
    let s := modPage h (fun g => { g with r := w.r, age := 0 }) s
    one true w.v (one false w.k s)

/-- Storing a whole page. -/
def storeWhole (p h : Nat) (w : WorkPage) (s : State) : State :=
  let s := modPage h (fun g => { g with r := w.r }) s
  writeBytes h w.r.uid (keyGen s p) 0 (w.k ++ w.v) s

/-! ### Calibration (R101, R104, R105) -/

/-- The ESC_BOUND under which a command runs (R103, R294), FP16 bits. -/
def escBound (c : Cmd) : Nat := heldSetting c 0x10 2 [100, 1, 0x1400]

/-- The calibration entry of a job's layer and KV head. -/
def calEntry (s : State) (p job layer kv : Nat) : CalEntry :=
  match tget? (part s p).cal job with
  | some c => tget {} c.entries (layer * 64 + kv)
  | none => {}

/-- Widening of one tile's channels (R104): values are (channel, value) of all tokens the APPEND wrote, `cl` the channels
that clipped. -/
def widenTile (format : Nat) (e : CalEntry) (base : Nat) (vals : List (List Rat)) (cl : List Nat) : CalEntry :=
  cl.dedup.foldl (fun e c =>
    let s := fVal fFP16 (e.scale.getD (base + c) 0)
    let z := zeroPoint format (e.zero.getD (base + c) 0)
    let col := vals.map (fun x => x.getD c 0)
    let lo := col.foldl min (s * ((0 - z : Int) : Rat))
    let hi := col.foldl max (s * (((intMax format : Int) - z : Int) : Rat))
    let (s', z') := rangeRule format fFP16 [lo, hi]
    { e with scale := e.scale.set (base + c) s', zero := e.zero.set (base + c) (zeroByte format z') }) e

/-- The calibration entry after an APPEND's clips (R104, R105): counts always, widening unless SATURATED. -/
def widen (ppm en format d : Nat) (e : CalEntry) (kv vv : List (List Rat)) (kc vc : List Nat) : CalEntry :=
  let n := kv.length * d
  let beyond (c : List Nat) : Bool := en == 1 && !e.saturated && decide (ppm * n < c.length * 1000000)
  let counts := [kc.length, vc.length, n, n]
  if beyond kc || beyond vc then
    let e := if beyond kc then widenTile format e 0 kv kc else e
    let e := if beyond vc then widenTile format e d vv vc else e
    let ep := satAdd 0xFFFF e.epoch 1
    { e with epoch := ep, saturated := ep == 0xFFFF, clips := counts }
  else { e with clips := counts }

/-- The record of a new page (R62, R101): its calibration entry copied under static scaling, TABLE set when a tile is
dense. -/
def newRec (s : State) (p : Nat) (q : Seq) (layer kv page uid table : Nat) : PRec :=
  let d := dimOf q.dim
  let e := calEntry s p q.job layer kv
  let r : PRec := { format := q.format, dim := q.dim, scaling := q.scaling, kComp := q.kComp, vComp := q.vComp
                    table := if isDense q.kComp || isDense q.vComp then table % 4 + 128 else 0
                    uid := uid, job := q.job, seq := q.seq, layer := layer, kvHead := kv, pageIndex := page }
  if q.scaling = 2 then
    { r with epoch := e.epoch
             scale := (List.range (2 * d)).foldl (fun t i => arrSet t i (e.scale.getD i 0)) []
             zero := (List.range (2 * d)).foldl (fun t i => arrSet t i (e.zero.getD i 0)) [] }
  else r

end Sys2Proof.Machine
end

