-- ==== Sys2Proof/Machine/MapWords.lean ====
section
/-! DEFINITION. Objects of the metadata region as bytes: roots, layer blocks, map blocks, group digest objects (R67, R68, R157); the
words of a map and what a walk makes of a poisoned one (R516); what an element of bank-side work leaves in a granule (R257, R262). -/

namespace Sys2Proof.Machine

/-- The handle at a position; 0 is a hole. -/
def handleAt (q : Seq) (pos : Nat) : Nat := tget 0 q.map pos
/-- The length of a layer. -/
def seqLen (q : Seq) (layer : Nat) : Nat := tget 0 q.len layer

/-! ### Images -/

/-- A root block (R67). -/
def rootImage (q : Seq) : List Byte :=
  padTo 64 (toLe 4 q.job ++ toLe 6 q.seq ++ toLe 1 q.format ++ toLe 1 q.dim ++ toLe 1 q.cls ++ toLe 1 q.placement ++ toLe 2 q.layers ++
    toLe 1 q.kvHeads ++ toLe 1 q.scaling ++ toLe 1 q.kComp ++ toLe 1 q.vComp ++ toLe 4 q.hash ++ toLe 8 (tget {} q.blocks 0).uid ++
    toLe 4 q.gen) ++
  (List.range 504).flatMap (fun l => toLe 4 (tget {} q.blocks (1 + l)).handle ++ toLe 4 (seqLen q l))

/-- A layer block (R68). -/
def layerImage (q : Seq) (layer units : Nat) : List Byte :=
  padTo (4096 * units) ((List.range q.kvHeads).flatMap (fun j =>
    (List.range 64).flatMap (fun b => toLe 4 (tget {} q.blocks (1024 + (layer * 64 + j) * 64 + b)).handle)))

/-- A map block (R68). -/
def mapImage (q : Seq) (key : Nat) : List Byte :=
  let k := key - 1024
  (List.range 1024).flatMap (fun i => toLe 4 (handleAt q (posKey (k / 4096) (k / 64 % 64) (k % 64 * 1024 + i))))

/-- The block of a key. -/
def blockImage (q : Seq) (key units : Nat) : List Byte :=
  if key = 0 then rootImage q else if key < 1024 then layerImage q (key - 1) units else mapImage q key

/-- A group digest object (R157). -/
def digestImage (d : DigestObj) : List Byte :=
  let n := (d.units - 1) * 64
  (List.range 64).flatMap (fun i =>
    let g := d.groups.getD i {}
    toLe 2 g.scale ++ toLe 1 g.zero ++ toLe 1 (b2n g.built + 2 * b2n g.open_) ++ zeros 12 ++
      (List.range 16).flatMap (fun r => toLe 2 (g.idx.getD r 0)) ++ zeros 16) ++
  (List.range 64).flatMap (fun i => (List.range n).flatMap (fun c => toLe 1 ((d.groups.getD i {}).mean.getD c 0)))

/-! ### The words of a map (R68, R516) -/

/-- The metadata granule of a block's first byte. -/
def blockGran (h : Nat) : Nat := 64 * bitsOf h 1 26

/-- The word at a byte of a block: cell, granule of its metadata region, word of the granule. -/
def blockWord (b : Blk) (off : Nat) : Nat × Nat × Nat := (hCell b.handle, blockGran b.handle + off / 64, off % 64 / 4)

/-- The words that a walk to a position reads: its layer block's handle in the root, its map block's in the layer block, its own. -/
def pathWords (q : Seq) (pos : Nat) : List (Nat × Nat × Nat) :=
  let at_ (key off : Nat) : List (Nat × Nat × Nat) := (tget? q.blocks key).elim [] (fun b => [blockWord b off])
  at_ 0 (0x40 + 8 * posLayer pos) ++ at_ (1 + posLayer pos) (256 * posKv pos + posPage pos / 1024 * 4) ++
    at_ (mapBlockKey pos) (4 * (posPage pos % 1024))

/-- The metadata granules of a partition that hold a word not good. -/
def listedMeta (s : State) (p : Nat) : List (Nat × Nat) := (partCells s p).flatMap (fun c => (cell s c).metaCls.map (fun e => (c, e.1)))

/-- The committed reads that a walk to these positions makes of the map (R41, R69). -/
def walkReads (p : Nat) (q : Seq) (poss : List Nat) (s : State) : State :=
  ((listedMeta s p).filter (fun e => poss.any (fun k => (pathWords q k).any (fun w => w.1 == e.1 && w.2.1 == e.2)))).foldl
    (fun s e => (readMeta e.1 e.2 (mkBlock e.1 (e.2 / 64)) s).2) s

/-- The positions of a list whose handle is lost, as a word on the way to it is poisoned: walkers treat each as a poisoned page
(R516). -/
def lostHandles (s : State) (p : Nat) (q : Seq) (poss : List Nat) : List Nat :=
  if (listedMeta s p).isEmpty then [] else
    poss.filter (fun k => (pathWords q k).any (fun w => decide (3 ≤ (metaClsOf (cell s w.1) w.2.1).getD w.2.2 0)))

/-- The word at index `w` of a block is written anew by an edit: it names a changed position or a block written afresh, or is a field
that every swap writes (R71). -/
def newWord (key : Nat) (changed touched : List Nat) (w : Nat) : Bool :=
  if 1024 ≤ key then
    let n := key - 1024
    posKey (n / 4096) (n / 64 % 64) (1024 * (n % 64) + w) ∈ changed
  else if 1 ≤ key then 1024 + ((key - 1) * 64 + w / 64) * 64 + w % 64 ∈ touched
  else if w < 16 then w == 6 || w == 7 || w == 8
  else if w % 2 = 0 then 1 + (w - 16) / 2 ∈ touched
  else changed.any (fun k => posLayer k == (w - 16) / 2)

/-- A block written afresh by an edit reads the old one to copy it (R516): a poisoned word that the edit does not write anew travels. -/
def carryBlock (key : Nat) (changed touched : List Nat) (old new : Blk) (s : State) : State :=
  let c := hCell old.handle
  let g := blockGran old.handle
  ((cell s c).metaCls.filter (fun e => decide (g ≤ e.1 && e.1 < g + 64 * old.units))).foldl (fun s e =>
    setMeta (hCell new.handle) (blockGran new.handle + (e.1 - g))
      ((carried e.2).zipIdx.map (fun x => if newWord key changed touched (16 * (e.1 - g) + x.2) then 0 else x.1))
      (readMeta c e.1 (mkBlock c (e.1 / 64)) s).2) s

/-! ### Edits (R70, R71) -/

/-- An edit (R71): with the changed map and the changed positions, every block on the paths is written afresh, the old
ones retired, blocks left holding only holes with them (R73), and the root swapped with GENERATION + 1. None where a block has no room; the caller answers
RETRY_LATER and changes nothing. -/
def editSwap (p : Nat) (q : Seq) (changed : List Nat) (s : State) : Option (Seq × State) :=
  let touched := (0 :: changed.flatMap (fun k => [1 + posLayer k, mapBlockKey k])).dedup
  let keep := touched.filter (blockUsed q)
  let old := touched.filterMap (fun k => tget? q.blocks k)
  match allocBlocks p q keep s with
  | none => none
  | some (t, s) =>
    let s := keep.foldl (fun s k => match tget? q.blocks k, tget? t k with
      | some a, some b => carryBlock k changed touched a b s
      | _, _ => s) s
    let t := (touched.filter (fun k => !blockUsed q k)).foldl (fun t k => tdel t k) t
    let s := old.foldl (fun s b => retire p false b.handle b.units s) s
    some ({ q with blocks := t, gen := (q.gen + 1) % 2 ^ 32, cutOff := q.cutOff.filter (fun e => e.1 ∉ touched) }, s)

/-! ### Granules of the metadata region (R54, R257, R259, R262) -/

/-- What holds a granule of the metadata region. -/
inductive MetaObj where
  /-- Granule `i` of the record of the page of a slot. -/
  | rec_ (slot : Nat) (g : Page) (i : Nat)
  /-- Granule `i` of the block of a key of a sequence's map. -/
  | block (seq : Nat) (q : Seq) (key : Nat) (b : Blk) (i : Nat)
  /-- Granule `i` of a group digest object. -/
  | digest (d : DigestObj) (i : Nat)
  deriving DecidableEq, Repr

/-- The object that holds granule `g` of a cell's metadata region. -/
def metaObj (s : State) (c g : Nat) : Option MetaObj :=
  match (cell s c).pages.find? (fun e => e.2.recPlace == g / 32) with
  | some (slot, pg) => some (.rec_ slot pg (g % 32))
  | none =>
    match (cell s c).digests.find? (fun d => decide (blockGran d.handle ≤ g && g < blockGran d.handle + 64 * d.units)) with
    | some d => some (.digest d (g - blockGran d.handle))
    | none =>
      (part s (cellOwner s c)).seqs.findSome? (fun e => (e.2.blocks.find? (fun b =>
        hCell b.2.handle == c && decide (blockGran b.2.handle ≤ g && g < blockGran b.2.handle + 64 * b.2.units))).map
          (fun b => .block e.1 e.2 b.1 b.2 (g - blockGran b.2.handle)))

/-- An object's granule as the node writes it, under its tweak (R54). -/
def objGran (keyGen : Nat) : MetaObj → Granule
  | .rec_ _ g i => { data := slice (recBytes g.r) (64 * i) 64, uid := g.r.uid, idx := i, kind := 2, keyGen := keyGen }
  | .block _ q k b i => { data := slice (blockImage q k b.units) (64 * i) 64, uid := b.uid, idx := i, kind := 3, keyGen := keyGen }
  | .digest d i => { data := slice (digestImage d) (64 * i) 64, uid := d.uid + i / 64, idx := i % 64, kind := 3, keyGen := keyGen }

/-- The granule stored at a place of the metadata region: what an element left there while its object has not been written since, else
the object's own; of a free place what an element left, or nothing that decrypts. -/
def metaGran (s : State) (c g : Nat) : Granule :=
  let own := (metaObj s c g).map (objGran (keyGen s (cellOwner s c)))
  match tget? (cell s c).metaData g with
  | some m => if m.seen = (own.elim [] (·.data)) then m.gran else own.getD noGran
  | none => own.getD noGran

/-- A number of a root header that bytes give, where it lies in its range; else as it stood (log 85). -/
def within (lo hi v old : Nat) : Nat := if lo ≤ v && v ≤ hi then v else old

/-- A handle as overwritten bytes give it: one that names a cell outside the partition counts as a hole: the effect stays within the
partition (R262; log 85). -/
def junkHandle (s : State) (p v : Nat) : Nat := if hCell v ∈ partCells s p then v else 0

/-- A map with a position's handle, which may be a hole. -/
def putPos (m : Tab Nat) (pos h : Nat) : Tab Nat := if h = 0 then tdel m pos else tset m pos h

/-- A position lies below the layer block or the map block of a key. -/
def below (key pos : Nat) : Bool := if key < 1024 then 1 + posLayer pos == key else mapBlockKey pos == key

/-- A sequence in whose map the handle of a block reads `v` (R262; log 85): under another handle the positions below it read what
stands there, which nothing predicts; `cutOff` keeps what they named, for when the handle reads as before. -/
def seqBlock (s : State) (p key v : Nat) (q : Seq) : Seq :=
  match tget? q.blocks key with
  | none => q
  | some x =>
    match tget? q.cutOff key with
    | some old => if v = x.handle then
        { q with cutOff := tdel q.cutOff key, map := old.foldl (fun m e => tset m e.1 e.2) (q.map.filter (fun e => !below key e.1)) } else q
    | none => if v = x.handle then q else
        let gone := q.map.filter (fun e => below key e.1)
        let junk (pos : Nat) : Nat := junkHandle s p (leVal ((List.range 4).map (Config.scrambled (2 ^ 60 + v * 2 ^ 32 + pos))))
        { q with cutOff := tset q.cutOff key gone, map := gone.foldl (fun m e => putPos m e.1 (junk e.1)) q.map }

/-- A sequence whose block of a key reads other bytes in granule `i` (R67, R68, R262; log 85): the header, or eight layers' handles and
lengths, of a root; sixteen map blocks' handles of a layer block; sixteen positions of a map block. -/
def seqWith (s : State) (p key i : Nat) (b : List Byte) (q : Seq) : Seq :=
  if 1024 ≤ key then
    let n := key - 1024
    { q with map := (List.range 16).foldl (fun m w =>
        putPos m (posKey (n / 4096) (n / 64 % 64) (1024 * (n % 64) + 16 * i + w)) (junkHandle s p (u32 b (4 * w)))) q.map }
  else if 1 ≤ key then (List.range 16).foldl (fun q w =>
    seqBlock s p (1024 + ((key - 1) * 64 + i / 4) * 64 + 16 * (i % 4) + w) (u32 b (4 * w)) q) q
  else if i = 0 then
    { q with
      format := within 1 6 (u8 b 0xA) q.format, dim := within 0 2 (u8 b 0xB) q.dim, cls := within 0 2 (u8 b 0xC) q.cls
      placement := within 0 1 (u8 b 0xD) q.placement, layers := within 1 504 (u16 b 0xE) q.layers
      kvHeads := within 1 64 (u8 b 0x10) q.kvHeads, scaling := within 0 2 (u8 b 0x11) q.scaling
      kComp := u8 b 0x12, vComp := u8 b 0x13, hash := u32 b 0x14 }
  else (List.range 8).foldl (fun q w =>
    let l := 8 * (i - 1) + w
    let q := seqBlock s p (1 + l) (u32 b (8 * w)) q
    { q with len := tset q.len l (min 4194304 (u32 b (8 * w + 4))) }) q

/-- A group digest object whose granule `i` reads other bytes (R157). -/
def digestWith (i : Nat) (b : List Byte) (d : DigestObj) : DigestObj :=
  let n := (d.units - 1) * 64
  if i < 64 then
    if i < d.groups.length then
      { d with groups := d.groups.modify i (fun g => { g with
          scale := u16 b 0, zero := u8 b 2, built := bitOf (u8 b 3) 0, open_ := bitOf (u8 b 3) 1
          idx := (List.range g.idx.length).map (fun r => u16 b (0x10 + 2 * r)) }) }
    else d
  else
    let at_ := 64 * (i - 64)
    { d with groups := d.groups.modify (at_ / max 1 n) (fun g => { g with mean := g.mean.zipIdx.map (fun e =>
        if at_ % max 1 n ≤ e.2 && e.2 < at_ % max 1 n + 64 then u8 b (e.2 - at_ % max 1 n) else e.1) }) }

/-- An object whose granule reads other bytes. -/
def setObj (c : Nat) (b : List Byte) (o : MetaObj) (s : State) : State :=
  match o with
  | .rec_ slot g i => modCell c (fun v => { v with pages := tset v.pages slot { g with r := recOf (overlay (recBytes g.r) (64 * i) b) } }) s
  | .block key _ k _ i => modSeq (cellOwner s c) key (seqWith s (cellOwner s c) k i b) s
  | .digest d i => modCell c (fun v => { v with digests := v.digests.map (fun x => if x = d then digestWith i b x else x) }) s

/-- A granule of the metadata region overwritten by an element (R257, R262): its object's fields read what the granule gives under the
object's tweak, and the words take the classes that data and check lanes make. -/
def putMeta (c g : Nat) (x : Granule) (cls : List Nat) (s : State) : State :=
  let k := keyGen s (cellOwner s c)
  let s := match metaObj s c g with
    | none => s
    | some o =>
      let w := objGran k o
      setObj c (if granTweak x = granTweak w && x.keyGen = k then x.data else scrambledAt (2 ^ 60 + c * 2 ^ 40 + g) (granTweak w)) o s
  let seen := (metaObj s c g).elim [] (fun o => (objGran k o).data)
  setMeta c g cls (modCell c (fun v => { v with metaData := tset v.metaData g { gran := x, seen := seen } }) s)

end Sys2Proof.Machine
end

