-- ==== Sys2Proof/Machine/Protocol.lean ====
section
/-! DEFINITION. Command packets: the header of R276, the checks of R280, acceptance, FENCE, contexts and completion (R272 to
R287). -/

namespace Sys2Proof.Machine

/-- The opcodes that the command reference lists (R303), with the two FABRIC-only ones of no number of their own left to
their rows. -/
def opcodes : List Nat :=
  [0x0001, 0x0002, 0x0003, 0x0004, 0x0005, 0x0006, 0x0007, 0x0008, 0x0009,
   0x0101, 0x0102, 0x0103, 0x0104, 0x0105, 0x0106, 0x0107, 0x0108, 0x0109, 0x010A, 0x010B,
   0x0201, 0x0202, 0x0203, 0x0204, 0x0205, 0x0206, 0x0301, 0x0302, 0x0303, 0x0304, 0x0305, 0x0401, 0x0402,
   0x0501, 0x0502, 0x0503, 0x0504, 0x0505, 0x0506, 0x0507, 0x0601, 0x0602, 0x0603, 0x0604, 0x0605,
   0x0701, 0x0702, 0x0703, 0x0704, 0x0801, 0x0802, 0x0803, 0x0804, 0x0805, 0x0806, 0x0807, 0x0808]

/-- The data-path commands (R274). -/
def isDataPath (op : Nat) : Bool := op ∈ [0x0103, 0x0201, 0x0202, 0x0203, 0x0206, 0x0303, 0x0304]
/-- The operator-only opcodes (R275). -/
def isOperatorOnly (op : Nat) : Bool :=
  op ∈ [0x0006, 0x0007, 0x0605, 0x0802, 0x0804, 0x0805, 0x0806, 0x0807, 0x0808, 0x0704]
/-- The opcodes that an MCTP endpoint may send (R272). -/
def mctpAllowed (op : Nat) : Bool :=
  op ∈ [0x0001, 0x0002, 0x0003, 0x0008, 0x0801, 0x0802, 0x0803, 0x0804, 0x0805, 0x0806, 0x0807, 0x0808, 0x0704]
/-- The opcodes with a FABRIC form: those of R206, and SEQ_MAP_EDIT, which the home forwards to a span's owner (R318; DEDUCED, log 111). -/
def fabricAllowed (op : Nat) : Bool := op ∈ [0x0201, 0x0202, 0x0103, 0x0101, 0x0109, 0x0601, 0x0602, 0x0603, 0x0604]
/-- The opcodes that hold a request context (R27, R264, DIGEST_BUILD). -/
def takesContext (op : Nat) : Bool := op ∈ [0x0103, 0x0201, 0x0202, 0x0203, 0x0303, 0x0401, 0x0204]
/-- The opcodes that define OBJECT_ID (R302). -/
def usesObject (op : Nat) : Bool := op ∈ [0x0206, 0x0502, 0x0503, 0x0506, 0x0505]
/-- The opcodes that define EPOCH (R279). -/
def usesEpoch (op : Nat) : Bool := op ∈ [0x0109, 0x0105, 0x0106, 0x0107, 0x0108, 0x0601, 0x0602, 0x0603, 0x0604, 0x0005]

/-- The source is an MCTP endpoint. -/
def isMctp : Source → Bool
  | .mctp _ => true
  | _ => false

/-- The largest parameter area of a path (R272). -/
def pathLimit : Source → Nat
  | .mctp _ => 4032
  | _ => 16777152

/-- The issuer's partition of a source (R272). -/
def srcPart (s : State) : Source → Nat
  | .qp f _ => f
  | .conn id => (connOf s (id % 65536)).part
  | .mctp _ => 0

/-- The source is a fabric connection. -/
def srcFabric (s : State) : Source → Bool
  | .conn id => (connOf s (id % 65536)).kind == 2
  | _ => false

/-- A source from which a packet can reach the command decoders: a running queue pair with a free CQ slot (R477), a
control or fabric connection that is READY (R351), MCTP; none of a partition in reset (R440). -/
def srcLive (s : State) : Source → Bool
  | .qp f q =>
    let v := qpOf s f q
    let size := 2 ^ (v.cqLog + 4)
    let held := (s.cmds.filter (fun e => e.2.src == .qp f q)).length + v.ready.length + (v.cqTail + size - v.cqHead % size) % size
    v.state == 1 && !(part s f).inReset && (part s f).exists_ && (fnOf s f).d0 && (fnOf s f).bme && decide (held + 1 < size)
  | .conn id => connReady s id && 1 ≤ (connOf s (id % 65536)).kind && !(part s (connOf s (id % 65536)).part).inReset
  | .mctp _ => true

/-- What runs a command: its number, its record, the state; the reply, or none when it completes later. -/
abbrev Handler := Nat → Cmd → State → State × Option Reply

/-- The header of a packet turned into a command record (R276, R277). CLASS is capped by QOS_MAX (R278). -/
def parseCmd (s : State) (src : Source) (pkt : Packet) : Cmd :=
  let b := pkt.bytes
  let fl := u8 b 2
  let fabric := bitOf fl 7
  let p := srcPart s src
  let area := b.drop 64
  { src := src, part := p, tag := u32 b 4, opcode := u16 b 0, fence := bitOf fl 0, notify := bitOf fl 1, fabric := fabric
    qos := min (u16 b 0x0A % 4) ((tget [3] (part s p).items 2).getD 0 3)
    objectId := u64 b 0x10, epoch := u64 b 0x18
    block := if fabric then area.drop 16 else slice b 0x20 32 ++ area
    ext := if fabric then area.take 16 else []
    homeEpoch := if fabric then u64 b 0x20 else 0, senderGen := if fabric then u64 b 0x28 else 0
    replyLen := pkt.replyLen, at_ := now s, items := (part s p).items, pool := (part s p).pool }

/-- The longest that a restart of firmware can still take, in units of 100 µs: it ends within 2 s (R444, R466). How long it takes is a
free value within that (log 3). -/
def restartLeft (s : State) : Nat := max 1 (ceilDiv (s.node.restart.elim 0 (·.at_) + 2000000 - now s) 100)

/-- The header checks of R280 from order 2 on; `none` when all pass. -/
def headerCheck (s : State) (c : Cmd) (b : List Byte) : Option Reply :=
  let fl := u8 b 2
  let lim := pathLimit c.src
  if b.length ≠ 64 + u32 b 0x0C || lim < u32 b 0x0C then some (err stInvalid 0xFFF0)
  else if u8 b 3 ≠ 1 then some (err stUnsupported 1)
  else if c.opcode ∉ opcodes then some (err stUnsupported 2)
  else if isMctp c.src && !mctpAllowed c.opcode then some (err stUnsupported 3)
  else if bitsOf fl 2 5 ≠ 0 || u16 b 0x0A / 4 ≠ 0 || c.fabric != srcFabric s c.src ||
      (c.fabric && (!fabricAllowed c.opcode || u32 b 0x0C < 16 || !zeroIn b 0x30 0x40)) then some (err stInvalid 0xFFF1)
  else if u16 b 8 ≠ c.part then some (err stNotFound)
  else if isOperatorOnly c.opcode && c.part ≠ 0 then some (err stAuth)
  else if s.cmds.any (fun e => e.2.src == c.src && e.2.tag == c.tag) then some (err stConflict 0xFFFE)
  else if !isDataPath c.opcode && s.node.restart.isSome && (match c.src with | .qp _ _ => false | _ => true) then
    some (err stRetry (1 + (draw s).1 % restartLeft s))
  else if !isDataPath c.opcode &&
      256 ≤ (s.cmds.filter (fun e => e.2.part == c.part && !isDataPath e.2.opcode &&
        (match e.2.src with | .qp _ _ => false | _ => true))).length then some (err stBusy)
  else none

/-- The commands that the module's error state and tampered state refuse complete with INTERNAL (R399, R400); during
recovery mode those of R469 alone are served. -/
def moduleCheck (s : State) (c : Cmd) : Option Reply :=
  let readNode := c.opcode == 3 && u16 c.block 0 == 1
  if s.node.phase = .held then (if c.opcode ∈ [1, 2, 0x0805] || readNode then none else some (err stInternal))
  else if s.sec.mstate = 2 || s.sec.mstate = 3 then
    if c.opcode ∈ [1, 2, 0x0804, 0x0805] || readNode || (c.opcode == 0x0803 && 4 ≤ u8 c.block 0) ||
        (s.sec.mstate == 3 && c.opcode == 0x0701) then none
    else some (err stInternal)
  else if s.node.phase = .recovery && !(c.opcode ∈ [1, 2, 0x0807, 0x0808] || readNode) then some (err stInternal)
  else none

/-- The opcodes whose EPOCH is an expected GENERATION (R279). -/
def usesGen (op : Nat) : Bool := op ∈ [0x0109, 0x0105, 0x0106, 0x0107, 0x0108]

/-- OBJECT_ID and EPOCH are zero where the opcode defines none, and EPOCH in a FABRIC form that is no lease command; an expected GENERATION
has bits [63:32] zero (R279, R302). -/
def objectCheck (c : Cmd) : Option Reply :=
  if (c.objectId ≠ 0 && !usesObject c.opcode) || (c.epoch ≠ 0 && !usesEpoch c.opcode) ||
      (usesGen c.opcode && ((c.fabric && c.epoch != 0) || 2 ^ 32 ≤ c.epoch)) then some (err stInvalid)
  else none

/-- The STRICT setting of R404. -/
def strict (s : State) : Bool := setting s 0 0x200 0 [0] == 1

/-- SLOTS of a tenant under ISOLATION (R404). -/
def slotsOf (s : State) (p : Nat) : Nat := setting s 0 0x0200 p [0] |> fun v => if v = 0 then 10 * (partCells s p).length else v

/-- A free request context, the lowest (R27); with STRICT only within the partition's own share (R403). -/
def freeCtx (s : State) (p : Nat) : Option Nat :=
  let mine := (s.ctxs.filter (fun e => e.2.part == p)).length
  if 65536 ≤ s.ctxs.length || (strict s && p != 0 && decide (65536 * slotsOf s p / 256 ≤ mine)) then none else findFree (thas s.ctxs) 65536 (s.ctxs.length + 1) 0

/-- A reconstructor discards the pages that it recovered for a sub-request (R229). -/
def dropRecon (c : Cmd) (i : Nat) (s : State) : State :=
  if c.fabric then
    { s with cells := s.cells.map (fun e => (e.1, { e.2 with lent := e.2.lent.filter (fun l => l.2.recon != some i) })) }
  else s

/-! ### What a command holds from its acceptance to its completion -/

/-- DEADLINE of an opcode that has one, in µs (R145, R304, R306, R151). -/
def deadlineField (c : Cmd) : Option Nat :=
  if c.opcode = 0x0201 || c.opcode = 0x0202 then some (u32 c.block 0x38)
  else if c.opcode = 0x0203 then some (u32 c.block 8)
  else none

/-- Deadlines are measured from acceptance; 0 selects ATTEND_DEADLINE. -/
def holdDeadline (id : Nat) (c : Cmd) (s : State) : State :=
  match deadlineField c with
  | none => s
  | some d =>
    let t := c.at_ + (if d = 0 then heldSetting c 1 0 [10000] else d)
    modCtx (c.ctx.getD 0) (fun x => { x with deadline := t }) (modCmd id (fun c => { c with deadline := t }) s)

/-- The table ID and LOAD_COUNT that an APPEND or PAGE_MIGRATE names, if it names one (R125, R121). -/
def namedTable (c : Cmd) : Option (Nat × Nat) :=
  if c.opcode = 0x0103 && bitOf (u8 c.block 0x13) 7 then some (u8 c.block 0x13 % 4, u16 c.block 0x14)
  else if c.opcode = 0x0106 && bitOf (u8 c.block 0x23) 7 then some (u8 c.block 0x23 % 4, u16 c.block 0x24)
  else none

/-- The pair is checked and the reference taken in one step at acceptance (R125). -/
def holdTable (id : Nat) (c : Cmd) (s : State) : State :=
  match namedTable c with
  | none => s
  | some (t, lc) =>
    let x : TableSlot := tget {} (part s c.part).tables t
    let fits := (seqOf s c.part (seqKey (u32 c.block 0) (u48 c.block 4))).elim true (fun q => u8 x.bytes 0 == q.format)
    if x.loaded && x.loadCount = lc && fits then modCmd id (fun c => { c with tref := some t }) (takeTable c.part t s)
    else modCmd id (fun c => { c with tableBad := some x.loadCount }) s

/-- The references of a scorer slot changed. -/
def modScorer (p slot : Nat) (f : Scorer → Scorer) (s : State) : State :=
  modPart p (fun v => { v with scorers := tmod v.scorers slot f }) s

/-- An ATTEND that names a scorer slot which holds a scorer takes a reference at acceptance (R183). -/
def holdScorer (id : Nat) (c : Cmd) (s : State) : State :=
  let n := u8 c.block 0x48
  if c.opcode = 0x0201 && u8 c.block 0x1B = 2 && n ≠ 0 && thas (part s c.part).scorers n then
    modCmd id (fun c => { c with scorer := some n }) (modScorer c.part n (fun q => { q with refs := q.refs + 1 }) s)
  else s

/-- A sub-request that carries a greater PART_GEN of an owner frees the pages it lent before (R95). -/
def freeOrphans (p node opart gen : Nat) (s : State) : State :=
  let old (e : Nat × LentPage) : Bool := e.2.ownerNode == node && e.2.ownerPart == opart && decide (e.2.ownerGen < gen)
  let n := sumBy (partCells s p) (fun c => ((cell s c).lent.filter old).length)
  let s := (partCells s p).foldl (fun s c => modCell c (fun v => { v with lent := v.lent.filter (fun e => !old e) }) s) s
  modPart p (fun v => { v with orphans := v.orphans + n }) s

/-- The PART_GEN of a FABRIC command's sender is met (R95 step 2). -/
def meetSender (c : Cmd) (s : State) : State :=
  match c.src with
  | .conn k => if c.fabric then freeOrphans c.part (connOf s (k % 65536)).peerNode (connOf s (k % 65536)).peerPart c.senderGen s else s
  | _ => s

/-- What a command holds from its acceptance on. -/
def takeHolds (id : Nat) (c : Cmd) (s : State) : State := holdScorer id c (holdTable id c (holdDeadline id c (meetSender c s)))

/-- What a command has held is given back at its completion (R124, R183). -/
def dropHolds (c : Cmd) (s : State) : State :=
  let s := match c.tref with
    | some t => dropTable c.part t s
    | none => s
  match c.scorer with
  | some n => modScorer c.part n (fun q => { q with refs := q.refs - 1 }) s
  | none => s

/-- The job under which a data-path command counts in REQUESTS (R230): the one that its parameter block names; MERGE, CANCEL,
MATCH_SEARCH and MATCH_STEP name none and count under the job tag of their connection, or job 0 (log 84). -/
def meteredJob (s : State) (c : Cmd) : Option Nat :=
  if c.opcode = 0x0103 || c.opcode = 0x0201 || c.opcode = 0x0202 then some (u32 c.block 0)
  else if isDataPath c.opcode then some (match c.src with
    | .conn id => (connOf s (id % 65536)).job
    | _ => 0)
  else none

/-- Counting a data-path command that completes with OK, OK_PARTIAL or PAGE_POISONED (R230). -/
def countRequest (c : Cmd) (r : Reply) (s : State) : State :=
  match meteredJob s c with
  | some j => if r.status = stOk || r.status = stPartial || r.status = stPoisoned then
      meter c.part j (fun m => { m with requests := sat64 m.requests 1 }) s else s
  | none => s

/-- Counting clips and widening the calibration entry of a layer and KV head (R104, R105). -/
def widenEntry (c : Cmd) (job layer kv : Nat) (cl : Clips) (s : State) : State :=
  match tget? (part s c.part).cal job with
  | none => s
  | some set =>
    let k := layer * 64 + kv
    let e := widen (heldSetting c 0x10 0 [100, 1, 0x1400]) (heldSetting c 0x10 1 [100, 1, 0x1400]) cl.format (dimOf cl.dim)
      (tget {} set.entries k) cl.kv cl.vv cl.kc cl.vc
    modPart c.part (fun v => { v with cal := tset v.cal job { set with entries := tset set.entries k e } }) s

/-- The widenings that an APPEND has caused take effect when it completes, over all the tokens that it wrote (R104). -/
def widenAll (c : Cmd) (s : State) : State :=
  if c.opcode = 0x0103 then
    ((c.ctx.elim {} (ctxOf s)).clips).foldl (fun s e => widenEntry c (u32 c.block 0) (u16 c.block 0xA) e.1 e.2 s) s
  else s

/-- A command that holds EDITING of its sequence holds it no longer (R71). -/
def endEdit (c : Cmd) (s : State) : State :=
  if c.editing then modSeq c.part (seqKey (u32 c.block 0) (u48 c.block 4)) (fun q => { q with editing := false }) s else s

/-- Completing a command: what it holds is given back, its widenings take effect, its context is freed, and what the reclamation
list held back for it (R72, R104, R124, R183, R284). -/
def conclude (id : Nat) (r : Reply) (s : State) : State :=
  match tget? s.cmds id with
  | none => s
  | some c =>
    let s := endEdit c (widenAll c (dropHolds c (countRequest c r s)))
    let s := match c.ctx with
      | some x => dropRecon c x { s with ctxs := tdel s.ctxs x }
      | none => s
    reclaim c.part (complete id r s)

/-- Running an accepted command that may begin. -/
def begin_ (h : Handler) (id : Nat) (s : State) : State :=
  match tget? s.cmds id with
  | none => s
  | some c =>
    match h id c s with
    | (s, some r) => conclude id r s
    | (s, none) => s

/-- Services that use keys of the security engine (R398; which they are is the model's reading, log 93): they wait while an
on-demand self-test runs (R401). -/
def keyService (op : Nat) : Bool := decide (op ∈ [0x0008, 0x0205, 0x0506, 0x0701, 0x0702, 0x0703])

/-- Whether a command must wait before it begins: FENCE behind unfinished commands of its source, an earlier command of the
source and of its kind that waits, a CONFIG_COMMIT behind one of its partition that waits, a self-test, or deferral while the node enters
or leaves Drizzle (R277, R284, R293, R401, R414, R465). CANCEL never waits (R286). -/
def mustHold (s : State) (id : Nat) (c : Cmd) : Bool :=
  let earlier := s.cmds.filter (fun e => decide (e.1 < id) && e.2.src == c.src)
  c.opcode != 0x0206 &&
  ((c.fence && !earlier.isEmpty) || earlier.any (fun e => e.2.held && e.2.fence) ||
   earlier.any (fun e => e.2.held && isDataPath e.2.opcode == isDataPath c.opcode) ||
   (c.opcode == 5 && (s.cmds.any (fun e => decide (e.1 < id) && e.2.held && e.2.opcode == 5 && e.2.part == c.part) ||
     (part s c.part).commitQ.any (fun w => decide (w.2 ≤ id)))) ||
   (s.sec.selftest && keyService c.opcode) || (s.node.phase == .quiescing && c.opcode != 0x0801) || s.node.phase == .drizzle || s.node.phase == .waking ||
   (!isDataPath c.opcode && s.node.restart.isSome) || (part s c.part).inReset)

/-- What a node in this phase does with a packet: nothing reaches the decoders while it is off, in boot, in a node reset,
held, tripped or frozen. -/
def nodeLive (s : State) : Bool :=
  !s.dbg.frozen && (s.node.phase = .held && !s.node.pwrcyc || s.node.phase = .active || s.node.phase = .recovery || s.node.phase = .quiescing ||
    s.node.phase = .drizzle || s.node.phase = .waking)

/-- Entry into Drizzle is abandoned: POWER_STATE completes with OK and state reached 0 (R414). -/
def abandonDrizzle (s : State) : State :=
  let id := s.node.drizzleCmd.getD 0
  let t := now s - (tget {} s.cmds id).at_
  conclude id (okRet (zeros 4 ++ toLe 4 t)) (modNode (fun n => { n with phase := .active, drizzleCmd := none }) s)

/-- A wake event (R416): Drizzle is left, or its entry abandoned (R414). -/
def latchWake (s : State) : State :=
  if s.node.phase = .drizzle then modNode (fun n => { n with phase := .waking, drizzleAt := n.time }) s
  else if s.node.phase = .quiescing then abandonDrizzle s
  else s

/-- A packet that has fewer than 64 bytes is counted and dropped (R280 order 1). -/
def countMalformed (src : Source) (s : State) : State :=
  match src with
  | .qp f q => modQp f q (fun v => { v with malformed := v.malformed + 1 }) s
  | .conn id => modConn (id % 65536) (fun v => { v with malformed := v.malformed + 1 }) s
  | .mctp _ => s

/-- A command that has passed its checks takes its number, its record and, where its opcode holds one, a request context
(R27); `none` when no context is free. -/
def enrol (c : Cmd) (s : State) : Option (Nat × Cmd × State) :=
  let id := s.node.nextCmd
  let s := modNode (fun n => { n with nextCmd := n.nextCmd + 1 }) s
  if takesContext c.opcode then
    (freeCtx s c.part).map (fun x =>
      let c := { c with ctx := some x }
      (id, c, { s with
        ctxs := tset s.ctxs x { cmd := id, kind := c.opcode, part := c.part, cls := c.qos, progress := now s }, cmds := tset s.cmds id c }))
  else some (id, c, { s with cmds := tset s.cmds id c })

/-- Whether a packet of this source reaches the decoders at all. -/
def reaches (src : Source) (s : State) : Bool :=
  nodeLive s && srcLive s src && (s.node.phase != .recovery || isMctp src) && (s.node.phase != .held || srcPart s src == 0)

/-- The reply buffer of a host queue pair holds the largest payload (R282). -/
def fitsReply (c : Cmd) (n : Nat) : Bool :=
  match c.src with
  | .qp _ _ => decide (n ≤ c.replyLen)
  | _ => true

/-- Bytes of the rows of an ATTEND or ATTEND_BWD at its OUT_FORMAT, uncompressed (R282). -/
def rowsNeed (b : List Byte) : Nat :=
  u16 b 0x14 * u8 b 0x16 * (bitList (leAt b 0x0C 8) 64).length * (16 + 64 * 2 ^ (u8 b 0x17 % 4) * (if u8 b 0x1D = 0 then 4 else 2))

/-- Bytes of the payload of ATTEST_GET, its measurement blocks of the sizes that R393 gives (R396). -/
def attestNeed (c : Cmd) : Nat :=
  let what := u8 c.block 0
  96 + (if bitOf what 0 then 4 + Config.certChain.length else 0) + (if bitOf what 1 then 4 + (if c.part = 0 then 3416 else 346) else 0)

/-- The largest payload that a command can return, by its parameter block (R282). -/
def replyNeed (s : State) (c : Cmd) : Nat :=
  let b := c.block
  if c.opcode = 0x0002 then 256
  else if c.opcode = 0x0003 || c.opcode = 0x0805 then u32 b 8
  else if c.opcode = 0x0008 then 152 + 64 * (part s (u16 b 0)).meters.length
  else if c.opcode = 0x0201 || c.opcode = 0x0202 then rowsNeed b
  else if c.opcode = 0x0203 then u32 b 4 * (16 + 256 * 2 ^ (u8 b 1 % 4))
  else if c.opcode = 0x0303 then 32 * u8 b 0
  else if c.opcode = 0x0304 then 24 * u8 b 2
  else if c.opcode = 0x0701 then attestNeed c
  else 0

/-- The reply buffer that a ring entry names is checked at acceptance (R282). -/
def replyCheck (s : State) (c : Cmd) : Option Reply := if fitsReply c (replyNeed s c) then none else some (err stInvalid 0xFFF2)

/-- A control command of another source, of a higher CLASS, that may begin goes before this one (R278). -/
def classWaits (s : State) (id : Nat) (c : Cmd) : Bool :=
  !isDataPath c.opcode && s.node.phase == .active && s.cmds.any (fun e =>
    e.1 != id && e.2.held && e.2.src != c.src && !isDataPath e.2.opcode && decide (c.qos < e.2.qos) && !mustHold s e.1 e.2)

/-- The reply of the first check of R280, of the module, of the object or of the reply buffer that a packet fails. -/
def firstCheck (c : Cmd) (b : List Byte) (s : State) : Option Reply :=
  (headerCheck s c b).orElse (fun _ => (moduleCheck s c).orElse (fun _ => (objectCheck c).orElse (fun _ => replyCheck s c)))

/-- A command packet arrives: the checks of R280, acceptance, and its beginning unless it must wait. -/
def submit (src : Source) (pkt : Packet) (h : Handler) (s : State) : State :=
  if !reaches src s then s
  else
    let s := latchWake s
    if pkt.bytes.length < 64 then countMalformed src s
    else
      let c := parseCmd s src pkt
      let fail (r : Reply) (s : State) : State := handReply src c.tag c.part c.qos c.notify false r s
      match firstCheck c pkt.bytes s with
      | some r => fail r (if r.status = stRetry then (draw s).2 else s)
      | none =>
        match enrol c s with
        | none => fail (err stBusy) (modNode (fun n => { n with nextCmd := n.nextCmd + 1 }) s)
        | some (id, c, s) =>
          let s := takeHolds id c s
          if mustHold s id c || classWaits s id c then modCmd id (fun c => { c with held := true }) s else begin_ h id s

/-- A packet of the given opcode: a packet that carries another opcode is none of this row's. -/
def submitOp (op : Nat) (src : Source) (pkt : Packet) (h : Handler) (s : State) : State :=
  if pkt.bytes.length < 64 || u16 pkt.bytes 0 = op then submit src pkt h s else s

/-- Of two waiting commands that may begin, the later one goes first where both are control commands and its CLASS is higher (R278). -/
def goesFirst (a b : Cmd) : Bool := !isDataPath a.opcode && !isDataPath b.opcode && decide (a.qos < b.qos)

/-- The waiting command that begins next, if any: the first accepted one that need not wait; among control commands CLASS chooses
between the sources (R278, R284). -/
def nextHeld (s : State) : Option Nat :=
  let may := s.cmds.filter (fun e => e.2.held && !mustHold s e.1 e.2)
  (may.foldl (fun (b : Option (Nat × Cmd)) e => if b.elim true (fun x => goesFirst x.2 e.2) then some e else b) none).map (·.1)

/-- Beginning one waiting command. -/
def resumeOne (h : Handler) (s : State) : State :=
  if s.node.phase = .active && !s.dbg.frozen then
    match nextHeld s with
    | some id => begin_ h id (modCmd id (fun c => { c with held := false }) s)
    | none => s
  else s

/-- A parameter block of an exact length, its listed bytes zero (R301). -/
def blockIs (c : Cmd) (len : Nat) : Bool :=
  c.block.length == max 32 len && (if len < 32 then zeroIn c.block len 32 else true)

/-- A reply that carries a payload. -/
def okPay (ret payload : List Byte) : Reply := { ret := ret, payload := payload }

end Sys2Proof.Machine
end

