-- ==== Sys2Proof/Machine/MatchCore.lean ====
section
/-! DEFINITION. Entries of the match array, their shadow records, what a sweep reports, and the search of the placement banks
(R205, R232 to R236, R240, R242 to R246, R251 to R253). -/

namespace Sys2Proof.Machine

/-! ### Entries (R232 to R236) -/

/-- A unit matches a 64-bit key (R232). -/
def unitHits (m : MUnit) (k : Nat) : Bool :=
  Nat.land (Nat.xor k m.value) m.mask == 0 && Nat.land m.value (2 ^ 64 - 1 - m.mask) == 0

/-- The raw unit at a position of a cell; one that is not listed is the empty marker. -/
def unitAt (c : Cell) (u : Nat) : MUnit := tget {} c.units u
/-- The shadow record at a position. -/
def shadowAt (c : Cell) (u : Nat) : Shadow := tget {} c.shadow u
/-- First placement bank (R236). -/
def placeBank0 (m : MatchCfg) : Nat := 2048 - m.placeBanks
/-- Width in units of a bank. -/
def bankWidth (m : MatchCfg) (bank : Nat) : Nat := if placeBank0 m ≤ bank then 2 else tget 2 m.widths bank
/-- Bank of a unit position (R234). -/
def unitBank (u : Nat) : Nat := u / 512
/-- Cell of an entry index; none beyond the partition (R234). -/
def entryCell (s : State) (p idx : Nat) : Option Nat := (partCells s p)[idx / 1048576]?
/-- Units of an entry that starts at u. -/
def entryUnits (u w : Nat) : List Nat := (List.range w).map (u + ·)
/-- Whether a unit position starts a valid entry. -/
def entryValid (c : Cell) (u : Nat) : Bool := (shadowAt c u).valid && (shadowAt c u).head
/-- Priority: 1 bits of the masks (R233). -/
def prioOf (c : Cell) (u w : Nat) : Nat := sumBy (entryUnits u w) (fun i => (bitList (unitAt c i).mask 64).length)

/-- ENTRY_GEN after a write (R240): from 0xFFFF to 1, never 0. -/
def nextGen (g : Nat) : Nat := if g = 0xFFFF then 1 else g + 1

/-- The place in the rewrite queue of the granule that holds shadow record `u` (R43, R250). -/
def shadowKey (u : Nat) : Nat := 2 ^ 42 + u / 2

/-- The entry index of a unit position of a cell in its partition (R234): what the poison log records of a shadow record. -/
def entryObj (s : State) (c u : Nat) : Nat := ((partCells s (cellOwner s c)).findIdx? (· == c)).getD 0 * 1048576 + u

/-- The other record of each granule in which shadow records are to be written: the granule is read, and rewritten whole with it (R32,
R250), so that its corrected words are good from then on. -/
def rewritePartners (c : Nat) (us : List Nat) (s : State) : State :=
  ((us.map (fun u => if u % 2 = 0 then u + 1 else u - 1)).filter (· ∉ us)).foldl (fun s i =>
    let x := shadowAt (cell s c) i
    if x.cls.isEmpty then s else
      scrubWords c (entryObj s c i) x.cls (modCell c (fun v => { v with shadow := tset v.shadow i { x with cls := mended x.cls } }) s)) s

/-- Writing an entry: shadow records, then raw units (R240). -/
def putEntry (ci u w : Nat) (vals masks : List Nat) (assoc : Nat) (s : State) : State :=
  modCell ci (fun c =>
    let g := nextGen (shadowAt c u).gen
    (List.range w).foldl (fun c i => { c with
      shadow := tset c.shadow (u + i) { value := vals.getD i 0, mask := masks.getD i 0, assoc := if i = 0 then assoc else 0
                                        gen := if i = 0 then g else 0, width := w, valid := true, head := i == 0 }
      units := tset c.units (u + i) { value := vals.getD i 0, mask := masks.getD i 0 } }) c) (rewritePartners ci (entryUnits u w) s)

/-- Deleting an entry: raw units as empty markers, then shadow records not valid (R240). -/
def dropEntry (ci u w : Nat) (s : State) : State :=
  modCell ci (fun c =>
    let g := nextGen (shadowAt c u).gen
    (List.range w).foldl (fun c i => { c with
      units := tdel c.units (u + i)
      shadow := tset c.shadow (u + i) { gen := if i = 0 then g else 0, width := w } }) c) (rewritePartners ci (entryUnits u w) s)

/-- The lowest free index of a width in a set of banks (R238, R326), of cells that are powered: R238 does not say whether one in a cell
that is off is free (DESIGN CHOICE, log 108). -/
def freeEntry (s : State) (p w : Nat) (banks : Nat → Bool) : Option Nat :=
  let m := (part s p).match_
  let per := 512 / w
  let bs := (List.range 2048).filter (fun b => banks b && bankWidth m b == w)
  ((partCells s p).zipIdx).findSome? (fun e =>
    if !cellUp s e.1 then none else
    bs.findSome? (fun b => ((List.range per).find? (fun i => !entryValid (cell s e.1) (b * 512 + i * w))).map
      (fun i => e.2 * 1048576 + b * 512 + i * w)))

/-! ### Uncorrectable shadow records (R253) -/

/-- The entry's shadow records hold an uncorrectable or poisoned word. -/
def shadowBad (c : Cell) (u w : Nat) : Bool := (entryUnits u w).any (fun i => (shadowAt c i).cls.any (fun x => 3 ≤ x))

/-- The index of a lost entry in its cell's poison log, once (R253); each uncorrectable word of its records is counted by R41. -/
def logShadow (c u w : Nat) (s : State) : State :=
  ((entryUnits u w).flatMap (fun i => (shadowAt (cell s c) i).cls.filter (· == 3))).foldl (fun s _ => countPoison c s)
    (logPoison c (entryObj s c u) s)

/-- The loss of an entry whose shadow record reads uncorrectable (R253): a placement entry takes its record with it. -/
def loseEntry (c u w : Nat) (s : State) : State :=
  let p := cellOwner s c
  let was := (cell s c).lostEvt
  let s := rewritePartners c (entryUnits u w) (logShadow c u w s)
  let s := modCell c (fun v =>
    let v := (List.range w).foldl (fun v i => { v with
      units := tdel v.units (u + i), shadow := tset v.shadow (u + i) { width := w } }) v
    { v with lostEntries := satAdd 0xFFFF v.lostEntries 1, lostEvt := true }) s
  let idx := entryObj s c u
  let s := modPart p (fun v => { v with
    placeRecs := v.placeRecs.filter (fun e => e.2.index != idx)
    cursors := v.cursors.map (fun e => (e.1, { e.2 with
    held := e.2.held.map (fun h => if h.index = idx then { h with gen := 0x10000 } else h) })) }) s
  let s := if was then s else raiseOf p 66 14 s
  postEvent 2 p p (toLe 1 c ++ toLe 4 idx) s

/-- The corrected words of an entry's shadow records count, and their granules are queued for rewriting (R43, R49). -/
def readFixed (c u w : Nat) (s : State) : State :=
  (entryUnits u w).foldl (fun s i => meetWords c (shadowKey i) (entryObj s c i) ((shadowAt (cell s c) i).cls.filter (· < 3)) s) s

/-- Reading an entry's shadow records: corrected words count (R49), an uncorrectable record loses the entry (R253). -/
def readShadow (c u w : Nat) (s : State) : State :=
  let s := readFixed c u w s
  if shadowBad (cell s c) u w then loseEntry c u w s else s

/-- Reading the shadow records of the entry at an index of a partition. -/
def readIndex (p idx : Nat) (s : State) : State :=
  match entryCell s p idx with
  | some c => if cellUp s c then readShadow c (idx % 1048576) (bankWidth (part s p).match_ (unitBank (idx % 1048576))) s else s
  | none => s

/-! ### Sweeps and reports (R243 to R245, R251) -/

/-- The duty bucket now (R243): filled at its cap since it was last drawn, or its cap last changed. -/
def bucketNs (s : State) (b : Bucket) (cap : Nat) : Nat := min 1440 (b.ns + (now s - b.at_) * cap * 10)

/-- Match order: priority descending, then index ascending (R244). -/
def hitBefore (a b : Hit) : Bool := b.prio < a.prio || (a.prio == b.prio && a.index < b.index)
/-- Inserting into a list in match order. -/
def putHit (l : List Hit) (h : Hit) : List Hit := l.takeWhile (hitBefore · h) ++ h :: l.dropWhile (hitBefore · h)

/-- START_AFTER admits an entry (R246). -/
def afterOk (after : Nat) (h : Hit) : Bool :=
  !bitOf after 63 || hitBefore { index := bitsOf after 0 25, prio := bitsOf after 25 9 } h

/-- The entries of one bank that match a key, in match order. -/
def bankHits (s : State) (c rank w : Nat) (k : BKey) (bank : Nat) : List Hit :=
  let v := cell s c
  let us := (v.units.filter (fun e => unitBank e.1 == bank && e.1 % w == 0)).map (·.1)
  let hits := us.filter (fun u => (List.range w).all (fun i => unitHits (unitAt v (u + i)) (k.parts.getD i 0)))
  (hits.map (fun u => { index := rank * 1048576 + u, prio := prioOf v u w, gen := (shadowAt v u).gen,
                        assoc := (shadowAt v u).assoc : Hit })).foldl (fun l h => if afterOk k.after h then putHit l h else l) []

/-- A candidate's shadow records vouch for it (R251). -/
def vouched (v : Cell) (u w : Nat) : Bool :=
  (shadowAt v u).valid && (shadowAt v u).head && (shadowAt v u).width == w &&
    (List.range w).all (fun i => (shadowAt v (u + i)).value == (unitAt v (u + i)).value &&
      (shadowAt v (u + i)).mask == (unitAt v (u + i)).mask && (shadowAt v (u + i)).cls.all (· < 3))

/-- A failing candidate or a unit that differs from its shadow record is rewritten from the shadow, or as an empty marker
(R251, R252). -/
def repairEntry (c u w : Nat) (s : State) : State :=
  if shadowBad (cell s c) u w then loseEntry c u w s
  else modCell c (fun v =>
    let v := (entryUnits u w).foldl (fun v i =>
      let sh := shadowAt v i
      { v with units := if sh.valid then tset v.units i { value := sh.value, mask := sh.mask } else tdel v.units i }) v
    { v with repairs := satAdd 0xFFFFFFFF v.repairs 1, repairEvt := true }) s

/-- A sweep of a batch compares a bank: one of its bank set and width (R242). -/
def sweepCovers (m : MatchCfg) (b : Batch) (bank : Nat) : Bool := decide (placeBank0 m ≤ bank) == b.placement && bankWidth m bank == b.width

/-- One cell's report for one key (R244, R245): bank reports of up to 8, merged and verified, up to 64 kept. Failing
candidates are answered with it, and all that the verification read. -/
def cellReport (s : State) (c rank : Nat) (b : Batch) (k : BKey) : KeyReport × List Nat × List Nat :=
  let m := (part s (cellOwner s c)).match_
  let v := cell s c
  let banks := ((v.units.map (fun e => unitBank e.1)).dedup).filter (sweepCovers m b)
  let lists := banks.map (bankHits s c rank b.width k)
  let cut := lists.filter (fun l => 8 < l.length)
  let hor := (cut.filterMap (fun l => l[7]?)).foldl (fun (a : Option Hit) h => match a with
    | none => some h
    | some g => if hitBefore h g then some h else some g) none
  let all := (lists.flatMap (fun l => l.take 8)).foldl putHit []
  let bad := all.filter (fun h => !vouched v (h.index % 1048576) b.width)
  let good := all.filter (fun h => vouched v (h.index % 1048576) b.width)
  let hor := match good[63]?, hor with
    | some h, some g => if 64 < good.length && hitBefore h g then some h else some g
    | some h, none => if 64 < good.length then some h else none
    | none, g => g
  ({ hits := good.take 64, horizon := hor.map (fun h => (h.prio, h.index)), count := sumBy lists (·.length) - bad.length
     failed := !bad.isEmpty }, bad.map (fun h => h.index % 1048576), all.map (fun h => h.index % 1048576))

/-- The held matches of a key from all reports: exact up to the earliest horizon, at most 64; with MORE and RESTART. -/
def heldOf (reports : List KeyReport) : List Hit × Bool × Nat :=
  let hor := (reports.filterMap (fun r => r.horizon.map (fun e => ({ prio := e.1, index := e.2 } : Hit)))).foldl
    (fun (a : Option Hit) h => match a with
      | none => some h
      | some g => if hitBefore h g then some h else some g) none
  let all := (reports.flatMap (·.hits)).foldl putHit []
  let exact := match hor with
    | none => all
    | some h => all.filter (fun x => x.index == h.index || hitBefore x h)
  let held := exact.take 64
  (held, decide (held.length < sumBy reports (·.count)), sumBy reports (·.count))

/-! ### Placement lookups (R205, R242, R243) -/

/-- The bucket of the placement banks after one sweep (R243): 360 ns drawn; where it holds less, the sweep begins when it has
filled so far. -/
def drawDuty (s : State) (b : Bucket) (cap : Nat) : Bucket :=
  let ns := bucketNs s b cap
  if 360 ≤ ns then { ns := ns - 360, at_ := now s }
  else { ns := 0, at_ := max (now s) b.at_ + ceilDiv (360 - ns) (cap * 10) }

/-- One sweep of the placement banks for a key in every powered cell: the cells' reports, failing candidates rewritten. -/
def placeSweep (p : Nat) (k : BKey) (draws : Bool) (s : State) : List KeyReport × State :=
  ((partCells s p).zipIdx.filter (fun e => cellUp s e.1)).foldl (fun (acc : List KeyReport × State) e =>
    let s := acc.2
    let s := if draws then modCell e.1 (fun v => { v with placeDuty := drawDuty s v.placeDuty (part s p).match_.placeDuty }) s else s
    let (r, bad, read) := cellReport s e.1 e.2 { placement := true, keys := [k] } k
    (acc.1 ++ [r], bad.foldl (fun s u => repairEntry e.1 u 2 s) (read.foldl (fun s u => readFixed e.1 u 2 s) s))) ([], s)

/-- A placement lookup of the hub: the search of MATCH_SEARCH over the placement banks, one key in a batch of its own, swept
once more where a candidate failed (R251). It is made within the step of the command that needs it (DESIGN CHOICE, log 28).
Answers the held matches. -/
def placeLookup (p key : Nat) (s : State) : List Hit × State :=
  if (part s p).match_.placeBanks = 0 then ([], s) else
  let k : BKey := { parts := [key % 2 ^ 64, key / 2 ^ 64] }
  let (rs, s) := placeSweep p k true s
  let (rs, s) := if rs.any (·.failed) then placeSweep p { k with again := true } false s else (rs, s)
  ((heldOf rs).1, s)

end Sys2Proof.Machine
end

