-- ==== Sys2Proof/Machine/Power.lean ====
section
/-! DEFINITION. Power states, clocks and voltages, envelopes, the emergency throttle and temperatures (chapter 16). -/

namespace Sys2Proof.Machine

/-! ### Settings and sensors -/

/-- Defaults of item 0x0300, POWER (R425), times in µs. -/
def powerDflt : List Nat := [1500, 800, 10000, 0, 95, 90]
/-- A setting of item POWER. -/
def powerSet (s : State) (i : Nat) : Nat := setting s 0 0x300 i powerDflt
/-- A stack refreshes at double rate (R50, R404). -/
def doubleRefresh (s : State) (c : Nat) : Bool := (cell s c).dblRefresh || (strict s && cellOwner s c != 0)

/-- Output pins by number: 0 FAULT_N, 1 PWRCYC_REQ_N, 2 THERMTRIP_N, 3 FROST_N, 4 SMB_ALERT_N (R497). -/
def drivePin (name : Nat) (high : Bool) (s : State) : State := emit (.pin name high) s
/-- Asserting FAULT_N (R399, R400, R421, R427, R445). -/
def assertFault (s : State) : State :=
  if s.node.faultN then s else drivePin 0 false (modNode (fun n => { n with faultN := true }) s)

/-- A fault for which FAULT_N stays low (R497): the error or tampered state, REF_LOSS, a thermal trip, a climb that is held, or recovery
mode (R469). -/
def faultStands (s : State) : Bool :=
  2 ≤ s.sec.mstate || s.node.refLoss || s.node.phase == .tripped || !s.dbg.halted.isEmpty || s.node.phase == .recovery

/-- FAULT_N is released once no fault stands. -/
def releaseFault (s : State) : State :=
  if s.node.faultN && !faultStands s then drivePin 0 true (modNode (fun n => { n with faultN := false }) s) else s

/-! ### Clocks and voltages (R418, R419) -/

/-- A value rounded down to a multiple of 25 MHz. -/
def mhz25 (v : Nat) : Nat := v / 25 * 25

/-- CEIL_MHZ: items 1 and 2 of R418. -/
def ceilMhz (s : State) (c : Nat) : Nat :=
  let w := (cell s c).pwr
  if w.st = 1 then min (mhz25 (powerSet s 0)) (mhz25 w.askMhz) else mhz25 (powerSet s 0)

/-- The clock that a powered cell is to have (R418). -/
def wantMhz (s : State) (c : Nat) : Nat :=
  let owned := (part s (cellOwner s c)).envelope.isSome && cellOwner s c != 0
  let v := min (ceilMhz s c) (if owned then mhz25 (cell s c).pwr.ceilMhz else 1800)
  if s.pwr.emerg then min v (mhz25 (powerSet s 1)) else v

/-- The clock in MHz of a cell's shared units (R15): they follow the core clock within their range, which ends at 1,200 MHz. -/
def sharedMhz (w : CellPwr) : Nat := min 1200 w.coreMhz
/-- Clocks in MHz of the islands whose clocks never change (R15): a memory controller, the hub, the security engine, the always-on
domain and the capture island. -/
def memMhz : Nat := 1600
def hubMhz : Nat := 1200
def secMhz : Nat := 800
def alwaysOnMhz : Nat := 100

/-- VDD_CELL before trim in µV at a core clock: linear between the points of R419. -/
def vddUv (mhz : Nat) : Nat :=
  if mhz ≤ 400 then 550000
  else if mhz ≤ 800 then 550000 + (mhz - 400) * 70000 / 400
  else if mhz ≤ 1200 then 620000 + (mhz - 800) * 80000 / 400
  else if mhz ≤ 1500 then 700000 + (mhz - 1200) * 50000 / 300
  else 750000 + (min mhz 1800 - 1500) * 100000 / 300

/-- The rail voltage in mV for a core clock: trim added, rounded up to 5 mV, limited (R419). -/
def vddMv (c mhz : Nat) : Nat :=
  let uv := vddUv mhz + (Config.vddTrim c % 51) * 1000 - 40000
  min 850 (max 550 (ceilDiv uv 5000 * 5))

/-- The state with a cell's power record changed. -/
def modCellPwr (c : Nat) (f : CellPwr → CellPwr) (s : State) : State := modCell c (fun v => { v with pwr := f v.pwr }) s

/-- Writing a rail's voltage over AVSBus, where it differs from the last one written. -/
def writeVdd (c mv : Nat) (s : State) : State :=
  if (cell s c).pwr.wroteMv = mv then s
  else emit (.avs c mv) (modCellPwr c (fun w => { w with wroteMv := mv, wroteAt := some (now s) }) s)

/-- Bringing a cell's clock to what R418 asks: a decrease at once and then the voltage; an increase waits for the voltage
(R419), and does not happen while a regulator fault of the cell stands (R420). -/
def applyClock (c : Nat) (s : State) : State :=
  let w := (cell s c).pwr
  if w.st ≤ 1 then
    let want := wantMhz s c
    if want ≤ w.coreMhz then
      writeVdd c (vddMv c want) (modCellPwr c (fun w => { w with coreMhz := want, pendMhz := none }) s)
    else if w.fault then modCellPwr c (fun w => { w with pendMhz := none }) s
    else if vddMv c want ≤ w.vddMv then modCellPwr c (fun w => { w with coreMhz := want, pendMhz := none }) s
    else writeVdd c (vddMv c want) (modCellPwr c (fun w => { w with pendMhz := some want }) s)
  else s

/-- Every powered cell's clock. -/
def applyClocks (s : State) : State := (List.range 24).foldl (fun s c => applyClock c s) s

/-! ### The emergency throttle (R424, R405) -/

/-- EMERG_THROTTLE changes for every partition at once (R408). -/
def announceThrottle (on : Bool) (s : State) : State :=
  let ps := (s.parts.filter (fun e => e.1 = 0 || e.2.exists_)).map (·.1)
  ps.foldl (fun s p =>
    let was := (part s p).throttleEvt
    let s := modPart p (fun v => { v with emerg := on, throttleEvt := true }) s
    let s := if was then s else raiseOf p 67 15 s
    postEvent 4 p p [if on then 1 else 0] s) s

/-- A cause of R424 is present: 0 PKG_POWER, 1 RAIL, 2 LOOM_T, 3 HUB_T, 4 STACK_T, 5 REG. -/
def setCause (k : Nat) (s : State) : State :=
  let s := modPwr (fun w => { w with causes := setBit w.causes k, clearing := tdel w.clearing k }) s
  let s := latchWake s
  if s.pwr.emerg then s else applyClocks (announceThrottle true (modPwr (fun w => { w with emerg := true }) s))

/-- The clear condition of a cause holds from now on, or has ceased to hold. -/
def clearCond (k : Nat) (ok : Bool) (s : State) : State :=
  if bitOf s.pwr.causes k then
    modPwr (fun w => { w with
      clearing := if !ok then tdel w.clearing k else if thas w.clearing k then w.clearing
        else tset w.clearing k (now s) }) s
  else s

/-- A cause whose clear condition has held for 10 ms goes; with the last, the throttle ends (R424). -/
def clearCause (k : Nat) (s : State) : State :=
  match tget? s.pwr.clearing k with
  | none => s
  | some t =>
    if bitOf s.pwr.causes k && decide (t + 10000 ≤ now s) then
      let s := modPwr (fun w => { w with causes := clearBit w.causes k, clearing := tdel w.clearing k }) s
      let s := if k = 5 then (List.range 24).foldl (fun s c => modCellPwr c (fun w => { w with fault := false }) s) s else s
      if s.pwr.causes = 0 then applyClocks (announceThrottle false (modPwr (fun w => { w with emerg := false }) s))
      else if k = 5 then applyClocks s else s
    else s

/-- The WARN or OVER bit sets; the vector of R482 is raised when the bit was clear. -/
def setWarn (over_ : Bool) (s : State) : State :=
  if over_ then
    let s' := modPwr (fun w => { w with overT := true }) s
    if s.pwr.overT then s' else raiseMsi 0 69 s'
  else
    let s' := modPwr (fun w => { w with warn := true }) s
    if s.pwr.warn then s' else raiseMsi 0 69 s'

/-- THERMTRIP_N: every island stops, FAULT_N asserts, THERMTRIP is latched (R427). It ends Frost (R463). -/
def tripThermal (s : State) : State :=
  if s.node.phase = .off then s
  else
    let s := assertFault (drivePin 2 false s)
    modDbg (fun d => { d with frozen := false, driving := false })
      (modPwr (fun w => { w with thermtrip := true }) (modNode (fun n => { n with phase := .tripped }) s))

/-- The node is powered and its regulators and sensors report: not off, not tripped, not frozen. -/
def sensing (s : State) : Bool := s.node.phase != .off && s.node.phase != .tripped && !s.dbg.frozen

/-- THERMTRIP (R427). -/
def execThermtrip (s : State) : Host.Outcome State Fault Refusal := .next (tripThermal s)

/-- DIE_TEMP_REPORT (R426): dies 0 to 23 are the Loom dies of the cells, 24 the hub die. -/
def execDieTempReport (die temp : Nat) (s : State) : Host.Outcome State Fault Refusal :=
  .next (if !sensing s || 24 < die then s else
    let s := if die < 24 then modCellPwr die (fun w => { w with loomT := temp }) s else modPwr (fun w => { w with hubTemp := temp }) s
    let s := if powerSet s 4 ≤ temp then setWarn false s else s
    let s := if 105 ≤ temp then setWarn true s else s
    let k := if die < 24 then 2 else 3
    let hottest := if die < 24 then (List.range 24).foldl (fun m c => max m (cell s c).pwr.loomT) 0 else temp
    let s := if 100 ≤ temp then setCause k s else clearCond k (decide (hottest < 97)) s
    if 115 ≤ temp then tripThermal s else s)

/-- STACK_TEMP_REPORT (R50, R426). -/
def execStackTempReport (c temp : Nat) (s : State) : Host.Outcome State Fault Refusal :=
  .next (if !sensing s || 24 ≤ c then s else
    let s := modCell c (fun v => { v with
      pwr := { v.pwr with temp := temp }, dblRefresh := if 84 ≤ temp then true else if temp < 82 then false else v.dblRefresh }) s
    let s := if powerSet s 5 ≤ temp then setWarn false s else s
    let hottest := (List.range 24).foldl (fun m c => max m (cell s c).pwr.temp) 0
    let s := if 93 ≤ temp then setCause 4 s else clearCond 4 (decide (hottest < 90)) s
    if 100 ≤ temp then tripThermal s else s)

/-- THROTTLE_CLEAR (R424). -/
def execThrottleClear (cause : Nat) (s : State) : Host.Outcome State Fault Refusal :=
  .next (if sensing s then clearCause cause s else s)

/-! ### Regulators (R420) -/

/-- A regulator cause of a cell: its clock stays at the lower of old and new until the cause clears. -/
def regFault (c : Nat) (s : State) : State :=
  setCause 5 (modCellPwr c (fun w => { w with fault := true, pendMhz := none }) s)

/-- The cause REG is clear as far as the rails now show: no alert, and every voltage written has been reached. -/
def regClear (s : State) : Bool :=
  (List.range 24).all (fun c => !(cell s c).pwr.alert && (cell s c).pwr.wroteAt.isNone)

/-- What a poll reports of one rail. -/
def pollRail (s : State) (r : RailRead) : State :=
  if 24 ≤ r.cell then s else
  let s := modCellPwr r.cell (fun w => { w with vddMv := r.mv, alert := r.alert }) s
  let s := if r.alert then regFault r.cell s else s
  if 95000 < r.ma then setCause 1 s else s

/-- AVS_POLL (R420, R424). -/
def execAvsPoll (packageW : Nat) (peak : Bool) (rails : List RailRead) (s : State) : Host.Outcome State Fault Refusal :=
  .next (if !sensing s then s else
    let s := modPwr (fun w => { w with pkgW := packageW }) s
    let s := if peak || s.pwr.budget < packageW then setCause 0 s
      else clearCond 0 (decide (packageW * 100 < 95 * s.pwr.budget)) s
    let s := rails.foldl pollRail s
    let s := if rails.any (fun r => 95000 < r.ma) then s else clearCond 1 (rails.all (fun r => r.ma < 85000)) s
    clearCond 5 (regClear s) s)

/-- The POWER_STATE of a cell or of the node whose transition has ended replies with the state reached and the µs it
took (R328, R410). -/
def powerReply (id state_ : Nat) (s : State) : State :=
  let t := now s - (tget {} s.cmds id).at_
  conclude id (okRet (toLe 1 state_ ++ zeros 3 ++ toLe 4 t)) s

/-- A cell has no clock change to wait for. -/
def clockSettled (s : State) (c : Nat) : Bool := (cell s c).pwr.pendMhz.isNone

/-- Ending the transitions between Active and Reduced whose clocks have settled. -/
def settlePower (s : State) : State :=
  let s := (List.range 24).foldl (fun s c =>
    let w := (cell s c).pwr
    match w.cmd with
    | some id => if w.st ≤ 1 && clockSettled s c && w.target.isNone then
        powerReply id w.st (modCellPwr c (fun w => { w with cmd := none }) s) else s
    | none => s) s
  match s.pwr.nodeCmd with
  | some id =>
    if (List.range 24).all (clockSettled s) then
      powerReply id (u8 (tget {} s.cmds id).block 2) (modPwr (fun w => { w with nodeCmd := none }) s)
    else s
  | none => s

/-- AVS_VOLTAGE_REACHED (R419): the waiting clock increase happens. -/
def execAvsVoltageReached (c mv : Nat) (s : State) : Host.Outcome State Fault Refusal :=
  .next (if !sensing s || 24 ≤ c then s else
    let w := (cell s c).pwr
    let s := modCellPwr c (fun w => { w with vddMv := mv, wroteAt := if w.wroteMv ≤ mv then none else w.wroteAt }) s
    let s := match w.pendMhz with
      | some f => if vddMv c f ≤ mv && !w.fault then modCellPwr c (fun w => { w with coreMhz := f, pendMhz := none }) s else s
      | none => s
    settlePower (clearCond 5 (regClear s) s))

/-- AVS_TIMEOUT (R420): a rail that has not reported its voltage reached within 500 µs of a write. -/
def execAvsTimeout (c : Nat) (s : State) : Host.Outcome State Fault Refusal :=
  .next (if !sensing s || 24 ≤ c then s else
    match (cell s c).pwr.wroteAt with
    | some t => if t + 500 ≤ now s then settlePower (regFault c s) else s
    | none => s)

/-! ### Envelopes (R422, R423) -/

/-- ENVELOPE_TICK (R423): the draw of each partition over the last 1 ms moves its cells' envelope ceilings. -/
def execEnvelopeTick (draws : List (Nat × Nat)) (s : State) : Host.Outcome State Fault Refusal :=
  .next (if !sensing s then s else
    let top := powerSet s 0
    applyClocks (draws.foldl (fun s e =>
      let p := e.1
      if p = 0 || !(part s p).exists_ then s else
      let s := modPart p (fun v => { v with drawW := e.2 }) s
      match (part s p).envelope with
      | none => s
      | some w =>
        let move (v : Nat) : Nat :=
          if w < e.2 then max 400 (min v top - 25)
          else if e.2 * 100 < 95 * w then min top (min v top + 25)
          else v
        (partCells s p).foldl (fun s c => modCellPwr c (fun q => { q with ceilMhz := move q.ceilMhz }) s) s) s))

/-- ENV_LIMITED of PWR_PART_STAT (R423). -/
def envLimited (s : State) (p : Nat) : Bool :=
  (part s p).envelope.isSome && (partCells s p).any (fun c => (cell s c).pwr.ceilMhz < powerSet s 0)

/-- BUDGET_SET (R328, R422). -/
def cmdBudgetSet : Handler := fun _ c s =>
  let p := u16 c.block 0
  let w := u16 c.block 4
  if !blockIs c 6 || !zeroIn c.block 2 4 then (s, some (err stInvalid))
  else if p = 0xFFFF then
    let v := min 3000 (max 500 w)
    (modPwr (fun q => { q with budget := v }) s, some (okRet (toLe 2 v)))
  else if p ≠ 0 && !(part s p).exists_ then (s, some (err stNotFound))
  else
    let n := (partCells s p).length
    let v := if w = 0 || n = 0 then none else some (min (115 * n) (max (20 * n) w))
    (applyClocks (modPart p (fun q => { q with envelope := v }) s), some (okRet (toLe 2 (v.getD 0))))

/-- BUDGET_SET. -/
def execBudgetSet (src : Source) (pkt : Packet) (s : State) : Host.Outcome State Fault Refusal :=
  .next (submitOp 0x0802 src pkt cmdBudgetSet s)

/-! ### Cells off (R411, R412) -/

/-- No work is left in a cell: ring, cores, merge entries, waiting dispatches, sweeps, bank elements. -/
def cellIdle (s : State) (c : Nat) : Bool :=
  let v := cell s c
  v.waiting.isEmpty && v.ring.isEmpty && v.entries.isEmpty && v.reports.isEmpty && v.outbox.isEmpty && v.sweeping.isNone && v.sweeps.isEmpty &&
    v.cores.all (fun e => e.2.held.isEmpty) && v.banks.all (fun e => e.2.isEmpty)

/-- A cell holds something that STATE 3 would lose (R412). -/
def cellHolds (s : State) (c : Nat) : Bool :=
  let v := cell s c
  let p := cellOwner s c
  let q := part s p
  !v.pages.isEmpty || !v.places.isEmpty || !v.lends.isEmpty || !v.lent.isEmpty || !v.digests.isEmpty || !v.units.isEmpty ||
    v.shadow.any (fun e => e.2.valid) || q.gsets.any (fun g => g.2.pages.any (fun x => x.cell == c)) ||
    q.regions.any (fun r => r.2.cell == c)

/-- The stack of a cell loses its contents: pages, records and raw rows. -/
def loseStack (c : Nat) (s : State) : State :=
  { s with
    raw := s.raw.filter (fun e => e.1 / 2 ^ 37 != c)
    pmem := s.pmem.filter (fun e => e.1 / 2 ^ 31 != c) }

/-- Taking a cell to Cell-off: no new dispatch from now on, work already admitted runs on (R411). -/
def enterCellOff (c target : Nat) (cmd : Option Nat) (s : State) : State :=
  modCellPwr c (fun w => { w with prev := w.st, st := 5, target := some target, cmd := cmd, at_ := now s }) s

/-- A cell's units are powered down: each takes its next incarnation (R435). -/
def powerDownUnits (c : Nat) (s : State) : State :=
  modCell c (fun v => { v with
    inc := (v.inc + 1) % 65536, cores := v.cores.map (fun e => (e.1, { e.2 with inc := (e.2.inc + 1) % 65536 })) }) s

/-- CELL_OFF_DRAINED (R411): the stack enters self-refresh or loses power and the rail is gated. -/
def execCellOffDrained (c : Nat) (s : State) : Host.Outcome State Fault Refusal :=
  .next (if !nodeLive s then s else
    let w := (cell s c).pwr
    if w.st = 5 && cellIdle s c then
      let t := w.target.getD 2
      let s := modCellPwr c (fun w => { w with
        st := t, target := none, cmd := none, coreMhz := 0, vddMv := 0, wroteMv := 0,
                                              wroteAt := none, pendMhz := none }) (powerDownUnits c s)
      let s := if t = 3 then loseStack c s else s
      match w.cmd with
      | some id => powerReply id t s
      | none => s
    else s)

/-- Starting a cell's return from Cell-off. -/
def leaveCellOff (c target mhz : Nat) (cmd : Option Nat) (s : State) : State :=
  modCellPwr c (fun w => { w with
    prev := w.st, st := 6, target := some target, cmd := cmd, at_ := now s,
                                  askMhz := if target = 1 then mhz else w.askMhz }) s

/-- A cell back at power with its rail at the voltage of its clock, waiting for nothing. -/
def powerUp (c st : Nat) (s : State) : State :=
  let s := modCellPwr c (fun w => { w with st := st, target := none, cmd := none }) s
  let f := wantMhz s c
  emit (.avs c (vddMv c f)) (modCellPwr c (fun w => { w with
    coreMhz := f, vddMv := vddMv c f, wroteMv := vddMv c f,
                                                            wroteAt := none, pendMhz := none }) s)

end Sys2Proof.Machine
end

