-- ==== Sys2Proof/Machine/FabricOps.lean ====
section
/-! DEFINITION. Placement lookups, span leases and what a node sends over fabric connections (R199 to R222). -/

namespace Sys2Proof.Machine

/-! ### Placement records (R201 to R205) -/

/-- Cared bits of a 128-bit placement mask. -/
def caredBits (m : Nat) : Nat := (bitList m 128).length

/-- The 128-bit key of a sequence's home record (kind 0x10) or span record (kind 0x11) (R201). -/
def placeKey (kind job seq span : Nat) : Nat := kind + job * 2 ^ 8 + seq * 2 ^ 40 + span * 2 ^ 88

/-- Whether a record's entry matches a key. -/
def placeHits (r : PlaceRec) (key : Nat) : Bool := Nat.land (Nat.xor r.key key) r.mask == 0

/-- The records whose entry matches a key, in match order: longest mask, then lowest entry index (R201). -/
def placeMatches (s : State) (p key : Nat) : List (Nat × PlaceRec) :=
  ((part s p).placeRecs.filter (fun e => placeHits e.2 key)).foldl (fun acc e =>
    let before (x : Nat × PlaceRec) : Bool :=
      caredBits e.2.mask < caredBits x.2.mask || (caredBits e.2.mask == caredBits x.2.mask && x.2.index < e.2.index)
    acc.takeWhile before ++ e :: acc.dropWhile before) []

/-- The winning home record of a sequence, and whether it ties (MULTI). -/
def homeRec (s : State) (p job seq : Nat) : Option (Nat × PlaceRec × Bool) :=
  match placeMatches s p (placeKey 0x10 job seq 0) with
  | [] => none
  | e :: rest => some (e.1, e.2, rest.any (fun x => caredBits x.2.mask == caredBits e.2.mask))

/-- A home record that names this node and, with HOME_LEASE, has not expired (R217). -/
def homeValid (s : State) (r : PlaceRec) : Bool :=
  r.owner == s.node.nodeId && !r.expired && (!bitOf r.flags 4 || decide (now s < r.leaseEnd))

/-- STALE_EPOCH with detail 1: the home's node ID and HOME_EPOCH in RETURN (R302). -/
def homeMoved (node epoch : Nat) : Reply :=
  { status := stStale, detail := 1, ret := toLe 2 node ++ zeros 6 ++ toLe 8 epoch }

/-- A member has told this node, home under `epoch`, of a home of a greater HOME_EPOCH (R209, R217). -/
def deposedBy (s : State) (p job seq epoch : Nat) : Option Deposed :=
  (part s p).deposed.find? (fun d => d.job == job && d.seq == seq && decide (epoch < d.epoch))

/-- This node acts as home of a sequence under its winning home record. -/
def isHome (s : State) (p job seq : Nat) : Bool :=
  (homeRec s p job seq).elim false (fun e => homeValid s e.2.1 && (deposedBy s p job seq e.2.1.epoch).isNone)

/-- The greatest HOME_EPOCH that this node has met for a sequence, with the home that it names (R206). -/
def metHome (s : State) (p job seq : Nat) : Nat × Nat :=
  let x := tget (0, 0) (part s p).met (seqKey job seq)
  match homeRec s p job seq with
  | some (_, r, _) => if x.2 ≤ r.epoch then (r.owner, r.epoch) else x
  | none => x

/-- What a node that is not home under its winning record answers (R205, R217): the home that the record names, or one of a greater
HOME_EPOCH where this node has met or been told of one; of an expired record the new home if one is known. None while it is home. -/
def awayFrom (s : State) (p job seq : Nat) (r : PlaceRec) : Option Reply :=
  let m := metHome s p job seq
  if r.owner ≠ s.node.nodeId then some (homeMoved m.1 m.2)
  else match deposedBy s p job seq r.epoch with
  | some d => some (homeMoved d.node d.epoch)
  | none => if homeValid s r then none else some (if r.epoch < m.2 then homeMoved m.1 m.2 else homeMoved 0 0)

/-- A reply to a message addressed to this node as home: none while it is (R205, R217). -/
def homeFor (s : State) (p job seq : Nat) : Option Reply :=
  (homeRec s p job seq).bind (fun e => awayFrom s p job seq e.2.1)

/-- The span records of a sequence in ascending span order: (record index, record). -/
def spanRecs (s : State) (p job seq : Nat) : List (Nat × PlaceRec) :=
  let l := (part s p).placeRecs.filter (fun e => e.2.kind == 0x11 && e.2.job == job && e.2.seq == seq)
  (List.range 64).filterMap (fun n => l.find? (fun e => e.2.span == n))

/-- OPEN of a span record (R199). -/
def spanOpen (r : PlaceRec) : Bool := bitOf r.flags 5
/-- CODED of a span record. -/
def spanCoded (r : PlaceRec) : Bool := bitOf r.flags 2
/-- MIRRORED and MIRROR_SYNC of a span record. -/
def spanSynced (r : PlaceRec) : Bool := bitOf r.flags 0 && bitOf r.flags 1
/-- Whether a page index lies in a span (R199). -/
def spanHas (r : PlaceRec) (page : Nat) : Bool := r.firstPage ≤ page && (spanOpen r || page ≤ r.lastPage)
/-- The state with a placement record changed. -/
def modRec (p i : Nat) (f : PlaceRec → PlaceRec) (s : State) : State :=
  modPart p (fun v => { v with placeRecs := tmod v.placeRecs i f }) s

/-- This node owns a coded span of the sequence that meets pages `lo` to `hi` (R228). -/
def codedIn (s : State) (p job seq lo hi : Nat) : Bool :=
  (spanRecs s p job seq).any (fun e => spanCoded e.2 && e.2.owner == s.node.nodeId && decide (e.2.firstPage ≤ hi) &&
    (spanOpen e.2 || decide (lo ≤ e.2.lastPage)))
/-- This node owns a coded span of the sequence. -/
def codedHere (s : State) (p job seq : Nat) : Bool := codedIn s p job seq 0 65535

/-- A home that has not read the lengths of a sequence that others hold (R223): it has no map of the sequence, or holds it as a
member. -/
def unlearned (s : State) (p job seq : Nat) : Bool :=
  (spanRecs s p job seq).any (fun e => e.2.owner != s.node.nodeId) && (seqOf s p (seqKey job seq)).elim true (·.member)

/-- The home lookup of R205: a search of the placement banks, whose winner names the home record, with PLACE_AMBIGUOUS of R201
where another match has its priority; a redirect when another node is home or the home record has expired. -/
def homeCheck (p job seq : Nat) (s : State) : Option Reply × State :=
  let (held, s) := placeLookup p (placeKey 0x10 job seq 0) s
  match held with
  | [] => (none, s)
  | h :: rest =>
    match tget? (part s p).placeRecs (h.assoc % 2 ^ 20) with
    | none => (none, s)
    | some r =>
      let s := if rest.any (fun x => x.prio == h.prio) then postEvent 16 p 0 (toLe 4 h.index) s else s
      match awayFrom s p job seq r with
      | some e => (some e, s)
      | none => (if unlearned s p job seq then some (err stRetry 100) else none, s)

/-! ### Leases held (R218 to R222) -/

/-- The span state that this node holds, with its key. -/
def spanSt (s : State) (p job seq : Nat) (mirror : Bool) : Option (Nat × SpanSt) :=
  (part s p).spans.find? (fun e => e.2.job == job && e.2.seq == seq && e.2.mirror == mirror)
/-- The state with a span state changed. -/
def modSpan (p i : Nat) (f : SpanSt → SpanSt) (s : State) : State :=
  modPart p (fun v => { v with spans := tmod v.spans i f }) s
/-- Adding a span state. -/
def addSpan (p : Nat) (x : SpanSt) (s : State) : State :=
  modPart p (fun v => { v with spans := v.spans ++ [((v.spans.map (·.1)).foldl max 0 + 1, x)] }) s

/-- A lease is unfenced and unexpired (R218, R222). -/
def leaseValid (s : State) (x : SpanSt) : Bool := x.valid && !x.fenced && decide (now s < x.endAt)
/-- A lease that still serves reads: unfenced, unexpired or expired less than GRACE ago (R208). -/
def leaseReads (s : State) (p : Nat) (x : SpanSt) : Bool :=
  x.valid && !x.fenced && decide (now s < x.endAt + setting s p 0x20 4 fabricDflt)

/-- A fabric setting of R213, times in µs. -/
def fabricSet (s : State) (p i : Nat) : Nat := setting s p 0x20 i fabricDflt
/-- MEMBER_WAIT under which a request runs (R213, R294). -/
def memberWait (s : State) (x : Ctx) : Nat := heldSetting (tget {} s.cmds x.cmd) 0x20 0 fabricDflt

/-- Fencing a lease (R222). -/
def fence (p i : Nat) (s : State) : State := modSpan p i (fun x => { x with fenced := true }) s

/-- Fencing every lease that a partition holds, and ending every lease that it has granted (R222, R440). -/
def fenceAll (p : Nat) (s : State) : State :=
  modPart p (fun v => { v with
    spans := v.spans.map (fun e => (e.1, { e.2 with fenced := true }))
    placeRecs := v.placeRecs.map (fun e => (e.1, if e.2.kind == 0x11 then { e.2 with holder := 0xFFFF, leaseEnd := 0 } else e.2)) }) s

/-- A sequence holds an unexpired ownership lease, as holder or as home of its own span (R86, R217). -/
def leasedSeq (s : State) (p job seq : Nat) : Bool :=
  (part s p).spans.any (fun e => e.2.job == job && e.2.seq == seq && !e.2.mirror && leaseValid s e.2) ||
  ((spanRecs s p job seq).any (fun e => e.2.owner == s.node.nodeId) && isHome s p job seq &&
    ((spanSt s p job seq false).elim true (fun x => !x.2.fenced)))

/-- A greater HOME_EPOCH, or a greater epoch for the span that the node holds, fences its lease (R222). -/
def epochFence (p job seq span spanEpoch homeEpoch : Nat) (s : State) : State :=
  (part s p).spans.foldl (fun s e =>
    if e.2.job = job && e.2.seq = seq then
      modSpan p e.1 (fun x => { x with
        fenced := x.fenced || (!x.mirror && ((x.span == span && decide (x.epoch < spanEpoch)) || decide (x.homeEpoch < homeEpoch)))
        homeEpoch := max x.homeEpoch homeEpoch, seen := if x.span == span then max x.seen spanEpoch else x.seen }) s
    else s) s

/-! ### Fabric extension and sends (R206, R277) -/

/-- SPAN_EPOCH of a sub-request. -/
def extEpoch (c : Cmd) : Nat := u64 c.ext 0
/-- HOME_NODE of a sub-request. -/
def extHome (c : Cmd) : Nat := u16 c.ext 8 % 4096
/-- SPAN of a sub-request. -/
def extSpan (c : Cmd) : Nat := u8 c.ext 0xA
/-- ROLE of a sub-request. -/
def extRole (c : Cmd) : Nat := u8 c.ext 0xB
/-- N_TOTAL of a sub-request. -/
def extTotal (c : Cmd) : Nat := u32 c.ext 0xC

/-- The fabric connection of a partition to a node: Spray mode, READY (R206 text). -/
def fabricConn (s : State) (p node : Nat) : Option Nat :=
  (s.conns.find? (fun e => e.2.part == p && e.2.kind == 2 && e.2.peerNode == node && e.2.mode == 1 && e.2.state == 1)).map (·.1)

/-- A sub-request's bytes: header, fabric extension and parameter block (R206, R277). -/
def subPacket (op tag peerPart cls epoch homeEpoch gen spanEpoch home span role total : Nat) (block : List Byte) : List Byte :=
  toLe 2 op ++ [0x80, 1] ++ toLe 4 tag ++ toLe 2 peerPart ++ toLe 2 cls ++ toLe 4 (16 + block.length) ++ toLe 8 0 ++
    toLe 8 epoch ++ toLe 8 homeEpoch ++ toLe 8 gen ++ zeros 16 ++
    toLe 8 spanEpoch ++ toLe 2 home ++ [BitVec.ofNat 8 span, BitVec.ofNat 8 role] ++ toLe 4 total ++ block

/-- The next tag of the node's own sends. -/
def newTag (s : State) : Nat × State := (s.node.nextTag % 2 ^ 32, modNode (fun n => { n with nextTag := n.nextTag + 1 }) s)

/-- Sending a packet on a fabric connection. `kind` codes: 1 sub-request, 2 lease command, 3 lent page, 4 lend release,
5 recall, 6 write-through, 7 resynchronisation page, 8 parity stream, 9 loss report; questions (log 90): 11 a page of a mirror, 12 pages of
a code group, 14 lengths, 15 that a group is coded, 16 resynchronisation, 17 completion of streams; 20 an answer. -/
def sendFabric (ci kind : Nat) (nums : List Nat) (b : List Byte) (s : State) : State :=
  emit (.fabric (connId s ci) kind nums b) (sendMsg ci { bytes := b, cls := (connOf s ci).cls, purpose := .fabric } s)

/-- The bytes of a question to another node for which the table has no row (log 90): 0xFF00 + kind, the tag, and the numbers that it
names, eight bytes each. -/
def questionBytes (kind : Nat) (nums : List Nat) : List Byte :=
  toLe 2 (0xFF00 + kind) ++ zeros 2 ++ toLe 4 (nums.headD 0) ++ (nums.drop 1).flatMap (toLe 8)

/-- Asking another node: `nums` are the tag and what the question names. -/
def askNode (ci kind : Nat) (nums : List Nat) (s : State) : State := sendFabric ci kind nums (questionBytes kind nums) s

/-- The kind, tag and numbers of a question. -/
def questionOf (b : List Byte) : Option (Nat × Nat × List Nat) :=
  let kind := u8 b 0
  if 8 ≤ b.length && b.length % 8 = 0 && u8 b 1 = 0xFF && u16 b 2 = 0 && kind ∈ [11, 12, 14, 15, 16, 17] then
    some (kind, u32 b 4, (List.range (b.length / 8 - 1)).map (fun i => u64 b (8 + 8 * i)))
  else none

/-- Sending a FABRIC command and awaiting its reply. -/
def askFabric (p ci op epoch homeEpoch spanEpoch home span role total : Nat) (block : List Byte) (w : Await) (s : State) : State :=
  let (tag, s) := newTag s
  let b := subPacket op tag (connOf s ci).peerPart (connOf s ci).cls epoch homeEpoch (part s p).gen spanEpoch home span role total block
  let s := modPart p (fun v => { v with awaits := v.awaits ++ [{ w with conn := connId s ci, tag := tag, at_ := now s }] }) s
  sendFabric ci w.kind [tag] b s


/-- DATA of a member event: node, JOB_ID, SEQ_ID, span (R315). -/
def memberData (node job seq span : Nat) : List Byte := toLe 2 node ++ toLe 4 job ++ toLe 6 seq ++ toLe 1 span

/-- HOME_EPOCH that the node holds for a sequence: its home record's EPOCH where it is home, else the greatest that it has met. -/
def myHomeEpoch (s : State) (p job seq : Nat) : Nat :=
  if isHome s p job seq then (homeRec s p job seq).elim 0 (fun e => e.2.1.epoch) else (metHome s p job seq).2

/-- A message brings a HOME_EPOCH and a span epoch (R206, R222): the greatest HOME_EPOCH is kept, a lease that is behind is
fenced. -/
def meetEpochs (p job seq span spanEpoch home homeEpoch : Nat) (s : State) : State :=
  let s := if (metHome s p job seq).2 < homeEpoch then modPart p (fun v => { v with met := tset v.met (seqKey job seq) (home, homeEpoch) }) s
    else s
  epochFence p job seq span spanEpoch homeEpoch s

/-- `meetEpochs` of a FABRIC command. -/
def meetCmd (c : Cmd) (job seq : Nat) (s : State) : State :=
  if c.fabric then meetEpochs c.part job seq (extSpan c) (extEpoch c) (extHome c) c.homeEpoch s else s

/-- STALE_EPOCH of a FABRIC command whose sender's HOME_EPOCH is behind one that this node has met (R206). -/
def homeBehind (s : State) (c : Cmd) (job seq : Nat) : Option Reply :=
  let x := metHome s c.part job seq
  if c.fabric && decide (c.homeEpoch < x.2) then some (homeMoved x.1 x.2) else none

/-- The checks of a member before it serves an owner sub-request (R206, R208). `write` is the number of a command that writes: it asks for
an unexpired lease, and one that is not being handed off, but for a part accepted before the handoff (R220). -/
def memberCheck (s : State) (c : Cmd) (job seq : Nat) (write : Option Nat) : Option Reply :=
  let p := c.part
  let sp := extSpan c
  match homeBehind s c job seq with
  | some r => some r
  | none =>
    if (seqOf s p (seqKey job seq)).isNone then some (err stNotFound)
    else match (spanRecs s p job seq).find? (fun e => e.2.span == sp && e.2.owner == s.node.nodeId) with
    | none => some (err stNoLease sp)
    | some _ =>
      match spanSt s p job seq false with
      | none => if 0 < extEpoch c then some (err stStale 3) else some (err stNoLease sp)
      | some (_, x) =>
        if x.epoch < extEpoch c then some (err stStale 3)
        else if extEpoch c < x.epoch then some (err stStale 2)
        else if !(write.elim (leaseReads s p x) (fun id => leaseValid s x && x.handoff.elim true (fun h => decide (id < h.1)))) then some (err stNoLease sp)
        else none

/-- The first token position of the span that this node holds of a sequence as a member: its LENGTH begins there, since the
tokens before it lie in other spans (R200; log 89). -/
def spanFloor (s : State) (c : Cmd) (job seq : Nat) : Nat :=
  if !c.fabric then 0 else
  ((spanRecs s c.part job seq).find? (fun e => e.2.owner == s.node.nodeId || e.2.mirror == s.node.nodeId)).elim 0 (fun e => 64 * e.2.firstPage)

/-- The record of a span of a sequence. -/
def spanRec (s : State) (p job seq span : Nat) : Option (Nat × PlaceRec) :=
  (spanRecs s p job seq).find? (fun e => e.2.span == span)

end Sys2Proof.Machine
end

