-- ==== Sys2Proof/Machine/Seqs.lean ====
section
/-! DEFINITION. Sequences: SEQ_CREATE, SEQ_DESTROY, the turn of edits and extensions (R71), truncation, pins, sharing,
POOL_SET and the table slots of FORMAT_TABLE_LOAD. -/

namespace Sys2Proof.Machine

/-! ### Names, ranges and turns -/

/-- The sequence key that a parameter block names (R301). -/
def blockSeq (b : List Byte) (off : Nat := 0) : Nat := seqKey (u32 b off) (u48 b (off + 4))

/-- Placement hash h (R75). -/
def seqHash (job seq : Nat) : Nat := crc32c (toLe 4 job ++ toLe 6 seq)

/-- The range block of R317: sequence, layers, KV heads, page positions. -/
structure RangeArg where
  key : Nat := 0
  first : Nat := 0
  count : Nat := 0
  kvs : List Nat := []
  page : Nat := 0
  pages : Nat := 0
  deriving DecidableEq, Repr, Inhabited

/-- The range block of a command (R317). -/
def rangeArg (b : List Byte) : RangeArg :=
  { key := blockSeq b, first := u16 b 0x0A, count := u16 b 0x0C, kvs := bitList (u64 b 0x10) 64, page := u32 b 0x18, pages := u32 b 0x1C }

/-- A range block within its sequence (R317); `nopages` for DIGEST_BUILD. -/
def rangeOk (q : Seq) (b : List Byte) (nopages : Bool) : Bool :=
  let a := rangeArg b
  1 ≤ a.count && a.first + a.count ≤ q.layers && u16 b 0x0E == 0 && !a.kvs.isEmpty && a.kvs.all (· < q.kvHeads) &&
    (if nopages then a.page == 0 && a.pages == 0 else 1 ≤ a.pages && a.pages ≤ 65536 && a.page + a.pages ≤ 65536)

/-- The positions of a range in ascending layer, KV head and page index. -/
def rangePos (a : RangeArg) : List Nat :=
  (List.range a.count).flatMap (fun l => a.kvs.flatMap (fun j => (List.range a.pages).map (fun k => posKey (a.first + l) j (a.page + k))))

/-- Whether an edit or extension must wait for the edits accepted before it (R71). -/
def mustQueue (q : Seq) (c : Cmd) : Bool := !c.rerun && (q.editing || !q.waiting.isEmpty)
/-- A command that runs over several steps holds EDITING of its sequence until it completes (R71). -/
def holdEdit (p key id : Nat) (s : State) : State :=
  modCmd id (fun c => { c with editing := true }) (modSeq p key (fun q => { q with editing := true }) s)
/-- Joining the queue of the sequence. -/
def queueEdit (p key id : Nat) (s : State) : State := modSeq p key (fun q => { q with waiting := q.waiting ++ [id] }) s

/-- CONFLICT of an edit whose EPOCH is not the current generation (R71): the generation at `off` of RETURN. -/
def genConflict (c : Cmd) (q : Seq) (off : Nat) : Option Reply :=
  if c.epoch ≠ 0 && c.epoch ≠ q.gen then
    some { status := stConflict, ret := zeros off ++ toLe 4 q.gen }
  else none

/-- A gradient set that covers a position of the sequence, pages `lo` to `hi`, keeps its handles (R191, R192). -/
def gradHolds (s : State) (p : Nat) (q : Seq) (layer : Nat) (kvs : List Nat) (lo hi : Nat) : Bool :=
  (part s p).gsets.any (fun e => e.2.job == q.job && e.2.seq == q.seq && e.2.layer == layer &&
    kvs.any (bitOf e.2.kvSet) && decide (e.2.lo ≤ e.2.hi && e.2.lo ≤ hi && lo ≤ e.2.hi))

/-! ### Lent pages of the owner (R91, R94) -/

/-- Releasing the page of a lend entry at its neighbour; the entry is freed on the confirmation (R94). -/
def releaseLent (p h : Nat) (s : State) : State :=
  match lendOf s h with
  | none => s
  | some e =>
    let s := modCell (hCell h) (fun c => { c with lends := tmod c.lends (hSlot h) (fun e => { e with releasing := true }) }) s
    match connIdx s e.conn with
    | none => s
    | some ci =>
      let (tag, s) := newTag s
      let s := modPart p (fun v => { v with awaits := v.awaits ++ [{ conn := e.conn, tag := tag, kind := 4, job := e.job, arg := h, at_ := now s }] }) s
      sendFabric ci 4 [(part s p).gen, e.handle, tag] [] s

/-- Dropping the handle at a position: a page loses a reference, a stub releases its page (R73, R82, R94). -/
def dropHandle (p h : Nat) (s : State) : State :=
  if isStub h then releaseLent p h s else if isPage h then dropRef p h s else s

/-! ### SEQ_CREATE (R64, R316) -/

/-- The sequence that a SEQ_CREATE describes. -/
def createArgs (b : List Byte) : Seq :=
  { job := u32 b 0, seq := u48 b 4, format := u8 b 0xA, dim := u8 b 0xB, cls := u8 b 0xC, placement := u8 b 0xD
    layers := u16 b 0xE, kvHeads := u8 b 0x10, scaling := u8 b 0x11, kComp := u8 b 0x12, vComp := u8 b 0x13
    hash := seqHash (u32 b 0) (u48 b 4) }

/-- The parameter block of a SEQ_CREATE that makes a sequence (R316). -/
def createBlock (q : Seq) : List Byte :=
  toLe 4 q.job ++ toLe 6 q.seq ++ [q.format, q.dim, q.cls, q.placement].map (BitVec.ofNat 8) ++ toLe 2 q.layers ++
    [q.kvHeads, q.scaling, q.kComp, q.vComp].map (BitVec.ofNat 8) ++ zeros 12

/-- The fields of a SEQ_CREATE are in their ranges (R58, R67, R101, R113). -/
def createOk (s : State) (p : Nat) (q : Seq) : Bool :=
  supported q.cls q.format q.dim && q.placement ≤ 1 && 1 ≤ q.layers && q.layers ≤ 504 && 1 ≤ q.kvHeads && q.kvHeads ≤ 64 &&
  compOk q.format q.kComp && compOk q.format q.vComp &&
  (if isInt q.format then q.scaling == 1 || q.scaling == 2 else q.scaling == 0) &&
  (q.scaling != 2 || ((tget? (part s p).cal q.job).elim true
    (fun c => c.layers == q.layers && c.kvHeads == q.kvHeads && c.dim == q.dim)))

/-- SEQ_CREATE as a sub-request: the home makes the member sequence of an owner (ROLE 0) or a mirror (ROLE 1) (R200). -/
def createMember (p : Nat) (q : Seq) (r : PlaceRec) (node role : Nat) (s : State) : State :=
  match fabricConn s p node with
  | none => s
  | some ci =>
    askFabric p ci 0x0101 0 (myHomeEpoch s p q.job q.seq) r.epoch s.node.nodeId r.span role 0 (createBlock q)
      { kind := 13, job := q.job, seq := q.seq, span := r.span } s

/-- The members that a span record names, of those that `fresh` picks: its owner and its mirror, but this node (R200). -/
def createMembers (p : Nat) (q : Seq) (r : PlaceRec) (fresh : Nat → Bool) (s : State) : State :=
  let me := s.node.nodeId
  let s := if r.owner ≠ me && fresh r.owner then createMember p q r r.owner 0 s else s
  if r.mirror ≠ me && r.mirror ≠ 0xFFFF && fresh r.mirror then createMember p q r r.mirror 1 s else s

/-- SEQ_CREATE; with FABRIC it makes a member sequence of R200, with ROLE 1 a mirror's. The home of a sequence whose spans are placed
makes its members with it. -/
def cmdSeqCreate : Handler := fun _ c s =>
  let q := createArgs c.block
  let key := seqKey q.job q.seq
  let p := c.part
  let cells := partCells s p
  if (homeBehind s c q.job q.seq).isSome then (s, homeBehind s c q.job q.seq)
  else if !blockIs c 0x14 || !createOk s p q then (s, some (err stInvalid))
  else if q.scaling = 2 && !thas (part s p).cal q.job then (s, some (err stNotFound))
  else if thas (part s p).seqs key then (s, some (err stConflict))
  else if (poolCells s p).isEmpty then (s, some (err stUnavail))
  else if 131072 ≤ ((part s p).seqs.filter (fun e => e.2.hash % cells.length == q.hash % cells.length)).length then
    (s, some (err stBusy))
  else if poolLevel s p < c.pool.lowWm then (s, some (retryNow s c))
  else
    match allocBlock p (blockCells s p q 0) 1 s with
    | none => (s, some (retryNow s c))
    | some (b, s) =>
      let s := setSeq p key { q with blocks := [(0, b)], member := c.fabric } s
      let s := if c.fabric then meetCmd c q.job q.seq s
        else if isHome s p q.job q.seq then (spanRecs s p q.job q.seq).foldl (fun s e => createMembers p q e.2 (fun _ => true) s) s else s
      let s := if c.fabric && extRole c = 1 then
          addSpan p { job := q.job, seq := q.seq, span := extSpan c, mirror := true, stream := extEpoch c, epoch := extEpoch c,
                      homeEpoch := c.homeEpoch, home := extHome c } s
        else s
      (s, some (okRet (toLe 4 q.hash ++ toLe 4 1)))

/-- SEQ_CREATE. -/
def execSeqCreate (src : Source) (pkt : Packet) (s : State) : Host.Outcome State Fault Refusal :=
  .next (submitOp 0x0101 src pkt cmdSeqCreate s)

/-! ### SEQ_DESTROY (R74, R82, R519) -/

/-- The effect of SEQ_DESTROY, which eviction shares (R86): pins released, handles dropped, blocks and digest objects
retired, gradient sets discarded (R192), the entry freed. Edits and extensions that waited for their turn meet no
sequence, and complete with NOT_FOUND (R64, R71). -/
def destroySeq (p key : Nat) (s : State) : State :=
  match seqOf s p key with
  | none => s
  | some q =>
    let s := q.pins.foldl (fun s n => n.pos.foldl (fun s pos => unpinPage (handleAt q pos) n.t1 s) s) s
    let s := q.map.foldl (fun s e => dropHandle p e.2 s) s
    let s := q.blocks.foldl (fun s e => retire p false e.2.handle e.2.units s) s
    let mine (d : DigestObj) : Bool := d.job == q.job && d.seq == q.seq
    let s := (partCells s p).foldl (fun s c =>
      let ds := (cell s c).digests.filter mine
      let s := ds.foldl (fun s d => retire p false d.handle d.units s) s
      modCell c (fun v => { v with digests := v.digests.filter (fun d => !mine d) }) s) s
    let s := modPart p (fun v => { v with
      seqs := tdel v.seqs key
      gsets := v.gsets.filter (fun e => !(e.2.job == q.job && e.2.seq == q.seq))
      spans := v.spans.filter (fun e => !(e.2.job == q.job && e.2.seq == q.seq)) }) s
    reclaim p (q.waiting.foldl (fun s id => conclude id (err stNotFound) s) s)

/-- SEQ_DESTROY. -/
def cmdSeqDestroy : Handler := fun id c s =>
  let key := blockSeq c.block
  match seqOf s c.part key with
  | none => (s, some (err stNotFound))
  | some q =>
    if !blockIs c 10 then (s, some (err stInvalid))
    else if mustQueue q c then (queueEdit c.part key id s, none)
    else if codedHere s c.part q.job q.seq then (s, some (err stConflict))
    else (destroySeq c.part key s, some (okRet []))

/-- SEQ_DESTROY. -/
def execSeqDestroy (src : Source) (pkt : Packet) (s : State) : Host.Outcome State Fault Refusal :=
  .next (submitOp 0x0102 src pkt cmdSeqDestroy s)

/-! ### PAGE_PIN (R89, R518) -/

/-- The T1 bytes of a cell that pins would hold (R89): each pinned copy once. -/
def t1Pinned (s : State) (c : Nat) (extra : List Nat) : Nat :=
  sumBy ((cell s c).pages.filter (fun e => 0 < e.2.t1Holds || extra.any (fun h => hCell h == c && hSlot h == e.1)))
    (fun e => t1Size e.2.cls)

/-- Pinning one mapped page. -/
def pinPage (h : Nat) (t1 : Bool) (s : State) : State :=
  let s := modPage h (fun g => { g with
    pins := g.pins + 1, t1Holds := if t1 then g.t1Holds + 1 else g.t1Holds
    r := { g.r with pinned := true, gen := if g.pins = 0 then (g.r.gen + 1) % 2 ^ 32 else g.r.gen } }) s
  if t1 then t1Take h s else s

/-- The most recent pin that covers a position with a T1 bit: its index in the pin list, newest last (R518). -/
def lastPin (pins : List Pin) (pos : Nat) (t1 : Bool) : Option Nat :=
  (List.range pins.length).foldl (fun a i => if (pins.getD i {}).t1 == t1 && pos ∈ (pins.getD i {}).pos then some i else a) none

/-- PAGE_PIN and UNPIN. A PAGE_PIN whose range holds no mapped page raises no PIN_COUNT: such a pin would never be ended by
R518: a DESIGN CHOICE (log 77). -/
def cmdPagePin : Handler := fun _ c s =>
  let a := rangeArg c.block
  let p := c.part
  let fl := u8 c.block 0x20
  match seqOf s p a.key with
  | none => (s, some (err stNotFound))
  | some q =>
    if c.block.length ≠ 0x21 || !rangeOk q c.block false || 4 ≤ fl then (s, some (err stInvalid))
    else
      let t1 := bitOf fl 1
      let pos := (rangePos a).filter (fun k => isPage (handleAt q k))
      if bitOf fl 0 then
        if pos.any (fun k => (lastPin q.pins k t1).isNone) then (s, some (err stConflict))
        else
          let (pins, s) := pos.foldl (fun (e : List Pin × State) k =>
            match lastPin e.1 k t1 with
            | none => e
            | some i => (e.1.modify i (fun n => { n with pos := n.pos.filter (· != k) }), unpinPage (handleAt q k) t1 e.2)) (q.pins, s)
          let left := pins.filter (fun n => !n.pos.isEmpty)
          let n := q.pinCount - (pins.length - left.length)
          (modSeq p a.key (fun q => { q with pins := left, pinCount := n }) s, some (okRet (toLe 4 pos.length ++ toLe 2 n)))
      else
        let hs := pos.map (handleAt q)
        let full (h : Nat) : Bool := (pageOf s h).elim false (fun g => g.pins == 0xFFFF || (t1 && g.t1Holds == 0xFFFF))
        if q.pinCount = 0xFFFF || hs.any full ||
            (t1 && (partCells s p).any (fun k => decide (4 * 2 ^ 20 < t1Pinned s k hs))) then (s, some (err stBusy))
        else
          let s := hs.foldl (fun s h => pinPage h t1 s) s
          let n := if pos.isEmpty then q.pinCount else q.pinCount + 1
          let s := modSeq p a.key (fun q => { q with
            pinCount := n, pins := if pos.isEmpty then q.pins else q.pins ++ [{ t1 := t1, pos := pos }] }) s
          (s, some (okRet (toLe 4 pos.length ++ toLe 2 n)))

/-- PAGE_PIN. -/
def execPagePin (src : Source) (pkt : Packet) (s : State) : Host.Outcome State Fault Refusal :=
  .next (submitOp 0x0104 src pkt cmdPagePin s)

/-! ### PAGE_SHARE (R78) -/

/-- PAGE_SHARE: one edit of the target. -/
def cmdPageShare : Handler := fun id c s =>
  let a := rangeArg c.block
  let p := c.part
  let tkey := blockSeq c.block 0x20
  match seqOf s p a.key, seqOf s p tkey with
  | some q, some t =>
    let pos := rangePos a
    if c.block.length ≠ 0x2A || !rangeOk q c.block false || !(a.first + a.count ≤ t.layers && a.kvs.all (· < t.kvHeads)) ||
        q.format ≠ t.format || q.dim ≠ t.dim || q.cls ≠ t.cls || q.scaling ≠ t.scaling then
      (s, some (err stInvalid))
    else if mustQueue t c then (queueEdit p tkey id s, none)
    else if pos.any (fun k => handleAt t k ≠ 0) then (s, some (err stInvalid))
    else
      match genConflict c t 4 with
      | some r => (s, some r)
      | none =>
        if codedIn s p t.job t.seq a.page (a.page + a.pages - 1) || pos.any (fun k => isStub (handleAt q k)) then (s, some (err stConflict))
        else
          let got := pos.filter (fun k => isPage (handleAt q k))
          if got.any (fun k => (pageOf s (handleAt q k)).elim false (fun g => g.refs == 16777215)) then (s, some (err stBusy))
          else if reclFull s p (editItems s t got []) then (s, some (err stRetry 10))
          else if (poolCells s p).isEmpty then (s, some (err stUnavail))
          else
            let t' := { t with
              map := got.foldl (fun m k => tset m k (handleAt q k)) t.map
              len := (List.range a.count).foldl (fun l i =>
                tset l (a.first + i) (max (seqLen t (a.first + i)) (min (seqLen q (a.first + i)) (64 * (a.page + a.pages))))) t.len
              age := if got.isEmpty then t.age else 0 }
            match editSwap p t' got s with
            | none => (s, some (retryNow s c))
            | some (t', s) =>
              let s := got.foldl (fun s k => modPage (handleAt q k) (fun g => { g with
                refs := g.refs + 1, age := 0
                r := { g.r with shared := true, gen := if g.r.shared then g.r.gen else (g.r.gen + 1) % 2 ^ 32 } }) s) s
              let s := modSeq p a.key (fun q => { q with prefixed := true, age := if got.isEmpty then q.age else 0 }) (setSeq p tkey t' s)
              (reclaim p s, some (okRet (toLe 4 got.length ++ toLe 4 t'.gen)))
  | _, _ => (s, some (err stNotFound))

/-- PAGE_SHARE. -/
def execPageShare (src : Source) (pkt : Packet) (s : State) : Host.Outcome State Fault Refusal :=
  .next (submitOp 0x0105 src pkt cmdPageShare s)

/-! ### POOL_SET (R83) and FORMAT_TABLE_LOAD (R122, R123) -/

/-- POOL_SET. -/
def cmdPoolSet : Handler := fun _ c s =>
  let b := c.block
  let n := u8 b 0xF
  let v : PoolCfg := { highWm := u16 b 0, lowWm := u16 b 2, hardFloor := u16 b 4, sweepMs := u32 b 8, minEvictAge := u8 b 0xC
                       t1Promote := u8 b 0xD, lendAccept := u8 b 0xE == 1, lendJobs := (List.range n).map (fun i => u32 b (0x10 + 4 * i)) }
  if b.length ≠ 0x50 || u16 b 6 ≠ 0 || v.highWm < 2 || 500 < v.highWm || v.lowWm < 1 || 499 < v.lowWm || 498 < v.hardFloor ||
      v.sweepMs < 10 || 60000 < v.sweepMs || v.minEvictAge = 0 || 1 < u8 b 0xE || 16 < n ||
      !(v.hardFloor < v.lowWm && v.lowWm < v.highWm) then (s, some (err stInvalid))
  else (modPart c.part (fun q => { q with pool := v }) s, some (okRet []))

/-- POOL_SET. -/
def execPoolSet (src : Source) (pkt : Packet) (s : State) : Host.Outcome State Fault Refusal :=
  .next (submitOp 0x010A src pkt cmdPoolSet s)

/-- The slot that FORMAT_TABLE_LOAD takes: never loaded first, ascending; else the count that reached zero earliest (R123). -/
def loadSlot (s : State) (p : Nat) : Option Nat :=
  let t (i : Nat) : TableSlot := tget {} (part s p).tables i
  match (List.range 4).find? (fun i => !(t i).loaded) with
  | some i => some i
  | none => minBy (fun i => (t i).zeroAt) ((List.range 4).filter (fun i => (t i).refs == 0))

/-- A decode table is well formed (R122): its format code, zero bytes and finite entries. -/
def tableOk (b : List Byte) : Bool :=
  let f := u8 b 0
  b.length == 64 && (f == 1 || f == 2 || f == 3) && zeroIn b 1 0x10 && zeroIn b 0x24 0x40 &&
    (f == 3 || (slice b 0x10 0x14).all (fun x => fFinite (ffmtOf f) x.toNat))

/-- FORMAT_TABLE_LOAD. -/
def cmdFormatTableLoad : Handler := fun _ c s =>
  if !tableOk c.block then (s, some (err stInvalid))
  else match loadSlot s c.part with
  | none => (s, some (err stBusy))
  | some i =>
    let t := s.node.nextTag
    let s := modNode (fun n => { n with nextTag := n.nextTag + 1 }) s
    let s := modTable c.part i (fun x => { x with
      loaded := true, bytes := c.block, loadCount := (x.loadCount + 1) % 65536, zeroAt := t }) s
    (s, some (okRet ([BitVec.ofNat 8 i, 0] ++ toLe 2 (tget {} (part s c.part).tables i).loadCount)))

/-- FORMAT_TABLE_LOAD. -/
def execFormatTableLoad (src : Source) (pkt : Packet) (s : State) : Host.Outcome State Fault Refusal :=
  .next (submitOp 0x010B src pkt cmdFormatTableLoad s)

end Sys2Proof.Machine
end

