-- ==== Sys2Proof/Machine/Append.lean ====
section
/-! DEFINITION. APPEND (R63, R70, R80, R81, R97, R104, R214 to R216, R307, R308, R517), and what SEQ_MAP_EDIT shares with it. -/

namespace Sys2Proof.Machine

/-! ### Parameters (R307) -/

/-- The parameters of an APPEND; data offset, bytes per element. -/
structure AppendArg where
  key : Nat := 0
  layer : Nat := 0
  first : Nat := 0
  n : Nat := 0
  fmt : Nat := 0
  tref : Nat := 0
  loadCount : Nat := 0
  deriving DecidableEq, Repr, Inhabited

/-- The parameters of an APPEND. -/
def appendArg (b : List Byte) : AppendArg :=
  { key := blockSeq b, layer := u16 b 0xA, first := u32 b 0xC, n := u16 b 0x10, fmt := u8 b 0x12, tref := u8 b 0x13, loadCount := u16 b 0x14 }

/-- Bytes per element of an incoming format. -/
def inBytes (fmt : Nat) : Nat := if isFp8 fmt then 1 else 2

/-- IN_FORMAT is BF16 or FP16, or the sequence's own floating format (R97, R307). -/
def inFmtOk (q : Seq) (fmt : Nat) : Bool := fmt == 5 || fmt == 6 || (fmt == q.format && isFp8 fmt)

/-- TABLE_REF and LOAD_COUNT agree with whether a dense mode is used (R307). -/
def trefOk (dense : Bool) (tref lc : Nat) : Bool :=
  bitsOf tref 2 5 == 0 && bitOf tref 7 == dense && (bitOf tref 7 || (tref == 0 && lc == 0))

/-- The sequence uses a dense mode. -/
def seqDense (q : Seq) : Bool := isDense q.kComp || isDense q.vComp

/-- The vector number `i` of a data area of vectors of d elements. -/
def dataVec (b : List Byte) (base d e i : Nat) : List Nat :=
  (List.range d).map (fun x => leAt b (base + (i * d + x) * e) e)

/-- Whether the data hold a NaN or an infinity (R97). -/
def dataBad (b : List Byte) (base fmt count : Nat) : Bool :=
  (List.range count).any (fun i => !fFinite (ffmtOf fmt) (leAt b (base + i * inBytes fmt) (inBytes fmt)))

/-- The parameters fit the sequence, whatever its length (R97, R301, R307); that FIRST_POS is not beyond LENGTH[L] (R215)
is a matter of the APPEND's turn. -/
def appendOk (q : Seq) (c : Cmd) : Bool :=
  let a := appendArg c.block
  let d := dimOf q.dim
  let e := inBytes a.fmt
  a.layer < q.layers && 1 ≤ a.n && a.n ≤ 4096 && a.first + a.n ≤ 4194304 && inFmtOk q a.fmt &&
  trefOk (seqDense q) a.tref a.loadCount && zeroIn c.block 0x16 0x20 &&
  c.block.length == 0x20 + 2 * q.kvHeads * a.n * d * e && !dataBad c.block 0x20 a.fmt (2 * q.kvHeads * a.n * d)

/-- The K or V codes of token i of the APPEND for a KV head (R307). -/
def appendVec (q : Seq) (c : Cmd) (kv i : Nat) (v : Bool) : List Nat :=
  let a := appendArg c.block
  dataVec c.block 0x20 (dimOf q.dim) (inBytes a.fmt) ((2 * kv + b2n v) * a.n + i)

/-- CONFLICT of a table pair that does not fit: the slot's LOAD_COUNT at 0x04 (R125, R308). -/
def tableConflict (lc : Nat) : Reply := { status := stConflict, detail := 2, ret := zeros 4 ++ toLe 2 lc }

/-- The table check of REFILL, made when the edit runs (R318). -/
def tableNow (s : State) (p format tref lc : Nat) : Option Reply :=
  if !bitOf tref 7 then none
  else
    let t : TableSlot := tget {} (part s p).tables (tref % 4)
    if t.loadCount = lc && t.loaded && u8 t.bytes 0 = format then none
    else some (tableConflict t.loadCount)

/-- The table check of R125 for an APPEND or PAGE_MIGRATE, whose pair was checked and whose reference was taken at
acceptance; a TFORMAT that is not the sequence's is met here where the sequence did not exist then. -/
def tableCheck (s : State) (c : Cmd) (format tref : Nat) : Option Reply :=
  if !bitOf tref 7 then none
  else
    let t : TableSlot := tget {} (part s c.part).tables (tref % 4)
    if c.tref.isSome && u8 t.bytes 0 = format then none
    else some (tableConflict (c.tableBad.getD t.loadCount))

/-! ### Comparing tokens that stand (R215) -/

/-- The pages of a token range, ascending: page index, first and last slot. -/
def pageRuns (lo hi : Nat) : List (Nat × Nat × Nat) :=
  if hi ≤ lo then [] else
    (List.range (ceilDiv hi 64 - lo / 64)).map (fun i =>
      let k := lo / 64 + i
      (k, max lo (64 * k) - 64 * k, min hi (64 * k + 64) - 64 * k))

/-- The unfilled page (R79) or stub-with-cut-slots that keeps an APPEND of tokens [lo, hi) from writing, if any: its first
token position. -/
def blockedPage (q : Seq) (layer lo hi : Nat) : Option Nat :=
  let len := seqLen q layer
  ((pageRuns lo hi).find? (fun r => (List.range q.kvHeads).any (fun j =>
    let h := handleAt q (posKey layer j r.1)
    (h = 0 && decide (64 * r.1 < len)) || (isStub h && decide (len < 64 * r.1 + r.2.2))))).map (fun r => 64 * r.1)

/-- A page as it stands for a comparison, with its decode table: of this node, or as it was when it was lent (R215). -/
def heldPage (s : State) (p h : Nat) : WorkPage × DTable :=
  if isStub h then
    let e := (lendOf s h).getD {}
    let n := e.image.tiles.length / 2
    ({ r := recOf e.image.record, k := e.image.tiles.take n, v := e.image.tiles.drop n }, dtableOf e.table)
  else
    let w := loadPage s p h
    (w, slotTable s p (w.r.table % 4))

/-- A lent page is lost, or was lent with poison (R94, R516). -/
def lendBad (s : State) (h : Nat) : Bool :=
  (lendOf s h).elim true (fun e => e.lost || !e.image.poison.isEmpty || bitOf (u16 e.image.record 6) 1)

/-- Pages of tokens [lo, hi) that are poisoned or lost after the committed reads of the comparison (R45). A comparison is no
committed use: it changes no age (R84, R85). -/
def readRuns (p : Nat) (q : Seq) (layer lo hi : Nat) (s : State) : Bool × State :=
  let poss := (pageRuns lo hi).flatMap (fun r => (List.range q.kvHeads).map (fun j => posKey layer j r.1))
  let s := walkReads p q poss s
  (pageRuns lo hi).foldl (fun acc r => (List.range q.kvHeads).foldl (fun (acc : Bool × State) j =>
    let h := handleAt q (posKey layer j r.1)
    let s := acc.2
    if isStub h then (acc.1 || lendBad s h, s)
    else match pageOf s h with
    | none => acc
    | some g =>
      let (bad, s) := commitRead h (if r.2.1 < g.r.tokens then fetchGrans g.r g.cls r.2.2 else []) s
      (acc.1 || bad || g.r.poisoned, s)) acc) (!(lostHandles s p q poss).isEmpty, s)

/-- The page at a position cannot be compared: it is poisoned or lost (R45). -/
def badPage (s : State) (p : Nat) (q : Seq) (pos : Nat) : Bool :=
  let h := handleAt q pos
  (if isStub h then lendBad s h else (pageOf s h).elim false (·.r.poisoned)) || !(lostHandles s p q [pos]).isEmpty

/-- The first token of [lo, hi) whose content differs from what stands, if any (R215); a page that cannot be compared differs in nothing:
CONFLICT goes before PAGE_POISONED (R303). -/
def firstDiffer (p : Nat) (q : Seq) (c : Cmd) (layer lo hi : Nat) (s : State) : Option Nat :=
  let a := appendArg c.block
  let bound := fVal fFP16 (escBound c)
  ((List.range (hi - lo)).map (lo + ·)).find? (fun t => (List.range q.kvHeads).any (fun j =>
    let (w, dt) := heldPage s p (handleAt q (posKey layer j (t / 64)))
    !badPage s p q (posKey layer j (t / 64)) && !sameToken w dt bound (t % 64) a.fmt (appendVec q c j (t - a.first) false) (appendVec q c j (t - a.first) true)))

/-! ### Writing tokens -/

/-- What an APPEND has made ready: the sequence with its map, positions newly mapped, positions copied. -/
structure Ready where
  q : Seq := {}
  new : List Nat := []
  copied : List Nat := []
  deriving DecidableEq, Repr, Inhabited

/-- A fresh page at a position, its slot cleared, its record new (R62, R70, R77). -/
def freshPage (p : Nat) (q : Seq) (pos table : Nat) (s : State) : Option (Nat × State) :=
  match allocPage p (pageCells s p q (posLayer pos) (posKv pos) (posPage pos)) q.cls none s with
  | none => none
  | some (h, s) =>
    let (uid, s) := newUid p 1 s
    let r := newRec s p q (posLayer pos) (posKv pos) (posPage pos) uid table
    let s := if bitOf r.table 7 then takeTable p (r.table % 4) s else s
    some (h, zeroSlot h (slotUnits q.cls) (modPage h (fun g => { g with r := r }) s))

/-- A copy of a shared page (R80, R81): bank-side in the same cell and bank colour, by the memory controller in the same
cell, or by the hub in the cells that follow its own, wrapping (R77). None where no slot is free; whether the copying reads
met poison. -/
def copyPage (p : Nat) (q : Seq) (h : Nat) (s : State) : Option (Nat × Bool × State) :=
  let c := hCell h
  let u := slotUnits q.cls
  let fill (h' : Nat) (s : State) : State :=
    match pageOf s h with
    | none => s
    | some g =>
      let s := if bitOf g.r.table 7 then takeTable p (g.r.table % 4) s else s
      carryRec h h' (modPage h' (fun n => { n with r := { g.r with shared := false, pinned := false } }) s)
  match allocPage p (if cellUp s c then [c] else []) q.cls (some (hSlot h % 32)) s with
  | some (h', s) =>
    let (bad, s) := commitRead h [] s
    some (h', bad, fill h' (copySlot h h' u s))
  | none =>
    let next := (rotate (partCells s p) (((partCells s p).filter (· ≤ c)).length)).filter (fun x => cellUp s x && x != c)
    match allocPage p ((if cellUp s c then [c] else []) ++ next) q.cls none s with
    | none => none
    | some (h', s) =>
      let (bad, s) := commitRead h (List.range (128 * u)) s
      some (h', bad, fill h' (copySlotClean h h' u s))

/-- Making ready every page that tokens [lo, hi) of a layer need; none where an allocation fails. -/
def makeReady (p : Nat) (layer table lo hi : Nat) (r : Ready) (s : State) : Option (Ready × Bool × State) :=
  let todo := (pageRuns lo hi).flatMap (fun e => (List.range r.q.kvHeads).map (fun j => posKey layer j e.1))
  todo.foldl (fun (acc : Option (Ready × Bool × State)) pos =>
    match acc with
    | none => none
    | some (r, bad, s) =>
      let h := handleAt r.q pos
      if h = 0 then
        match freshPage p r.q pos table s with
        | none => none
        | some (h, s) => some ({ r with q := { r.q with map := tset r.q.map pos h }, new := r.new ++ [pos] }, bad, s)
      else if ((pageOf s h).elim false (·.r.shared)) then
        match copyPage p r.q h s with
        | none => none
        | some (h', b, s) => some ({ r with q := { r.q with map := tset r.q.map pos h' }, copied := r.copied ++ [pos] }, bad || b, s)
      else some (r, bad, s)) (some (r, false, s))

/-- The committed reads of the copies that an APPEND refused for poison had begun. -/
def copyReads (q : Seq) (layer lo hi : Nat) (s : State) : State :=
  (pageRuns lo hi).foldl (fun s e => (List.range q.kvHeads).foldl (fun s j =>
    let h := handleAt q (posKey layer j e.1)
    if (pageOf s h).elim false (·.r.shared) then (commitRead h (List.range (128 * slotUnits q.cls)) s).2 else s) s) s

/-- How many pages the tokens [lo, hi) of a layer would allocate. -/
def pagesNeeded (s : State) (q : Seq) (layer lo hi : Nat) : Nat :=
  ((pageRuns lo hi).flatMap (fun e => (List.range q.kvHeads).filter (fun j =>
    let h := handleAt q (posKey layer j e.1)
    h = 0 || (pageOf s h).elim false (·.r.shared)))).length

/-- Writing token slots [t0, t1) of a page; `vec kv-or-v slot` gives the incoming codes (R63, R98 to R101, R155, R517). -/
def writeTokens (c : Cmd) (h fmt t0 t1 : Nat) (vec : Bool → Nat → List Nat) (s : State) : Clips × State :=
  let p := c.part
  let w := loadPage s p h
  let dt := slotTable s p (w.r.table % 4)
  let bound := fVal fFP16 (escBound c)
  let old := w.r.tokens
  let step (acc : WorkPage × Clips) (i : Nat) : WorkPage × Clips :=
    let t := t0 + i
    let kc := vec false t
    let vc := vec true t
    let kb := tokBlocks acc.1.r dt bound false t fmt kc
    let vb := tokBlocks acc.1.r dt bound true t fmt vc
    let ch (bs : List TokBlock) : List Nat := bs.zipIdx.flatMap (fun e => e.1.clips.map (· + 64 * e.2))
    (putToken acc.1 dt t kb vb,
     if acc.1.r.scaling = 2 then
       { acc.2 with
         kv := acc.2.kv ++ [kc.map (fVal (ffmtOf fmt))], vv := acc.2.vv ++ [vc.map (fVal (ffmtOf fmt))]
         kc := acc.2.kc ++ ch kb, vc := acc.2.vc ++ ch vb }
     else acc.2)
  let (w, cl) := (List.range (t1 - t0)).foldl step (w, {})
  let w := finishRec w dt (old == 0) (t0 < old) t0 t1
  let held := (pageOf s h).elim false (fun g => 0 < g.t1Holds)
  let s := storePage p h w t0 t1 (dropT1 h s)
  (cl, if held then t1Take h s else s)

/-- Adding clip counts. -/
def addClips (a b : Clips) : Clips := { a with kv := a.kv ++ b.kv, vv := a.vv ++ b.vv, kc := a.kc ++ b.kc, vc := a.vc ++ b.vc }

/-- The cells of the pages that tokens [lo, hi) lie in are all powered (R411). -/
def runsUp (s : State) (q : Seq) (layer lo hi : Nat) : Bool :=
  (pageRuns lo hi).all (fun e => (List.range q.kvHeads).all (fun j =>
    let h := handleAt q (posKey layer j e.1)
    !isPage h || cellUp s (hCell h)))

/-- Truncations whose cut slots the write of tokens [lo, hi) would rewrite while a walker may still read them (R73). -/
def cutBlocks (s : State) (p : Nat) (q : Seq) (layer lo hi : Nat) : Bool :=
  q.cuts.any (fun t => t.layer == layer && decide (lo < t.hi && t.lo < hi) &&
    s.ctxs.any (fun e => e.2.part == p && e.2.walker && decide (e.2.eps ≤ t.eps)))

/-- One local run of an APPEND over its tokens at positions [lo, hi): what it answers, and the counts written, matched. A
refused run changes nothing but what its committed reads met (R41, R45, R77, R81). The sequence's pins on a shared page that
the run copies are released, and the copy has PINNED clear: a DESIGN CHOICE (log 76). -/
def appendRun (p : Nat) (q : Seq) (c : Cmd) (lo hi : Nat) (s0 : State) : Except Reply (Nat × Nat) × State :=
  let a := appendArg c.block
  let len := max (seqLen q a.layer) (spanFloor s0 c q.job q.seq)
  let mid := max lo (min hi len)
  if !runsUp s0 q a.layer lo hi then (.error (err stUnavail), s0) else
  match tableCheck s0 c q.format a.tref with
  | some r => (.error r, s0)
  | none =>
    match blockedPage q a.layer lo hi with
    | some t => (.error { status := stConflict, detail := 4, ret := toLe 4 t }, s0)
    | none =>
      let (bad, s) := readRuns p q a.layer lo hi s0
      match firstDiffer p q c a.layer lo mid s with
      | some t =>
        (.error { status := stConflict, detail := if codedIn s p q.job q.seq (t / 64) (t / 64) then 3 else 1, ret := toLe 4 t }, s)
      | none =>
        if gradHolds s p q a.layer (List.range q.kvHeads) (mid / 64) ((hi - 1) / 64) && (pageRuns mid hi).any (fun e => (List.range q.kvHeads).any (fun j =>
            ((pageOf s (handleAt q (posKey a.layer j e.1))).elim false (·.r.shared)))) then (.error (err stConflict), s)
        else if bad then (.error (err stPoisoned 1), s)
        else if hi ≤ mid then (.ok (0, hi - lo), s)
        else
          let need := pagesNeeded s q a.layer mid hi
          if 0 < need && belowFloor s c then (.error (retryNow s c), s)
          else match makeReady p a.layer (a.tref % 4) mid hi { q := q } s with
            | none => (.error (retryNow s c), s)
            | some (r, bad, s1) =>
              if bad then (.error (err stPoisoned 1), copyReads q a.layer mid hi s)
              else if !r.copied.isEmpty && reclFull s p (editItems s q (r.copied ++ r.new) (r.copied.map (handleAt q))) then (.error (err stRetry 10), s)
              else
                let blocks := if r.copied.isEmpty then
                    (extendBlocks p r.q r.new s1).map (fun e => ({ r.q with blocks := e.1 }, e.2))
                  else editSwap p r.q (r.copied ++ r.new) s1
                match blocks with
                | none => (.error (retryNow s c), s)
                | some (q1, s1) =>
                  let key := a.key
                  let s1 := r.copied.foldl (fun s k => dropRef p (handleAt q k) (releasePos p key k s)) s1
                  let pinsNow := (seqOf s1 p key).elim (q1.pins, q1.pinCount) (fun x => (x.pins, x.pinCount))
                  let s1 := setSeq p key { q1 with pins := pinsNow.1, pinCount := pinsNow.2, waiting := q.waiting, age := 0 } s1
                  let s1 := (List.range q.kvHeads).foldl (fun s j =>
                    let (cl, s) := (pageRuns mid hi).foldl (fun (e : Clips × State) run =>
                      let (x, s) := writeTokens c (handleAt q1 (posKey a.layer j run.1)) a.fmt run.2.1 run.2.2
                        (fun v t => appendVec q c j (64 * run.1 + t - a.first) v) e.2
                      (addClips e.1 x, s)) ({ format := q.format, dim := q.dim }, s)
                    if cl.kv.isEmpty then s else modCtx (c.ctx.getD 0) (fun x => { x with clips := x.clips ++ [(j, cl)] }) s) s1
                  let s1 := modSeq p key (fun x => { x with
                    len := tset x.len a.layer (max hi (seqLen x a.layer))
                    cuts := x.cuts.filter (fun t => !(t.layer == a.layer && decide (mid < t.hi && t.lo < hi))) }) s1
                  (.ok (hi - mid, mid - lo), reclaim p s1)

/-- RETURN of APPEND (R308). -/
def appendRet (s : State) (p key layer written matched : Nat) : Reply :=
  let q := (seqOf s p key).getD {}
  okRet (toLe 4 (seqLen q layer) ++ toLe 4 written ++ toLe 4 matched ++ toLe 4 q.gen)

/-! ### APPEND across nodes (R214, R216) -/

/-- SPAN_LOW when the home's length has come within SPAN_WARN pages of the last bounded span's end while no open span is
placed (R214). -/
def spanLow (c : Cmd) (q : Seq) (layer before after : Nat) (s : State) : State :=
  let p := c.part
  let rs := spanRecs s p q.job q.seq
  if rs.isEmpty || rs.any (fun e => spanOpen e.2) then s
  else
    let last := rs.foldl (fun m e => max m e.2.lastPage) 0
    let near (l : Nat) : Bool := decide (last < ceilDiv l 64 + heldSetting c 0x20 5 fabricDflt)
    if near after && !near before then postEvent 20 p 0 (toLe 4 q.job ++ toLe 6 q.seq ++ toLe 2 layer) s else s

/-- The bytes of an APPEND that carries tokens [lo, hi) of another: same fields, FIRST_POS, N_TOKENS and DATA of the part. -/
def partBlock (q : Seq) (c : Cmd) (lo hi : Nat) : List Byte :=
  let a := appendArg c.block
  let sz := dimOf q.dim * inBytes a.fmt
  slice c.block 0 0xC ++ toLe 4 lo ++ toLe 2 (hi - lo) ++ slice c.block 0x12 0xE ++
    (List.range (2 * q.kvHeads)).flatMap (fun v => slice c.block (0x20 + (v * a.n + (lo - a.first)) * sz) ((hi - lo) * sz))

/-- Forwarding what an owner has written to the span's mirror (R216): answers whether a write-through was sent (1), is not called
for (0), or cannot reach the mirror, which counts as the mirror's failure (2). -/
def writeThroughSend (p : Nat) (q : Seq) (c : Cmd) (span : PlaceRec) (epoch lo hi id : Nat) (s : State) : Nat × State :=
  if !bitOf span.flags 0 || span.mirror = 0xFFFF || span.mirror = s.node.nodeId then (0, s)
  else
    match fabricConn s p span.mirror with
    | none => (2, s)
    | some ci =>
      (1, askFabric p ci 0x0103 0 (myHomeEpoch s p q.job q.seq) epoch s.node.nodeId span.span 1 0 (partBlock q c lo hi)
        { kind := 6, job := q.job, seq := q.seq, span := span.span, cmd := some id } s)

/-- A span's record of a sequence with MIRROR_SYNC clear: its mirror has failed (R216). -/
def mirrorGone (p job seq span : Nat) (s : State) : State :=
  (spanRec s p job seq span).elim s (fun e => modRec p e.1 (fun r => { r with flags := clearBit r.flags 1 }) s)

/-- The home clears MIRROR_SYNC and posts MIRROR_LOST (R216). -/
def mirrorLost (p ri : Nat) (r : PlaceRec) (s : State) : State :=
  postEvent 19 p 0 (memberData r.mirror r.job r.seq r.span) (modRec p ri (fun r => { r with flags := clearBit r.flags 1 }) s)

/-- The parts of a distributed APPEND, one per span it meets: span record index, or none where nothing is placed, with the
token range (R214). -/
def appendParts (s : State) (p : Nat) (q : Seq) (lo hi : Nat) : List (Option Nat × Nat × Nat) :=
  let rs := spanRecs s p q.job q.seq
  let parts := rs.filterMap (fun e =>
    let b := max lo (64 * e.2.firstPage)
    let t := if spanOpen e.2 then hi else min hi (64 * (e.2.lastPage + 1))
    if b < t then some (some e.1, b, t) else none)
  let top := parts.foldl (fun m e => max m e.2.2) lo
  if top < hi then parts ++ [(none, top, hi)] else parts

/-- Running the parts of a distributed APPEND in turn: a local part at once, a remote one by a sub-request whose reply
continues it (R214). `w`, `m` count what earlier parts wrote and matched. -/
def runParts (id : Nat) (c : Cmd) (fuel lo w m : Nat) (s : State) : State × Option Reply :=
  match fuel with
  | 0 => (s, some (err stInternal))
  | fuel + 1 =>
    let a := appendArg c.block
    let p := c.part
    match seqOf s p a.key with
    | none => (s, some (err stNotFound))
    | some q =>
      match appendParts s p q lo (a.first + a.n) with
      | [] => (s, some (appendRet s p a.key a.layer w m))
      | (none, _, _) :: _ => (s, some (err stNoLease 0xFFFF))
      | (some ri, b, t) :: _ =>
        let r := tget {} (part s p).placeRecs ri
        if r.owner = s.node.nodeId then
          if (spanSt s p q.job q.seq false).elim false (fun x => x.2.fenced || x.2.handoff.isSome) then (s, some (err stNoLease r.span))
          else match appendRun p q c b t s with
            | (.error e, s) => (s, some e)
            | (.ok (wn, mn), s) =>
              let s := spanLow c q a.layer (seqLen q a.layer) t s
              let (sent, s) := writeThroughSend p q c r r.epoch b t id s
              let s := if sent = 2 then mirrorLost p ri r s else s
              if sent = 1 then
                let s := holdEdit p a.key id s
                let sub : SubReq := { span := r.span, node := r.mirror, kind := 2, state := 1, sentAt := now s, first := t,
                                      tag := w + wn, tries := m + mn }
                (modCtx (c.ctx.getD 0) (fun x => { x with subs := tset x.subs r.span sub }) s, none)
              else runParts id c fuel t (w + wn) (m + mn) s
        else
          match fabricConn s p r.owner with
          | none => (postEvent 17 p 0 (memberData r.owner q.job q.seq r.span) s, some (err stNoLease r.span))
          | some ci =>
            let s := askFabric p ci 0x0103 0 (myHomeEpoch s p q.job q.seq) r.epoch s.node.nodeId r.span 0 0 (partBlock q c b t)
              { kind := 1, job := q.job, seq := q.seq, span := r.span, arg := t, cmd := some id } (holdEdit p a.key id s)
            let sub : SubReq := { span := r.span, node := r.owner, conn := connId s ci, kind := 1, state := 1, sentAt := now s,
                                  first := t, tag := w, tries := m, epoch := r.epoch, asked := true }
            (modCtx (c.ctx.getD 0) (fun x => { x with subs := tset x.subs r.span sub }) s, none)

/-- A part of a distributed APPEND has been answered: the home's length follows and the next part runs (R214). -/
def partDone (id span : Nat) (ok : Option (Nat × Nat)) (s : State) : State × Option Reply :=
  match tget? s.cmds id with
  | none => (s, none)
  | some c =>
    match tget? (ctxOf s (c.ctx.getD 0)).subs span with
    | none => (s, none)
    | some sub =>
      if sub.state ≠ 1 then (s, none) else
      let a := appendArg c.block
      let s := modCtx (c.ctx.getD 0) (fun x => { x with subs := tset x.subs span { sub with state := 2 } }) s
      let before := (seqOf s c.part a.key).elim 0 (fun q => seqLen q a.layer)
      let s := modSeq c.part a.key (fun q => { q with len := tset q.len a.layer (max sub.first (seqLen q a.layer)) }) s
      let s := spanLow c ((seqOf s c.part a.key).getD {}) a.layer before sub.first s
      let (w, m) := ok.getD (0, 0)
      runParts id c 66 sub.first (sub.tag + w) (sub.tries + m) s

/-- APPEND. -/
def cmdAppend : Handler := fun id c s =>
  let a := appendArg c.block
  let p := c.part
  let job := u32 c.block 0
  let sq := u48 c.block 4
  if (partCells s p).isEmpty || ((poolCells s p).isEmpty) then (s, some (err stUnavail))
  else
    let (mv, s) := if c.fabric then (none, s) else homeCheck p job sq s
    match mv with
    | some r => (s, some r)
    | none =>
      let s := meetCmd c job sq s
      match seqOf s p a.key with
      | none => (s, some (err stNotFound))
      | some q =>
        if !appendOk q c then (s, some (err stInvalid))
        else
          match (if c.fabric then memberCheck s c job sq (some id) else none) with
          | some r => (s, some r)
          | none =>
            let hi := a.first + a.n
            if mustQueue q c || cutBlocks s p q a.layer (max a.first (seqLen q a.layer)) hi then (queueEdit p a.key id s, none)
            else if max (seqLen q a.layer) (spanFloor s c job sq) < a.first then (s, some (err stInvalid))
            else if !c.fabric && !(spanRecs s p job sq).isEmpty then runParts id c 66 a.first 0 0 s
            else
              match appendRun p q c a.first hi s with
              | (.error e, s) => (s, some e)
              | (.ok (w, m), s) =>
                if c.fabric then
                  match (spanRecs s p job sq).find? (fun e => e.2.span == extSpan c) with
                  | none => (s, some (appendRet s p a.key a.layer w m))
                  | some (_, r) =>
                    let (sent, s) := writeThroughSend p q c r (extEpoch c) a.first hi id s
                    if sent = 1 then (modCtx (c.ctx.getD 0) (fun x => { x with skipped := w, shipped := m }) s, none)
                    else (if sent = 2 then mirrorGone p job sq r.span s else s, some { appendRet s p a.key a.layer w m with detail := if sent = 2 then 1 else 0 })
                else (s, some (appendRet s p a.key a.layer w m))

/-- APPEND. -/
def execAppendCmd (src : Source) (pkt : Packet) (s : State) : Host.Outcome State Fault Refusal :=
  .next (submitOp 0x0103 src pkt cmdAppend s)

end Sys2Proof.Machine
end

