-- ==== Sys2Proof/Machine/AttnArith.lean ====
section
/-! DEFINITION. Which keys a row attends, the scores and increments of one page, and the bounds of its digest: the
arithmetic of chapters 05 to 07 over a request's parameters (R131, R132, R134, R136, R163, R164, R186 to R190). -/

namespace Sys2Proof.Machine

/-! ### Rows and keys (R131, R132) -/

/-- KV heads of a request, ascending. -/
def reqKvs (r : Req) : List Nat := bitList r.kvSet 64
/-- Rows per KV head. -/
def rowsPerKv (r : Req) : Nat := r.qTokens * r.group
/-- Elements of a request's vectors. -/
def reqDim (r : Req) : Nat := dimOf r.dim
/-- The place of a KV head among those of the request. -/
def kvRank (r : Req) (kv : Nat) : Nat := ((reqKvs r).takeWhile (· != kv)).length
/-- The number of row i of a KV head in the order of R131. -/
def rowNo (r : Req) (kv i : Nat) : Nat := kvRank r kv * rowsPerKv r + i
/-- POS of row i. -/
def rowPos (r : Req) (i : Nat) : Nat := r.pos.getD (i / max 1 r.group) 0
/-- SLOPE of row i of a KV head, 0 without bias. -/
def rowSlope (r : Req) (kv i : Nat) : Nat := r.slopes.getD (kvRank r kv * r.group + i % max 1 r.group) 0

/-- The keys [lo, hi) that row i attends by the first three conditions of R132. -/
def keyRange (r : Req) (len i : Nat) : Nat × Nat :=
  let pos := rowPos r i
  (max r.keyLo (if r.mask = 2 then pos + 1 - r.window else 0),
   min (min r.keyHi len) (if r.mask = 0 then len else pos + 1))

/-- The token slots of a page that row i attends. -/
def rowSlots (r : Req) (len i page : Nat) : List Nat :=
  let (lo, hi) := keyRange r len i
  (List.range 64).filter (fun t => decide (lo ≤ 64 * page + t && 64 * page + t < hi))

/-- A page holds an attended key for row i. -/
def rowHas (r : Req) (len i page : Nat) : Bool :=
  let (lo, hi) := keyRange r len i
  decide (max lo (64 * page) < min hi (64 * page + 64))

/-- A page is in range for the rows [first, first + n) (R133). -/
def inRange (r : Req) (len first n page : Nat) : Bool := (List.range n).any (fun i => rowHas r len (first + i) page)

/-- The page indices that could be in range of a request (R69: none at or beyond the snapshot length). -/
def reqPages (r : Req) (len : Nat) : List Nat :=
  let hi := min r.keyHi len
  (List.range (ceilDiv hi 64 - r.keyLo / 64)).map (· + r.keyLo / 64)

/-! ### One page's scores (R109, R110, R134) -/

/-- The K side of token slot t of a fetched page. -/
def keyBlocks (d : PlaceData) (t : Nat) : List KBlock :=
  let nb := dimOf d.r.dim / 64
  (List.range nb).map (fun j =>
    let g := t * nb + j
    let e := scaleIdx d.r false g
    { blk := tileBlock d.r d.dt false d.k g, scale := tget 0 d.r.scale e
      zero := zeroPoint d.r.format (tget 0 d.r.zero e), ksum := tget 0 d.r.kSum g })

/-- The channel scales and zero points of a statically scaled page's K tile. -/
def kChannels (r : PRec) : List Rat × List Int :=
  let d := dimOf r.dim
  ((List.range d).map (fun c => fVal fFP16 (tget 0 r.scale c)),
   (List.range d).map (fun c => zeroPoint r.format (tget 0 r.zero c)))

/-- The static preparation of a query for a page (R110), if the page is statically scaled. -/
def staticFor (r : PRec) (q : Query) : Option (List (Nat × Int × List Nat × Nat)) :=
  if isInt r.format && r.scaling = 2 then some (prepStatic q (kChannels r).1 (kChannels r).2) else none

/-- The prepared query of a row. -/
def rowQuery (r : Req) (cache kv i : Nat) : Query := prepQuery cache r.qFormat r.wide (r.q.getD (rowNo r kv i) [])

/-- s0 of token slot t for a prepared row. -/
def slotScore0 (d : PlaceData) (q : Query) (st : Option (List (Nat × Int × List Nat × Nat))) (t : Nat) : Nat :=
  score0 d.r.format st q (keyBlocks d t)

/-- v_hat of token slot t in FP32 bits (R112). -/
def valBits (d : PlaceData) (t : Nat) : List Nat := (tokenVals d.r d.dt true d.v t).map f32
/-- k_hat of token slot t in FP32 bits. -/
def keyBits (d : PlaceData) (t : Nat) : List Nat := (tokenVals d.r d.dt false d.k t).map f32

/-- A page enters the running state of row i of a KV head (R136). -/
def attendRow (r : Req) (len kv i page : Nat) (d : PlaceData) (st : RowState) : RowState :=
  let q := rowQuery r d.r.format kv i
  let sp := staticFor d.r q
  pageUpdate st ((rowSlots r len i page).map (fun t =>
    (scoreTail r.sc (rowSlope r kv i) ((64 * page + t : Nat) - rowPos r i : Int) (slotScore0 d q sp t), valBits d t)))

/-! ### Digest bounds (R162 to R164, R171, R173) -/

/-- The value of a digest code of a page (R153). -/
def digOf (p : PRec) (c : Nat) : Rat :=
  fVal fFP16 p.digScale * (((c : Int) - ((if 128 ≤ p.digZero then (p.digZero : Int) - 256 else p.digZero) + 128) : Int) : Rat)

/-- U of a page for row i (R163, R164); +∞ without a valid digest. -/
def rowBound (r : Req) (len kv i page : Nat) (p : PRec) : Nat :=
  if !p.digestValid then f32Inf else
  let d := dimOf p.dim
  let q := rowQuery r p.format kv i
  let sp := staticFor p q
  let ss := (kChannels p).1
  let qt := effQuery p.format (sp.map (fun st => (st, ss))) q
  let lo := (List.range d).map (fun c => digOf p (tget 0 p.dmin c))
  let hi := (List.range d).map (fun c => digOf p (tget 0 p.dmax c))
  let extra : Rat := if sp.isNone then 0 else
    (((q.q.zip ss).map (fun x => f32Val (f32Sat (x.1 * x.2)))).zip (kChannels p).2).foldl (fun a x => a + |x.1 * (x.2 : Rat)|) 0
  let slots := rowSlots r len i page
  let slope := rowSlope r kv i
  let kb := 64 * page + (if fNeg fFP32 slope then slots.head?.getD 0 else slots.getLast?.getD 0)
  scoreTail r.sc slope ((kb : Int) - rowPos r i) (bound0 qt lo hi extra)

/-- The digest means of a page's record. -/
def pageMean (p : PRec) : List Rat := (List.range (dimOf p.dim)).map (fun c => digOf p (tget 0 p.mean c))
/-- The means of a group (R157, R158). -/
def groupMean (g : DGroup) : List Rat :=
  g.mean.map (fun (c : Nat) => fVal fFP16 g.scale * (((c : Int) - ((if 128 ≤ g.zero then (g.zero : Int) - 256 else g.zero) + 128) : Int) : Rat))

/-- A dot product accumulated in FP32 in ascending order. -/
def dot32 (a b : List Rat) : Nat := (a.zip b).foldl (fun acc x => f32Fma acc (f32 x.1) (f32 x.2)) 0

/-- The score of a digest mean for an effective query: plain, or projected by the columns of a scorer (R171, R173). -/
def meanScore (cols : List (List Rat)) (q m : List Rat) : Nat :=
  if cols.isEmpty then dot32 q m
  else cols.foldl (fun acc w => f32Fma acc (dot32 q w) (dot32 m w)) 0

/-! ### The backward pass (R185 to R190) -/

/-- D of a row from O (R185): exact products, each step rounded. -/
def rowD (dO o : List Nat) : Nat := (dO.zip o).foldl (fun acc x => f32Fma acc x.1 x.2) 0

/-- p of R187 and whether its argument is above 0. -/
def bwdWeight (s3 lse : Nat) : Nat × Bool :=
  if lse = f32NegInf then (0, false) else
  let y := f32Add .near true (lg .near s3) (f32Neg (lg .near lse))
  (exp2 y, f32Lt 0 y)

/-- One block of dp: an exact sum, rounded once. An infinity in dO, which R184 lets pass with its sign bit set, acts as
IEEE 754 says (log 8). -/
def dpBlock (b : List (Nat × Nat)) : Nat :=
  if b.all (fun x => fFinite fFP32 x.1 && fFinite fFP32 x.2) then f32 ((b.map (fun x => f32Val x.1 * f32Val x.2)).sum)
  else b.foldl (fun acc x => f32Add .near false acc (f32Mul .near false x.1 x.2)) 0

/-- dp of R187: per block an exact sum, one rounding per block, blocks ascending. -/
def bwdDp (dO v : List Nat) : Nat := (groups64 (dO.zip v)).foldl (fun acc b => f32Add .near false acc (dpBlock b)) 0

/-- What one attended key contributes to a row: p_hat, ds_hat (FP32 bits) and P_OVER (R187). -/
def bwdKey (r : Req) (slope : Nat) (delta : Int) (lse dd s0 : Nat) (dO v : List Nat) : Nat × Nat × Bool :=
  let s3 := scoreTail r.sc slope delta s0
  let pw := bwdWeight s3 lse
  let ds := f32Mul .near false pw.1 (f32Add .near false (bwdDp dO v) (f32Neg dd))
  let s2 := scoreTail { r.sc with softcap := 0 } slope delta s0
  let ds2 := if fMag fFP32 r.sc.softcap = 0 then ds else
    let t := tanh32 (f32Div true s2 r.sc.softcap)
    f32Mul .near false ds (f32Add .near false f32One (f32Neg (f32Mul .near false t t)))
  let ds0 := f32Mul .near false ds2 r.sc.scale
  (weightBf16 pw.1, weightBf16 ds0, pw.2)

/-- The query row as the gradients use it: FP8 widened exactly (R188). -/
def rowQBits (r : Req) (kv i : Nat) : List Nat := (r.q.getD (rowNo r kv i) []).map (toF32 (ffmtOf r.qFormat))

/-- What a page does for one row of a backward request: its dQ row, and per attended slot (slot, ds_hat, p_hat). -/
def bwdRow (r : Req) (len kv i page : Nat) (d : PlaceData) (out : RowOut) : RowOut × List (Nat × Nat × Nat) :=
  let n := rowNo r kv i
  let q := rowQuery r d.r.format kv i
  let sp := staticFor d.r q
  let dO := r.dO.getD n []
  let res := (rowSlots r len i page).map (fun t => (t, bwdKey r (rowSlope r kv i) ((64 * page + t : Nat) - rowPos r i : Int)
    (r.lse.getD n 0) (r.dd.getD n 0) (slotScore0 d q sp t) dO (valBits d t)))
  (res.foldl (fun (o : RowOut) x => { o with
      p := { o.p with o := (o.p.o.zip (keyBits d x.1)).map (fun y => f32Fma y.1 x.2.2.1 y.2), empty := false }
      keys := satAdd 0xFFFFFFFF o.keys 1, pOver := satAdd 0xFFFFFFFF o.pOver (b2n x.2.2.2) }) out,
   res.map (fun x => (x.1, x.2.2.1, x.2.1)))

/-- The FP32 increments of a page for a query group: dK then dV, token slot by token slot (R188, R193). -/
def pageIncrements (r : Req) (len kv first n page : Nat) (d : PlaceData) : List Nat :=
  let dim := reqDim r
  let rows := (List.range n).map (fun i => (first + i, (bwdRow r len kv (first + i) page d {}).2))
  let one (v : Bool) : List Nat := (List.range 64).flatMap (fun t =>
    rows.foldl (fun (acc : List Nat) row =>
      match row.2.find? (fun x => x.1 == t) with
      | none => acc
      | some x =>
        let src := if v then r.dO.getD (rowNo r kv row.1) [] else rowQBits r kv row.1
        (acc.zip src).map (fun y => f32Fma y.1 (if v then x.2.2 else x.2.1) y.2)) (List.replicate dim 0))
  one false ++ one true

/-- The sum of two dQ rows (R190). -/
def dqSum (a b : RowOut) : RowOut :=
  let f (x : RowOut) : RowOut :=
    { p := { x.p with
        incomplete := a.p.incomplete || b.p.incomplete, poisoned := a.p.poisoned || b.p.poisoned, det := a.p.det && b.p.det }
      keys := satAdd 0xFFFFFFFF a.keys b.keys, pOver := satAdd 0xFFFFFFFF a.pOver b.pOver
      excluded := satAdd 0xFFFFFFFF a.excluded b.excluded }
  if a.p.empty then f b else if b.p.empty then f a
  else f { a with p := { a.p with o := (a.p.o.zip b.p.o).map (fun x => f32Add .near false x.1 x.2) } }

/-- The merge rule of a request: R140, or R190 backward. -/
def mergeOut (bwd : Bool) (a b : RowOut) : RowOut := if bwd then dqSum a b else { a with p := mergePart a.p b.p }
/-- Merging lists of rows. -/
def mergeOuts (bwd : Bool) (a b : List RowOut) : List RowOut := (a.zip b).map (fun x => mergeOut bwd x.1 x.2)
/-- An empty row: with DETERMINISTIC, with the flags of a contributor left out. -/
def emptyOut (d : Nat) (det inc poi : Bool) : RowOut :=
  { p := { emptyPart d with det := det, incomplete := inc, poisoned := poi } }
/-- Empty rows. -/
def emptyOuts (r : Req) (n : Nat) (inc poi : Bool) : List RowOut :=
  List.replicate n (emptyOut (reqDim r) (r.distrib == 1) inc poi)

/-- A dQ row as the reply carries it (R189). -/
def dqBytes (bf16 : Bool) (x : RowOut) : List Byte :=
  toLe 4 x.keys ++ toLe 4 x.pOver ++ toLe 4 x.excluded ++ zeros 2 ++
    toLe 2 (b2n x.p.empty + 2 * b2n x.p.incomplete + 4 * b2n x.p.poisoned + 16 * b2n x.p.det) ++
    (if bf16 then x.p.o.flatMap (fun c => toLe 2 (toBf16 c)) else x.p.o.flatMap (toLe 4))

/-- Reading an FP32 dQ row. -/
def readDq (d : Nat) (b : List Byte) : RowOut :=
  let fl := u16 b 0x0E
  { p := { empty := bitOf fl 0, incomplete := bitOf fl 1, poisoned := bitOf fl 2, det := bitOf fl 4
           o := (List.range d).map (fun c => u32 b (16 + 4 * c)) }
    keys := u32 b 0, pOver := u32 b 4, excluded := u32 b 8 }

/-- Where row i of the order of R131 stands in the order of R150: query head, then query token. -/
def q8Pos (r : Req) (i : Nat) : Nat :=
  let w := i % max 1 (rowsPerKv r)
  i - w + w % max 1 r.group * r.qTokens + w / max 1 r.group

/-- Rows [from_, from_ + n) of the order of R131 that a contributor's FP32 reply holds; under DISTRIB 2 the reply runs in the
order of R150. -/
def readRows (r : Req) (from_ n : Nat) (b : List Byte) : List RowOut :=
  let sz := partSize (reqDim r)
  (List.range n).map (fun i =>
    let x := slice b ((if r.distrib = 2 then q8Pos r (from_ + i) else from_ + i) * sz) sz
    if r.bwd then readDq (reqDim r) x else { p := readPart (reqDim r) x })

end Sys2Proof.Machine
end

