-- ==== Sys2Proof/Machine/Raw.lean ====
section
/-! DEFINITION. The raw region of the cells, byte by byte, in one canonical form (R35, R36, R39). -/

namespace Sys2Proof.Machine

/-- What a byte of the raw region that is not listed reads as (log 9). -/
def rawEmpty : Byte := 0

/-- The address of a byte of the raw region: cell, global bank, row of the region, byte of the row. -/
def rawKey (cell bank row byte : Nat) : Nat := ((cell * 2048 + bank) * 65536 + row) * 1024 + byte

/-- What an address of the raw region reads as. -/
def rawGet : List Host.Cell → Nat → Byte
  | [], _ => rawEmpty
  | (j, v) :: t, a => if j = a then v else rawGet t a

/-- The raw region with an address removed from its list. -/
def rawErase : List Host.Cell → Nat → List Host.Cell
  | [], _ => []
  | (j, v) :: t, a => if j = a then t else (j, v) :: rawErase t a

/-- The raw region with a byte placed in address order. -/
def rawPlace : List Host.Cell → Nat → Byte → List Host.Cell
  | [], a, b => [(a, b)]
  | (j, v) :: t, a, b =>
    if a < j then (a, b) :: (j, v) :: t else if a = j then (a, b) :: t else (j, v) :: rawPlace t a b

/-- Writing one byte; the byte that an unlisted address reads as is not listed. -/
def rawSet (m : List Host.Cell) (a : Nat) (b : Byte) : List Host.Cell :=
  if b = rawEmpty then rawErase m a else rawPlace m a b

/-- Addresses strictly rising from a lower bound, no entry equal to what an unlisted address reads as. -/
def Memory.wfFrom : Nat → List Host.Cell → Bool
  | _, [] => true
  | lo, (a, b) :: t => decide (lo ≤ a) && b != rawEmpty && Memory.wfFrom (a + 1) t

/-- The canonical form of the raw region. -/
def Memory.wf (m : List Host.Cell) : Bool := Memory.wfFrom 0 m

/-- Writing consecutive bytes. -/
def rawWrite (m : List Host.Cell) (a : Nat) : List Byte → List Host.Cell
  | [] => m
  | b :: bs => rawWrite (rawSet m a b) (a + 1) bs

/-- Reading consecutive bytes. -/
def rawRead (m : List Host.Cell) (a n : Nat) : List Byte := (List.range n).map (fun i => rawGet m (a + i))

/-- The state with bytes written to the raw region. -/
def putRaw (a : Nat) (b : List Byte) (s : State) : State := { s with raw := rawWrite s.raw a b }

/-- Raw rows per bank of a partition's cells (R35). -/
def rawRows (s : State) (p : Nat) : Nat := (part s p).layout.rawMib / 2
/-- USER_ROWS of a partition (R261). -/
def userRows (s : State) (p : Nat) : Nat := setting s p 0x30 0 [0]

/-- The address that a byte offset of a cell's raw region has in the bank-linear view (R35), with the bank's share. -/
def rawAddr (s : State) (p c off : Nat) : Nat :=
  let share := max 1 (rawRows s p * 1024)
  rawKey c (off / share) (off % share / 1024) (off % 1024)

end Sys2Proof.Machine
end

