-- ==== Sys2Proof/Machine/AttnCore.lean ====
section
/-! DEFINITION. Requests on the attention path: merge records and dispatch by the hub, reports and their merging, release
of what a request holds, the reply (R18 to R28, R137 to R150, R189 to R198). -/

namespace Sys2Proof.Machine

/-! ### Pages under a walk -/

/-- The mark of a handle of a page lent to this partition, inside a walk by a neighbour (R92). -/
def lentMark : Nat := 2 ^ 32
/-- The handle carries the mark. -/
def isLent (h : Nat) : Bool := decide (lentMark ≤ h)
/-- The lent page of a marked handle, as its reader gets it: under another lend key its record too decrypts to nothing meaningful
(R54 kind 7, R383). -/
def lentAt (s : State) (h : Nat) : Option LentPage :=
  (lentOf s h).map (fun x => if lendKeyHeld s (cellOwner s (hCell h)) x then x else
    { x with r := recOf ((List.range 32).flatMap (fun g => scrambledAt (2 ^ 61 + h % lentMark) (tweakOf x.r.uid g 7 x.ownerGen))) })
/-- The record of a page under a walk. -/
def walkRec (s : State) (h : Nat) : PRec :=
  if isLent h then (lentAt s h).elim {} (·.r) else (pageOf s h).elim {} (·.r)
/-- The class of a page under a walk. -/
def walkCls (s : State) (h : Nat) : Nat := if isLent h then (lentAt s h).elim 0 (·.cls) else hCls h
/-- What an operand place gets of a page (R22, R119). -/
def loadPlace (s : State) (p h : Nat) : PlaceData :=
  if isLent h then
    match lentAt s h with
    | none => {}
    | some x =>
      let b := (List.range (128 * slotUnits x.cls)).flatMap (lentData s p (h % lentMark) ((lentOf s h).getD x))
      { r := x.r, k := b.take (tileLen x.cls), v := b.drop (tileLen x.cls), dt := dtableOf x.table }
  else
    let r := walkRec s h
    let n := tileLen (hCls h)
    { r := r, k := pageBytes s h r.uid (keyGen s p) 0 n, v := pageBytes s h r.uid (keyGen s p) n n, dt := slotTable s p (r.table % 4) }

/-- The granules of a record that a code array of `dim` takes from its first granule on (R62, R179). -/
def codeGrans (dim first : Nat) : List Nat := (List.range (dimOf dim / 64)).map (· + first)

/-- Granule 0 of a page's record, or one of the code granules that a digest pass or a bound pass reads, is uncorrectable (R179). -/
def recBad (s : State) (h : Nat) (codes : List Nat) : Bool :=
  let bad (cls : Nat → List Nat) : Bool := (0 :: codes).any (fun g => (cls g).any (fun w => 3 ≤ w))
  if isLent h then (lentOf s h).elim false (fun x => bad (tget [] x.recCls))
  else (pageOf s h).elim false (fun pg => bad (fun g => metaClsOf (cell s (hCell h)) (32 * pg.recPlace + g)))

/-- U of a page under a walk for row `i` (R163, R164, R179): +∞ where the record reads uncorrectable. -/
def walkBound (s : State) (x : Ctx) (g : MRec) (i page h : Nat) : Nat :=
  if recBad s h (codeGrans (walkRec s h).dim 22 ++ codeGrans (walkRec s h).dim 26) then f32Inf else rowBound x.r x.len g.kv (g.first + i) page (walkRec s h)

/-- In-range pages of a query group that a cell holds, ascending: (page index, handle). -/
def cellPages (x : Ctx) (g : MRec) (c : Nat) : List (Nat × Nat) :=
  (x.map.filter (fun e => posKv e.1 == g.kv && posLayer e.1 == x.r.layer && !(isStub e.2 && !isLent e.2) && hCell e.2 == c &&
    inRange x.r x.len g.first g.rows (posPage e.1))).map (fun e => (posPage e.1, e.2))

/-- N of R170 in a local request: the positions of the KV head in the snapshot that are in range for a row of the query group. R170 does
not say whether a page in range for another group's rows alone counts: a DESIGN CHOICE (log 107). -/
def groupTotal (x : Ctx) (g : MRec) : Nat :=
  (x.map.filter (fun e => posKv e.1 == g.kv && posLayer e.1 == x.r.layer && inRange x.r x.len g.first g.rows (posPage e.1))).length

/-- Rows of a query group that a page in range would have served. -/
def groupHas (x : Ctx) (g : MRec) (page : Nat) : List Bool := (List.range g.rows).map (fun i => rowHas x.r x.len (g.first + i) page)

/-! ### Dispatch (R19, R20, R146) -/

/-- The node merge SRAM, in bytes. -/
def mergeSram : Nat := 32 * 2 ^ 20
/-- Bytes of a merge record: one accumulator, and in deterministic mode a place per contributor, cells that are off and
members among them (R147). -/
def recordBytes (x : Ctx) : Nat :=
  32 * partSize (reqDim x.r) * (if x.r.distrib = 1 then x.base.length + x.subs.length else 1)
/-- How many query groups have been handed to the reply: all before them are done (R146). -/
def handed (x : Ctx) : Nat := (x.groups.takeWhile (fun e => e.2.done)).length
/-- Merge SRAM in use. -/
def sramUsed (s : State) : Nat :=
  sumBy s.ctxs (fun e => ((e.2.groups.drop (handed e.2)).filter (fun g => g.2.started)).length * recordBytes e.2)
/-- Whether a merge record may be opened: within the SRAM, and with STRICT within the partition's share (R403). -/
def sramFits (s : State) (x : Ctx) : Bool :=
  decide (sramUsed s + recordBytes x ≤ mergeSram) && (!strict s || x.part == 0 ||
    decide (sramUsed { s with ctxs := s.ctxs.filter (fun e => e.2.part == x.part) } + recordBytes x ≤ mergeSram * slotsOf s x.part / 256))
/-- Dispatch credits for a request's query payload (R20). -/
def queryCredits (r : Req) : Nat :=
  ceilDiv ((r.qTokens * r.group * (reqKvs r).length) * reqDim r * (if isFp8 r.qFormat then 1 else 2)) 4096

/-- Sending one dispatch to a cell where the request holds, or can take, its credits there. -/
def dispatchOne (i g c : Nat) (s : State) : State :=
  let x := ctxOf s i
  let need := queryCredits x.r
  let send (s : State) : State :=
    modCell c (fun v => { v with waiting := v.waiting ++ [(i, g)] })
      (modCtx i (fun x => { x with groups := tmod x.groups g (fun m => { m with unsent := m.unsent.filter (· != c) }) }) s)
  if thas x.credits c then send s
  else if need ≤ (cell s c).credits then
    send (modCtx i (fun x => { x with credits := tset x.credits c need })
      (modCell c (fun v => { v with credits := v.credits - need }) s))
  else s

/-- Starting the query groups of a context in reply order while records fit, and sending their dispatches. -/
def startGroups (i : Nat) (s : State) : State :=
  (List.range (ctxOf s i).groups.length).foldl (fun s g =>
    let x := ctxOf s i
    let m := tget {} x.groups g
    let s :=
      if !m.started && (List.range g).all (fun k => (tget {} x.groups k).started) && sramFits s x then
        modCtx i (fun x => { x with groups := tmod x.groups g (fun m => { m with started := true }) }) s
      else s
    let m := tget {} (ctxOf s i).groups g
    if m.started then m.unsent.foldl (fun s c => dispatchOne i g c s) s else s) s

/-- The hub starts what it can, requests in the order of their acceptance; a later request takes merge records and credits
that an earlier one cannot use. R20 gives no order among requests: a DESIGN CHOICE (log 83). -/
def pump (s : State) : State :=
  (s.cmds.filterMap (fun e => e.2.ctx)).foldl (fun s i => if (ctxOf s i).waiting then s else startGroups i s) s

/-- A cell returns a request's credits when it holds nothing of it and nothing more comes (R20). -/
def returnCredits (i c : Nat) (s : State) : State :=
  let x := ctxOf s i
  let v := cell s c
  match tget? x.credits c with
  | none => s
  | some n =>
    if v.waiting.any (fun w => w.1 == i) || v.entries.any (fun e => e.ctx == i) ||
        x.groups.any (fun g => c ∈ g.2.unsent) then s
    else modCell c (fun v => { v with credits := v.credits + n }) (modCtx i (fun x => { x with credits := tdel x.credits c }) s)

/-! ### Release (R28, R195) -/

/-- The OP_ID of the next BANK_OP (R264): 32 bits, never 0. -/
def nextOpId (s : State) : Nat := (s.node.nextOp - 1) % (2 ^ 32 - 1) + 1
/-- The number of the node's own next piece of bank-side work, apart from every OP_ID. -/
def innerOp (s : State) : Nat := 2 ^ 32 + s.node.nextOp

/-- The state with a gradient set changed. -/
def modGset (p g : Nat) (f : GSet → GSet) (s : State) : State := modPart p (fun v => { v with gsets := tmod v.gsets g f }) s
/-- The state with the gradient page of a position changed. -/
def modGpage (p g kv page : Nat) (f : GPage → GPage) (s : State) : State :=
  modGset p g (fun x => { x with pages := x.pages.map (fun q => if q.kv = kv && q.page = page then f q else q) }) s

/-- A cell's merge unit sends what waits while its channel's credit counter is not zero (R16). -/
def sendWords : Nat → Cell → Cell
  | 0, v => v
  | n + 1, v =>
    match v.outbox with
    | [] => v
    | r :: rest =>
      if placesLeft Config.reportPlaces v.sentWords then
        sendWords n { v with reports := v.reports ++ [r], sentWords := v.sentWords + 1, outbox := rest }
      else v
/-- A report for the node merge unit (R24). -/
def postWord (r : CellReport) (v : Cell) : Cell := sendWords (v.outbox.length + 1) { v with outbox := v.outbox ++ [r] }
/-- The receiver takes the oldest word, and its place's credit returns (R16). -/
def takeWord (v : Cell) : Cell := sendWords v.outbox.length { v with reports := v.reports.tail, sentWords := v.sentWords - 1 }
/-- Words of a request that has ended leave the channel, each with its credit (R28). -/
def dropWords (i : Nat) (v : Cell) : Cell :=
  let l := v.reports.filter (fun r => r.ctx != i)
  sendWords v.outbox.length { v with reports := l, sentWords := l.length, outbox := v.outbox.filter (fun r => r.ctx != i) }

/-- What a request holds in a cell goes: waiting dispatches, ring tokens, held tokens with their places, merge entries,
reports. -/
def releaseCell (i c : Nat) (s : State) : State :=
  let s := modCell c (fun v => dropWords i { v with
    waiting := v.waiting.filter (fun w => w.1 != i)
    ring := v.ring.filter (fun t => t.tok.ctx != i)
    entries := v.entries.filter (fun e => e.ctx != i)
    cores := v.cores.map (fun e => (e.1, { e.2 with
      held := e.2.held.filter (fun h => h.tok.ctx != i), carry := e.2.carry.filter (fun w => w.1 != i)
      ahead := e.2.ahead.filter (fun w => w.ctx != i) })) }) s
  match tget? (ctxOf s i).credits c with
  | none => s
  | some n => modCell c (fun v => { v with credits := v.credits + n }) (modCtx i (fun x => { x with credits := tdel x.credits c }) s)

/-- A gradient message of a request that has ended is sent on, but moves no flush (R28). -/
def untieSends (i : Nat) (s : State) : State :=
  { s with conns := s.conns.map (fun e => (e.1, { e.2 with
      sendQ := e.2.sendQ.map (fun m => if m.purpose = .gradient i then { m with purpose := .event } else m) })) }

/-- Releasing everything that an attention request holds; increments still owed are marked MISSING (R28, R195). Replies of
its members are no longer awaited. -/
def releaseCtx (i : Nat) (s : State) : State :=
  let x := ctxOf s i
  let s := untieSends i ((List.range 24).foldl (fun s c => releaseCell i c s) s)
  let s := if x.r.bwd then x.owed.foldl (fun s o =>
      modGpage x.part x.r.gset (tget {} x.groups o.1).kv o.2 (fun q => { q with missing := true }) s) s else s
  let s := modGset x.part x.r.gset (fun g => { g with queue := g.queue.filter (· != x.cmd) }) s
  modCtx i (fun x => { x with walker := false, finished := true, groups := [], subs := [], owed := [] }) s

/-- Ending an attention request with a status and no rows. -/
def endCtx (i : Nat) (r : Reply) (s : State) : State :=
  let x := ctxOf s i
  pump (conclude x.cmd r (releaseCtx i s))

/-! ### The reply (R144, R150, R198, R305) -/

/-- The rows of a request in the order of R131, with INCOMPLETE where an unfilled page would have served a row (R79), and
POISONED with it where a lost page would have (R94). -/
def finalRows (x : Ctx) : List RowOut :=
  x.groups.flatMap (fun e => e.2.acc.zipIdx.map (fun (o, i) =>
    let meets (l : List Nat) : Nat := (l.filter (fun u => posKv u == e.2.kv && rowHas x.r x.len (e.2.first + i) (posPage u))).length
    let lost := meets x.lostPos
    if 0 < meets x.unfilled + lost then
      { o with
        p := { o.p with incomplete := true, poisoned := o.p.poisoned || decide (0 < lost) }
        excluded := satAdd 0xFFFFFFFF o.excluded lost }
    else o))

/-- The contributions to rows [from_, from_ + own.length), each with its place in the fold of the home: FIRST_PAGE of the
span in deterministic mode, else the order of arrival (R141, R211). `came` is that of the node's own rows. -/
def homeParts (x : Ctx) (from_ came : Nat) (own : List RowOut) : List (Nat × List RowOut) :=
  let l := (tvals x.subs).filter (fun q => q.kind ≤ 2 && (q.state == 1 || q.state == 2))
  (if x.r.distrib = 1 then x.base.head?.getD 0 else came, own) :: l.map (fun q =>
    (if x.r.distrib = 1 then q.first else q.came,
     if q.state = 1 then readRows x.r from_ own.length q.bytes
     else List.replicate own.length (emptyOut (reqDim x.r) (x.r.distrib == 1) true false)))

/-- A list of contributions in ascending order of their keys, equal keys as they stood. -/
def inOrder {α : Type} (l : List (Nat × α)) : List (Nat × α) :=
  l.foldl (fun acc e => acc.takeWhile (fun y => y.1 ≤ e.1) ++ e :: acc.dropWhile (fun y => y.1 ≤ e.1)) []

/-- The left fold of contributions. -/
def foldRows (bwd : Bool) : List (Nat × List RowOut) → List RowOut
  | [] => []
  | e :: es => es.foldl (fun a y => mergeOuts bwd a y.2) e.2

/-- The node's rows, query group by query group in the order of R131, with the partials of the members of a distributed
request folded in (R141). -/
def withSpans (x : Ctx) (rows : List RowOut) : List RowOut :=
  (x.groups.foldl (fun (acc : Nat × List RowOut) e =>
    let n := e.2.acc.length
    (acc.1 + n, acc.2 ++ foldRows x.r.bwd (inOrder (homeParts x acc.1 e.2.came ((rows.drop acc.1).take n))))) (0, [])).2

/-- The rows as they leave the node. A row without an in-range key has neither INCOMPLETE nor POISONED (R132), but for the INCOMPLETE of
R208 on every row of a member whose LENGTH is short; an empty partial has PAGES_SKIPPED and ERR_BOUND 0 (R138). -/
def lastMarks (x : Ctx) (short : Bool) (rows : List RowOut) : List RowOut :=
  let idx := x.groups.flatMap (fun e => (List.range e.2.acc.length).map (· + e.2.first))
  rows.zipIdx.map (fun (o, i) =>
    let (lo, hi) := keyRange x.r x.len (idx.getD i 0)
    let p := if lo < hi then o.p else { o.p with incomplete := short && o.p.incomplete, poisoned := false }
    { o with p := if p.empty then { p with skipped := 0, err := 0 } else p })

/-- The order of R150: query head, then query token. -/
def q8Order (r : Req) (rows : List RowOut) : List RowOut :=
  (List.range (reqKvs r).length).flatMap (fun j => (List.range r.group).flatMap (fun g =>
    (List.range r.qTokens).filterMap (fun q => rows[j * rowsPerKv r + q * r.group + g]?)))

/-- Contributors of a request: its cells, its lending neighbours and its spans. -/
def contributors (x : Ctx) : Nat := x.base.length - 1 + x.subs.length

/-- The reply's payload and the rows it was made of. -/
def replyPayload (s : State) (x : Ctx) : List Byte × List RowOut :=
  let short := (tget {} s.cmds x.cmd : Cmd).fabric && decide (x.len < x.r.keyHi)
  let rows := lastMarks x short (withSpans x (finalRows x))
  let rows := if x.r.distrib = 2 then q8Order x.r rows else rows
  let bound := if x.r.outBound = 0xFFFF then escBound (tget {} s.cmds x.cmd) else x.r.outBound
  (rows.flatMap (fun o => if x.r.bwd then dqBytes (x.r.outFormat == 1) o else partBytes x.r.outFormat x.r.outComp (fVal fFP16 bound) o.p), rows)

/-- Status and detail of a request that has its rows (R144 orders 9 to 12, R198 orders 11 to 14). -/
def rowsStatus (x : Ctx) (short : Bool) : Nat × Nat :=
  let gone := x.unavail.length + x.subUnavail
  if 0 < contributors x && contributors x ≤ x.unavail.length then (stUnavail, contributors x)
  else if !x.excluded.isEmpty || 0 < x.subDetail then (stPoisoned, min 0xFFFF (x.excluded.length + x.subDetail))
  else if 0 < gone || !x.unfilled.isEmpty || short || x.stopped then (stPartial, min 0xFFFF gone)
  else (stOk, 0)

/-- The marks of a lending neighbour's reply (R92): one byte per page that the sub-request named, 1 for one that saw committed use. -/
def usedMarks (x : Ctx) : List Byte := x.named.map (fun h => if lentMark + h ∈ x.used then 1 else 0)

/-- The whole reply of a request. `short`: shipping stopped under R196. -/
def requestReply (s : State) (x : Ctx) (short : Bool) : Reply :=
  let (pay, rows) := replyPayload s x
  let (st, det) := rowsStatus x short
  let n := x.attended.length + x.subAttended
  let over_ := rows.foldl (fun a o => satAdd 0xFFFFFFFF a o.pOver) 0
  let ret := toLe 4 n ++ (if x.r.bwd then toLe 4 over_ ++ toLe 4 x.shipped
    else toLe 4 x.skipped ++ toLe 4 (x.unavail.length + x.subUnavail)) ++ toLe 4 x.gen
  if st = stUnavail then { status := st, detail := det, ret := ret }
  else { status := st, detail := det, ret := ret, payload := pay ++ usedMarks x }

/-- Queueing a message of RDMA WRITE with immediate on a connection (R305, R196). -/
def writeImm (ci rkey va imm cls : Nat) (b : List Byte) (why : Purpose) (s : State) : State :=
  sendMsg ci { send := false, cls := cls, rkey := rkey, va := va, imm := imm, bytes := b, purpose := why } s

/-- Sending a finished request's reply: inline, or by one RDMA WRITE first (R305). -/
def sendReply (i : Nat) (short : Bool) (s : State) : State :=
  let x := ctxOf s i
  let r := requestReply s x short
  let c : Cmd := tget {} s.cmds x.cmd
  if x.r.reply = 1 && !x.r.bwd && r.status ≠ stUnavail then
    if connReady s x.r.replyConn then
      writeImm (x.r.replyConn % 65536) x.r.replyRkey x.r.replyOffset c.tag c.qos r.payload (.attendWrite x.cmd)
        (modCtx i (fun x => { x with shipping := true }) s)
    else endCtx i (err stInternal) s
  else
    pump (conclude x.cmd r (modCtx i (fun x => { x with walker := false }) s))

/-- The write of a remote reply has completed, or failed (R305). -/
def attendWritten (cmd : Nat) (ok : Bool) (s : State) : State :=
  match (tget? s.cmds cmd).bind (·.ctx) with
  | none => s
  | some i =>
    if !ok then endCtx i (err stInternal) s
    else
      let x := ctxOf s i
      pump (conclude cmd { requestReply s x false with payload := [] } (modCtx i (fun x => { x with walker := false }) s))

/-! ### Shipping a gradient set (R196) -/

/-- The blocks of a gradient page and its ESC_BITS. -/
def gradBody (s : State) (g : GSet) (q : GPage) (comp : Nat) (bound : Rat) : List Byte :=
  let d := dimOf g.dim
  let words := (List.range (d / 2)).flatMap (fun n => (List.range 256).map (fun i =>
    leVal (rawRead s.raw (rawKey q.cell (q.bank + n) q.row (4 * i)) 4)))
  let mode := if comp = 1 then 1 else if comp = 2 then 3 else 0
  let encs := (groups64 words).map (encBlock 0 mode {} [] [] bound)
  toLe 64 (maskOf ((List.range encs.length).filter (fun i => (encs.getD i {}).escaped))) ++ encs.flatMap (·.bytes)

/-- One message of a flush. -/
def gradMessage (s : State) (g : GSet) (q : GPage) (comp : Nat) (bound : Rat) : List Byte :=
  let body := gradBody s g q comp bound
  toLe 4 g.job ++ toLe 6 g.seq ++ toLe 2 g.layer ++ [BitVec.ofNat 8 q.kv, BitVec.ofNat 8 comp] ++ toLe 2 q.page ++
    toLe 2 (b2n q.excluded + 2 * b2n q.missing) ++ toLe 2 (dimOf g.dim) ++ toLe 4 (0x20 + body.length) ++ zeros 8 ++ body

/-- Pages of a set in the order of R196. -/
def gradOrder (g : GSet) : List GPage :=
  g.pages.foldl (fun acc q => let k (x : GPage) := x.kv * 65536 + x.page
    acc.takeWhile (fun y => k y ≤ k q) ++ q :: acc.dropWhile (fun y => k y ≤ k q)) []

/-- Freeing a set: zeroed places are not needed, since START fills its pages (R191). -/
def freeGset (p g : Nat) (s : State) : State := modPart p (fun v => { v with gsets := tdel v.gsets g }) s

/-- Sending the next gradient page of a flush, or ending it: at the last page the set is free, at GRAD_LIMIT shipping
stops (R196). A further FLUSH that resumes a set numbers its messages from 0 and places them from its own GRAD_OFFSET on: R196 does
not say (DESIGN CHOICE, log 108). -/
def shipNext (i : Nat) (s : State) : State :=
  let x := ctxOf s i
  let p := x.part
  match tget? (part s p).gsets x.r.gset with
  | none => sendReply i false s
  | some g =>
    match gradOrder g with
    | [] => sendReply i false (freeGset p x.r.gset s)
    | q :: rest =>
      let bound := if x.r.gradBound = 0xFFFF then escBound (tget {} s.cmds x.cmd) else x.r.gradBound
      let b := gradMessage s g q x.r.gradComp (fVal fFP16 bound)
      if x.r.gradLimit < x.sentBytes + b.length then sendReply i true s
      else if !connReady s x.r.gradConn then endCtx i (err stInternal) s
      else
        let imm := x.shipped % 2 ^ 31 + (if rest.isEmpty then 2 ^ 31 else 0)
        writeImm (x.r.gradConn % 65536) x.r.gradRkey (x.r.gradOffset + x.sentBytes) imm x.cls b (.gradient i)
          (modCtx i (fun x => { x with shipping := true, sentBytes := x.sentBytes + b.length }) s)

/-- The first page of a flush has been sent, or its connection failed. -/
def gradSent (i : Nat) (ok : Bool) (s : State) : State :=
  let x := ctxOf s i
  if !x.shipping || !x.r.bwd then s
  else if !ok then endCtx i (err stInternal) s
  else
    let s := modGset x.part x.r.gset (fun g => { g with
      shipped := g.shipped + 1, pages := match gradOrder g with
        | [] => []
        | q :: _ => g.pages.filter (fun y => !(y.kv == q.kv && y.page == q.page)) }) s
    shipNext i (modCtx i (fun x => { x with shipped := x.shipped + 1 }) s)

/-! ### Merging reports (R24, R146, R147) -/

/-- The flush of a request may begin: its adds have completed, and every earlier request naming the set (R196). -/
def flushReady (s : State) (x : Ctx) : Bool :=
  let g : GSet := tget {} (part s x.part).gsets x.r.gset
  g.adds == 0 && (match g.queue with | [] => true | c :: _ => c == x.cmd) &&
    !s.ctxs.any (fun e => e.2.part == x.part && e.2.r.bwd && e.2.r.gset == x.r.gset && decide (e.2.cmd < x.cmd) && !e.2.finished)

/-- A request whose query groups have all been merged and whose members have all answered goes on to its reply. -/
def settle (i : Nat) (s : State) : State :=
  match tget? s.ctxs i with
  | none => s
  | some x =>
    if x.finished || x.shipping || x.waiting || !x.groups.all (fun e => e.2.done) || x.subs.any (fun e => e.2.state == 0) then s
    else if x.r.bwd && bitOf x.r.gradMode 1 then
      if !x.owed.isEmpty || !flushReady s x then s
      else shipNext i (modCtx i (fun x => { x with sentBytes := 0 }) s)
    else if x.r.bwd && bitOf x.r.gradMode 2 then sendReply i false (freeGset x.part x.r.gset s)
    else if x.r.bwd && !x.owed.isEmpty then s
    else sendReply i false s

/-- A contributor's rows reach the merge record of a query group. `low` is its lowest page index in the request. Of two with the same
lowest page index the one of the lower number comes first in a deterministic fold: R141 does not say (DESIGN CHOICE, log 108). -/
def arrive (i g who low : Nat) (rows : List RowOut) (s : State) : State :=
  match tget? s.ctxs i with
  | none => s
  | some x =>
    match tget? x.groups g with
    | none => s
    | some m =>
      if who ∉ m.waitFor then s
      else
        let left := m.waitFor.filter (· != who)
        let m := if x.r.distrib = 1 then { m with arrived := m.arrived ++ [(low * 4096 + who, rows)] }
          else { m with acc := if m.acc.isEmpty then rows else mergeOuts x.r.bwd m.acc rows }
        let m := { m with waitFor := left, done := left.isEmpty, came := if left.isEmpty then x.arrivals + 1 else 0 }
        let m := if left.isEmpty && x.r.distrib = 1 then
            { m with
              acc := foldRows x.r.bwd ((if m.acc.isEmpty then [] else [(0, m.acc)]) ++ inOrder m.arrived)
              arrived := [] }
          else m
        let s := modCtx i (fun x => { x with groups := tset x.groups g m, arrivals := x.arrivals + b2n m.done }) s
        if m.done then pump (settle i s) else s

/-- The increments that a request still owes to gradient pages of a cell will not come: the pages are MISSING (R195). -/
def missCell (i c : Nat) (s : State) : State :=
  let x := ctxOf s i
  let kvOf (o : Nat × Nat) : Nat := (tget {} x.groups o.1).kv
  let here (o : Nat × Nat) : Bool := (tget? x.map (posKey x.r.layer (kvOf o) o.2)).elim false (fun h => hCell h == c)
  (x.owed.filter here).foldl (fun s o => modGpage x.part x.r.gset (kvOf o) o.2 (fun q => { q with missing := true }) s)
    (modCtx i (fun x => { x with owed := x.owed.filter (fun o => !here o) }) s)

/-- A cell is replaced by a CELL_UNAVAILABLE marker in every query group that waits for it (R24, R142, R435). A row without an in-range key
loses the marker's INCOMPLETE again in `lastMarks` (R132). -/
def markCell (i c : Nat) (s : State) : State :=
  match tget? s.ctxs i with
  | none => s
  | some x =>
    let gs := (x.groups.filter (fun e => c ∈ e.2.waitFor)).map (·.1)
    if gs.isEmpty then s
    else
      let s := modCtx i (fun x => { x with
        unavail := if c ∈ x.unavail then x.unavail else x.unavail ++ [c]
        groups := x.groups.map (fun e => (e.1, { e.2 with unsent := e.2.unsent.filter (· != c) })) }) s
      let s := if x.r.bwd then missCell i c s else s
      gs.foldl (fun s g =>
        let n := (tget {} x.groups g).rows
        arrive i g c 65536 (emptyOuts x.r n true false) s) s

end Sys2Proof.Machine
end

