-- ==== Sys2Proof/Machine/AttnCells.lean ====
section
/-! DEFINITION. The cells' side of the attention path: admission, the work ring, fetches, cores, the cell merge unit
(R18 to R26, R136, R147, R149, R165 to R179, R194). -/

namespace Sys2Proof.Machine

/-! ### Admission (R18, R20, R165) -/

/-- Bytes of a merge entry at the request's d (R19). -/
def entryBytes (r : Req) : Nat := 32 * partSize (reqDim r)
/-- Bytes of a cell's merge area in use. -/
def entriesUsed (c : Cell) : Nat := sumBy c.entries (·.bytes)
/-- Ring places in use: tokens in the ring, tokens held, places kept for the tokens of a selection (R165, R439). -/
def ringUsed (c : Cell) : Nat :=
  c.ring.length + sumBy c.ring (fun t => t.tok.extra) +
    sumBy c.cores (fun e => e.2.held.length + sumBy e.2.held (fun h => h.tok.extra))

/-- P_c of R170 for a cell that holds n of N in-range pages. -/
def quota (p n total : Nat) : Nat := if total = 0 then 0 else min n (ceilDiv (p * n) total)
/-- The in-range pages of the KV head over the whole request (R170). -/
def totalPages (x : Ctx) (g : MRec) : Nat := tget (groupTotal x g) x.r.nTotal g.kv
/-- The walk is over pages lent to this partition (R92). -/
def lentWalk (x : Ctx) : Bool := x.map.any (fun e => isLent e.2)
/-- The pages that one quota of R170 spans, in ascending page index: those of a cell, or all that a neighbour holds, which counts as
one cell. -/
def quotaPages (x : Ctx) (g : MRec) (c : Nat) : List (Nat × Nat) :=
  if lentWalk x then inOrder ((List.range 24).flatMap (fun k => cellPages x g k)) else cellPages x g c
/-- P_c of a query group in a cell. -/
def cellQuota (x : Ctx) (g : MRec) (c : Nat) : Nat := quota x.r.topPages (quotaPages x g c).length (totalPages x g)
/-- The last RECENT_PAGES in-range pages of the KV head (R172): of the range that this request walks, so of the clipped one in a
sub-request (R207); R172 does not say whether those of the whole head are meant (DESIGN CHOICE, log 107). -/
def recentFrom (x : Ctx) (g : MRec) : List Nat :=
  let l := (reqPages x.r x.len).filter (fun k => inRange x.r x.len g.first g.rows k && posKey x.r.layer g.kv k ∉ x.unfilled)
  l.drop (l.length - x.r.recent)
/-- A page is a selvedge page (R172). -/
def selvedge (x : Ctx) (g : MRec) (page : Nat) : Bool := decide (page < x.r.sink) || page ∈ recentFrom x g

/-- Cutting a list of pages into tokens of 8 (R18). -/
def cutEight : Nat → List (Nat × Nat) → List (List (Nat × Nat))
  | 0, _ => []
  | n + 1, l => if l.isEmpty then [] else l.take 8 :: cutEight n (l.drop 8)
/-- The runs of 8 of a list. -/
def runs8 (l : List (Nat × Nat)) : List (List (Nat × Nat)) := cutEight (l.length / 8 + 1) l

/-- The tokens of a query group in a cell, from the runs of its pages. -/
def makeTokens (i g : Nat) (x : Ctx) (m : MRec) (bounded : Bool) (from_ : Nat) (runs : List (List (Nat × Nat))) : List RTok :=
  runs.zipIdx.map (fun (l, k) =>
    { tok := { ctx := i, grp := g, kv := m.kv, pages := l, num := from_ + k, bounded := bounded
               last := x.r.distrib != 2 || decide (k + 1 = runs.length) }
      cls := x.cls, core := if x.r.distrib = 2 then some (m.kv / 4 % 16) else none })

/-- A cell's report goes on its way to the node merge unit (R24). -/
def pushReport (i g c : Nat) (low : Nat) (rows : List RowOut) (s : State) : State :=
  modCell c (fun v => postWord { ctx := i, grp := g, inc := v.inc, lowPage := low, rows := rows } v) s

/-- The lowest page index of a cell in a request (R141). -/
def cellLow (x : Ctx) (c : Nat) : Nat :=
  (x.map.filter (fun e => hCell e.2 == c && !(isStub e.2 && !isLent e.2))).foldl (fun a e => min a (posPage e.1)) 65536

/-- DISPATCH_ADMIT (R20): the oldest waiting dispatch of the cell enters its ring. -/
def admitTokens (c : Nat) (s : State) : State :=
  let v := cell s c
  match v.waiting with
  | [] => s
  | (i, g) :: rest =>
    let x := ctxOf s i
    let m : MRec := tget {} x.groups g
    let pages := cellPages x m c
    let pop (s : State) : State := modCell c (fun v => { v with waiting := rest, progress := now s }) s
    if pages.isEmpty then
      returnCredits i c (pushReport i g c 65536 (emptyOuts x.r m.rows false false) (pop s))
    else
      let extra := if x.r.sparse = 1 then ceilDiv pages.length 8
        else ceilDiv (min pages.length (cellQuota x m c +
          (pages.filter (fun e => selvedge x m e.1)).length)) 8
      let toks : List RTok := if x.r.sparse = 0 then makeTokens i g x m false 0 (runs8 pages)
        else [{ tok := { ctx := i, grp := g, kv := m.kv, select := true, extra := extra }, cls := x.cls }]
      let need := if x.r.sparse = 0 then toks.length else 1 + extra
      if 8 * 2 ^ 20 < entriesUsed v + entryBytes x.r || 4096 < ringUsed v + need then s
      else
        modCell c (fun v => { v with
          ring := v.ring ++ toks
          entries := v.entries ++ [{ ctx := i, grp := g, bytes := entryBytes x.r, total := cellLow x c
                                     owed := if x.r.sparse ≠ 0 then 1 else if x.r.distrib = 2 then 1 else toks.length
                                     acc := emptyOuts x.r m.rows false false }] }) (pop s)

/-- A cell that works: powered or draining. -/
def cellWorks (s : State) (c : Nat) : Bool :=
  let w := (cell s c).pwr.st
  (w ≤ 1 || w == 5) && s.node.phase != .off && s.node.phase != .tripped && !s.dbg.frozen && !(part s (cellOwner s c)).inReset

/-- DISPATCH_ADMIT. -/
def execDispatchAdmit (c : Nat) (s : State) : Host.Outcome State Fault Refusal := .next (if cellWorks s c then admitTokens c s else s)

/-! ### Committed use and tests (R84, R166, R177) -/

/-- A page is in the T1 of its cell. -/
def inT1 (s : State) (h : Nat) : Bool := !isLent h && h ∈ (cell s (hCell h)).t1

/-- The effects of a committed use of a page by a query group (R84, R92, R177, R230). -/
def commitPage (i h : Nat) (s : State) : State :=
  let x := ctxOf s i
  let s := meter x.part x.r.job (fun m => { m with attnPages := sat64 m.attnPages 1 }) s
  if isLent h then modCtx i (fun x => { x with used := if h ∈ x.used then x.used else h :: x.used }) s
  else countRead h (commitUse x.part (seqKey x.r.job x.r.seq) h s)

/-- A page is left out of a request as poisoned or lost (R44, R186): recorded once, and in the gradient set (R195). -/
def excludePage (i g page h : Nat) (s : State) : State :=
  let x := ctxOf s i
  let s := modCtx i (fun x => { x with
    excluded := if h ∈ x.excluded then x.excluded else x.excluded ++ [h], owed := x.owed.filter (· != (g, page)) }) s
  if x.r.bwd then modGpage x.part x.r.gset (tget {} x.groups g).kv page (fun q => { q with excluded := true }) s else s

/-- The rows of a held token that a page left out would have served are incomplete and poisoned. -/
def flagRows (x : Ctx) (m : MRec) (page : Nat) (h : HTok) : HTok :=
  let has := groupHas x m page
  { h with
    rows := h.rows.zipIdx.map (fun (st, i) => if has.getD i false then { st with incomplete := true, poisoned := true } else st)
    outs := h.outs.zipIdx.map (fun (o, i) => if has.getD i false then
      { o with p := { o.p with incomplete := true, poisoned := true }, excluded := satAdd 0xFFFFFFFF o.excluded 1 } else o) }

/-- A page's use commits (R177), and its place is filled at once from an adopted run-ahead fetch or from T1, or its fetch
credit is granted. The read that brings a page's reads to T1_PROMOTE is followed by its copy into T1 (R88): at once where the
data is here, else when the fetch has been made. -/
def grantPlace (i c k : Nat) (pl : Place) (s : State) : Place × State :=
  let x := ctxOf s i
  let t1 := inT1 s pl.handle
  let up := !isLent pl.handle && promotes s x.part pl.handle
  let s := commitPage i pl.handle s
  if pl.held || t1 then
    ({ pl with st := 3, held := false, data := if pl.held then pl.data else loadPlace s x.part pl.handle },
     if t1 || up then t1Take pl.handle s else s)
  else
    let n := (coreOf (cell s c) k).grants
    ({ pl with st := 1, order := n, promote := up }, modCore c k (fun v => { v with grants := n + 1 }) s)

/-- The skip test of R166 for a page: the bound of every row against its threshold. -/
def skipTest (s : State) (x : Ctx) (m : MRec) (ht : HTok) (pl : Place) : Bool :=
  (List.range m.rows).all (fun i =>
    !rowHas x.r x.len (m.first + i) pl.page ||
    belowBound (walkBound s x m i pl.page pl.handle) (rowT (ht.rows.getD i {}) (ht.floors.getD i f32NegInf)) x.r.tau)

/-- Row states after a page has been skipped (R168). -/
def skipRows (s : State) (x : Ctx) (m : MRec) (ht : HTok) (pl : Place) : List RowState :=
  ht.rows.zipIdx.map (fun (st, i) =>
    let n := (rowSlots x.r x.len (m.first + i) pl.page).length
    if n = 0 then st
    else skipPage st (ht.floors.getD i f32NegInf) (walkBound s x m i pl.page pl.handle) n)

/-- Places that are resolved: consumed, skipped or excluded. -/
def resolved (pl : Place) : Bool := decide (4 ≤ pl.st)

/-- Bringing a held token's pages forward: every page of a dense token is granted (R21); page j of a bounded one is tested
once page j − 2 has been consumed or passed over (R166). -/
def advance (c k : Nat) : Nat → Nat → HTok → State → HTok × State
  | 0, _, ht, s => (ht, s)
  | fuel + 1, j, ht, s =>
    match ht.places[j]? with
    | none => (ht, s)
    | some pl =>
      if pl.st ≠ 0 then advance c k fuel (j + 1) ht s
      else if ht.tok.bounded && 2 ≤ j && !(ht.places[j - 2]?.elim true resolved) then advance c k fuel (j + 1) ht s
      else
        let i := ht.tok.ctx
        let x := ctxOf s i
        let m : MRec := tget {} x.groups ht.tok.grp
        if (walkRec s pl.handle).poisoned then
          let s := excludePage i ht.tok.grp pl.page pl.handle s
          let ht := flagRows x m pl.page { ht with places := ht.places.set j { pl with st := 6, held := false, data := {} } }
          advance c k fuel (j + 1) ht s
        else if ht.tok.bounded && skipTest s x m ht pl then
          let ht := { ht with rows := skipRows s x m ht pl, places := ht.places.set j { pl with st := 5, held := false, data := {} } }
          advance c k fuel (j + 1) ht (modCtx i (fun x => { x with skipped := x.skipped + 1 }) s)
        else
          let (pl, s) := grantPlace i c k pl s
          advance c k fuel (j + 1) { ht with places := ht.places.set j pl } s

/-- The held token at a position of a core is brought forward. -/
def advanceHeld (c k n : Nat) (s : State) : State :=
  match (coreOf (cell s c) k).held[n]? with
  | none => s
  | some ht =>
    let (ht, s) := advance c k (ht.places.length + 1) 0 ht s
    modCore c k (fun v => { v with held := v.held.set n ht }) s

/-! ### The ring (R21, R26) -/

/-- Operand places of a core that no token has reserved: none of a held token, none that holds an adopted page for a token in
the ring (R176). A place with run-ahead data counts as free (R175). -/
def freePlaces (c : Cell) (k : Nat) : List Nat :=
  let used := (coreOf c k).held.flatMap (fun h => (h.places.filter (fun p => p.st < 4)).map (·.idx)) ++
    (c.ring.filter (fun t => t.core == some k)).flatMap (fun t => t.tok.kept.map (·.idx))
  (List.range 64).filter (fun i => i ∉ used)

/-- The token that a core would pull (R26): the oldest of the highest class, or the oldest of all on every eighth pull. -/
def pickToken (c : Cell) (k : Nat) : Option RTok :=
  let l := c.ring.filter (fun t => t.core.isNone || t.core == some k)
  if c.pulls % 8 = 7 then l.head? else maxBy (fun t => t.cls) l

/-- A core may pull (R21), and something is there for it. -/
def canPull (c : Cell) (k : Nat) : Bool :=
  let v := coreOf c k
  v.st == 0 && decide (v.held.length < 4) && decide (8 ≤ (freePlaces c k).length) && (pickToken c k).isSome

/-- The core that the ring serves next: round robin from the core after the last (R21). -/
def nextCore (c : Cell) : Option Nat :=
  ((List.range 16).map (fun i => (c.lastCore + 1 + i) % 16)).find? (canPull c)

/-- The places of a pulled token: one for each page (R21); a page that a run-ahead fetch holds keeps its place and data
(R176). -/
def placesOf (t : Token) (free : List Nat) : List Place :=
  if t.select then [] else t.pages.zipIdx.map (fun (p, n) =>
    match t.kept.find? (fun w => w.page == p.1) with
    | some w => { idx := w.idx, page := p.1, handle := p.2, held := true, data := w.data }
    | none => { idx := free.getD n 0, page := p.1, handle := p.2 })

/-- Pulling: places are reserved, floors taken, and credits granted or first tests made. A run-ahead fetch in a place that the
token reserves is dropped first (R175). -/
def pull (c k : Nat) (s : State) : State :=
  let v := cell s c
  match pickToken v k with
  | none => s
  | some t =>
    let x := ctxOf s t.tok.ctx
    let m : MRec := tget {} x.groups t.tok.grp
    let e := v.entries.find? (fun e => e.ctx == t.tok.ctx && e.grp == t.tok.grp)
    let floors := (List.range m.rows).map (fun i =>
      if x.r.distrib = 1 || !t.tok.bounded then f32NegInf
      else match e.bind (fun e => e.acc[i]?) with
        | some o => if o.p.empty then f32NegInf else o.p.m
        | none => f32NegInf)
    let fresh : List RowState := floors.map (fun f => { o := List.replicate (reqDim x.r) 0, r := f })
    let core := coreOf v k
    let carried := core.carry.find? (fun w => w.1 == t.tok.ctx && w.2.1 == t.tok.grp)
    let places := placesOf t.tok (freePlaces v k)
    let ht : HTok := { tok := { t.tok with kept := [] }, places := places, rows := (carried.map (·.2.2)).getD fresh, floors := floors
                       outs := emptyOuts x.r m.rows false false }
    let s := modCell c (fun v => { v with ring := v.ring.erase t, pulls := v.pulls + 1, lastCore := k, progress := now s }) s
    let s := modCore c k (fun w => { w with
      held := w.held ++ [ht], progress := now s
      ahead := w.ahead.filter (fun a => !places.any (fun p => p.idx == a.idx))
      carry := w.carry.filter (fun y => !(y.1 == t.tok.ctx && y.2.1 == t.tok.grp)) }) s
    advanceHeld c k core.held.length s

/-- TOKEN_PULL (R21). -/
def execTokenPull (c core : Nat) (s : State) : Host.Outcome State Fault Refusal :=
  .next (if cellWorks s c && nextCore (cell s c) = some core then pull c core s else s)

/-! ### Fetches (R22, R41, R119) -/

/-- The place of a core that matches, changed by `f`, with what else changes; places in held order. -/
def modPlace (c k idx : Nat) (f : Place → Place) (s : State) : State :=
  modCore c k (fun v => { v with held := v.held.map (fun h => { h with
    places := h.places.map (fun p => if p.idx = idx && p.st < 4 then f p else p) }) }) s

/-- The earliest granted credit of a core. -/
def nextCredit (v : Core) : Option Place :=
  minBy (fun (p : Place) => p.order) (v.held.flatMap (fun h => h.places.filter (fun p => p.st == 1)))

/-! ### The digest pass and run-ahead fetches (R171 to R176) -/

/-- The bound that orders a page: the greatest U over the rows that attend it (R165). -/
def pageBound (s : State) (x : Ctx) (m : MRec) (page h : Nat) : Int :=
  let us := ((List.range m.rows).filter (fun i => rowHas x.r x.len (m.first + i) page)).map (fun i =>
    f32Key (walkBound s x m i page h))
  us.foldl max (-0x80000000)

/-- A list of pages by descending key, ties to the earlier. -/
def byKey (key : Nat × Nat → Int) (l : List (Nat × Nat)) : List (Nat × Nat) :=
  l.foldl (fun acc e => acc.takeWhile (fun y => key e ≤ key y) ++ e :: acc.dropWhile (fun y => key e ≤ key y)) []

/-- One column of a scorer after its 4-byte header: its values, and the bytes left. -/
def scorerBlocks (sc : Scorer) (hdr : List Byte) : Nat → Nat → List Byte → List Rat × List Byte
  | 0, _, b => ([], b)
  | n + 1, j, b =>
    let esc := bitOf (u8 hdr 3) j
    let len := if sc.wcomp = 0 || esc then blockFull sc.wformat else blockSize sc.wformat sc.wcomp
    let z : Int := zeroPoint sc.wformat (u8 hdr 2)
    let scl : Rat := fVal fFP16 (u16 hdr 0)
    let blk := decBlock sc.wformat sc.wcomp esc (dtableOf sc.table) 0x3C00 (List.replicate 64 z) (b.take len)
    let vals := blk.codes.map (fun (c : Nat) => if isInt sc.wformat then scl * (((c : Int) - z : Int) : Rat) else scl * fVal (ffmtOf sc.wformat) c)
    let (rest, left) := scorerBlocks sc hdr n (j + 1) (b.drop len)
    (vals ++ rest, left)

/-- The columns of a scorer's payload, in order (R180). -/
def scorerAll (sc : Scorer) : Nat → List Byte → List (List Rat) × List Byte
  | 0, b => ([], b)
  | n + 1, b =>
    let (c, b) := scorerBlocks sc (b.take 4) (dimOf sc.dim / 64) 0 (b.drop 4)
    let (rest, left) := scorerAll sc n b
    (c :: rest, left)

/-- The columns of W for a layer and KV head; none without a scorer. -/
def scorerCols (s : State) (x : Ctx) (kv : Nat) : List (List Rat) :=
  if x.r.scorer = 0 then [] else
    let sc : Scorer := tget {} (part s x.part).scorers x.r.scorer
    ((scorerAll sc (sc.layers * sc.kvHeads * sc.rank) sc.payload).1.drop ((x.r.layer * sc.kvHeads + kv) * sc.rank)).take sc.rank

/-- The effective query of a row for a page's record (R162). -/
def rowEff (x : Ctx) (m : MRec) (i : Nat) (p : PRec) : List Rat :=
  let q := rowQuery x.r p.format m.kv (m.first + i)
  effQuery p.format ((staticFor p q).map (fun st => (st, (kChannels p).1))) q

/-- The greatest score of a mean over the rows of a query group (R171). -/
def meanKey (x : Ctx) (m : MRec) (cols : List (List Rat)) (p : PRec) (mean : List Rat) : Int :=
  ((List.range m.rows).map (fun i => f32Key (meanScore cols (rowEff x m i p) mean))).foldl max (-0x80000000)

/-- A group digest object holds an uncorrectable word: its chunk is uncovered (R179). -/
def objBad (c : Cell) (o : DigestObj) : Bool :=
  c.metaCls.any (fun e => decide (64 * bitsOf o.handle 1 26 ≤ e.1 && e.1 < 64 * (bitsOf o.handle 1 26 + o.units)) && e.2.any (fun w => 3 ≤ w))

/-- The groups of a cell that the digest pass scores (R161, R171): built, not open, of a chunk usable for the request, with
an in-range page. -/
def liveGroups (s : State) (x : Ctx) (m : MRec) (c : Nat) (pages : List (Nat × Nat)) : List DGroup :=
  let v := cell s c
  ((v.digests.filter (fun o => o.job == x.r.job && o.seq == x.r.seq && o.layer == x.r.layer && o.kv == m.kv && o.gen == x.gen &&
    !objBad v o)).flatMap (fun o => o.groups.filter (fun g => g.built && !g.open_))).filter
      (fun g => g.idx.any (fun k => pages.any (fun e => e.1 == k)))

/-- Groups in descending score, ties to the lower first page index. -/
def rankGroups (l : List (DGroup × Int)) : List DGroup :=
  (l.foldl (fun acc e =>
    let before (y : DGroup × Int) : Bool := e.2 < y.2 || (e.2 == y.2 && y.1.idx.head?.getD 0 ≤ e.1.idx.head?.getD 0)
    acc.takeWhile before ++ e :: acc.dropWhile before) []).map (·.1)

/-- The record whose channel scales prepare the query for a group's mean (R162, R171): that of the first of its pages in range. R162
gives the effective query page by page, and no rule says which page's scales a group of pages of several takes: a DESIGN CHOICE
(log 107). -/
def firstRec (s : State) (pages : List (Nat × Nat)) (g : DGroup) : PRec :=
  ((pages.find? (fun e => e.1 ∈ g.idx)).map (fun e => walkRec s e.2)).getD {}

/-- The pages that the digest pass scores (R171 step 3): in kept groups, or uncovered. -/
def scoredPages (s : State) (x : Ctx) (m : MRec) (c : Nat) (pages : List (Nat × Nat)) : List (Nat × Nat) :=
  let gc := ceilDiv ((if x.r.fanout = 0 then 2 else x.r.fanout) * cellQuota x m c) 16
  let cols := scorerCols s x m.kv
  let live := liveGroups s x m c pages
  let kept := (rankGroups (live.map (fun g => (g, meanKey x m cols (firstRec s pages g) (groupMean g))))).take gc
  pages.filter (fun e => kept.any (fun g => e.1 ∈ g.idx) || !live.any (fun g => e.1 ∈ g.idx))

/-- The score of a page (R171 step 3), the query prepared with its own scales (R162): +∞ without a valid digest, or where the record
reads uncorrectable (R179). -/
def pageScore (s : State) (x : Ctx) (m : MRec) (e : Nat × Nat) : Int :=
  let p := walkRec s e.2
  if !p.digestValid || recBad s e.2 (codeGrans p.dim 18) then f32Key f32Inf
  else meanKey x m (scorerCols s x m.kv) p (pageMean p)

/-- The pages that one quota spans and retrieval may choose, those without the poisoned flag. -/
def openPages (s : State) (l : List (Nat × Nat)) : List (Nat × Nat) := l.filter (fun e => !(walkRec s e.2).poisoned)

/-- The pages that retrieval chooses in a cell (R170 to R172), in ascending page index. Over lent pages the choice is one over
all that this node holds (R170). Pages of score +∞ are cut at P_c like any other: R171 step 4 keeps the P_c highest, and R156 has such
a page always chosen; the model follows R171 (DESIGN CHOICE, log 107). -/
def choosePages (s : State) (x : Ctx) (m : MRec) (c : Nat) (pages : List (Nat × Nat)) : List (Nat × Nat) :=
  if totalPages x m ≤ x.r.topPages then pages else
  let all := if lentWalk x then openPages s (quotaPages x m c) else pages
  let top := (byKey (pageScore s x m) (scoredPages s x m c all)).take (cellQuota x m c)
  pages.filter (fun e => e ∈ top || selvedge x m e.1)

/-- The selection token that a core works on: the first that it holds. -/
def selecting (v : Core) : Option (HTok × Nat) := v.held.zipIdx.find? (fun (h, _) => h.tok.select)

/-- The pages that lead a provisional choice after `n` candidates have been scored (R175): best first, at most SPEC_PLACES. -/
def leaders (s : State) (x : Ctx) (m : MRec) (c n : Nat) : List (Nat × Nat) :=
  let pages := openPages s (cellPages x m c)
  let ranked := byKey (pageScore s x m) ((scoredPages s x m c pages).take n)
  let top := ranked.take (cellQuota x m c)
  (ranked.filter (fun e => e ∈ top || selvedge x m e.1)).take x.r.specPlaces

/-- What a core would do with a run-ahead turn (R175): the candidates scored by then, `d` more at the least one, the fetches
it still holds, those fallen out of the ranking dropped, and the fetch it issues. -/
def aheadTurn (s : State) (c k d : Nat) : Option (Nat × List RunAhead × RunAhead) :=
  let v := coreOf (cell s c) k
  match selecting v with
  | none => none
  | some (ht, _) =>
    let x := ctxOf s ht.tok.ctx
    let m : MRec := tget {} x.groups ht.tok.grp
    if v.st ≠ 0 || x.r.sparse ≠ 2 || x.r.specPlaces = 0 || x.r.distrib ≠ 0 then none
    else
      let total := (scoredPages s x m c (openPages s (cellPages x m c))).length
      let n := min total (ht.scored + 1 + d % (total + 1))
      let want := leaders s x m c n
      let keep := v.ahead.filter (fun a => a.ctx == ht.tok.ctx && a.grp == ht.tok.grp && want.any (fun e => e.1 == a.page))
      match want.find? (fun e => !keep.any (fun a => a.page == e.1)),
          (freePlaces (cell s c) k).find? (fun i => !keep.any (fun a => a.idx == i)) with
      | some e, some i => some (n, keep, { ctx := ht.tok.ctx, grp := ht.tok.grp, idx := i, page := e.1, handle := e.2 })
      | _, _ => none

/-- A turn of the memory controller that serves a run-ahead fetch (R175). How far scoring has come is a free value
(log 86). -/
def runAhead (c : Nat) (turn : List Nat) (s : State) : State :=
  let (d, s') := draw s
  match turn.findSome? (fun k => (aheadTurn s c k d).map (fun t => (k, t))) with
  | none => s
  | some (k, n, keep, a) =>
    modCore c k (fun w => { w with
      ahead := keep ++ [a], held := w.held.map (fun h => if h.tok.select && h.tok.ctx = a.ctx && h.tok.grp = a.grp then { h with scored := n } else h) })
      (modCell c (fun v => { v with lastFetch := k }) s')

/-- A fetch of a page would meet a word that is not good (R42): in a granule that it reads or in the record. A page held in T1 is read
there (R88, R178). -/
def fetchMeets (s : State) (x : Ctx) (page h : Nat) : Bool :=
  let grans := fetchGrans (walkRec s h) (walkCls s h) (min 64 (x.len - 64 * page))
  if inT1 s h then false
  else if isLent h then (lentOf s h).elim true (fun l => !l.recCls.isEmpty || grans.any (fun i => (tget noGran l.grans i).cls.any (· != 0)))
  else !(recGrans s h).isEmpty || grans.any (fun g => (gran s (granKey (hCell h) (hSlot h) g)).cls.any (· != 0))

/-- A run-ahead fetch lands in its place: nothing is counted, no recency changes (R42, R178). -/
def aheadLands (c k idx : Nat) (s : State) : State :=
  modCore c k (fun w => { w with ahead := w.ahead.map (fun a => if a.idx = idx && !a.landed then
    let x := ctxOf s a.ctx
    if fetchMeets s x a.page a.handle || (walkRec s a.handle).poisoned then { a with landed := true, bad := true }
    else { a with landed := true, data := loadPlace s x.part a.handle }
  else a) }) s


/-- PAGE_FETCH (R22): the memory controller's next turn. A run-ahead fetch is served only where no core of the cell holds a
committed fetch credit (R175). -/
def execPageFetch (c : Nat) (s : State) : Host.Outcome State Fault Refusal :=
  .next (
    let v := cell s c
    let turn := (List.range 16).map (fun i => (v.lastFetch + 1 + i) % 16)
    if !cellWorks s c then s else
    match turn.find? (fun k => (nextCredit (coreOf v k)).isSome) with
    | none => runAhead c turn s
    | some k =>
      match nextCredit (coreOf v k) with
      | none => s
      | some pl => modPlace c k pl.idx (fun p => if p.order = pl.order && p.st = 1 then { p with st := 2 } else p)
          (modCell c (fun v => { v with lastFetch := k }) s))

/-- The position of the held token of a core that owns a place being read. -/
def placeOwner (v : Core) (idx : Nat) : Option (Nat × HTok × Place) :=
  (v.held.zipIdx.findSome? (fun (h, n) => (h.places.find? (fun p => p.idx == idx && p.st == 2)).map (fun p => (n, h, p))))

/-- A page's fetch ends (R22, R41): the page lands in its place, or is left out. A word of an earlier incarnation of the cell is
discarded and counted (R435). -/
def fetchDone (c core place inc : Nat) (s : State) : State :=
  let v := cell s c
  if !cellWorks s c then s
  else if inc ≠ v.inc then modCell c (fun v => { v with staleDrops := satAdd 0xFFFF v.staleDrops 1 }) s
  else match placeOwner (coreOf v core) place with
  | none => aheadLands c core place s
  | some (n, ht, pl) =>
    let x := ctxOf s ht.tok.ctx
    let m : MRec := tget {} x.groups ht.tok.grp
    let r := walkRec s pl.handle
    let grans := fetchGrans r (walkCls s pl.handle) (min 64 (x.len - 64 * pl.page))
    let (bad, s) := if isLent pl.handle then readLent pl.handle grans s else commitRead pl.handle grans s
    let j := (ht.places.takeWhile (fun p => p.idx != place || p.st != 2)).length
    let (ht, s) := if bad || r.poisoned then
        (flagRows x m pl.page { ht with places := ht.places.set j { pl with st := 6 } }, excludePage ht.tok.ctx ht.tok.grp pl.page pl.handle s)
      else ({ ht with places := ht.places.set j { pl with st := 3, promote := false, data := loadPlace s x.part pl.handle } },
        if pl.promote then t1Take pl.handle s else s)
    advanceHeld c core n (modCore c core (fun w => { w with held := w.held.set n ht, progress := now s }) s)

/-! ### Consumption (R23, R136, R188, R194) -/

/-- A free increment row of a bank (R193). -/
def freeInc (c : Cell) (bank : Nat) : Option Nat :=
  ((List.range 8).map (· + 8)).find? (fun r => r ∉ tget [] c.incRows bank)

/-- Adding a page's increments: a row claimed in each bank of the stripe, the increments written there, one add queued
per bank; none where a bank has no free row (R194). A page whose add was issued before its token was issued again is not added twice
(R194, R439). -/
def addIncrements (i : Nat) (m : MRec) (grp page : Nat) (d : PlaceData) (s : State) : Option State :=
  let x := ctxOf s i
  let set : GSet := tget {} (part s x.part).gsets x.r.gset
  if (grp, page) ∉ x.owed then some s else
  match set.pages.find? (fun q => q.kv == m.kv && q.page == page) with
  | none => some (modCtx i (fun x => { x with owed := x.owed.filter (· != (grp, page)) }) s)
  | some q =>
    let n := reqDim x.r / 2
    if (List.range n).any (fun b => (freeInc (cell s q.cell) (q.bank + b)).isNone) then none
    else
      let words := pageIncrements x.r x.len m.kv m.first m.rows page d
      let op := innerOp s
      let s := modNode (fun v => { v with nextOp := v.nextOp + 1 }) s
      let s := (List.range n).foldl (fun s b =>
        let bank := q.bank + b
        let row := (freeInc (cell s q.cell) bank).getD 8
        let s := putRaw (rawKey q.cell bank row 0) (((words.drop (256 * b)).take 256).flatMap (toLe 4)) s
        modCell q.cell (fun v => { v with
          incRows := tset v.incRows bank (tget [] v.incRows bank ++ [row])
          banks := tset v.banks bank (tget [] v.banks bank ++
            [{ op := 0x10, rowA := q.row, rowB := row, rowD := q.row, ncol := 16, lane := 4, opId := op
               add := some (x.part, x.r.gset, set.serial), queuedAt := now s }]) }) s) s
      some (modCtx i (fun x => { x with owed := x.owed.filter (· != (grp, page)) })
        (modGset x.part x.r.gset (fun g => { g with adds := g.adds + 1 }) s))

/-- A page's add must wait for those of earlier query groups of its request in deterministic mode (R194). -/
def addWaits (x : Ctx) (grp kv page : Nat) : Bool :=
  x.r.distrib == 1 && x.owed.any (fun o => decide (o.1 < grp) && o.2 == page && (tget {} x.groups o.1).kv == kv)

/-- A token held before this one carries the running state that it goes on from (R149). -/
def awaitsCarry (v : Core) (h : HTok) (n : Nat) : Bool :=
  (v.held.take n).any (fun g => !g.tok.last && g.tok.ctx == h.tok.ctx && g.tok.grp == h.tok.grp)

/-- The token that a core works on: the first it holds that is not done, and its next page. -/
def working (v : Core) : Option (Nat × HTok × Nat × Place) :=
  match (v.held.zipIdx.find? (fun (h, _) => !h.tok.select && !h.places.all resolved)) with
  | none => none
  | some (h, n) =>
    if awaitsCarry v h n then none else
    match h.places.zipIdx.find? (fun (p, _) => !resolved p) with
    | none => none
    | some (p, j) => if p.st = 3 then some (n, h, j, p) else none

/-- V_TILE_CONSUMED (R23): the next page of the token in work enters the row states, and its place is freed. -/
def consume (c k : Nat) (s : State) : State :=
  match working (coreOf (cell s c) k) with
  | none => s
  | some (n, ht, j, pl) =>
    let i := ht.tok.ctx
    let x := ctxOf s i
    let m : MRec := tget {} x.groups ht.tok.grp
    let key := posKey x.r.layer m.kv pl.page
    let note (s : State) : State := modCtx i (fun x => { x with
      attended := if key ∈ x.attended then x.attended else x.attended ++ [key], progress := now s }) s
    let done := ht.places.set j { pl with st := 4, data := {} }
    let put (ht : HTok) (s : State) : State :=
      advanceHeld c k n (modCore c k (fun w => { w with held := w.held.set n ht, progress := now s }) s)
    if x.r.bwd then
      if addWaits x ht.tok.grp m.kv pl.page then s
      else match addIncrements i m ht.tok.grp pl.page pl.data s with
      | none => s
      | some s =>
        put { ht with
              places := done
              outs := ht.outs.zipIdx.map (fun (o, r) => (bwdRow x.r x.len m.kv (m.first + r) pl.page pl.data o).1) } (note s)
    else
      put { ht with
            places := done
            rows := ht.rows.zipIdx.map (fun (st, r) =>
              let st := attendRow x.r x.len m.kv (m.first + r) pl.page pl.data st
              raiseRef st (rowT st (ht.floors.getD r f32NegInf))) } (note s)

/-- V_TILE_CONSUMED. -/
def execVTileConsumed (c core : Nat) (s : State) : Host.Outcome State Fault Refusal :=
  .next (if cellWorks s c && (coreOf (cell s c) core).st = 0 then consume c core s else s)

/-! ### The cell merge unit (R24, R140, R147, R168) -/

/-- What a finished token reports per row: the row partial, and E, r and skips that its cell adds (R168). -/
def tokenRows (x : Ctx) (ht : HTok) : List RowOut × List (Nat × Nat × Nat) :=
  let det := x.r.distrib == 1
  if x.r.bwd then (ht.outs, [])
  else (ht.rows.map (fun st => { p := statePart (reqDim x.r) det st }), ht.rows.map (fun st => (st.e, st.r, st.skipped)))

/-- Merging a token's rows into the cell's merge entry. -/
def mergeToken (x : Ctx) (ht : HTok) (e : MEntry) : MEntry :=
  let (rows, sk) := tokenRows x ht
  let acc := mergeOuts x.r.bwd e.acc rows
  { e with
    acc := acc.zipIdx.map (fun (o, i) => match sk[i]? with
      | some (ee, r, n) => { o with p := addSkip o.p ee r n }
      | none => o)
    owed := e.owed - 1, nextNum := ht.tok.num + 1, any := true }

/-- The merge entry of a query group is complete: the cell reports and frees it. -/
def closeEntry (i g c : Nat) (s : State) : State :=
  match (cell s c).entries.find? (fun e => e.ctx == i && e.grp == g) with
  | none => s
  | some e =>
    if e.owed ≠ 0 then s
    else returnCredits i c (pushReport i g c e.total e.acc
      (modCell c (fun v => { v with entries := v.entries.filter (fun e => !(e.ctx == i && e.grp == g)) }) s))

/-- A core's finished token reaches the merge unit and leaves the core. -/
def takeToken (c k n : Nat) (s : State) : State :=
  match (coreOf (cell s c) k).held[n]? with
  | none => s
  | some ht =>
    let x := ctxOf s ht.tok.ctx
    let drop (s : State) : State := modCore c k (fun w => { w with held := w.held.eraseIdx n, progress := now s }) s
    if !ht.tok.last then
      let rows := ht.rows
      let onto (h : HTok) : List RowState := rows.zipIdx.map (fun (st, r) =>
        let y := h.rows.getD r {}
        { st with incomplete := st.incomplete || y.incomplete, poisoned := st.poisoned || y.poisoned })
      let w := coreOf (cell (drop s) c) k
      if w.held.any (fun h => h.tok.ctx == ht.tok.ctx && h.tok.grp == ht.tok.grp) then
        modCore c k (fun w => { w with held := w.held.map (fun h =>
          if h.tok.ctx = ht.tok.ctx && h.tok.grp = ht.tok.grp && h.tok.num = ht.tok.num + 1 then { h with rows := onto h } else h) }) (drop s)
      else modCore c k (fun w => { w with carry := w.carry ++ [(ht.tok.ctx, ht.tok.grp, rows)] }) (drop s)
    else
      closeEntry ht.tok.ctx ht.tok.grp c (modCell c (fun v => { v with
        progress := now s
        entries := v.entries.map (fun e => if e.ctx = ht.tok.ctx && e.grp = ht.tok.grp then mergeToken x ht e else e) }) (drop s))

/-- Tokens held back for the fold order whose turn has come (R147). -/
def takeWaiting (i g c : Nat) : Nat → State → State
  | 0, s => s
  | fuel + 1, s =>
    let v := cell s c
    match v.entries.find? (fun e => e.ctx == i && e.grp == g) with
    | none => s
    | some e =>
      match (List.range 16).findSome? (fun k => ((coreOf v k).held.zipIdx.find? (fun (h, _) =>
          h.done && h.tok.ctx == i && h.tok.grp == g && h.tok.num == e.nextNum)).map (fun y => (k, y.2))) with
      | none => s
      | some (k, n) => takeWaiting i g c fuel (takeToken c k n s)

/-- TOKEN_FINISH (R24): the first token of the core whose pages are all resolved sends its partials. -/
def finishToken (c k : Nat) (s : State) : State :=
  let v := coreOf (cell s c) k
  match v.held.zipIdx.find? (fun (h, n) => !h.tok.select && !h.done && h.places.all resolved && !awaitsCarry v h n) with
  | none => s
  | some (ht, n) =>
    let x := ctxOf s ht.tok.ctx
    let e := (cell s c).entries.find? (fun e => e.ctx == ht.tok.ctx && e.grp == ht.tok.grp)
    if x.r.distrib = 1 && (e.elim false (fun e => e.nextNum != ht.tok.num)) then
      modCore c k (fun w => { w with held := w.held.set n { ht with done := true } }) s
    else takeWaiting ht.tok.ctx ht.tok.grp c 64 (takeToken c k n s)

/-- TOKEN_FINISH. A word of an earlier incarnation of the core is discarded and counted (R435). -/
def execTokenFinish (c core inc : Nat) (s : State) : Host.Outcome State Fault Refusal :=
  .next (if !cellWorks s c then s
    else if inc ≠ (coreOf (cell s c) core).inc then modCell c (fun v => { v with staleDrops := satAdd 0xFFFF v.staleDrops 1 }) s
    else if (coreOf (cell s c) core).st = 0 then finishToken c core s else s)

/-- CELL_PARTIAL_RECEIVE (R24, R435): the next report of a cell reaches the node merge unit. -/
def execCellPartialReceive (c : Nat) (s : State) : Host.Outcome State Fault Refusal :=
  .next (match (cell s c).reports with
    | [] => s
    | r :: _ =>
      if !cellWorks s c then s else
      let s := modCell c takeWord s
      if r.inc ≠ (cell s c).inc then modCell c (fun v => { v with staleDrops := satAdd 0xFFFF v.staleDrops 1 }) s
      else arrive r.ctx r.grp c r.lowPage r.rows s)

/-! ### Selection (R165, R171 to R176) -/

/-- Rows after the choice: APPROX and one skip for each in-range page that a row lost (R174). -/
def loseRows (x : Ctx) (m : MRec) (lost : List (Nat × Nat)) (rows : List RowOut) : List RowOut :=
  rows.zipIdx.map (fun (o, i) =>
    let n := (lost.filter (fun e => rowHas x.r x.len (m.first + i) e.1)).length
    if n = 0 then o else { o with p := { o.p with approx := true, skipped := satAdd 0xFFFFFFFF o.p.skipped n } })

/-- A selecting core's choice is final: the cell cuts tokens, the adopted pages' first (R165, R176). Adopted is each chosen page
whose run-ahead fetch has landed and met good words only; every other run-ahead fetch of the selection is dropped. -/
def select (c k : Nat) (s : State) : State :=
  match selecting (coreOf (cell s c) k) with
  | none => s
  | some (ht, n) =>
    let i := ht.tok.ctx
    let g := ht.tok.grp
    let x := ctxOf s i
    let m : MRec := tget {} x.groups g
    let all := cellPages x m c
    let bad := all.filter (fun e => (walkRec s e.2).poisoned)
    let pages := openPages s all
    let chosen := if x.r.sparse = 2 then choosePages s x m c pages else pages
    let lost := pages.filter (fun e => e ∉ chosen)
    let order := byKey (fun e => pageBound s x m e.1 e.2) chosen
    let held := (coreOf (cell s c) k).ahead.filter (fun a => a.ctx == i && a.grp == g && a.landed && !a.bad)
    let mine := order.filter (fun e => held.any (fun a => a.page == e.1))
    let rest := order.filter (fun e => e ∉ mine)
    let t1 := (makeTokens i g x m true 0 (runs8 mine)).map (fun t =>
      { t with core := some k, tok := { t.tok with kept := held.filter (fun a => t.tok.pages.any (fun e => e.1 == a.page)) } })
    let toks := t1 ++ makeTokens i g x m true t1.length (runs8 rest)
    let base := loseRows x m lost (bad.foldl (fun rows e => (flagRows x m e.1 { outs := rows }).outs) (emptyOuts x.r m.rows false false))
    let s := bad.foldl (fun s e => excludePage i g e.1 e.2 s) s
    let s := modCtx i (fun x => { x with skipped := x.skipped + lost.length, progress := now s }) s
    let s := modCore c k (fun w => { w with
      held := w.held.eraseIdx n, ahead := w.ahead.filter (fun a => !(a.ctx == i && a.grp == g)), progress := now s }) s
    closeEntry i g c (modCell c (fun v => { v with
      ring := v.ring ++ toks
      entries := v.entries.map (fun e => if e.ctx = i && e.grp = g then { e with owed := toks.length, acc := base } else e) }) s)

/-- SELECTION_DONE (R176). A word of an earlier incarnation of the core is discarded and counted (R435). -/
def execSelectionDone (c core inc : Nat) (s : State) : Host.Outcome State Fault Refusal :=
  .next (if !cellWorks s c then s
    else if inc ≠ (coreOf (cell s c) core).inc then modCell c (fun v => { v with staleDrops := satAdd 0xFFFF v.staleDrops 1 }) s
    else if (coreOf (cell s c) core).st = 0 then select c core s else s)

end Sys2Proof.Machine
end

