-- ==== Sys2Proof/Machine/Edits.lean ====
section
/-! DEFINITION. Edits of a map: SEQ_MAP_EDIT, PAGE_MIGRATE, PAGE_LEND, PAGE_RECALL, and both sides of lending (R71, R73,
R90 to R95, R121, R318). -/

namespace Sys2Proof.Machine

/-- The edit that replaces the handles at positions of a sequence: blocks swapped, old handles dropped by the caller. -/
def swapHandles (p key : Nat) (news : List (Nat × Nat)) (s : State) : Option State :=
  match seqOf s p key with
  | none => none
  | some q =>
    let q := { q with map := news.foldl (fun m e => if e.2 = 0 then tdel m e.1 else tset m e.1 e.2) q.map }
    match editSwap p q (news.map (·.1)) s with
    | none => none
    | some (q, s) => some (setSeq p key q s)

/-- A handle put at a hole of a sequence's map, which is an extension (R70); none where a block finds no room. -/
def extendHandle (p key pos h : Nat) (s : State) : Option State :=
  match seqOf s p key with
  | none => none
  | some q => (extendBlocks p { q with map := tset q.map pos h } [pos] s).map (fun e =>
      setSeq p key { q with map := tset q.map pos h, blocks := e.1 } e.2)

/-- Why an edit cannot change a position at the moment of its swap, which drops the handles `gone`: a gradient set or a code covers it
(R192, R228), or the reclamation list has no room for what it retires (R74). -/
def swapCheck (s : State) (p : Nat) (q : Seq) (pos : Nat) (gone : List Nat) : Option Reply :=
  if codedIn s p q.job q.seq (posPage pos) (posPage pos) || gradHolds s p q (posLayer pos) [posKv pos] (posPage pos) (posPage pos) then
    some (err stConflict)
  else if reclFull s p (editItems s q [pos] gone) then some (err stRetry 10) else none

/-- RETURN of SEQ_MAP_EDIT. -/
def editRet (s : State) (p key : Nat) : Reply := okRet (toLe 4 ((seqOf s p key).elim 0 (·.gen)))

/-- Truncation of a layer (R73). -/
def truncate (p key layer newLen : Nat) (s : State) : Option State :=
  match seqOf s p key with
  | none => none
  | some q =>
    let cut := ceilDiv newLen 64
    let gone := q.map.filter (fun e => posLayer e.1 == layer && decide (cut ≤ posPage e.1))
    let q' := { q with
      map := q.map.filter (fun e => !(posLayer e.1 == layer && decide (cut ≤ posPage e.1)))
      len := tset q.len layer newLen }
    match editSwap p q' (gone.map (·.1)) s with
    | none => none
    | some (q', s) =>
      let s := gone.foldl (fun s e => releasePos p key e.1 s) s
      let s := gone.foldl (fun s e => dropHandle p e.2 s) s
      let kept := (seqOf s p key).getD {}
      let cuts := if newLen < 64 * cut && newLen < seqLen q layer then
          q'.cuts ++ [{ layer := layer, lo := newLen, hi := 64 * cut, eps := (part s p).eps }] else q'.cuts
      some (reclaim p (setSeq p key { q' with pins := kept.pins, pinCount := kept.pinCount, cuts := cuts } s))

/-- Forwarding an edit to the owner of a span over a connection; the replies of all owners complete it (R318). Its EPOCH is the home's to
compare with the home's GENERATION, and is not carried: a DESIGN CHOICE (log 111). -/
def forwardEdit (id p : Nat) (c : Cmd) (q : Seq) (r : PlaceRec) (ci : Nat) (s : State) : State :=
  askFabric p ci 0x0109 0 (myHomeEpoch s p q.job q.seq) r.epoch s.node.nodeId r.span 0 0 c.block
    { kind := 10, job := q.job, seq := q.seq, span := r.span, cmd := some id } s

/-- The parameters of a SEQ_MAP_EDIT fit its sequence, whatever its length (R318). -/
def mapEditShape (q : Seq) (c : Cmd) : Bool :=
  let b := c.block
  let op := u8 b 0xC
  u16 b 0xA < q.layers && u8 b 0xF == 0 && u8 b 0x19 == 0 && zeroIn b 0x1C 0x20 && op ≤ 2 &&
  (op == 1 || b.length == 32) && (op == 0 || u8 b 0xD < q.kvHeads) &&
  (op != 1 || (inFmtOk q (u8 b 0xE) && trefOk (seqDense q) (u8 b 0x18) (u16 b 0x1A)))

/-- The parameters of a SEQ_MAP_EDIT fit its sequence, at its turn (R71, R318). -/
def mapEditOk (q : Seq) (c : Cmd) : Bool :=
  let b := c.block
  let op := u8 b 0xC
  let layer := u16 b 0xA
  let k := u32 b 0x14
  let n := min 64 (seqLen q layer - 64 * k)
  let d := dimOf q.dim
  layer < q.layers && u8 b 0xF == 0 && u8 b 0x19 == 0 && zeroIn b 0x1C 0x20 &&
  (if op = 0 then b.length == 32 && u32 b 0x10 ≤ seqLen q layer
   else op ≤ 2 && u8 b 0xD < q.kvHeads && k < ceilDiv (seqLen q layer) 64 &&
     (if op = 2 then b.length == 32
      else inFmtOk q (u8 b 0xE) && trefOk (seqDense q) (u8 b 0x18) (u16 b 0x1A) &&
        b.length == 0x20 + 2 * n * d * inBytes (u8 b 0xE) && !dataBad b 0x20 (u8 b 0xE) (2 * n * d)))

/-- The age of what a handle names: that of its page, or that of its lend entry (R91); of nothing, the least age of the sequence, which a
page without committed use must not lower (R85; log 112). -/
def keptAge (s : State) (q : Seq) (h : Nat) : Nat :=
  if isStub h then (lendOf s h).elim (leastAge s q) (·.age) else (pageOf s h).elim (leastAge s q) (·.age)

/-- REFILL: a fresh page holding the page's tokens replaces the handle (R318). It is no committed use: the page takes the age of what it
replaces (R85; log 112). -/
def refill (p key : Nat) (q : Seq) (c : Cmd) (s : State) : State × Option Reply :=
  let b := c.block
  let layer := u16 b 0xA
  let k := u32 b 0x14
  let pos := posKey layer (u8 b 0xD) k
  let n := min 64 (seqLen q layer - 64 * k)
  let d := dimOf q.dim
  let fmt := u8 b 0xE
  let old := handleAt q pos
  match (tableNow s p q.format (u8 b 0x18) (u16 b 0x1A)).orElse (fun _ => swapCheck s p q pos [old]) with
  | some r => (s, some r)
  | none =>
    if belowFloor s c then (s, some (retryNow s c))
    else match freshPage p q pos (u8 b 0x18 % 4) s with
    | none => (s, some (retryNow s c))
    | some (h, s1) =>
      match swapHandles p key [(pos, h)] (modPage h (fun g => { g with age := keptAge s q old }) s1) with
      | none => (s, some (retryNow s c))
      | some s1 =>
        let s1 := (writeTokens c h fmt 0 n (fun v t => dataVec b 0x20 d (inBytes fmt) ((if v then n else 0) + t)) s1).2
        let s1 := (q.pins.filter (fun x => pos ∈ x.pos)).foldl (fun s x => unpinPage old x.t1 s) s1
        let pins := (q.pins.map (fun x => { x with pos := x.pos.filter (· != pos) }))
        let ended := (pins.filter (fun x => x.pos.isEmpty)).length
        let s1 := modSeq p key (fun q => { q with
          pins := pins.filter (fun x => !x.pos.isEmpty), pinCount := q.pinCount - ended }) s1
        let s1 := reclaim p (dropHandle p old s1)
        (s1, some (editRet s1 p key))

/-- The span records that a SEQ_MAP_EDIT meets (R318): of a truncation those with tokens of the layer beyond its new length, else the one
that holds its page. -/
def editSpans (s : State) (q : Seq) (c : Cmd) : List PlaceRec :=
  let b := c.block
  ((spanRecs s c.part q.job q.seq).map (·.2)).filter (fun r =>
    if u8 b 0xC = 0 then (spanOpen r || decide (u32 b 0x10 < 64 * (r.lastPage + 1))) && decide (64 * r.firstPage < seqLen q (u16 b 0xA))
    else spanHas r (u32 b 0x14))

/-- The checks of R208 that a forwarded SEQ_MAP_EDIT meets at a span's owner: what fails of the lease is NO_LEASE (R303, R318). -/
def editOwner (s : State) (c : Cmd) (id : Nat) (q : Seq) : Option Reply :=
  if !c.fabric then none
  else (memberCheck s c q.job q.seq (some id)).map (fun r => if r.status = stStale && r.detail ≠ 1 then err stNoLease (extSpan c) else r)

/-- The connections over which a home forwards an edit, one per span that another node owns; NO_LEASE where one has none, or where this
node's own span may not be written (R208, R220, R318). -/
def editRoutes (s : State) (q : Seq) (c : Cmd) : Except Reply (List (PlaceRec × Nat)) :=
  if c.fabric then .ok [] else
  let rs := editSpans s q c
  let fenced := (spanSt s c.part q.job q.seq false).elim false (fun x => x.2.fenced || x.2.handoff.isSome)
  let away := rs.filter (fun r => r.owner != s.node.nodeId)
  match rs.find? (fun r => if r.owner = s.node.nodeId then fenced else (fabricConn s c.part r.owner).isNone) with
  | some r => .error (err stNoLease r.span)
  | none => .ok (away.map (fun r => (r, (fabricConn s c.part r.owner).getD 0)))

/-- A truncation on this node, with its reply; without room for its blocks it changes nothing (R73, R77). -/
def truncateHere (p key : Nat) (c : Cmd) (s : State) : State × Reply :=
  match truncate p key (u16 c.block 0xA) (u32 c.block 0x10) s with
  | none => (s, retryNow s c)
  | some s => (s, editRet s p key)

/-- RECOPY: the page is asked for of the span's mirror, whose answer ends the edit (R318). -/
def recopy (id p key pos : Nat) (q : Seq) (s : State) : State × Option Reply :=
  match (spanRecs s p q.job q.seq).find? (fun e => spanHas e.2 (posPage pos)) with
  | none => (s, some (err stConflict))
  | some (_, r) =>
    match (if spanSynced r then fabricConn s p r.mirror else none) with
    | none => (s, some (err stConflict))
    | some ci =>
      let (tag, s) := newTag s
      let w : Await := { conn := connId s ci, tag := tag, kind := 11, job := q.job, seq := q.seq, span := r.span
                         arg := pos, cmd := some id, at_ := now s }
      (askNode ci 11 [tag, q.job, q.seq, posLayer pos, posKv pos, posPage pos]
        (modPart p (fun v => { v with awaits := v.awaits ++ [w] }) (holdEdit p key id s)), none)

/-- A SEQ_MAP_EDIT in its turn: every check before anything is changed or sent (R299). -/
def mapEdit (id p key : Nat) (q : Seq) (c : Cmd) (s : State) : State × Option Reply :=
  let layer := u16 c.block 0xA
  let op := u8 c.block 0xC
  let lo := if op = 0 then ceilDiv (u32 c.block 0x10) 64 else u32 c.block 0x14
  match editRoutes s q c with
  | .error r => (s, some r)
  | .ok routes =>
    let kvs := if op = 0 then List.range q.kvHeads else [u8 c.block 0xD]
    let hiPage := if op = 0 then 65535 else lo
    let gone := q.map.filter (fun e => posLayer e.1 == layer && decide (lo ≤ posPage e.1))
    let send (s : State) : State × Option Reply :=
      (routes.foldl (fun s e => forwardEdit id p c q e.1 e.2 s) (holdEdit p key id s), none)
    match genConflict c q 0 with
    | some r => (s, some r)
    | none =>
      if op ≠ 0 && !routes.isEmpty then send s
      else if codedIn s p q.job q.seq lo hiPage || gradHolds s p q layer kvs lo hiPage then (s, some (err stConflict))
      else if (poolCells s p).isEmpty then (s, some (err stUnavail))
      else if op = 1 then refill p key q c s
      else if op = 2 then recopy id p key (posKey layer (u8 c.block 0xD) lo) q s
      else if reclFull s p (editItems s q (gone.map (·.1)) (gone.map (·.2))) then (s, some (err stRetry 10))
      else if !routes.isEmpty then send s
      else let x := truncateHere p key c s
        (x.1, some x.2)

/-- SEQ_MAP_EDIT. With FABRIC it is an edit that a home has forwarded to this node as a span's owner (R318). -/
def cmdSeqMapEdit : Handler := fun id c s =>
  let p := c.part
  let key := blockSeq c.block
  let s := meetCmd c (u32 c.block 0) (u48 c.block 4) s
  match seqOf s p key with
  | none => (s, some (err stNotFound))
  | some q =>
    if !mapEditShape q c then (s, some (err stInvalid))
    else match editOwner s c id q with
    | some r => (s, some r)
    | none =>
      if mustQueue q c then (queueEdit p key id s, none)
      else if !mapEditOk q c then (s, some (err stInvalid))
      else mapEdit id p key q c s

/-- SEQ_MAP_EDIT. -/
def execSeqMapEdit (src : Source) (pkt : Packet) (s : State) : Host.Outcome State Fault Refusal :=
  .next (submitOp 0x0109 src pkt cmdSeqMapEdit s)

/-! ### Pages that arrive whole -/

/-- Storing a page that arrived from another node into a fresh slot of this partition: record and tiles re-encrypted under
the partition key, the uid unchanged, poisoned words kept (R41, R56, R93, R224), a reference taken to the decode table slot
that its record names (R124). -/
def storeImage (p h : Nat) (img : PageImage) (s : State) : State :=
  let r := recOf img.record
  let n := img.record.length / 4
  let bad (g i : Nat) : Bool := (n + 16 * g + i) ∈ img.poison
  let s := modPage h (fun x => { x with r := { r with
    lent := false, shared := false, pinned := false, poisoned := r.poisoned || !img.poison.isEmpty } }) s
  let s := if bitOf r.table 7 then takeTable p (r.table % 4) s else s
  let s := writeBytes h r.uid (keyGen s p) 0 img.tiles s
  poisonRec h (img.poison.filter (· < n)) ((List.range (img.tiles.length / 64)).foldl (fun s g =>
    if (List.range 16).any (bad g) then
      let k := granKey (hCell h) (hSlot h) g
      setGran k { gran s k with cls := (List.range 16).map (fun i => if bad g i then 4 else 0) } s
    else s) s)

/-- A slot and record for a page that is to arrive at a position (R77): none below a HARD_FLOOR (R87), or where no cell has
room. -/
def roomFor (floor p : Nat) (q : Seq) (pos : Nat) (s : State) : Option (Nat × State) :=
  if poolLevel s p < floor then none
  else allocPage p (pageCells s p q (posLayer pos) (posKv pos) (posPage pos)) q.cls none s

/-- A page that has arrived whole takes the place of a handle, by an edit, or at a hole by an extension: in the page allocated before it
was asked for, or in one allocated now, under a HARD_FLOOR. It keeps the age of what it replaces: arriving is no committed use (R85). -/
def landPage (floor p key pos : Nat) (edit : Bool) (held : Option Nat) (img : PageImage) (s : State) : Option State :=
  match seqOf s p key with
  | none => none
  | some q =>
    match (held.map (fun h => (h, s))).orElse (fun _ => roomFor floor p q pos s) with
    | none => none
    | some (h, s) =>
      let old := handleAt q pos
      let s := modPage h (fun g => { g with age := keptAge s q old }) (storeImage p h img s)
      match (if edit then swapHandles p key [(pos, h)] s else extendHandle p key pos h s) with
      | none => none
      | some s => some (dropHandle p old (releasePos p key pos s))

/-- The HARD_FLOOR that a command took at its acceptance (R87, R294). -/
def cmdFloor (s : State) (id : Nat) : Nat := (tget {} s.cmds id).pool.hardFloor

/-- A page that RECOPY asked for has come from the mirror: the edit is made, unless the copy is poisoned (R318). -/
def recopyLanded (p id : Nat) (key pos : Nat) (img : PageImage) (s : State) : State × Reply :=
  match seqOf s p key with
  | none => (s, err stNotFound)
  | some q =>
    let blocked := swapCheck s p q pos [handleAt q pos]
    if blocked.elim false (fun r => r.status = stConflict) then (s, err stConflict)
    else if (recOf img.record).poisoned || !img.poison.isEmpty then (s, err stPoisoned 1)
    else match blocked with
    | some r => (s, r)
    | none => match landPage (cmdFloor s id) p key pos true none img s with
      | none => (s, retryNow s (tget {} s.cmds id))
      | some s => let s := reclaim p s
        (s, editRet s p key)

/-! ### PAGE_MIGRATE (R90, R121) -/

/-- A block re-encoded from its decoded values, in the record's modes and under its scales (R121). `neg` gives the signs of
floating elements: negative zero keeps its sign (R96). -/
def reBlock (r : PRec) (dt : DTable) (bound : Rat) (v : Bool) (g : Nat) (vals : List Rat) (neg : List Bool) : TokBlock :=
  let i := scaleIdx r v g
  let (ss, zs) := blockParams r v g
  let codes := if isInt r.format then
      (vals.zip (ss.zip zs)).map (fun e => quantise r.format e.1 e.2.1 e.2.2)
    else (vals.zip neg).map (fun x => fRound (ffmtOf r.format) .near true x.2 x.1)
  { scale := tget 0 r.scale i, zero := tget 0 r.zero i, enc := encBlock r.format (tileComp r v) dt ss zs bound codes }

/-- A page with its tiles in new modes (R121): every token decoded and encoded afresh, and, as for a new page, the digest
computed from the values that its arrays now read (R111, R154, R155). -/
def reEncode (w : WorkPage) (dtOld dtNew : DTable) (bound : Rat) (kComp vComp table uid : Nat) : WorkPage :=
  let nb := dimOf w.r.dim / 64
  let base := { w.r with
    kComp := kComp, vComp := vComp, uid := uid, table := table, escMap := 0, gen := 0
    scale := if isInt w.r.format then w.r.scale else [] }
  let start : WorkPage := { r := base, k := zeros w.k.length, v := zeros w.v.length }
  let out := (List.range w.r.tokens).foldl (fun (o : WorkPage) t =>
    let blocks (v : Bool) (tile : List Byte) : List TokBlock := (List.range nb).map (fun j =>
      let g := t * nb + j
      let (ss, zs) := blockParams w.r v g
      let b := tileBlock w.r dtOld v tile g
      reBlock o.r dtNew bound v g (blockVals w.r.format ss zs b) (b.codes.map (fNeg (ffmtOf w.r.format))))
    putToken o dtNew t (blocks false w.k) (blocks true w.v)) start
  if w.r.tokens = 0 then out else
    let out := finishRec out dtNew true false 0 w.r.tokens
    { out with r := { out.r with gen := 0 } }

/-- A page as one that a sequence has allocated for itself (R121). -/
def ownedBy (q : Seq) (w : WorkPage) : WorkPage := { w with r := { w.r with shared := false, job := q.job, seq := q.seq } }

/-- The words of a page's slot, numbered from its start, that the blocks of a token take: for each block the words of its
place. -/
def blockWords (r : PRec) (tile : Nat) (v : Bool) (g : Nat) : List Nat :=
  let x := blockPlace r.format (tileComp r v) (escBit r v) g
  (List.range (ceilDiv x.2 4)).map (fun i => ((if v then tile else 0) + x.1) / 4 + i)

/-- The words of a re-encoded page that are written poisoned (R41): those of every block whose source block held poison. -/
def carryPoison (old new : PRec) (tile : Nat) (bad : Nat → Bool) : List Nat :=
  [false, true].flatMap (fun v => (List.range (old.tokens * (dimOf old.dim / 64))).flatMap (fun g =>
    if (blockWords old tile v g).any bad then blockWords new tile v g else []))

/-- Words of a page's slot written poisoned. -/
def poisonWords (h : Nat) (ws : List Nat) (s : State) : State :=
  (ws.map (· / 16)).dedup.foldl (fun s g =>
    let k := granKey (hCell h) (hSlot h) g
    setGran k { gran s k with cls := (List.range 16).map (fun i => if (16 * g + i) ∈ ws then 4 else (gran s k).cls.getD i 0) } s) s

/-- Parameters of PAGE_MIGRATE: target cell, modes, table. -/
def migrateOk (q : Seq) (c : Cmd) : Bool :=
  let b := c.block
  let k := u8 b 0x21
  let v := u8 b 0x22
  let ok (m : Nat) : Bool := m == 0xFF || compOk q.format m
  let dense := (k != 0xFF && isDense k) || (v != 0xFF && isDense v)
  b.length == 0x26 && rangeOk q b false && ok k && ok v && trefOk dense (u8 b 0x23) (u16 b 0x24)

/-- A page keeps its modes under the command's parameters (R121). -/
def keepsModes (r : PRec) (b : List Byte) : Bool :=
  (u8 b 0x21 == 0xFF || u8 b 0x21 == r.kComp) && (u8 b 0x22 == 0xFF || u8 b 0x22 == r.vComp) &&
  (!bitOf (u8 b 0x23) 7 || (bitOf r.table 7 && u8 b 0x23 % 4 == r.table % 4))

/-- Moving one page of a sequence: its new handle; none where the target cell has no slot or record. The old page, which is retired, holds
no pin any more (R89). A page that is re-encoded is a new page: of this sequence, unshared, without reads, of the sequence's least age
(R121; log 112); the pins lie on its map position. -/
def movePage (c : Cmd) (q : Seq) (h : Nat) (s : State) : Option (Nat × State) :=
  let p := c.part
  let b := c.block
  match pageOf s h with
  | none => none
  | some g =>
    match allocPage p [u8 b 0x20] g.cls none s with
    | none => none
    | some (h', s) =>
      let u := slotUnits g.cls
      let (_, s) := commitRead h (List.range (128 * u)) s
      let r := (pageOf s h).elim g.r (·.r)
      let s := if keepsModes r b then
          let s := if bitOf r.table 7 then takeTable p (r.table % 4) s else s
          modPage h' (fun n => { n with r := r, pins := g.pins, t1Holds := g.t1Holds, age := g.age, reads := g.reads })
            (copySlotClean h h' u s)
        else
          let k := if u8 b 0x21 = 0xFF then r.kComp else u8 b 0x21
          let v := if u8 b 0x22 = 0xFF then r.vComp else u8 b 0x22
          let t := if isDense k || isDense v then 128 + (if bitOf (u8 b 0x23) 7 then u8 b 0x23 % 4 else r.table % 4) else 0
          let (uid, s) := newUid p 1 s
          let s := if t = 0 then s else takeTable p (t % 4) s
          let w := reEncode (ownedBy q (loadPage s p h)) (slotTable s p (r.table % 4)) (slotTable s p (t % 4)) (fVal fFP16 (escBound c)) k v t uid
          let bad (x : Nat) : Bool := 3 ≤ (gran s (granKey (hCell h) (hSlot h) (x / 16))).cls.getD (x % 16) 0
          poisonWords h' (carryPoison r w.r (tileLen g.cls) bad)
            (storeWhole p h' w (modPage h' (fun n => { n with pins := g.pins, t1Holds := g.t1Holds, age := leastAge s q }) s))
      let s := modPage h (fun n => { n with pins := 0, t1Holds := 0 }) (carryRec h h' s)
      some (h', if 0 < g.t1Holds then t1Take h' s else s)

/-- Moving the pages at positions, one after the other: their new handles; none where one finds no room. -/
def movePages (c : Cmd) (q : Seq) (todo : List Nat) (s : State) : Option (List (Nat × Nat) × State) :=
  todo.foldl (fun (acc : Option (List (Nat × Nat) × State)) k =>
    match acc with
    | none => none
    | some (l, s) => (movePage c q (handleAt q k) s).map (fun e => (l ++ [(k, e.1)], e.2))) (some ([], s))

/-- PAGE_MIGRATE. A lend stub in its range completes it with CONFLICT, and a hole is passed over: the spec names neither case, a DESIGN
CHOICE (log 110). -/
def cmdPageMigrate : Handler := fun id c s =>
  let a := rangeArg c.block
  let p := c.part
  match seqOf s p a.key with
  | none => (s, some (err stNotFound))
  | some q =>
    if u8 c.block 0x20 ∉ partCells s p then (s, some (err stNotFound))
    else if !migrateOk q c then (s, some (err stInvalid))
    else if mustQueue q c then (queueEdit p a.key id s, none)
    else
      match (genConflict c q 4).orElse (fun _ => tableCheck s c q.format (u8 c.block 0x23)) with
      | some r => (s, some r)
      | none =>
        let pos := (rangePos a).filter (fun k => handleAt q k ≠ 0)
        let stays (h : Nat) : Bool := hCell h == u8 c.block 0x20 && (pageOf s h).elim true (fun g => keepsModes g.r c.block)
        let grad := (List.range a.count).any (fun l => gradHolds s p q (a.first + l) a.kvs a.page (a.page + a.pages - 1))
        if codedIn s p q.job q.seq a.page (a.page + a.pages - 1) || grad || pos.any (fun k => isStub (handleAt q k) ||
            (pageOf s (handleAt q k)).elim false (fun g => 1 < g.refs)) then (s, some (err stConflict))
        else
          let todo := pos.filter (fun k => !stays (handleAt q k))
          if todo.isEmpty then (s, some (okRet (toLe 4 0 ++ toLe 4 q.gen)))
          else if !cellUp s (u8 c.block 0x20) then (s, some (if (poolCells s p).isEmpty then err stUnavail else retryNow s c))
          else if reclFull s p (editItems s q todo (todo.map (handleAt q))) then (s, some (err stRetry 10))
          else if belowFloor s c then (s, some (retryNow s c))
          else
            match movePages c q todo s with
            | none => (s, some (retryNow s c))
            | some (l, s1) =>
              match swapHandles p a.key l s1 with
              | none => (s, some (retryNow s c))
              | some s1 =>
                let s1 := todo.foldl (fun s k => dropRef p (handleAt q k) s) s1
                (reclaim p s1, some (okRet (toLe 4 todo.length ++ toLe 4 ((seqOf s1 p a.key).elim 0 (·.gen)))))

/-- PAGE_MIGRATE. -/
def execPageMigrate (src : Source) (pkt : Packet) (s : State) : Host.Outcome State Fault Refusal :=
  .next (submitOp 0x0106 src pkt cmdPageMigrate s)

/-! ### PAGE_LEND and PAGE_RECALL, the owner (R91, R93) -/

/-- The job of a command under way. -/
def jobOf (s : State) (p id : Nat) : Option Job := (part s p).jobs.find? (fun j => j.cmd == id)
/-- The state with a job changed. -/
def modJob (p id : Nat) (f : Job → Job) (s : State) : State :=
  modPart p (fun v => { v with jobs := v.jobs.map (fun j => if j.cmd == id then f j else j) }) s
/-- Ending a job: EDITING clears, a page allocated and not used is freed, and its walk has finished (R72). -/
def endJob (p id : Nat) (s : State) : State :=
  match jobOf s p id with
  | none => s
  | some j =>
    let s := j.slot.elim s (fun h => freePage p h s)
    reclaim p (modPart p (fun v => { v with jobs := v.jobs.filter (fun x => x.cmd != id) })
      (modSeq p j.seqKey (fun q => { q with editing := false }) s))

/-- OK or OK_PARTIAL of a job that ends with so many pages done. -/
def jobReply (s : State) (p : Nat) (j : Job) (all : Bool) : Reply :=
  { status := if all then stOk else stPartial, detail := if all then 0 else min 0xFFFF j.done
    ret := toLe 4 j.done ++ toLe 4 ((seqOf s p j.seqKey).elim 0 (·.gen)) }

/-- The image of a page as it travels (R41, R91): record, tiles, the words that travel poisoned. -/
def pageImage (s : State) (p h : Nat) : PageImage :=
  match pageOf s h with
  | none => { record := [], tiles := [], poison := [] }
  | some g =>
    let b := pageBytes s h g.r.uid (keyGen s p) 0 (slotBytes g.cls)
    let bad := (List.range (b.length / 64)).flatMap (fun i =>
      let cls := (gran s (granKey (hCell h) (hSlot h) i)).cls
      (List.range cls.length).filterMap (fun w => if 3 ≤ cls.getD w 0 then some (512 + 16 * i + w) else none))
    { record := recBytes g.r, tiles := b, poison := recPoison s h ++ bad }

/-- The contents of the decode table slot that a record names, where TABLE[7] is set (R126). -/
def pageTable (s : State) (p : Nat) (r : PRec) : List Byte :=
  if bitOf r.table 7 then (tget {} (part s p).tables (r.table % 4) : TableSlot).bytes else []

/-- Ending an edit that goes on page by page before its last page: with its own status where no page is done, else OK_PARTIAL (R91, R93). -/
def stopJob (p id : Nat) (r : Reply) (s : State) : State × Option Reply :=
  match jobOf s p id with
  | none => (s, none)
  | some j => (endJob p id s, some (if j.done = 0 then r else jobReply s p j false))

/-- Sending the next page of a PAGE_LEND, with its decode table where TABLE[7] is set (R126), or ending the command when none
is left, or when the edit to come could not be made (R74, R192). A connection that is not READY ends it with BUSY: the spec names no
status for it, a DESIGN CHOICE (log 110). -/
def lendNext (p id : Nat) (s : State) : State × Option Reply :=
  match jobOf s p id with
  | none => (s, none)
  | some j =>
    match j.todo with
    | [] => (endJob p id s, some (jobReply s p j true))
    | pos :: _ =>
      let q := (seqOf s p j.seqKey).getD {}
      let h := handleAt q pos
      let ci := j.conn % 65536
      match swapCheck s p q pos [h] with
      | some r => stopJob p id r s
      | none =>
      if !connReady s j.conn then stopJob p id (err stBusy) s
      else
        let (_, s) := commitRead h (List.range (slotBytes (hCls h) / 64)) s
        let img := pageImage s p h
        let (tag, s) := newTag s
        let w : Await := { conn := j.conn, tag := tag, kind := 3, arg := pos, cmd := some id, at_ := now s }
        let s := modPart p (fun v => { v with awaits := v.awaits ++ [w] }) s
        (sendFabric ci 3 ([tag, (part s p).gen] ++ img.poison) (img.record ++ img.tiles ++ pageTable s p (recOf img.record)) s, none)

/-- A lend that ends before its swap: the neighbour is told to free the page that it has taken (R94), and the command ends. -/
def lendStopped (p id ci theirs : Nat) (r : Reply) (s : State) : State × Option Reply :=
  let (tag, s) := newTag s
  stopJob p id r (sendFabric ci 4 [(part s p).gen, theirs, tag] [] s)

/-- The neighbour has taken a page: its lend entry is written and an edit puts a stub at the position (R91), where that can still be
done (R74, R77, R192). -/
def lendTaken (p id pos theirs : Nat) (s : State) : State × Option Reply :=
  match jobOf s p id with
  | none => (s, none)
  | some j =>
    match seqOf s p j.seqKey with
    | none => (endJob p id s, some (err stNotFound))
    | some q =>
      let h := handleAt q pos
      let cv := connOf s (j.conn % 65536)
      match swapCheck s p q pos [h] with
      | some r => lendStopped p id (j.conn % 65536) theirs r s
      | none =>
      match (pageCells s p q (posLayer pos) (posKv pos) (posPage pos)), pageOf s h with
      | cl :: _, some g =>
        let slot := (findFree (thas (cell s cl).lends) (2 ^ 24) ((cell s cl).lends.length + 1) 0).getD 0
        let entry : LendEntry := { node := cv.peerNode, part := cv.peerPart, handle := theirs, uid := g.r.uid, cls := g.cls
                                   conn := j.conn, job := q.job, age := g.age, image := pageImage s p h, table := pageTable s p g.r }
        let stub := mkHandle cl slot 3
        match swapHandles p j.seqKey [(pos, stub)] (modCell cl (fun v => { v with lends := tset v.lends slot entry }) s) with
        | none => lendStopped p id (j.conn % 65536) theirs (retryNow s (tget {} s.cmds id)) s
        | some s =>
          let s := reclaim p (dropRef p h s)
          lendNext p id (modJob p id (fun j => { j with todo := j.todo.drop 1, done := j.done + 1 }) s)
      | _, _ => lendStopped p id (j.conn % 65536) theirs (err stUnavail) s

/-- PAGE_LEND. -/
def cmdPageLend : Handler := fun id c s =>
  let a := rangeArg c.block
  let p := c.part
  let conn := u32 c.block 0x24
  match seqOf s p a.key, connIdx s conn with
  | some q, some ci =>
    let cv := connOf s ci
    let pos := rangePos a
    let fit (h : Nat) : Bool := isPage h && (pageOf s h).elim false (fun g => g.r.tokens == 64 && !g.r.shared && g.pins == 0)
    if cv.part ≠ p then (s, some (err stNotFound))
    else if c.block.length ≠ 0x28 || !rangeOk q c.block false || cv.kind ≠ 2 || cv.peerNode ≠ u16 c.block 0x20 ||
        cv.peerPart ≠ u16 c.block 0x22 then (s, some (err stInvalid))
    else if mustQueue q c then (queueEdit p a.key id s, none)
    else if pos.any (fun k => !fit (handleAt q k)) then (s, some (err stInvalid))
    else
      match genConflict c q 4 with
      | some r => (s, some r)
      | none =>
        if codedIn s p q.job q.seq a.page (a.page + a.pages - 1) || (List.range a.count).any (fun l =>
            gradHolds s p q (a.first + l) a.kvs a.page (a.page + a.pages - 1)) then (s, some (err stConflict))
        else
          let s := modPart p (fun v => { v with jobs := v.jobs ++ [{ cmd := id, kind := 0, seqKey := a.key, conn := conn, todo := pos, eps := v.eps }] }) s
          lendNext p id (modSeq p a.key (fun q => { q with editing := true }) s)
  | _, _ => (s, some (err stNotFound))

/-- PAGE_LEND. -/
def execPageLend (src : Source) (pkt : Packet) (s : State) : Host.Outcome State Fault Refusal :=
  .next (submitOp 0x0107 src pkt cmdPageLend s)

/-- The state with a lend entry changed. -/
def modLend (h : Nat) (f : LendEntry → LendEntry) (s : State) : State :=
  modCell (hCell h) (fun c => { c with lends := tmod c.lends (hSlot h) f }) s

/-- Asking for the next page of a PAGE_RECALL, its slot allocated first (R77, R93), or ending the command; an edit that could not be
made is not begun (R74, R192). -/
def recallNext (p id : Nat) (s : State) : State × Option Reply :=
  match jobOf s p id with
  | none => (s, none)
  | some j =>
    match j.todo with
    | [] => (endJob p id s, some (jobReply s p j true))
    | pos :: _ =>
      let q := (seqOf s p j.seqKey).getD {}
      let h := handleAt q pos
      let e := (lendOf s h).getD {}
      let c : Cmd := tget {} s.cmds id
      match (if e.lost then some (err stPoisoned 1) else swapCheck s p q pos []) with
      | some r => stopJob p id r s
      | none =>
      if !connReady s e.conn then stopJob p id (retryNow s c) s
      else match roomFor c.pool.hardFloor p q pos s with
      | none => stopJob p id (retryNow s c) s
      | some (h', s) =>
        let s := modJob p id (fun j => { j with slot := some h' }) s
        let (tag, s) := newTag s
        let w : Await := { conn := e.conn, tag := tag, kind := 5, arg := pos, cmd := some id, at_ := now s }
        let s := modPart p (fun v => { v with awaits := v.awaits ++ [w] }) (modLend h (fun e => { e with recalling := true }) s)
        (sendFabric (e.conn % 65536) 5 [tag, (part s p).gen, e.handle] [] s, none)

/-- A recalled page has arrived: an edit replaces the stub where it still can be made (R74, R192), the entry is freed, the neighbour is
told to free its copy. -/
def recallLanded (p id pos : Nat) (img : PageImage) (s : State) : State × Option Reply :=
  match jobOf s p id with
  | none => (s, none)
  | some j =>
    let q := (seqOf s p j.seqKey).getD {}
    let back := modLend (handleAt q pos) (fun e => { e with recalling := false })
    match swapCheck s p q pos [] with
    | some r => stopJob p id r (back s)
    | none =>
    match landPage 0 p j.seqKey pos true j.slot img s with
    | none => stopJob p id (retryNow s (tget {} s.cmds id)) (back s)
    | some s => recallNext p id (modJob p id (fun j => { j with todo := j.todo.drop 1, done := j.done + 1, slot := none }) (reclaim p s))

/-- PAGE_RECALL. -/
def cmdPageRecall : Handler := fun id c s =>
  let a := rangeArg c.block
  let p := c.part
  match seqOf s p a.key with
  | none => (s, some (err stNotFound))
  | some q =>
    let pos := rangePos a
    if c.block.length ≠ 32 || !rangeOk q c.block false then (s, some (err stInvalid))
    else if mustQueue q c then (queueEdit p a.key id s, none)
    else
      match genConflict c q 4 with
      | some r => (s, some r)
      | none =>
        let grad := (List.range a.count).any (fun l => gradHolds s p q (a.first + l) a.kvs a.page (a.page + a.pages - 1))
        if codedIn s p q.job q.seq a.page (a.page + a.pages - 1) || pos.any (fun k => !isStub (handleAt q k)) || grad then (s, some (err stConflict))
        else if pos.any (fun k => (lendOf s (handleAt q k)).elim true (·.lost)) then (s, some (err stPoisoned 1))
        else if (poolCells s p).isEmpty then (s, some (err stUnavail))
        else
          let s := modPart p (fun v => { v with jobs := v.jobs ++ [{ cmd := id, kind := 1, seqKey := a.key, todo := pos }] }) s
          recallNext p id (modSeq p a.key (fun q => { q with editing := true }) s)

/-- PAGE_RECALL. -/
def execPageRecall (src : Source) (pkt : Packet) (s : State) : Host.Outcome State Fault Refusal :=
  .next (submitOp 0x0108 src pkt cmdPageRecall s)

/-! ### The neighbour (R91, R93, R94, R95) -/

/-- Bytes of the lend region of a partition's cells: what the other regions leave of 80 GiB (R36). -/
def lendBytes (l : Layout) : Nat := (81920 - 768 - l.rawMib - l.pageMib - l.metaMib) * 2 ^ 20
/-- Lend region bytes that a page takes: its slot and its record. -/
def lentSize (x : LentPage) : Nat := slotBytes x.cls + 2048
/-- The words of a lent page that travel poisoned: those of its record, and those of its tiles after its 512 (R41). -/
def lentPoison (x : LentPage) : List Nat :=
  x.recCls.flatMap (fun e => (List.range e.2.length).filterMap (fun w => if 3 ≤ e.2.getD w 0 then some (16 * e.1 + w) else none)) ++
  x.grans.flatMap (fun e => (List.range e.2.cls.length).filterMap (fun w => if 3 ≤ e.2.cls.getD w 0 then some (512 + 16 * e.1 + w) else none))

/-- Answering a node-to-node message: kind 20 with the tag, status, handle or bytes. -/
def answerFabric (conn : Nat) (nums : List Nat) (b : List Byte) (s : State) : State :=
  if connReady s conn then sendFabric (conn % 65536) 20 nums b s else s

/-- A fabric connection that is READY; its index. -/
def fabricIdx (s : State) (conn : Nat) : Option Nat :=
  match connIdx s conn with
  | some i => if (connOf s i).kind = 2 && (connOf s i).state = 1 then some i else none
  | none => none

/-- A page is accepted from its owner's partition (R91). -/
def lendAllowed (s : State) (p job : Nat) : Bool :=
  let c := (part s p).pool
  c.lendAccept && (c.lendJobs.isEmpty || job ∈ c.lendJobs) && thas (part s p).keys job

/-- The class of a page by the bytes of its tiles (R58). -/
def tileClass (n : Nat) : Nat := if n ≤ 8192 then 0 else if n ≤ 16384 then 1 else 2

/-- A cell with room in its lend region for a page, and a free place of it. -/
def lendPlace (s : State) (p : Nat) (x : LentPage) : Option (Nat × Nat) :=
  ((partCells s p).find? (fun c => cellUp s c &&
    decide (sumBy (cell s c).lent (fun e => lentSize e.2) + lentSize x ≤ lendBytes (part s p).layout))).map
    (fun c => (c, (findFree (thas (cell s c).lent) (2 ^ 24) ((cell s c).lent.length + 1) 0).getD 0))

/-- LENT_PAGE_RECEIVE (R91): kept under the lend keys with the owner's generation. -/
def execLentPageReceive (conn ownerGen : Nat) (page : PageImage) (table : List Byte) (s : State) :
    Host.Outcome State Fault Refusal :=
  .next (if !nodeLive s then s else match fabricIdx s conn with
    | none => s
    | some ci =>
      let cv := connOf s ci
      let p := cv.part
      let r := recOf page.record
      let cls := tileClass page.tiles.length
      let x : LentPage := { ownerNode := cv.peerNode, ownerPart := cv.peerPart, ownerGen := ownerGen, job := r.job, cls := cls
                            secret := (tget {} (part s p).keys r.job : JobKey).secret, borrowGen := (part s p).gen
                            r := { r with lent := true, poisoned := r.poisoned || !page.poison.isEmpty }, table := table
                            grans := (List.range (page.tiles.length / 64)).map (fun g => (g,
                              { data := slice page.tiles (64 * g) 64, uid := r.uid, idx := g, kind := 6, ownerGen := ownerGen
                                cls := wordMarks ((page.poison.filter (512 ≤ ·)).map (· - 512)) g }))
                            recCls := ((List.range 32).map (fun g => (g, wordMarks (page.poison.filter (· < 512)) g))).filter (fun e => !e.2.isEmpty) }
      if !lendAllowed s p r.job then answerFabric conn [stAuth] [] s
      else
        match lendPlace s p x with
        | none => answerFabric conn [stBusy] [] s
        | some (c, slot) =>
          answerFabric conn [stOk, mkHandle c slot cls] []
            (modCell c (fun v => { v with lent := tset v.lent slot x }) s))

/-- Freeing a lent page. -/
def freeLent (h : Nat) (s : State) : State := modCell (hCell h) (fun c => { c with lent := tdel c.lent (hSlot h) }) s

/-- LEND_RELEASE (R94): the neighbour frees the page it is told to release, and confirms. -/
def execLendRelease (conn ownerGen handle : Nat) (s : State) : Host.Outcome State Fault Refusal :=
  .next (if !nodeLive s then s else match fabricIdx s conn with
    | none => s
    | some ci =>
      match lentOf s handle with
      | some x =>
        if x.ownerNode = (connOf s ci).peerNode && x.ownerPart = (connOf s ci).peerPart && x.ownerGen = ownerGen &&
            hCell handle ∈ partCells s (connOf s ci).part then
          answerFabric conn [stOk, handle] [] (freeLent handle s)
        else answerFabric conn [stNotFound, handle] [] s
      | none => answerFabric conn [stNotFound, handle] [] s)

/-- RECALL_REQUEST (R93): the neighbour sends the page back, its poisoned words with it (log 88), after the committed read that sending
it is (R516); it keeps its copy until the owner releases it. -/
def execRecallRequest (conn tag ownerGen handle : Nat) (s : State) : Host.Outcome State Fault Refusal :=
  .next (if !nodeLive s then s else match fabricIdx s conn with
    | none => s
    | some ci =>
      match lentOf s handle with
      | some x =>
        if x.ownerNode = (connOf s ci).peerNode && x.ownerPart = (connOf s ci).peerPart && x.ownerGen = ownerGen &&
            hCell handle ∈ partCells s (connOf s ci).part then
          let s := (readLent handle (x.grans.map (·.1)) s).2
          let x := (lentOf s handle).getD x
          let tiles := x.grans.flatMap (fun e => lentData s (connOf s ci).part handle x e.1)
          answerFabric conn [stOk, tag] (recBytes { x.r with lent := false } ++ tiles ++ (lentPoison x).flatMap (toLe 4)) s
        else answerFabric conn [stNotFound, tag] [] s
      | none => answerFabric conn [stNotFound, tag] [] s)

/-- Marking lend entries of a partition lost (R94), with the LENT_LOST event. -/
def loseLent (p node : Nat) (lost : LendEntry → Bool) (s : State) : State :=
  let n := sumBy (partCells s p) (fun c => ((cell s c).lends.filter (fun e => lost e.2 && !e.2.lost)).length)
  let s := (partCells s p).foldl (fun s c => modCell c (fun v => { v with
    lends := v.lends.map (fun e => (e.1, if lost e.2 then { e.2 with lost := true } else e.2)) }) s) s
  if n = 0 then s else postEvent 3 p p (toLe 2 node ++ toLe 4 n) s

/-- LENT_LOSS_REPORT (R94): the neighbour's partition was reset. -/
def execLentLossReport (conn : Nat) (handles : List Nat) (s : State) : Host.Outcome State Fault Refusal :=
  .next (if !nodeLive s then s else match fabricIdx s conn with
    | none => s
    | some ci =>
      let cv := connOf s ci
      loseLent cv.part cv.peerNode (fun e => e.node == cv.peerNode && e.part == cv.peerPart && e.handle ∈ handles) s)

end Sys2Proof.Machine
end

