-- ==== Sys2Proof/Machine/Crypto.lean ====
section
/-! DEFINITION. The algorithms of R397 that the node's commands show: SHA-384 (FIPS 180-4), HMAC-SHA-384 (FIPS 198-1), HKDF-SHA-384
(RFC 5869), AES-256 with CMAC (SP 800-38B) and GCM (SP 800-38D), ECDH and ECDSA on P-384 (SP 800-56A, FIPS 186-5). The fused values of
R382 are constants of Config. -/

namespace Sys2Proof.Machine

/-- The value of a list of bytes, most significant byte first. -/
def beVal (b : List Byte) : Nat := b.foldl (fun a x => 256 * a + x.toNat) 0
/-- `n` bytes of a value, most significant byte first. -/
def toBe (n v : Nat) : List Byte := (toLe n v).reverse
/-- The bytewise sum of two strings, as long as the shorter. -/
def xorStr (a b : List Byte) : List Byte := List.zipWith (fun x y => x ^^^ y) a b
/-- The bytes of an ASCII string. -/
def ascii (t : String) : List Byte := t.toList.map (fun c => BitVec.ofNat 8 c.toNat)

/-! ### SHA-384, HMAC and HKDF -/

/-- Rows 0 to 19 of the round constants of FIPS 180-4. -/
def shaK0 : List (BitVec 64) := [
  0x428A2F98D728AE22, 0x7137449123EF65CD, 0xB5C0FBCFEC4D3B2F, 0xE9B5DBA58189DBBC, 0x3956C25BF348B538,
  0x59F111F1B605D019, 0x923F82A4AF194F9B, 0xAB1C5ED5DA6D8118, 0xD807AA98A3030242, 0x12835B0145706FBE,
  0x243185BE4EE4B28C, 0x550C7DC3D5FFB4E2, 0x72BE5D74F27B896F, 0x80DEB1FE3B1696B1, 0x9BDC06A725C71235,
  0xC19BF174CF692694, 0xE49B69C19EF14AD2, 0xEFBE4786384F25E3, 0x0FC19DC68B8CD5B5, 0x240CA1CC77AC9C65]
/-- Rows 20 to 39 of the round constants of FIPS 180-4. -/
def shaK1 : List (BitVec 64) := [
  0x2DE92C6F592B0275, 0x4A7484AA6EA6E483, 0x5CB0A9DCBD41FBD4, 0x76F988DA831153B5, 0x983E5152EE66DFAB,
  0xA831C66D2DB43210, 0xB00327C898FB213F, 0xBF597FC7BEEF0EE4, 0xC6E00BF33DA88FC2, 0xD5A79147930AA725,
  0x06CA6351E003826F, 0x142929670A0E6E70, 0x27B70A8546D22FFC, 0x2E1B21385C26C926, 0x4D2C6DFC5AC42AED,
  0x53380D139D95B3DF, 0x650A73548BAF63DE, 0x766A0ABB3C77B2A8, 0x81C2C92E47EDAEE6, 0x92722C851482353B]
/-- Rows 40 to 59 of the round constants of FIPS 180-4. -/
def shaK2 : List (BitVec 64) := [
  0xA2BFE8A14CF10364, 0xA81A664BBC423001, 0xC24B8B70D0F89791, 0xC76C51A30654BE30, 0xD192E819D6EF5218,
  0xD69906245565A910, 0xF40E35855771202A, 0x106AA07032BBD1B8, 0x19A4C116B8D2D0C8, 0x1E376C085141AB53,
  0x2748774CDF8EEB99, 0x34B0BCB5E19B48A8, 0x391C0CB3C5C95A63, 0x4ED8AA4AE3418ACB, 0x5B9CCA4F7763E373,
  0x682E6FF3D6B2B8A3, 0x748F82EE5DEFB2FC, 0x78A5636F43172F60, 0x84C87814A1F0AB72, 0x8CC702081A6439EC]
/-- Rows 60 to 79 of the round constants of FIPS 180-4. -/
def shaK3 : List (BitVec 64) := [
  0x90BEFFFA23631E28, 0xA4506CEBDE82BDE9, 0xBEF9A3F7B2C67915, 0xC67178F2E372532B, 0xCA273ECEEA26619C,
  0xD186B8C721C0C207, 0xEADA7DD6CDE0EB1E, 0xF57D4F7FEE6ED178, 0x06F067AA72176FBA, 0x0A637DC5A2C898A6,
  0x113F9804BEF90DAE, 0x1B710B35131C471B, 0x28DB77F523047D84, 0x32CAAB7B40C72493, 0x3C9EBE0A15C9BEBC,
  0x431D67C49C100D4C, 0x4CC5D4BECB3E42B6, 0x597F299CFC657E2A, 0x5FCB6FAB3AD6FAEC, 0x6C44198C4A475817]

/-- The initial hash value of SHA-384. -/
def sha384Iv : List (BitVec 64) := [
  0xCBBB9D5DC1059ED8, 0x629A292A367CD507, 0x9159015A3070DD17, 0x152FECD8F70E5939,
  0x67332667FFC00B31, 0x8EB44A8768581511, 0xDB0C2E0D64F98FA7, 0x47B5481DBEFA4FA4]

/-- The message schedule of a block, newest word first. -/
def shaSchedule (block : List Byte) : List (BitVec 64) :=
  (List.range 64).foldl (fun w _ =>
    let a := w.getD 14 0
    let b := w.getD 1 0
    ((b.rotateRight 19 ^^^ b.rotateRight 61 ^^^ (b >>> 6)) + w.getD 6 0 + (a.rotateRight 1 ^^^ a.rotateRight 8 ^^^ (a >>> 7)) +
      w.getD 15 0) :: w)
    ((List.range 16).map (fun i => BitVec.ofNat 64 (beVal (slice block (8 * i) 8)))).reverse

/-- One round on the eight working variables. -/
def shaRound (v : List (BitVec 64)) (kw : BitVec 64) : List (BitVec 64) :=
  match v with
  | [a, b, c, d, e, f, g, h] =>
    let t := h + (e.rotateRight 14 ^^^ e.rotateRight 18 ^^^ e.rotateRight 41) + ((e &&& f) ^^^ (~~~e &&& g)) + kw
    [t + (a.rotateRight 28 ^^^ a.rotateRight 34 ^^^ a.rotateRight 39) + ((a &&& b) ^^^ (a &&& c) ^^^ (b &&& c)), a, b, c, d + t, e, f, g]
  | v => v

/-- A block taken into the hash value. -/
def shaBlock (h : List (BitVec 64)) (block : List Byte) : List (BitVec 64) :=
  let kw := List.zipWith (· + ·) (shaK0 ++ shaK1 ++ shaK2 ++ shaK3) (shaSchedule block).reverse
  List.zipWith (· + ·) h (kw.foldl shaRound h)

/-- The first n blocks of 128 bytes taken into the hash value. -/
def shaBlocks : Nat → List (BitVec 64) → List Byte → List (BitVec 64)
  | 0, h, _ => h
  | n + 1, h, b => shaBlocks n (shaBlock h (b.take 128)) (b.drop 128)

/-- SHA-384, 48 bytes. -/
def sha384 (m : List Byte) : List Byte :=
  let b := m ++ 0x80 :: zeros ((239 - m.length % 128) % 128) ++ toBe 16 (8 * m.length)
  ((shaBlocks (b.length / 128) sha384Iv b).take 6).flatMap (fun w => toBe 8 w.toNat)

/-- HMAC-SHA-384. -/
def hmac384 (key m : List Byte) : List Byte :=
  let k := padTo 128 (if 128 < key.length then sha384 key else key)
  sha384 (k.map (· ^^^ 0x5C) ++ sha384 (k.map (· ^^^ 0x36) ++ m))

/-- The blocks T(i + 1) to T(i + n) of HKDF's expansion, `t` being T(i). -/
def hkdfBlocks (prk info : List Byte) : Nat → Nat → List Byte → List Byte
  | 0, _, _ => []
  | n + 1, i, t =>
    let t := hmac384 prk (t ++ info ++ [BitVec.ofNat 8 (i + 1)])
    t ++ hkdfBlocks prk info n (i + 1) t

/-- HKDF-SHA-384: input keying material, salt, info, output length (R383). -/
def hkdf384 (ikm salt info : List Byte) (len : Nat) : List Byte :=
  (hkdfBlocks (hmac384 salt ikm) info (ceilDiv len 48) 0 []).take len

/-! ### AES-256, CMAC, GCM -/

/-- Doubling in the field of AES. -/
def aesDouble (a : Byte) : Byte := if a.msb then (a <<< 1) ^^^ 0x1B else a <<< 1
/-- Multiplication in the field of AES. -/
def aesMul (a b : Byte) : Byte :=
  ((List.range 8).foldl (fun (p : Byte × Byte) i => (if b.getLsbD i then p.1 ^^^ p.2 else p.1, aesDouble p.2)) (0, a)).1
/-- The S-box: the inverse (a^254), then the affine map. -/
def aesSbox (a : Byte) : Byte :=
  let b := ((List.range 7).foldl (fun (p : Byte × Byte) _ => let q := aesMul p.2 p.2; (aesMul p.1 q, q)) (1, a)).1
  b ^^^ b.rotateLeft 1 ^^^ b.rotateLeft 2 ^^^ b.rotateLeft 3 ^^^ b.rotateLeft 4 ^^^ 0x63

/-- The 60 words of the key schedule of AES-256, newest first. -/
def aesWords (key : List Byte) : List (List Byte) :=
  (List.range 52).foldl (fun w j =>
    let i := j + 8
    let t := w.getD 0 []
    let t :=
      if i % 8 = 0 then xorStr ((t.drop 1 ++ t.take 1).map aesSbox) ((List.range (i / 8 - 1)).foldl (fun x _ => aesDouble x) 1 :: zeros 3)
      else if i % 8 = 4 then t.map aesSbox else t
    xorStr (w.getD 7 []) t :: w) ((List.range 8).map (fun i => slice key (4 * i) 4)).reverse

/-- The 15 round keys of AES-256. -/
def aesKeys (key : List Byte) : List (List Byte) :=
  let w := (aesWords key).reverse
  (List.range 15).map (fun i => ((w.drop (4 * i)).take 4).flatten)

/-- SubBytes and ShiftRows. -/
def aesShift (b : List Byte) : List Byte :=
  (List.range 16).map (fun i => aesSbox (b.getD ((i + 4 * (i % 4)) % 16) 0))
/-- MixColumns. -/
def aesMix (b : List Byte) : List Byte :=
  (List.range 16).map (fun i =>
    let at_ (k : Nat) : Byte := b.getD (i / 4 * 4 + (i + k) % 4) 0
    aesDouble (at_ 0) ^^^ aesDouble (at_ 1) ^^^ at_ 1 ^^^ at_ 2 ^^^ at_ 3)
/-- One block under AES-256, by its round keys. -/
def aesRounds (keys : List (List Byte)) (b : List Byte) : List Byte :=
  let b := ((keys.drop 1).take 13).foldl (fun b k => xorStr (aesMix (aesShift b)) k) (xorStr b (keys.getD 0 []))
  xorStr (aesShift b) (keys.getD 14 [])

/-- A CMAC subkey from a block: doubling in GF(2^128). -/
def cmacDouble (b : List Byte) : List Byte :=
  let v := beVal b
  toBe 16 (if 2 ^ 127 ≤ v then Nat.xor (2 * v - 2 ^ 128) 0x87 else 2 * v)
/-- The chain of a CMAC over n whole blocks. -/
def cmacChain (keys : List (List Byte)) : Nat → List Byte → List Byte → List Byte
  | 0, x, _ => x
  | n + 1, x, m => cmacChain keys n (aesRounds keys (xorStr x (m.take 16))) (m.drop 16)
/-- AES-256-CMAC, 16 bytes. -/
def cmac256 (key m : List Byte) : List Byte :=
  let keys := aesKeys key
  let k1 := cmacDouble (aesRounds keys (zeros 16))
  let n := (m.length - 1) / 16
  let last := m.drop (16 * n)
  let last := if last.length = 16 then xorStr last k1 else xorStr (padTo 16 (last ++ [0x80])) (cmacDouble k1)
  aesRounds keys (xorStr (cmacChain keys n (zeros 16) m) last)

/-- Multiplication in GF(2^128) with the bit order of GCM: bit 0 is the most significant. -/
def ghashMul (x y : Nat) : Nat :=
  ((List.range 128).foldl (fun (p : Nat × Nat) i =>
    (if bitOf x (127 - i) then Nat.xor p.1 p.2 else p.1, if p.2 % 2 = 1 then Nat.xor (p.2 / 2) (0xE1 * 2 ^ 120) else p.2 / 2)) (0, y)).1
/-- GHASH over n blocks. -/
def ghash (h : Nat) : Nat → Nat → List Byte → Nat
  | 0, y, _ => y
  | n + 1, y, b => ghash h n (ghashMul (Nat.xor y (beVal (b.take 16))) h) (b.drop 16)
/-- A string padded with zeros to whole blocks. -/
def padBlocks (b : List Byte) : List Byte := b ++ zeros (16 * ceilDiv b.length 16 - b.length)
/-- GCTR: n blocks of keystream from a counter value, over a text. -/
def gctr (keys : List (List Byte)) (iv : List Byte) : Nat → Nat → List Byte → List Byte
  | 0, _, _ => []
  | n + 1, ctr, b => xorStr (b.take 16) (aesRounds keys (iv ++ toBe 4 ctr)) ++ gctr keys iv n (ctr + 1) (b.drop 16)
/-- AES-256-GCM decryption with a 12-byte IV: the plaintext, or none where the tag fails. -/
def gcmOpen (key iv aad ct tag : List Byte) : Option (List Byte) :=
  let keys := aesKeys key
  let text := padBlocks aad ++ padBlocks ct ++ toBe 8 (8 * aad.length) ++ toBe 8 (8 * ct.length)
  let s := toBe 16 (ghash (beVal (aesRounds keys (zeros 16))) (text.length / 16) 0 text)
  if gctr keys iv 1 1 s = tag then some (gctr keys iv (ceilDiv ct.length 16) 2 ct) else none

/-! ### P-384 -/

/-- The field of P-384. -/
def p384 : Nat := 2 ^ 384 - 2 ^ 128 - 2 ^ 96 + 2 ^ 32 - 1
/-- The order of its group. -/
def n384 : Nat := 0xFFFFFFFFFFFFFFFFFFFFFFFFFFFFFFFFFFFFFFFFFFFFFFFFC7634D81F4372DDF581A0DB248B0A77AECEC196ACCC52973
/-- The coefficient b of the curve; a is -3. -/
def b384 : Nat := 0xB3312FA7E23EE7E4988E056BE3F82D19181D9C6EFE8141120314088F5013875AC656398D8A2ED19D2A85C8EDD3EC2AEF

/-- A power modulo m, exponents below 2^384. -/
def powMod (m a e : Nat) : Nat :=
  (List.range 384).foldl (fun x i => let q := x * x % m; if bitOf e (383 - i) then q * a % m else q) 1

/-- A point in Jacobian coordinates; z = 0 is the point at infinity. -/
structure EcPoint where
  x : Nat
  y : Nat
  z : Nat
  deriving DecidableEq, Repr, Inhabited

/-- Twice a point. -/
def ecDouble (a : EcPoint) : EcPoint :=
  let p := p384
  let d := a.z * a.z % p
  let g := a.y * a.y % p
  let b := a.x * g % p
  let m := 3 * (a.x + p - d) % p * (a.x + d) % p
  let x := (m * m + 8 * p - 8 * b) % p
  { x := x, y := (m * (4 * b + p - x) + 8 * (p * p - g * g)) % p, z := 2 * a.y * a.z % p }

/-- The sum of two points. -/
def ecAdd (a b : EcPoint) : EcPoint :=
  if a.z = 0 then b else if b.z = 0 then a
  else
    let p := p384
    let za := a.z * a.z % p
    let zb := b.z * b.z % p
    let u := a.x * zb % p
    let s := a.y * zb % p * b.z % p
    let h := (b.x * za + p - u) % p
    let r := (b.y * za % p * a.z + p - s) % p
    if h = 0 then (if r = 0 then ecDouble a else { x := 1, y := 1, z := 0 })
    else
      let hh := h * h % p
      let hhh := hh * h % p
      let v := u * hh % p
      let x := (r * r + 3 * p - hhh - 2 * v) % p
      { x := x, y := (r * (v + p - x) + p * p - s * hhh) % p, z := a.z * b.z % p * h % p }

/-- A multiple of a point. -/
def ecMul (k : Nat) (a : EcPoint) : EcPoint :=
  (List.range 384).foldl (fun q i => let q := ecDouble q; if bitOf k (383 - i) then ecAdd q a else q) { x := 1, y := 1, z := 0 }

/-- The generator. -/
def ecBase : EcPoint :=
  { x := 0xAA87CA22BE8B05378EB1C71EF320AD746E1D3B628BA79B9859F741E082542A385502F25DBF55296C3A545E3872760AB7
    y := 0x3617DE4A96262C6F5D9E98BF9292DC29F8F41DBD289A147CE9DA3113B5F0B8C00A60B1CE1D7E819D7A431D7C90EA0E5F
    z := 1 }

/-- The affine coordinates of a point that is not at infinity. -/
def ecAffine (a : EcPoint) : Nat × Nat :=
  let i := powMod p384 a.z (p384 - 2)
  let i2 := i * i % p384
  (a.x * i2 % p384, a.y * i2 % p384 * i % p384)

/-- The point that 97 bytes of SEC1 uncompressed form name, where it is valid (R387). -/
def ecPoint (b : List Byte) : Option EcPoint :=
  let x := beVal (slice b 1 48)
  let y := beVal (slice b 49 48)
  if b.length = 97 && u8 b 0 = 4 && x < p384 && y < p384 && y * y % p384 = (x * x % p384 * x + 3 * (p384 - x) + b384) % p384 then
    some { x := x, y := y, z := 1 }
  else none
/-- The 97 bytes of a point. -/
def ecBytes (a : EcPoint) : List Byte := let q := ecAffine a; 0x04 :: toBe 48 q.1 ++ toBe 48 q.2

/-- The ECDH shared secret of a scalar and a public key: the x coordinate, big-endian. -/
def ecdh (d : Nat) (q : EcPoint) : List Byte := toBe 48 (ecAffine (ecMul d q)).1

/-- ECDSA verification over SHA-384: public key, message, r then s (R180, R464). -/
def ecdsaVerify (key m sig : List Byte) : Bool :=
  let r := beVal (slice sig 0 48)
  let t := beVal (slice sig 48 48)
  match ecPoint key with
  | none => false
  | some q =>
    if sig.length ≠ 96 || r = 0 || t = 0 || n384 ≤ r || n384 ≤ t then false
    else
      let w := powMod n384 t (n384 - 2)
      let a := ecAdd (ecMul (beVal (sha384 m) * w % n384) ecBase) (ecMul (r * w % n384) q)
      a.z != 0 && (ecAffine a).1 % n384 == r

/-- An ECDSA signature of a message by a scalar with a per-message secret, r then s; none where the secret does not serve. -/
def ecdsaSign (d k : Nat) (m : List Byte) : Option (List Byte) :=
  let k := k % n384
  let r := (ecAffine (ecMul k ecBase)).1 % n384
  let t := powMod n384 k (n384 - 2) * ((beVal (sha384 m) + r * d) % n384) % n384
  if k = 0 || r = 0 || t = 0 then none else some (toBe 48 r ++ toBe 48 t)

/-! ### The fused identity (R382) -/

/-- The identity private key: a scalar of P-384. -/
def identityKey : Nat := 1 + Config.identityScalar % (n384 - 1)
/-- The node's fingerprint: SHA-384 of its identity public key in SEC1 uncompressed form (R180). -/
def fingerprint : List Byte := sha384 (ecBytes (ecMul identityKey ecBase))
/-- A signature by the identity key, 96 bytes (R231, R396), with a per-message secret of the module's DRBG; the next one where a
secret does not serve. -/
def signedWith (secret : Nat) (m : List Byte) : List Byte :=
  ((List.range 64).findSome? (fun i => ecdsaSign identityKey (secret + i) m)).getD (zeros 96)
/-- A firmware signature verifies under the vendor's key, whose digest is fused (R382, R464). -/
def vendorVerify (m sig : List Byte) : Bool := ecdsaVerify Config.vendorKey m sig

end Sys2Proof.Machine
end

