-- ==== Sys2Proof/Machine/Keys.lean ====
section
/-! DEFINITION. The keys that the node derives (R385) and their key check values (R298). -/

namespace Sys2Proof.Machine

/-- The device root secret's 32 bytes (R382). -/
def rootSecret : List Byte := toLe 32 Config.rootSecret

/-- The salt of a partition's keys: BOOT_NONCE, partition, PART_GEN. -/
def partSalt (s : State) (p : Nat) : List Byte := toLe 8 s.node.bootNonce ++ toLe 2 p ++ toLe 8 (part s p).gen

/-- The XTS keys of a partition: data key, then tweak key (R53). -/
def partXtsKeys (s : State) (p : Nat) : List Byte := hkdf384 rootSecret (partSalt s p) (ascii "crial part xts") 64

/-- The fingerprint key of a partition (R241). -/
def fpKey (s : State) (p : Nat) : List Byte := hkdf384 rootSecret (partSalt s p) (ascii "crial part fp") 32

/-- The lend keys of a borrowing partition for a job (R53, R91). -/
def lendKeys (s : State) (p job : Nat) (secret : List Byte) : List Byte :=
  hkdf384 secret (toLe 2 s.node.nodeId ++ toLe 2 p ++ toLe 8 (part s p).gen ++ toLe 8 s.node.bootNonce)
    (ascii "crial lend xts" ++ toLe 4 job) 64

/-- The span coding key of a job (R226). -/
def spanKey (job : Nat) (secret : List Byte) : List Byte := hkdf384 secret (toLe 4 job) (ascii "crial span code") 64

/-- One end of a fabric connection: node, partition, QPN. -/
def saEnd (node part qpn : Nat) : List Byte := toLe 2 node ++ toLe 2 part ++ toLe 4 qpn

/-- A connection SA key from one end to another under a job key generation: AES key, then salt (R390). -/
def saKey (job jkg : Nat) (secret sender receiver : List Byte) : List Byte :=
  hkdf384 secret (toLe 4 job) (ascii "crial conn sa" ++ toLe 4 jkg ++ sender ++ receiver) 36

/-- The job wrapping key, from the ECDH shared secret (R387). -/
def jobWrapKey (job : Nat) (shared : List Byte) : List Byte :=
  hkdf384 shared (toLe 4 job) (ascii "crial job wrap" ++ fingerprint) 32

/-- The scorer wrapping key of a member, from the ECDH shared secret, SERIAL and the member's fingerprint (R181). -/
def scorerWrapKey (serial job : Nat) (shared print : List Byte) : List Byte :=
  hkdf384 shared (toLe 8 serial ++ toLe 4 job) (ascii "crial scorer wrap" ++ print) 32

/-- The key check value of a key: bytes 0 to 3 of HMAC-SHA-384 keyed with it (R298). -/
def kcvOf (key : List Byte) : Nat := leVal ((hmac384 key (ascii "crial key check")).take 4)

/-- Unwrapping a job secret: EPH_KEY, JOB_ID, OWNER_KEY, IV, ciphertext, tag (R387). -/
def unwrapJob (eph : EcPoint) (job : Nat) (owner ephKey iv ct tag : List Byte) : Option (List Byte) :=
  gcmOpen (jobWrapKey job (ecdh identityKey eph)) iv (toLe 4 job ++ owner ++ ephKey) ct tag

/-- The content key of a scorer bundle for its i-th of m members, unwrapped; then the payload under it (R181). -/
def unwrapScorer (i : Nat) (b : List Byte) : Option (List Byte) :=
  let m := u16 b 2
  let n := u32 b 0x9C
  let aad := b.take 0xA0
  let wrapped := slice b (0xE0 + 48 * m + 48 * i) 48
  let pay := slice b (0xE0 + 96 * m) n
  (ecPoint (slice b 0x20 97)).bind (fun eph =>
    (gcmOpen (scorerWrapKey (u64 b 0x10) (u32 b 4) (ecdh identityKey eph) (slice b (0xE0 + 48 * i) 48)) (zeros 12) aad
      (wrapped.take 32) (wrapped.drop 32)).bind (fun key =>
        gcmOpen key (slice b 0x90 12) aad (pay.take (n - 16)) (pay.drop (n - 16))))

/-- A signature by the identity key (R231, R396); its per-message secret is drawn. -/
def signed (m : List Byte) (s : State) : List Byte × State :=
  let (k, s) := draw s
  (signedWith k m, s)

end Sys2Proof.Machine
end

