-- ==== Sys2Proof/Machine/AttnCmds.lean ====
section
/-! DEFINITION. ATTEND, ATTEND_BWD, MERGE, DIGEST_BUILD, SCORER_LOAD, CANCEL, and the timers of requests (chapters 05 to 07,
R28, R130, R145, R151, R160, R182, R184, R191 to R198). -/

namespace Sys2Proof.Machine

/-! ### Parameters (R130, R162, R184, R304, R306) -/

/-- FP32 bits that are finite and greater than 0. -/
def f32Pos (c : Nat) : Bool := fFinite fFP32 c && !fNeg fFP32 c && fMag fFP32 c != 0
/-- FP16 bits of an escape bound: 0 to 1.0, or 0xFFFF. -/
def boundOk (c : Nat) : Bool := c == 0xFFFF || c ≤ 0x3C00
/-- Vectors of d elements of e bytes from an offset. -/
def vectors (b : List Byte) (off rows d e : Nat) : List (List Nat) := (List.range rows).map (dataVec b off d e)

/-- The fields that ATTEND and ATTEND_BWD share. -/
def baseReq (b : List Byte) : Req :=
  let kvs := (bitList (leAt b 0x0C 8) 64).length
  let bias := bitOf (u8 b 0x19) 1
  let qt := u16 b 0x14
  { job := u32 b 0, seq := u48 b 4, layer := u16 b 0xA, kvSet := leAt b 0xC 8, qTokens := qt, group := u8 b 0x16, dim := u8 b 0x17
    qFormat := u8 b 0x18, wide := bitOf (u8 b 0x19) 0, mask := u8 b 0x1A, window := u32 b 0x20, keyLo := u32 b 0x24, keyHi := u32 b 0x28
    sc := { scale := u32 b 0x2C, bias := bias, softcap := u32 b 0x30 }, sparse := u8 b 0x1B, distrib := u8 b 0x1C
    outFormat := u8 b 0x1D, outComp := u8 b 0x1E
    pos := (List.range qt).map (fun i => u32 b (0x60 + 4 * i))
    slopes := if bias then (List.range (kvs * u8 b 0x16)).map (fun i => u32 b (align32 (0x60 + 4 * qt) + 4 * i)) else [] }

/-- Where the Q vectors begin. -/
def qOffset (r : Req) : Nat :=
  let a := align32 (0x60 + 4 * r.qTokens)
  if r.sc.bias then align32 (a + 4 * r.slopes.length) else a
/-- Rows of a request. -/
def reqRows (r : Req) : Nat := r.qTokens * r.group * (reqKvs r).length
/-- Bytes of a query element. -/
def qBytes (r : Req) : Nat := if isFp8 r.qFormat then 1 else 2

/-- The length that an ATTEND's fields imply (R304). -/
def attendLen (r : Req) : Nat := qOffset r + reqRows r * reqDim r * qBytes r

/-- The parameters of an ATTEND. -/
def attendReq (b : List Byte) : Req :=
  let r := baseReq b
  { r with
    outBound := u16 b 0x34, reply := u8 b 0x1F, replyConn := u32 b 0x4C, replyRkey := u32 b 0x50, replyOffset := leAt b 0x58 8
    tau := if fMag fFP32 (u32 b 0x3C) = 0 then 0x41A00000 else u32 b 0x3C
    topPages := u32 b 0x40, fanout := u8 b 0x44, sink := u8 b 0x45, recent := u16 b 0x46, scorer := u8 b 0x48, specPlaces := u8 b 0x49
    q := vectors b (qOffset r) (reqRows r) (reqDim r) (qBytes r) }

/-- The bytes between an array's end and the next multiple of 32 are zero (R301). -/
def padZero (b : List Byte) (end_ : Nat) : Bool := zeroIn b end_ (align32 end_)

/-- The padding after POS[] and SLOPE[] is zero (R301). -/
def headPad (r : Req) (b : List Byte) : Bool :=
  let a := 0x60 + 4 * r.qTokens
  r.qTokens == 0 || (padZero b a && (!r.sc.bias || padZero b (align32 a + 4 * r.slopes.length)))

/-- The checks that ATTEND and ATTEND_BWD share (R130, R97, R106). -/
def baseOk (q : Seq) (r : Req) (b : List Byte) : Bool :=
  r.layer < q.layers && r.kvSet != 0 && (reqKvs r).all (· < q.kvHeads) && r.qTokens ≤ 1024 && 1 ≤ r.group && r.group ≤ 16 &&
  r.dim == q.dim && (r.qFormat == 1 || r.qFormat == 2 || r.qFormat == 5) && u8 b 0x19 < 4 && r.mask ≤ 2 && r.distrib ≤ 2 &&
  r.outFormat ≤ 1 && r.outComp ≤ 2 && (if r.mask = 2 then 1 ≤ r.window && r.window ≤ 4194304 else r.window == 0) &&
  r.keyLo < r.keyHi && f32Pos r.sc.scale && (fMag fFP32 r.sc.softcap == 0 || f32Pos r.sc.softcap) &&
  u32 b 0x38 ≤ 10000000 && headPad r b && r.pos.all (· < 4194304) && r.slopes.all (fFinite fFP32) &&
  (!r.wide || isFp8 q.format) && r.q.all (fun v => v.all (fFinite (ffmtOf r.qFormat)))

/-- A connection to which a reply or a flush is to be written (R351, R296): unknown in the partition NOT_FOUND; a fabric
connection, or one not READY, INVALID_PARAM. R144 and R198 give the check no place: it follows their check of the fields
(DESIGN CHOICE, log 87). -/
def dataConn (s : State) (p id : Nat) : Option Reply :=
  match connIdx s id with
  | none => some (err stNotFound)
  | some i =>
    if (connOf s i).part ≠ p then some (err stNotFound)
    else if (connOf s i).kind = 2 || !connReady s id then some (err stInvalid) else none

/-- ATTEND's own checks (R130, R162, R183, R304). -/
def attendOk (s : State) (p : Nat) (q : Seq) (r : Req) (b : List Byte) : Bool :=
  let tauRaw := u32 b 0x3C
  baseOk q r b && 1 ≤ r.qTokens && boundOk r.outBound && r.reply ≤ 1 && r.sparse ≤ 2 && zeroIn b 0x36 0x38 && zeroIn b 0x4A 0x4C &&
  zeroIn b 0x54 0x58 && (r.reply == 1 || (r.replyConn == 0 && r.replyRkey == 0 && r.replyOffset == 0)) &&
  (if r.sparse = 0 then tauRaw == 0 else fMag fFP32 tauRaw == 0 || (f32Pos tauRaw && 0x3F800000 ≤ tauRaw && tauRaw ≤ 0x42A00000)) &&
  (if r.sparse = 2 then 1 ≤ r.topPages && r.topPages ≤ 65536 && r.fanout ≤ 16 && r.sink ≤ 64 && r.recent ≤ 256 && r.scorer ≤ 4 &&
      r.specPlaces ≤ 32 && r.qTokens ≤ 16
    else zeroIn b 0x40 0x4A) &&
  reqRows r * reqDim r * qBytes r ≤ 16 * 2 ^ 20 && b.length == attendLen r &&
  (r.scorer == 0 || (match tget? (part s p).scorers r.scorer with
    | some sc => sc.job == r.job && sc.dim == q.dim && decide (r.layer < sc.layers) && decide (q.kvHeads ≤ sc.kvHeads)
    | none => false))

/-- The parameters of an ATTEND_BWD, with D computed where O was given (R185). -/
def bwdReq (b : List Byte) : Req :=
  let r := baseReq b
  let n := reqRows r
  let d := reqDim r
  let fp32 := u8 b 0x36 == 0
  let e := if fp32 then 4 else 2
  let widen (v : List Nat) : List Nat := if fp32 then v else v.map (toF32 fBF16)
  let q0 := qOffset r
  let d0 := align32 (q0 + n * d * qBytes r)
  let l0 := align32 (d0 + n * d * e)
  let o0 := align32 (l0 + 4 * n)
  let dO := (vectors b d0 n d e).map widen
  { r with
    bwd := true, gset := u8 b 0x37, gradMode := u8 b 0x3C, gradComp := u8 b 0x1E, outComp := 0, gradBound := u16 b 0x34
    gradConn := u32 b 0x40, gradRkey := u32 b 0x44, gradOffset := leAt b 0x48 8, gradLimit := leAt b 0x50 8
    q := vectors b q0 n d (qBytes r), dO := dO
    lse := (List.range n).map (fun i => u32 b (l0 + 4 * i))
    dd := if u8 b 0x1F = 1 then (dO.zip ((vectors b o0 n d e).map widen)).map (fun x => rowD x.1 x.2)
      else (List.range n).map (fun i => u32 b (o0 + 4 * i)) }

/-- The length that an ATTEND_BWD's fields imply, and its O or D words (R306). -/
def bwdLen (r : Req) (b : List Byte) : Nat :=
  if r.qTokens = 0 then 0x60 else
  let n := reqRows r
  let e := if u8 b 0x36 = 0 then 4 else 2
  let l0 := align32 (align32 (qOffset r + n * reqDim r * qBytes r) + n * reqDim r * e)
  align32 (l0 + 4 * n) + (if u8 b 0x1F = 0 then 4 * n else n * reqDim r * e)

/-- The words of D or O are neither NaN nor +∞ (R184). -/
def bwdTail (r : Req) (b : List Byte) : Bool :=
  let n := reqRows r
  let e := if u8 b 0x36 = 0 then 4 else 2
  let o0 := align32 (align32 (align32 (qOffset r + n * reqDim r * qBytes r) + n * reqDim r * e) + 4 * n)
  let bad (c : Nat) : Bool := fIsNan fFP32 c || c == f32Inf
  if u8 b 0x1F = 0 then r.dd.all (fun c => !bad c)
  else (vectors b o0 n (reqDim r) e).all (fun v => v.all (fun c => !bad (if e = 4 then c else toF32 fBF16 c)))

/-- The padding after the vectors Q and dO and after LSE is zero (R301, R306). -/
def bwdPad (r : Req) (b : List Byte) : Bool :=
  let n := reqRows r
  let e := if u8 b 0x36 = 0 then 4 else 2
  let q1 := qOffset r + n * reqDim r * qBytes r
  let d1 := align32 q1 + n * reqDim r * e
  r.qTokens == 0 || (padZero b q1 && padZero b d1 && padZero b (align32 d1 + 4 * n))

/-- ATTEND_BWD's own checks (R184). -/
def bwdOk (q : Seq) (r : Req) (b : List Byte) : Bool :=
  let bad (c : Nat) : Bool := fIsNan fFP32 c || c == f32Inf
  let mode := r.gradMode
  baseOk q r b && u8 b 0x1F ≤ 1 && boundOk r.gradBound && u8 b 0x36 ≤ 1 && mode < 8 && !(bitOf mode 1 && bitOf mode 2) &&
  r.gradComp ≤ 2 && zeroIn b 0x3D 0x40 && zeroIn b 0x58 0x60 && (1 ≤ r.qTokens || bitOf mode 1 || bitOf mode 2) &&
  b.length == bwdLen r b && b.length ≤ 16 * 2 ^ 20 && bwdPad r b &&
  r.dO.all (fun v => v.all (fun c => !bad c)) && r.lse.all (fun c => fFinite fFP32 c || c == f32NegInf) && bwdTail r b

/-! ### Beginning a request -/

/-- The query groups of a request (R131): 32 rows at a time. -/
def makeGroups (r : Req) (wait up : List Nat) : Tab MRec :=
  ((reqKvs r).flatMap (fun kv => (List.range (ceilDiv (rowsPerKv r) 32)).map (fun g =>
    ({ kv := kv, first := 32 * g, rows := min 32 (rowsPerKv r - 32 * g), waitFor := wait, unsent := up } : MRec)))).zipIdx.map
    (fun (m, i) => (i, m))

/-- In-range pages of a KV head over the whole request (N_TOTAL of R206). -/
def wholeTotal (r : Req) (len : Nat) : Nat := ((reqPages r len).filter (fun k => inRange r len 0 (rowsPerKv r) k)).length

/-- The request's parameters with the changes of R207. -/
def subBlock (b : List Byte) (bwd : Bool) (lo hi deadline : Nat) : List Byte :=
  let b := overlay (overlay (overlay b 0x24 (toLe 4 lo)) 0x28 (toLe 4 hi)) 0x38 (toLe 4 deadline)
  if bwd then overlay b 0x1D [0] else overlay (overlay b 0x1D [0, 0, 0]) 0x4C (zeros 20)

/-- The rows of a query group within a contributor's rows. -/
def groupRows (x : Ctx) (m : MRec) (rows : List RowOut) : List RowOut := (rows.drop (rowNo x.r m.kv m.first)).take m.rows

/-- A lending neighbour's rows, or its absence, reach every query group (R92, R211). -/
def neighbourDone (i k : Nat) (rows : Option (List RowOut)) (s : State) : State :=
  let x := ctxOf s i
  let q : SubReq := tget {} x.subs k
  let s := modCtx i (fun x => { x with
    subs := tmod x.subs k (fun q => { q with state := if rows.isSome then 1 else 2 })
    unavail := if rows.isSome then x.unavail else x.unavail ++ [1000 + k] }) s
  x.groups.foldl (fun s e =>
    arrive i e.1 (1000 + k) q.first (match rows with
      | some r => groupRows x e.2 r
      | none => emptyOuts x.r e.2.rows true false) s) s

/-- A span has no accepted reply: it is merged empty with INCOMPLETE (R210, R212). -/
def markSpan (i k : Nat) (s : State) : State :=
  modCtx i (fun x => { x with
    subs := tmod x.subs k (fun q => { q with state := 2 }), unavail := x.unavail ++ [2000 + k] }) s
/-- `markSpan`, after which the request may have its rows. -/
def spanFailed (i k : Nat) (s : State) : State := pump (settle i (markSpan i k s))

/-- Remaining time of a request, in µs. -/
def remaining (s : State) (x : Ctx) : Nat := x.deadline - now s

/-- The connection over which a sub-request goes: that of the lend entries to a neighbour (R92), else the partition's fabric
connection to the node. -/
def subConn (s : State) (p : Nat) (q : SubReq) : Option Nat :=
  if q.kind = 3 then (if connReady s q.conn then connIdx s q.conn else none) else fabricConn s p q.node

/-- Sending a sub-request of a context over a connection, under an owner, mirror, reconstruction or neighbour role (R206 to R211).
To a neighbour it names the pages (R92) by their handles there, after the parameter block (DESIGN CHOICE, log 88). A member's N
is the one that the home gave (R170). What was sent for the part before is remembered, for its answer may still come first (R210). -/
def putSub (i k ci : Nat) (q : SubReq) (deadline : Nat) (s : State) : State :=
  let x := ctxOf s i
  let c : Cmd := tget {} s.cmds x.cmd
  let (tag, s) := newTag s
  let s := modCtx i (fun x => { x with subs := tset x.subs k { q with
    tag := tag, sentAt := now s, conn := connId s ci, asked := true, was := if q.tag = 0 then q.was else q.was ++ [(q.conn, q.tag)] } }) s
  let named := if q.kind = 3 then q.handles.flatMap (fun h => toLe 4 ((lendOf s h).elim 0 (·.handle))) else []
  let hi := if q.kind = 3 then min x.r.keyHi x.len else min (min x.r.keyHi x.len) (q.tries)
  let lo := if q.kind = 3 then x.r.keyLo else max x.r.keyLo (64 * q.first)
  let b := subPacket c.opcode tag (connOf s ci).peerPart x.cls 0 (myHomeEpoch s x.part x.r.job x.r.seq) (part s x.part).gen q.epoch
    s.node.nodeId q.span q.kind (if x.r.sparse = 2 then (x.r.nTotal.head?.map (·.2)).getD (wholeTotal x.r x.len) else 0)
    (subBlock c.block x.r.bwd lo hi deadline ++ named)
  sendFabric ci 1 [tag, q.kind, q.span] b s

/-- MEMBER_SUSPECT or PLACE_MISMATCH is posted to the operator for a member (R209). -/
def postMember (code i k : Nat) (s : State) : State :=
  let x := ctxOf s i
  let q : SubReq := tget {} x.subs k
  postEvent code x.part 0 (memberData q.node x.r.job x.r.seq q.span) s

/-- Members of the coding group of a span that have failed in this request, the one of sub-request `k` among them (R210). -/
def failedMates (s : State) (x : Ctx) (k : Nat) (r : PlaceRec) : Nat :=
  (x.subs.filter (fun e => e.2.kind != 3 && (e.1 == k || e.2.again || e.2.state == 2) &&
    (spanRecs s x.part x.r.job x.r.seq).any (fun y => y.2.span == e.2.span && spanCoded y.2 && y.2.codeGroup == r.codeGroup))).length

/-- The one re-issue of a failed member's part (R210): to the synced mirror, else to the reconstructor; none where neither
serves. -/
def altSub (s : State) (x : Ctx) (k : Nat) (q : SubReq) : Option SubReq :=
  match (spanRecs s x.part x.r.job x.r.seq).find? (fun e => e.2.span == q.span) with
  | none => none
  | some (_, r) =>
    if spanSynced r then some { q with kind := 1, node := r.mirror, epoch := r.epoch, again := true }
    else if spanCoded r && failedMates s x k r ≤ (if r.parity1 = 0xFFFF then 1 else 2) then
      some { q with kind := 2, node := r.parity0, epoch := r.epoch, again := true }
    else none

/-- A member's part of a request failed: re-issued once under R210, with the remaining deadline less 50 µs; a backward request's
span and a neighbour are left out at once (R211, R212). A part that was re-issued, or cannot be, is left out at the deadline. -/
def reissue (i k : Nat) (s : State) : State :=
  let x := ctxOf s i
  let q : SubReq := tget {} x.subs k
  if q.state ≠ 0 then s
  else if q.kind = 3 then neighbourDone i k none s
  else if x.r.bwd then spanFailed i k s
  else if q.again then modCtx i (fun x => { x with subs := tmod x.subs k (fun q => { q with asked := false }) }) s
  else
    let s := modCtx i (fun x => { x with subs := tmod x.subs k (fun q => { q with again := true, asked := false }) }) s
    match altSub s x k q with
    | none => s
    | some q' => (subConn s x.part q').elim s (fun ci => putSub i k ci q' (remaining s x - 50) s)

/-- Sending a sub-request. A node to which no fabric connection is READY is a failed member (text before R206). -/
def sendSub (i k : Nat) (q : SubReq) (deadline : Nat) (s : State) : State :=
  if !thas s.ctxs i then s else
  let s := modCtx i (fun x => { x with subs := tset x.subs k { q with sentAt := now s } }) s
  match subConn s (ctxOf s i).part q with
  | some ci => putSub i k ci q deadline s
  | none => reissue i k (postMember 17 i k s)

/-- A position whose handle is lost counts among the excluded pages under a number of its own (R44, R516). -/
def lostMark (pos : Nat) : Nat := 2 ^ 40 + pos

/-- Beginning an attention request over a map: groups, contributors, sub-requests, dispatch, markers for cells that are
off (R20, R92, R207, R411). `gone` are the positions whose handles are lost, which count as poisoned pages (R516). -/
def startRequest (i : Nat) (c : Cmd) (r : Req) (q : Seq) (map : Tab Nat) (len : Nat) (unfilled gone : List Nat) (subs : List SubReq)
    (own : Nat) (s : State) : State :=
  let p := c.part
  let cells := partCells s p
  let up := cells.filter (cellUp s)
  let lost := map.filter (fun e => isStub e.2 && !isLent e.2 && ((lendOf s e.2).elim true (·.lost)))
  let stubs := map.filter (fun e => isStub e.2 && !isLent e.2 && ((lendOf s e.2).elim false (fun l => !l.lost)))
  let conns := (stubs.filterMap (fun e => (lendOf s e.2).map (·.conn))).dedup
  let neigh : List SubReq := conns.map (fun id =>
    let mine := stubs.filter (fun e => (lendOf s e.2).elim false (fun l => l.conn == id))
    { node := ((mine.head?.bind (fun e => lendOf s e.2)).map (·.node)).getD 0, kind := 3, conn := id, handles := mine.map (·.2)
      first := (mine.map (fun e => posPage e.1)).foldl min 65536 })
  let all := subs ++ neigh
  let waitN := (all.zipIdx.filter (fun e => e.1.kind == 3)).map (fun e => 1000 + e.2)
  let deadline := c.deadline
  let s := modCtx i (fun x => { x with
    kind := c.opcode, part := p, cls := c.qos, r := r, gen := q.gen, len := len, eps := (part s p).eps, walker := true
    map := map, cacheFormat := q.format, cacheScaling := q.scaling, cells := up, base := own :: cells
    groups := makeGroups r (cells ++ waitN) up, unfilled := unfilled, lostPos := lost.map (·.1) ++ gone
    excluded := lost.map (·.2) ++ gone.map lostMark
    deadline := deadline, progress := now s }) s
  let s := modCtx i (fun x => { x with
    owed := if r.bwd then x.groups.flatMap (fun e => (map.filter (fun m => posKv m.1 == e.2.kv && !(isStub m.2 && !isLent m.2) &&
      inRange r len e.2.first e.2.rows (posPage m.1))).map (fun m => (e.1, posPage m.1))) else [] }) s
  let s := if r.bwd then gone.foldl (fun s k => modGpage p r.gset (posKv k) (posPage k) (fun g => { g with excluded := true }) s) s else s
  let s := modCtx i (fun x => { x with subs := all.zipIdx.map (fun e => (e.2, e.1)) }) s
  let s := all.zipIdx.foldl (fun s e =>
    sendSub i e.2 e.1 (if e.1.kind = 3 then deadline - now s - 50 else min (heldSetting c 0x20 0 fabricDflt) ((deadline - now s) / 2)) s) s
  let s := pump s
  let s := (cells.filter (fun k => !cellUp s k)).foldl (fun s k => markCell i k s) s
  pump (settle i s)

/-- The part of a sequence's map that a request walks: its layer, KV heads, and pages in range. -/
def walkMap (q : Seq) (r : Req) (len : Nat) : Tab Nat :=
  q.map.filter (fun e => posLayer e.1 == r.layer && bitOf r.kvSet (posKv e.1) && inRange r len 0 (rowsPerKv r) (posPage e.1))

/-- Unfilled positions in range (R79). -/
def unfilledPos (q : Seq) (r : Req) (len : Nat) (here : Nat → Bool) : List Nat :=
  (reqKvs r).flatMap (fun kv => ((reqPages r len).filter (fun k => here k && inRange r len 0 (rowsPerKv r) k &&
    handleAt q (posKey r.layer kv k) = 0)).map (fun k => posKey r.layer kv k))

/-- Member spans of a request at its home (R207): those of other nodes whose range holds an in-range page; of an ATTEND_BWD
without query tokens, which ships or discards the owners' sets (R212), a page of the key range. `tries` carries the upper key
bound of the span. -/
def spanSubs (s : State) (p : Nat) (r : Req) (len : Nat) : List SubReq :=
  let pages := if r.qTokens = 0 then (List.range (ceilDiv (min r.keyHi len) 64)).filter (fun k => decide (r.keyLo / 64 ≤ k))
    else (reqPages r len).filter (fun k => inRange r len 0 (rowsPerKv r) k)
  ((spanRecs s p r.job r.seq).filter (fun e => e.2.owner != s.node.nodeId && pages.any (spanHas e.2))).map (fun e =>
      { span := e.2.span, node := e.2.owner, first := e.2.firstPage, epoch := e.2.epoch
        tries := if spanOpen e.2 then 0xFFFFFFFF else 64 * (e.2.lastPage + 1) })

/-- The home's own span of a sequence, if it has spans: served only under an unfenced lease (R217, R218). -/
def ownSpanCheck (s : State) (p job seq : Nat) : Option Reply :=
  match (spanRecs s p job seq).find? (fun e => e.2.owner == s.node.nodeId) with
  | none => none
  | some e => if ((spanSt s p job seq false).elim false (fun x => x.2.fenced)) then some (err stNoLease e.2.span) else none

/-- A home request over its snapshot, of its own span's pages alone where the sequence is in spans (R207), or a member's over
what it holds. -/
def launch (i : Nat) (c : Cmd) (r : Req) (q : Seq) (s : State) : State :=
  let p := c.part
  let recs := spanRecs s p r.job r.seq
  let own := recs.find? (fun e => e.2.owner == s.node.nodeId)
  let full := seqLen q r.layer
  let len := full
  let here (k : Nat) : Bool := if c.fabric then true else recs.isEmpty || own.elim false (fun e => spanHas e.2 k)
  let subs := if c.fabric then [] else spanSubs s p r len
  let r := if r.sparse = 2 && c.fabric && extTotal c ≠ 0 then { r with nTotal := (reqKvs r).map (fun k => (k, extTotal c)) }
    else if r.sparse = 2 && !subs.isEmpty then { r with nTotal := (reqKvs r).map (fun k => (k, wholeTotal r len)) } else r
  let walk := (reqKvs r).flatMap (fun kv => ((reqPages r len).filter (fun k => here k && inRange r len 0 (rowsPerKv r) k)).map (posKey r.layer kv))
  let s := walkReads p q walk s
  let gone := lostHandles s p q walk
  startRequest i c r q ((walkMap q r len).filter (fun e => here (posPage e.1) && e.1 ∉ gone)) len ((unfilledPos q r len here).filter (· ∉ gone))
    gone subs ((own.map (fun e => e.2.firstPage)).getD 0) s

/-- A member whose LENGTH lies below the sub-request's KEY_HI marks every row (R208): an unfilled position stands for the
keys that it does not hold. -/
def memberShort (i : Nat) (r : Req) (q : Seq) (s : State) : State :=
  if seqLen q r.layer < r.keyHi then
    modCtx i (fun x => { x with groups := x.groups.map (fun e => (e.1, { e.2 with
      acc := if e.2.acc.isEmpty then emptyOuts r e.2.rows true false else e.2.acc })) }) s
  else s

/-- A combination that ATTEND refuses with UNSUPPORTED (R149). -/
def attendRefused (r : Req) : Bool := r.distrib == 2 && (decide (1 < r.dim) || decide (16 < r.qTokens) || r.sparse != 0)

/-- A sub-request's own request: N of R170 is the one that the home gave. -/
def subReq (c : Cmd) : Req :=
  let r := attendReq c.block
  if r.sparse = 2 && extTotal c ≠ 0 then { r with nTotal := (reqKvs r).map (fun k => (k, extTotal c)) } else r

/-- The checks before a home or local request, or before a member's (R144 and R198, orders 2 and 3; R205, R206). -/
def requestCheck (c : Cmd) (job seq : Nat) (s : State) : Option Reply × State :=
  if (partCells s c.part).isEmpty then (some (err stUnavail), s)
  else if c.fabric then
    let s := meetCmd c job seq s
    if (homeBehind s c job seq).isSome then (homeBehind s c job seq, s)
    else if (seqOf s c.part (seqKey job seq)).isNone then (some (err stNotFound), s)
    else (none, s)
  else
    match homeCheck c.part job seq s with
    | (some r, s) => (some r, s)
    | (none, s) => if (seqOf s c.part (seqKey job seq)).isNone then (some (err stNotFound), s) else (none, s)

/-- The lease checks before a request (R144 order 6, R198 order 8): of the home's own span, or of a member in its role (R208, R225). -/
def leaseCheck (s : State) (c : Cmd) (job seq : Nat) : Option Reply :=
  if !c.fabric then ownSpanCheck s c.part job seq
  else if extRole c = 0 then memberCheck s c job seq none
  else if extRole c = 1 then
    match spanSt s c.part job seq true with
    | none => some (err stNoLease (extSpan c))
    | some (_, x) =>
      if x.stream < extEpoch c then some (err stStale 3) else if extEpoch c < x.stream then some (err stStale 2) else none
  else none

/-- ATTEND (R144). A sub-request of ROLE 0 or 1 runs the same way over the span that this node holds. -/
def cmdAttend : Handler := fun _ c s =>
  let job := u32 c.block 0
  let seq := u48 c.block 4
  match requestCheck c job seq s with
  | (some r, s) => (s, some r)
  | (none, s) =>
    match seqOf s c.part (seqKey job seq), c.ctx with
    | some q, some i =>
      let r := attendReq c.block
      if !attendOk s c.part q r c.block || (r.distrib = 2 && q.placement ≠ 1) then (s, some (err stInvalid))
      else if !fitsReply c (reqRows r * (16 + reqDim r * (if r.outFormat = 0 then 4 else 2))) then (s, some (err stInvalid 0xFFF2))
      else if attendRefused r then (s, some (err stUnsupported))
      else match ((if r.reply = 1 then dataConn s c.part r.replyConn else none).orElse (fun _ => leaseCheck s c job seq)) with
      | some r => (s, some r)
      | none => ((if c.fabric then memberShort i r q else id) (launch i c r q s), none)
    | _, _ => (s, some (err stNotFound))

/-- ATTEND. -/
def execAttend (src : Source) (pkt : Packet) (s : State) : Host.Outcome State Fault Refusal :=
  .next (submitOp 0x0201 src pkt cmdAttend s)

/-! ### ATTEND_BWD (R191, R192, R196 to R198) -/

/-- The pages [lo, hi) of a request over a snapshot that this node's gradient set covers (R191): at the home of a sequence in
spans those of its own span alone, since every other owner keeps a set of its own (R212). -/
def setRange (s : State) (c : Cmd) (r : Req) (len : Nat) : Nat × Nat :=
  let lo := r.keyLo / 64
  let hi := ceilDiv (min r.keyHi len) 64
  let recs := if c.fabric then [] else spanRecs s c.part r.job r.seq
  if recs.isEmpty then (lo, hi)
  else match recs.find? (fun e => e.2.owner == s.node.nodeId) with
  | none => (0, 0)
  | some (_, e) => (max lo e.firstPage, if spanOpen e then hi else min hi (e.lastPage + 1))

/-- Rows of a gradient page: d ÷ 2 consecutive banks, the first a multiple of it, one row of the gradient area in all. -/
def stripeTaken (sets : List GPage) (c bank row n : Nat) : Bool :=
  sets.any (fun q => q.cell == c && q.row == row && decide (q.bank < bank + n && bank < q.bank + n))

/-- A free stripe of a cell, its row from the gradient area (R193); which free one is the node's choice. -/
def freeStripe (rows c n : Nat) (taken : List GPage) (choice : Nat) : Option (Nat × Nat) :=
  let per := 2048 / n
  (findFree (fun k => stripeTaken taken c (k % per * n) (16 + k / per) n) (rows * per) (4 * taken.length + 1) (choice % max 1 (rows * per))).map
    (fun k => (k % per * n, 16 + k / per))

/-- ROWFILL with zeros of a gradient page's rows, queued behind what the banks have (R191, R265). -/
def fillStripe (p gset serial c bank row n : Nat) (s : State) : State :=
  let op := innerOp s
  (List.range n).foldl (fun s b => modCell c (fun v => { v with
      banks := tset v.banks (bank + b) (tget [] v.banks (bank + b) ++
        [{ op := 2, rowD := row, ncol := 16, fill := zeros 64, check := zeros 16, opId := op, add := some (p, gset, serial)
           queuedAt := now s }]) }) s)
    (modNode (fun v => { v with nextOp := v.nextOp + 1 }) s)

/-- Placing the gradient pages of a new set, and clearing them (R191). A page of the largest d blocks four stripes of the
smallest. -/
def placeSet (p gset serial n rows : Nat) : List (Nat × Nat × Nat) → List GPage → State → Option (List GPage × State)
  | [], acc, s => some (acc, s)
  | (kv, page, c) :: rest, acc, s =>
    let (d, s) := draw s
    match freeStripe rows c n (acc ++ (tvals (part s p).gsets).flatMap (·.pages)) d with
    | none => none
    | some (bank, row) =>
      let s := fillStripe p gset serial c bank row n s
      placeSet p gset serial n rows rest (acc ++ [{ kv := kv, page := page, cell := c, bank := bank, row := row }]) s

/-- The conditions on an existing set (R192): sequence, range (of the pages [lo, hi) that the set is to cover), closure. -/
def setConflict (g : GSet) (r : Req) (len lo hi : Nat) : Bool :=
  g.job != r.job || g.seq != r.seq || g.layer != r.layer || g.kvSet != r.kvSet ||
  (reqPages r len).any (fun k => decide (lo ≤ k && k < hi) && inRange r len 0 (rowsPerKv r) k && !(decide (g.lo ≤ k) && decide (k ≤ g.hi))) ||
  (g.closed && !((bitOf r.gradMode 1 || bitOf r.gradMode 2) && r.qTokens == 0))

/-- A request joins its set's queue; FLUSH closes the set at acceptance (R194, R196). -/
def joinSet (p : Nat) (r : Req) (id : Nat) (s : State) : State :=
  modGset p r.gset (fun g => { g with queue := g.queue ++ [id], closed := g.closed || bitOf r.gradMode 1 }) s

/-- A request begins on its set: it joins the set's queue, and is launched. One that is not the oldest waits in deterministic mode (R194),
and a FLUSH or DISCARD in any mode: what frees pages of a set waits for the requests that still add to it (R196; of DISCARD the spec does
not say so, a DESIGN CHOICE, log 113). -/
def beginBwd (id i : Nat) (c : Cmd) (r : Req) (q : Seq) (s : State) : State :=
  let s := joinSet c.part r id s
  let held := (r.distrib = 1 || bitOf r.gradMode 1 || bitOf r.gradMode 2) && ((((tget {} (part s c.part).gsets r.gset : GSet).queue).filter (thas s.cmds ·)).head? != some id)
  let s := if held then modCtx i (fun x => { x with waiting := true }) s else s
  (if c.fabric then memberShort i r q else (fun s => s)) (launch i c r q s)

/-- ATTEND_BWD. -/
def cmdAttendBwd : Handler := fun id c s =>
  let job := u32 c.block 0
  let seq := u48 c.block 4
  let p := c.part
  let mode := u8 c.block 0x3C
  let gs := u8 c.block 0x37
  match requestCheck c job seq s with
  | (some r, s) => (s, some r)
  | (none, s) =>
    match seqOf s p (seqKey job seq), c.ctx with
    | some q, some i =>
      if !bitOf mode 0 && !thas (part s p).gsets gs then (s, some (err stNotFound)) else
      let r := bwdReq c.block
      let len := seqLen q r.layer
      if !bwdOk q r c.block then (s, some (err stInvalid))
      else match (if bitOf mode 1 then dataConn s p r.gradConn else none) with
      | some e => (s, some e)
      | none =>
      if !fitsReply c (reqRows r * (16 + reqDim r * (if r.outFormat = 0 then 4 else 2))) then (s, some (err stInvalid 0xFFF2))
      else if r.sparse ≠ 0 || r.distrib = 2 then (s, some (err stUnsupported))
      else
        let lease : Option Reply := leaseCheck s c job seq
        let go (s' : State) : State × Option Reply :=
          match lease with
          | some e => (s, some e)
          | none => (beginBwd id i c r q s', none)
        let (lo, hi) := setRange s c r len
        if bitOf mode 0 then
          let pos := (reqKvs r).flatMap (fun kv => (List.range (hi - lo)).map (fun k => (kv, lo + k, handleAt q (posKey r.layer kv (lo + k)))))
          if thas (part s p).gsets gs || pos.any (fun e => !isPage e.2.2) then (s, some (err stConflict))
          else if 256 ≤ (part s p).gsets.length then (s, some (err stBusy))
          else match placeSet p gs s.node.nextOp (reqDim r / 2) (rawRows s p - heldSetting c 0x30 0 [0] - 16) (pos.map (fun e => (e.1, e.2.1, hCell e.2.2))) [] s with
          | none => (s, some (err stBusy))
          | some (pages, s') =>
            let g : GSet := {
              job := job, seq := seq, layer := r.layer, kvSet := r.kvSet, lo := if lo < hi then lo else 1, hi := if lo < hi then hi - 1 else 0, dim := r.dim,
              pages := pages, adds := pages.length, serial := s.node.nextOp }
            go (modPart p (fun v => { v with gsets := tset v.gsets gs g }) s')
        else if setConflict (tget {} (part s p).gsets gs) r len lo hi then (s, some (err stConflict))
        else go s
    | _, _ => (s, some (err stNotFound))

/-- ATTEND_BWD. -/
def execAttendBwd (src : Source) (pkt : Packet) (s : State) : Host.Outcome State Fault Refusal :=
  .next (submitOp 0x0202 src pkt cmdAttendBwd s)

/-- GSET_QUEUE_RESUME (R194, R196): a set's adds and earlier requests have completed; what waits for that goes on. -/
def execGsetQueueResume (p gset : Nat) (s : State) : Host.Outcome State Fault Refusal :=
  .next (if !nodeLive s then s else
    let live (s : State) (id : Nat) : Bool := thas s.cmds id
    let s := modGset p gset (fun g => { g with queue := g.queue.filter (live s) }) s
    match (tget {} (part s p).gsets gset : GSet).queue with
    | [] => s
    | id :: _ =>
      match (tget? s.cmds id).bind (·.ctx) with
      | none => s
      | some i => pump (settle i (modCtx i (fun x => { x with waiting := false }) s)))

/-- GRAD_MESSAGE_DONE (R196): the message in flight of a flush has completed, or its connection failed. -/
def execGradMessageDone (ctx : Nat) (ok : Bool) (s : State) : Host.Outcome State Fault Refusal := .next (if !nodeLive s then s else gradSent ctx ok s)

/-! ### MERGE (R151) -/

/-- MERGE: the left fold of each row over the sets. -/
def cmdMerge : Handler := fun _ c s =>
  let b := c.block
  let sets := u8 b 0
  let d := dimOf (u8 b 1)
  let rows := u32 b 4
  let sz := partSize d
  if sets < 2 || 64 < sets || 2 < u8 b 1 || !zeroIn b 2 4 || rows = 0 || 10000000 < u32 b 8 || !zeroIn b 0xC 0x20 ||
      b.length ≠ 0x20 + sets * rows * sz then (s, some (err stInvalid))
  else if (List.range (sets * rows)).any (fun i => partBad d (slice b (0x20 + i * sz) sz)) then (s, some (err stInvalid))
  else if !fitsReply c (rows * sz) then (s, some (err stInvalid 0xFFF2))
  else
    let at_ (k i : Nat) : Part := readPart d (slice b (0x20 + (k * rows + i) * sz) sz)
    let out := (List.range rows).map (fun i => foldParts d ((List.range sets).map (fun k => at_ k i)))
    (s, some (okPay (toLe 4 rows) (out.flatMap (partBytes 0 0 0))))

/-- MERGE. -/
def execMergeCmd (src : Source) (pkt : Packet) (s : State) : Host.Outcome State Fault Refusal :=
  .next (submitOp 0x0203 src pkt cmdMerge s)

/-! ### DIGEST_BUILD (R156 to R160) -/

/-- Rebuilding the digest of one page (R156). DIGEST_VALID is set whatever R155 made of a code outside 0 to 255: R156 writes granule 0 with
it set, and does not say what such a code does here (DESIGN CHOICE, log 107). -/
def rebuildDigest (p h : Nat) (s : State) : State :=
  let w := loadPage s p h
  let dt := slotTable s p (w.r.table % 4)
  let vals := (List.range 64).map (fun t => tokenVals w.r dt false w.k t)
  let r0 := digInit w.r vals.flatten false
  let r1 := (vals.zipIdx).foldl (fun r (x : List Rat × Nat) => digToken r (x.2 == 0) x.1) r0
  let r2 := digMean r1 0 64 (colSums (dimOf w.r.dim) vals)
  modPage h (fun g => { g with r := { r2 with digestValid := true, gen := (w.r.gen + 1) % 2 ^ 32 } }) s

/-- A group built from its pages (R158): BUILT with means, BUILT and OPEN, or left unbuilt, as one that holds a lend stub is. -/
def buildGroup (s : State) (pages : List (Nat × Nat)) : DGroup :=
  let recs := pages.map (fun e => walkRec s e.2)
  let full := pages.length == 16 && pages.all (fun e => isPage e.2) && recs.all (fun r => r.tokens == 64)
  if !full then { idx := pages.map (·.1) }
  else if recs.any (fun r => !r.digestValid) then { built := true, open_ := true, idx := pages.map (·.1), mean := [] }
  else
    let d := dimOf (recs.head?.getD {}).dim
    let avg := (List.range d).map (fun c =>
      f32Val (f32Div true (recs.foldl (fun a r => f32Add .near true a (f32 (digOf r (tget 0 r.mean c)))) 0) 0x41800000))
    let (sc, z) := rangeRule 3 fFP16 avg
    { scale := sc, zero := ((z - 128) % 256).toNat, built := true, idx := pages.map (·.1)
      mean := avg.map (fun x => (clampI 0 255 (rneInt (f32Val (f32Sat (x / fVal fFP16 sc))) + z)).toNat) }

/-- Writing the object of one chunk of a cell, where it is newer than the one there (R159, R160). -/
def writeChunk (p : Nat) (q : Seq) (layer kv c chunk : Nat) (groups : List DGroup) (s : State) : Option (Nat × Nat × State) :=
  let same (o : DigestObj) : Bool := o.job == q.job && o.seq == q.seq && o.layer == layer && o.kv == kv && o.chunk == chunk
  let old := (cell s c).digests.find? same
  let built (gs : List DGroup) : Nat := (gs.filter (·.built)).length
  let ok := old.elim true (fun o => decide (o.gen < q.gen) || (o.gen == q.gen && decide (built o.groups ≤ built groups)))
  if !ok then some (0, 0, s)
  else
    let units := 1 + dimOf q.dim / 64
    let (d, s0) := draw s
    if old.isNone && 262144 ≤ (cell s c).digests.length then none
    else match freePlace s0 p c (2 * units) d with
    | none => none
    | some pl =>
      let (uid, s) := newUid p units s0
      let s := match old with
        | some o => retire p false o.handle o.units s
        | none => s
      let o : DigestObj := { job := q.job, seq := q.seq, layer := layer, kv := kv, chunk := chunk, handle := mkBlock c (pl / 2), gen := q.gen
                             uid := uid, units := units, groups := groups }
      some (built groups, 1, modCell c (fun v => { v with
        places := tset v.places pl (2 * units), digests := v.digests.filter (fun x => !same x) ++ [o] }) s)

/-- The groups of a list of pages in a cell, 16 at a time. -/
def groupsOf (s : State) : Nat → List (Nat × Nat) → List DGroup
  | 0, _ => []
  | n + 1, l => if l.isEmpty then [] else buildGroup s (l.take 16) :: groupsOf s n (l.drop 16)

/-- Building the group objects of layers and KV heads, cell by cell: the groups built, the objects written, and whether an object
found no room, which ends the building (R158 to R160). -/
def buildGroups (p : Nat) (q : Seq) (layers kvs : List Nat) (s : State) : (Nat × Nat × Bool) × State :=
  (layers.flatMap (fun l => kvs.flatMap (fun j => (poolCells s p).map (fun k => (l, j, k))))).foldl
    (fun (acc : (Nat × Nat × Bool) × State) e =>
      let (l, j, k) := e
      let s := acc.2
      let pages := (q.map.filter (fun m => posLayer m.1 == l && posKv m.1 == j && hCell m.2 == k)).map (fun m => (posPage m.1, m.2))
      let groups := groupsOf s (pages.length / 16 + 1) pages
      (List.range (ceilDiv groups.length 64)).foldl (fun (acc : (Nat × Nat × Bool) × State) ch =>
        if acc.1.2.2 then acc else
        match writeChunk p q l j k ch ((groups.drop (64 * ch)).take 64) acc.2 with
        | none => ((acc.1.1, acc.1.2.1, true), acc.2)
        | some (b, n, s) => ((acc.1.1 + b, acc.1.2.1 + n, false), s)) acc) ((0, 0, false), s)

/-- DIGEST_BUILD. -/
def cmdDigestBuild : Handler := fun _ c s =>
  let p := c.part
  let a := rangeArg c.block
  let what := u8 c.block 0x20
  match seqOf s p a.key with
  | none => (s, some (err stNotFound))
  | some q =>
    if !blockIs c 0x21 || !rangeOk q c.block true || what = 0 || 3 < what then (s, some (err stInvalid))
    else if belowFloor s c then (s, some (retryNow s c))
    else
      let layers := (List.range a.count).map (· + a.first)
      let mine := q.map.filter (fun e => posLayer e.1 ∈ layers && posKv e.1 ∈ a.kvs && isPage e.2)
      let todo := if bitOf what 0 then mine.filter (fun e =>
        let r := walkRec s e.2
        r.tokens == 64 && !r.shared && !r.digestValid && cellUp s (hCell e.2)) else []
      let s := todo.foldl (fun s e => rebuildDigest p e.2 s) s
      let ((g, o, full), s) := if !bitOf what 1 then ((0, 0, false), s) else buildGroups p q layers a.kvs s
      let off := mine.any (fun e => !cellUp s (hCell e.2))
      (s, some { status := if full || off then stPartial else stOk, detail := if full || off then min 0xFFFF todo.length else 0, ret := toLe 4 todo.length ++ toLe 4 g ++ toLe 4 o })

/-- DIGEST_BUILD. -/
def execDigestBuild (src : Source) (pkt : Packet) (s : State) : Host.Outcome State Fault Refusal :=
  .next (submitOp 0x0204 src pkt cmdDigestBuild s)

/-! ### SCORER_LOAD (R180 to R183) -/

/-- The shape that a bundle gives. -/
def bundleScorer (b : List Byte) : Scorer :=
  { job := u32 b 4, dim := u8 b 8, rank := u8 b 9, layers := u16 b 0xA, kvHeads := u8 b 0xC, wformat := u8 b 0xD, wcomp := u8 b 0xE
    serial := leAt b 0x10 8, table := slice b 0xA0 64 }

/-- Order 1 of R182: sizes, reserved bytes, ranges, TABLE. -/
def bundleOk (b : List Byte) : Bool :=
  let sc := bundleScorer b
  let m := u16 b 2
  let n := u32 b 0x9C
  u16 b 0 == 1 && 1 ≤ m && m ≤ 1024 && b.length == 0xE0 + 96 * m + n + 96 && 16 ≤ n && sc.dim ≤ 2 && 1 ≤ sc.rank && sc.rank ≤ 64 &&
  1 ≤ sc.layers && sc.layers ≤ 504 && 1 ≤ sc.kvHeads && sc.kvHeads ≤ 64 && (sc.wformat == 1 || sc.wformat == 3) && compOk sc.wformat sc.wcomp &&
  zeroIn b 0xF 0x10 && zeroIn b 0x18 0x20 && zeroIn b 0x81 0x90 && tableOk sc.table

/-- The bytes that a column of a scorer takes, by its 4-byte header (R180). -/
def columnSize (sc : Scorer) (hdr : List Byte) : Nat :=
  4 + sumBy (List.range (dimOf sc.dim / 64)) (fun j =>
    if sc.wcomp = 0 || bitOf (u8 hdr 3) j then blockFull sc.wformat else blockSize sc.wformat sc.wcomp)

/-- Bytes are exactly so many columns (R182 order 6). -/
def columnsFit (sc : Scorer) : Nat → List Byte → Bool
  | 0, b => b.isEmpty
  | n + 1, b => decide (4 ≤ b.length && columnSize sc (b.take 4) ≤ b.length) && columnsFit sc n (b.drop (columnSize sc (b.take 4)))

/-- The payload decodes to exactly its columns (order 6). -/
def payloadOk (sc : Scorer) (pay : List Byte) : Bool := columnsFit sc (sc.layers * sc.kvHeads * sc.rank) pay

/-- SCORER_LOAD. -/
def cmdScorerLoad : Handler := fun _ c s =>
  let p := c.part
  let slot := u8 c.block 0
  let b := c.block.drop 0x20
  let sc := bundleScorer b
  let m := u16 b 2
  if slot < 1 || 4 < slot || !zeroIn c.block 1 0x20 || !bundleOk b then (s, some (err stInvalid))
  else
    let k : JobKey := tget {} (part s p).keys sc.job
    let body := b.take (b.length - 96)
    let place := (List.range m).find? (fun i => slice b (0xE0 + 48 * i) 48 == fingerprint)
    if !thas (part s p).keys sc.job || !ecdsaVerify k.owner body (b.drop (b.length - 96)) then (s, some (err stAuth))
    else if sc.serial < tget 0 (part s p).scorerSerials sc.job then (s, some (err stAuth))
    else match place with
    | none => (s, some (err stAuth))
    | some i =>
      match unwrapScorer i b with
      | none => (s, some (err stAuth))
      | some pay =>
        if !payloadOk sc pay then (s, some (err stInvalid))
        else if 0 < (tget {} (part s p).scorers slot : Scorer).refs then (s, some (err stBusy))
        else (modPart p (fun v => { v with
          scorers := tset v.scorers slot { sc with payload := pay }, scorerSerials := tset v.scorerSerials sc.job sc.serial }) s,
          some (okRet (toLe 8 sc.serial)))

/-- SCORER_LOAD. -/
def execScorerLoad (src : Source) (pkt : Packet) (s : State) : Host.Outcome State Fault Refusal :=
  .next (submitOp 0x0205 src pkt cmdScorerLoad s)

end Sys2Proof.Machine
end

