-- ==== Sys2Proof/Machine/PoolEvents.lean ====
section
/-! DEFINITION. What the pool, the clock sweep, the patrol scrub and the meters do by themselves (R43, R47, R48, R72, R84 to
R87, R230, R231, R490). -/

namespace Sys2Proof.Machine

/-- The partition exists and is not in reset, and the node runs. -/
def partRuns (s : State) (p : Nat) : Bool :=
  (p == 0 || (part s p).exists_) && !(part s p).inReset && !s.dbg.frozen &&
    (s.node.phase == .active || s.node.phase == .quiescing)

/-- EPOCH_ADVANCE (R72): ε advances by 1 every 10 µs, and what it allows is freed. -/
def execEpochAdvance (p : Nat) (s : State) : Host.Outcome State Fault Refusal :=
  .next (if partRuns s p && decide ((part s p).epsAt + 10 ≤ now s) then
    reclaim p (modPart p (fun v => { v with eps := (v.eps + 1) % 2 ^ 64, epsAt := now s }) s) else s)

/-- CLOCK_SWEEP (R84, R88): once per SWEEP_PERIOD, every age rises by 1, saturating, SEQ_AGE follows, and a new sweep period
counts its reads. -/
def execClockSweep (p : Nat) (s : State) : Host.Outcome State Fault Refusal :=
  .next (if !partRuns s p || decide (now s < (part s p).sweepAt + 1000 * (part s p).pool.sweepMs) then s else
    let s := (partCells s p).foldl (fun s c => modCell c (fun v => { v with
      pages := v.pages.map (fun e => (e.1, { e.2 with age := satAdd 255 e.2.age 1, reads := 0 }))
      lends := v.lends.map (fun e => (e.1, { e.2 with age := satAdd 255 e.2.age 1 })) }) s) s
    let ages := (part s p).seqs.map (fun e => (e.1, if e.2.map.isEmpty then satAdd 255 e.2.age 1 else leastAge s e.2))
    modPart p (fun v => { v with
      seqs := v.seqs.map (fun e => (e.1, { e.2 with age := tget e.2.age ages e.1 })), sweepAt := now s }) s)

/-- The projected level of R86: listed items and pages whose count an eviction brought to zero count as free. -/
def projectedLevel (s : State) (p : Nat) : Nat :=
  let up := (part s p).recl.filter (fun r => cellUp s (hCell r.handle))
  levelWith s p (sumBy up (fun r => if r.page then slotUnits (hCls r.handle) else 0))
    (sumBy up (fun r => if r.page then 1 else 2 * r.units))

/-- A sequence may be evicted (R86, R192, R228). -/
def evictable (s : State) (p : Nat) (q : Seq) : Bool :=
  !leasedSeq s p q.job q.seq && q.pinCount == 0 && !q.editing && (part s p).pool.minEvictAge ≤ leastAge s q &&
    !codedHere s p q.job q.seq && !(part s p).gsets.any (fun e => e.2.job == q.job && e.2.seq == q.seq)

/-- EVICTION (R86): one decision. -/
def execEviction (p : Nat) (s : State) : Host.Outcome State Fault Refusal :=
  .next (if !partRuns s p || (poolCells s p).isEmpty then s
    else
      let hw := (part s p).pool.highWm
      if hw ≤ poolLevel s p || hw ≤ projectedLevel s p then s
      else match maxBy (fun e => leastAge s e.2) ((part s p).seqs.filter (fun e => evictable s p e.2)) with
      | none => s
      | some (key, q) => postEvent 0 p p (toLe 4 q.job ++ toLe 6 q.seq) (destroySeq p key s))

/-- POOL_STAT_UPDATE (R490, R522). -/
def execPoolStatUpdate (p : Nat) (s : State) : Host.Outcome State Fault Refusal :=
  .next (if !partRuns s p then s else
    let c := (part s p).pool
    let lv := poolLevel s p
    let off := (poolCells s p).isEmpty
    modPart p (fun v => { v with stat := {
      level := lv, evicting := !off && decide (lv < c.highWm), admitStop := !off && decide (lv < c.lowWm)
      allocStop := !off && decide (lv < c.hardFloor), freeUnits := min (2 ^ 32 - 1) (freeUnits s p) } }) s)

/-! ### Patrol scrub (R43, R47, R48) -/

/-- The page whose slot holds a slot unit of a cell. -/
def pageAt (s : State) (c unit : Nat) : Option Nat :=
  ((cell s c).pages.find? (fun e => decide (e.1 ≤ unit && unit < e.1 + slotUnits e.2.cls))).map (fun e => mkHandle c e.1 e.2.cls)

/-- A scrub's read of one granule of the page region: corrected words are counted and written back unless a write raced it;
uncorrectable words are discovered and written poisoned; the page that owns poison is flagged. -/
def scrubRead (c k : Nat) (raced : Bool) (s : State) : State :=
  let g := gran s k
  let h := pageAt s c (k / 128 % 2 ^ 24)
  let s := if raced then s else setGran k { g with cls := mended g.cls } s
  let s := scrubWords c (h.getD 0) g.cls s
  if g.cls.any (fun x => 3 ≤ x) then h.elim s (fun h => poisonPage h (if raced then s else bumpGen h (badWords g.cls) s)) else s

/-- The page whose record lies at a place of the metadata region. -/
def recAt (s : State) (c pl : Nat) : Option Nat :=
  ((cell s c).pages.find? (fun e => e.2.recPlace == pl)).map (fun e => mkHandle c e.1 e.2.cls)

/-- A scrub's read of one granule of the metadata region (R516): a page whose record holds poison is flagged. -/
def scrubMeta (c g : Nat) (raced : Bool) (s : State) : State :=
  let cls := metaClsOf (cell s c) g
  let h := recAt s c (g / 32)
  let s := if raced then s else setMeta c g (mended cls) s
  let s := scrubWords c (h.getD (mkBlock c (g / 64))) cls s
  if cls.any (fun x => 3 ≤ x) then h.elim s (fun h => poisonPage h (if raced then s else bumpGen h (badWords cls) s)) else s

/-- A scrub's read of one shadow record (R250, R516). -/
def scrubShadow (c i : Nat) (raced : Bool) (s : State) : State :=
  let x : Shadow := tget {} (cell s c).shadow i
  let s := if raced then s else modCell c (fun v => { v with shadow := tset v.shadow i { x with cls := mended x.cls } }) s
  scrubWords c (entryObj s c i) x.cls s

/-- A scrub's read of granule `g` of a lent page's record (R516). -/
def scrubLentRec (c slot g : Nat) (raced : Bool) (s : State) : State :=
  match tget? (cell s c).lent slot with
  | none => s
  | some x =>
    let cls := tget [] x.recCls g
    let bad := cls.any (fun w => 3 ≤ w)
    let s := scrubWords c (lentObj (mkHandle c slot x.cls)) cls s
    modCell c (fun v => { v with lent := tmod v.lent slot (fun x => { x with
      recCls := if raced then x.recCls else tset x.recCls g (mended cls)
      r := { x.r with gen := (x.r.gen + (if raced then 0 else badWords cls) + b2n (bad && !x.r.poisoned)) % 2 ^ 32
                      poisoned := x.r.poisoned || bad } }) }) s

/-- A scrub's read of one granule of a lent page (R516): the page is flagged where it holds poison. -/
def scrubLent (c slot g : Nat) (raced : Bool) (s : State) : State :=
  match tget? (cell s c).lent slot with
  | none => s
  | some x =>
    let y := tget noGran x.grans g
    let bad := y.cls.any (fun w => 3 ≤ w)
    let s := scrubWords c (lentObj (mkHandle c slot x.cls)) y.cls s
    modCell c (fun v => { v with lent := tmod v.lent slot (fun x => { x with
      grans := if raced then x.grans else tset x.grans g { y with cls := mended y.cls }
      r := { x.r with gen := (x.r.gen + (if raced then 0 else badWords y.cls) + b2n (bad && !x.r.poisoned)) % 2 ^ 32
                      poisoned := x.r.poisoned || bad } }) }) s

/-- The places of the pass: the page region, then the metadata, shadow and lend regions, in the order of R36. -/
def scrubBase (region : Nat) : Nat := region * 2 ^ 40

/-- The next granule of a cell's pass at or after its position: those that the state lists; a granule that is not listed holds
good words and is passed over. -/
def scrubNext (s : State) (c : Nat) : Option Nat :=
  let v := cell s c
  let from_ (l : List Nat) : Option Nat := l.find? (fun k => decide (v.scrubPos ≤ k))
  (from_ ((s.pmem.filter (fun e => e.1 / 2 ^ 31 == c)).map (fun e => e.1 % 2 ^ 31))).orElse (fun _ =>
    (from_ (v.metaCls.map (fun e => scrubBase 1 + e.1))).orElse (fun _ =>
      (from_ ((v.shadow.filter (fun e => !e.2.cls.isEmpty)).map (fun e => scrubBase 2 + e.1))).orElse (fun _ =>
        (from_ (v.lent.flatMap (fun e => (e.2.grans.filter (fun g => !g.2.cls.isEmpty)).map (fun g => scrubBase 3 + e.1 * 512 + g.1)))).orElse (fun _ =>
          from_ (v.lent.flatMap (fun e => (e.2.recCls.filter (fun g => !g.2.isEmpty)).map (fun g => scrubBase 4 + e.1 * 32 + g.1)))))))

/-- The scrub's read of the granule at a place of its pass. -/
def scrubAt (c k : Nat) (raced : Bool) (s : State) : State :=
  let i := k % 2 ^ 40
  if k < 2 ^ 40 then scrubRead c (c * 2 ^ 31 + k) raced s
  else if k / 2 ^ 40 = 1 then scrubMeta c i raced s
  else if k / 2 ^ 40 = 2 then scrubShadow c i raced s
  else if k / 2 ^ 40 = 3 then scrubLent c (i / 512) (i % 512) raced s
  else scrubLentRec c (i / 32) (i % 32) raced s

/-- The scrub runs in a cell whose stack is neither off nor in self-refresh (R48): not in Cell-off, Drizzle or a node reset. -/
def scrubRuns (s : State) (c : Nat) : Bool := cellUp s c && !s.dbg.frozen && (s.node.phase == .active || s.node.phase == .quiescing)

/-- SCRUB_GRANULE (R47): the next granule of the cell's pass; the end of the pass sets SCRUB_LAP. -/
def execScrubGranule (c : Nat) (raced : Bool) (s : State) : Host.Outcome State Fault Refusal :=
  .next (if !scrubRuns s c then s else
    match scrubNext s c with
    | some k => scrubAt c k raced (modCell c (fun v => { v with scrubPos := k + 1 }) s)
    | none => modCell c (fun v => { v with scrubPos := 0, scrubLap := true }) s)

/-- Word classes after the corrected ones have been rewritten (R43). -/
def rewritten (cls : List Nat) : List Nat :=
  let l := cls.map (fun x => if x = 1 || x = 2 then 0 else x)
  if l.all (· == 0) then [] else l

/-- The granule at a place of the rewrite queue rewritten corrected (R43): of a page slot, the metadata region, a lent page, the shadow
region or a lent page's record. -/
def rewriteGran (c k : Nat) (s : State) : State :=
  if k < 2 ^ 40 then setGran k { gran s k with cls := rewritten (gran s k).cls } s
  else if k < 2 ^ 41 then setMeta c (k - 2 ^ 40) (rewritten (metaClsOf (cell s c) (k - 2 ^ 40))) s
  else if k < 2 ^ 42 then
    let i := k - 2 ^ 41
    modCell c (fun v => { v with lent := tmod v.lent (i / 512) (fun x => { x with
      grans := tmod x.grans (i % 512) (fun g => { g with cls := rewritten g.cls }) }) }) s
  else if k < 2 ^ 43 then
    let u := 2 * (k - 2 ^ 42)
    modCell c (fun v => { v with shadow := [u, u + 1].foldl (fun t i => tmod t i (fun x => { x with cls := rewritten x.cls })) v.shadow }) s
  else
    let i := k - 2 ^ 43
    modCell c (fun v => { v with lent := tmod v.lent (i / 32) (fun x => { x with recCls := tmod x.recCls (i % 32) rewritten }) }) s

/-- SCRUB_REWRITE (R43, R48): the granule at the head of the queue is rewritten corrected. -/
def execScrubRewrite (c : Nat) (s : State) : Host.Outcome State Fault Refusal :=
  .next (if !scrubRuns s c then s else
    match (cell s c).rewriteQ with
    | [] => s
    | k :: rest => rewriteGran c k (modCell c (fun v => { v with rewriteQ := rest }) s))

/-! ### Metering (R230, R231) -/

/-- METERING_SECOND (R230): slot units of allocated pages by the job of their record, parity pages among them, and of pages held for other
nodes. -/
def execMeteringSecond (p : Nat) (s : State) : Host.Outcome State Fault Refusal :=
  .next (if !partRuns s p then s else
    (partCells s p).foldl (fun s c =>
      let s := (cell s c).pages.foldl (fun s e => meter p e.2.r.job (fun m => { m with pageS := sat64 m.pageS (slotUnits e.2.cls) }) s) s
      (cell s c).lent.foldl (fun s e => meter p e.2.job (fun m => { m with lendPageS := sat64 m.lendPageS (slotUnits e.2.cls) }) s) s) s)

/-- The seven counters in the order of R230. -/
def meterVals (m : Meter) : List Nat := [m.cellNs, m.pageS, m.lendPageS, m.attnPages, m.requests, m.bytesTx, m.bytesRx]

/-- The payload of METER_REPORT before its signature (R231), field sizes as log 11 names them. -/
def meterBody (s : State) (p serial : Nat) (nonce : List Byte) : List Byte :=
  let ms := (part s p).meters
  toLe 2 s.node.nodeId ++ toLe 2 p ++ toLe 8 serial ++ toLe 8 (now s) ++ nonce ++ toLe 4 ms.length ++
    ms.flatMap (fun e => toLe 4 e.1 ++ zeros 4 ++ (meterVals e.2).flatMap (toLe 8))

/-- METER_REPORT. -/
def cmdMeterReport : Handler := fun _ c s =>
  let p := u16 c.block 0
  if c.block.length ≠ 64 || !zeroIn c.block 2 0x20 then (s, some (err stInvalid))
  else if (c.part ≠ 0 && p ≠ c.part) || (p ≠ 0 && !(part s p).exists_) then (s, some (err stNotFound))
  else
    let serial := s.node.reportSerial + 1
    let b := meterBody s p serial (slice c.block 0x20 32)
    if fitsReply c (b.length + 96) then
      let (sig, s) := signed b s
      (modNode (fun n => { n with reportSerial := serial }) s, some (okPay [] (b ++ sig)))
    else (s, some (err stInvalid 0xFFF2))

/-- METER_REPORT. -/
def execMeterReport (src : Source) (pkt : Packet) (s : State) : Host.Outcome State Fault Refusal :=
  .next (submitOp 0x0008 src pkt cmdMeterReport s)

end Sys2Proof.Machine
end

