-- ==== Sys2Proof/Machine/Match.lean ====
section
/-! DEFINITION. The associative match array (chapter 09): entries, fingerprints, batches, sweeps, results, cursors, repair. -/

namespace Sys2Proof.Machine

/-! ### Fingerprints (R241) -/

/-- The tag of the first n tokens (R241). -/
def fpTag (s : State) (p ns : Nat) (ids : List Nat) (n : Nat) : List Byte :=
  let key := fpKey s p
  (List.range ((n - 1) / 64 + 1)).foldl (fun t b =>
    let fill := if b < (n - 1) / 64 then 64 else n - 64 * ((n - 1) / 64)
    cmac256 key (t ++ toLe 4 b ++ toLe 4 fill ++ ((ids.drop (64 * b)).take fill).flatMap (toLe 4)))
    (toLe 4 ns ++ zeros 12)

/-- The fingerprint key of the first n tokens, as two 64-bit units. -/
def fpUnits (s : State) (p ns : Nat) (ids : List Nat) (n : Nat) : List Nat :=
  let last := (n - 1) / 64
  let v := 0x20 + last * 2 ^ 8 + (n - 64 * last - 1) * 2 ^ 24 + leVal ((fpTag s p ns ids n).take 12) * 2 ^ 32
  [v % 2 ^ 64, v / 2 ^ 64]

/-! ### MATCH_INSERT, MATCH_DELETE, MATCH_CONFIG -/

/-- The check of a named index for a width: INVALID_PARAM, then AUTH_FAIL (R238). -/
def indexCheck (s : State) (p idx w : Nat) : Option Reply :=
  match entryCell s p idx with
  | none => some (err stInvalid)
  | some _ =>
    let u := idx % 1048576
    let m := (part s p).match_
    if u % w ≠ 0 || bankWidth m (unitBank u) ≠ w then some (err stInvalid)
    else if placeBank0 m ≤ unitBank u then some (err stAuth)
    else none

/-- A sweep of the tenant bank of a unit position is under way in its cell (R240). -/
def bankSwept (s : State) (ci u : Nat) : Bool :=
  (cell s ci).sweeping.elim false (fun i =>
    let p := cellOwner s ci
    (tget? (part s p).batches i).elim false (fun b => sweepCovers (part s p).match_ b (unitBank u)))

/-- A command whose write waits for the sweep of its bank to end (R240). -/
def queueWrite (ci id : Nat) (s : State) : State := modCell ci (fun v => { v with writeQ := v.writeQ ++ [id] }) s

/-- MATCH_INSERT (R238, R320). At an index of a cell that is off it completes with BUSY: R238 names no status for it (DESIGN CHOICE,
log 108). -/
def cmdMatchInsert : Handler := fun id c s =>
  let b := c.block
  let p := c.part
  let w := u8 b 0
  let source := u8 b 1
  let idx := u32 b 4
  let n := u32 b 0x14
  let okForm := (w = 1 || w = 2 || w = 4) && source ≤ 1 && u8 b 2 ≤ 1 && u8 b 3 == 0 && zeroIn b 0x18 0x20 &&
    (if source = 0 then b.length == 0x20 + 16 * w && zeroIn b 0x10 0x18
     else w == 2 && 1 ≤ n && n ≤ 4194304 && b.length == 0x20 + 4 * n)
  let vals := if source = 0 then (List.range w).map (fun i => u64 b (0x20 + 8 * i))
    else fpUnits s p (u32 b 0x10) ((List.range n).map (fun i => u32 b (0x20 + 4 * i))) n
  let masks := if source = 0 then (List.range w).map (fun i => u64 b (0x20 + 8 * w + 8 * i)) else [2 ^ 64 - 1, 2 ^ 64 - 1]
  if !okForm || (vals.zip masks).any (fun e => Nat.land e.1 (2 ^ 64 - 1 - e.2) != 0) then (s, some (err stInvalid))
  else
    let write (idx : Nat) : State × Option Reply :=
      match entryCell s p idx with
      | none => (s, some (err stInvalid))
      | some ci =>
        let u := idx % 1048576
        if !cellUp s ci then (s, some (err stBusy))
        else if bankSwept s ci u then (queueWrite ci id s, none)
        else
        let s := readIndex p idx s
        if entryValid (cell s ci) u && !bitOf (u8 b 2) 0 then (s, some (err stConflict))
        else
          let s := putEntry ci u w vals masks (u64 b 8) s
          (s, some (okRet (toLe 4 idx ++ toLe 2 (shadowAt (cell s ci) u).gen)))
    if idx = 0xFFFFFFFF then
      match freeEntry s p w (fun k => k < placeBank0 (part s p).match_) with
      | none => (s, some (err stBusy))
      | some i => write i
    else
      match indexCheck s p idx w with
      | some r => (s, some r)
      | none => write idx

/-- MATCH_INSERT. -/
def execMatchInsert (src : Source) (pkt : Packet) (s : State) : Host.Outcome State Fault Refusal :=
  .next (submitOp 0x0301 src pkt cmdMatchInsert s)

/-- MATCH_DELETE (R239, R253). -/
def cmdMatchDelete : Handler := fun id c s =>
  let idx := u32 c.block 0
  let g := u16 c.block 4
  let p := c.part
  match entryCell s p idx with
  | none => (s, some (err stInvalid))
  | some ci =>
    let u := idx % 1048576
    if !blockIs c 6 then (s, some (err stInvalid))
    else if placeBank0 (part s p).match_ ≤ unitBank u then (s, some (err stAuth))
    else if bankSwept s ci u then (queueWrite ci id s, none)
    else
    let s := readIndex p idx s
    if !entryValid (cell s ci) u then (s, some (err stNotFound))
    else if g ≠ 0 && g ≠ (shadowAt (cell s ci) u).gen then (s, some (err stConflict))
    else (dropEntry ci u (shadowAt (cell s ci) u).width s, some (okRet []))

/-- MATCH_DELETE. -/
def execMatchDelete (src : Source) (pkt : Packet) (s : State) : Host.Outcome State Fault Refusal :=
  .next (submitOp 0x0302 src pkt cmdMatchDelete s)

/-- Some cell of the partition holds a valid entry in a bank. -/
def bankUsed (s : State) (p bank : Nat) : Bool :=
  (partCells s p).any (fun c => (cell s c).shadow.any (fun e => e.2.valid && unitBank e.1 == bank))

/-- A cell's duty buckets filled up to now at the caps that have held (R243). -/
def settleDuty (s : State) (p : Nat) (v : Cell) : Cell :=
  { v with
    tenantDuty := { ns := bucketNs s v.tenantDuty (part s p).match_.dutyCap, at_ := max (now s) v.tenantDuty.at_ }
    placeDuty := { ns := bucketNs s v.placeDuty (part s p).match_.placeDuty, at_ := max (now s) v.placeDuty.at_ } }

/-- MATCH_CONFIG (R236, R321). -/
def cmdMatchConfig : Handler := fun _ c s =>
  let b := c.block
  let t := u16 b 0
  let pb := u16 b 2
  let dc := u8 b 4
  let wp := u8 b 5
  let pd := u8 b 6
  let p := if t = 0xFFFF then c.part else t
  let m := (part s p).match_
  let code (k : Nat) : Nat := bitsOf (u8 b (0x20 + k / 4)) (2 * (k % 4)) 2
  if (pb ≠ 0xFFFF && (1024 < pb || pb % 64 ≠ 0)) || 50 < dc || 1 < wp || 50 < pd || !zeroIn b 7 0x20 ||
      b.length ≠ 0x20 + 512 * wp then (s, some (err stInvalid))
  else if (c.part ≠ 0 && (t ≠ 0xFFFF || pb ≠ 0xFFFF || pd ≠ 0)) || (c.part = 0 && t ≠ 0xFFFF && (dc ≠ 0 || wp ≠ 0)) ||
      (c.part = 0 && t = 0xFFFF && (pb ≠ 0xFFFF || pd ≠ 0)) then (s, some (err stAuth))
  else if t ≠ 0xFFFF && (t = 0 || !(part s t).exists_) then (s, some (err stNotFound))
  else
    let banks := List.range 2048
    let wset := banks.filter (fun k => wp = 1 && code k ≠ 0 && k < placeBank0 m && 2 ^ (code k - 1) ≠ bankWidth m k)
    let first := if pb = 0xFFFF then placeBank0 m else 2048 - pb
    let moved := banks.filter (fun k => decide (k < placeBank0 m) != decide (k < first))
    if (wset ++ moved).any (bankUsed s p) then (s, some (err stConflict))
    else
      let m := { m with
        placeBanks := if pb = 0xFFFF then m.placeBanks else pb
        placeDuty := if pd = 0 then m.placeDuty else pd
        dutyCap := if dc = 0 then m.dutyCap else dc
        widths := wset.foldl (fun t k => tset t k (2 ^ (code k - 1))) m.widths }
      let s := (partCells s p).foldl (fun s k => modCell k (settleDuty s p) s) s
      (modPart p (fun v => { v with match_ := m }) s, some (okRet []))

/-- MATCH_CONFIG. -/
def execMatchConfig (src : Source) (pkt : Packet) (s : State) : Host.Outcome State Fault Refusal :=
  .next (submitOp 0x0305 src pkt cmdMatchConfig s)

/-! ### Results (R245 to R247, R249) -/

/-- A match-order position (R246). -/
def position (h : Hit) : Nat := h.index + h.prio * 2 ^ 25 + 2 ^ 63

/-- The 32-byte result record of a key (R245). -/
def resultRecord (held : List Hit) (count : Nat) (more incomplete reswept : Bool) (cursor : Nat) : List Byte :=
  match held with
  | [] => toLe 2 ((if incomplete then 8 else 0) + if reswept then 16 else 0) ++ zeros 30
  | h :: rest =>
    let multi := rest.any (fun x => x.prio == h.prio) || (decide (1 < count) && more && rest.all (fun x => x.prio == h.prio))
    toLe 2 (1 + 2 * b2n multi + 4 * b2n more + 8 * b2n incomplete + 16 * b2n reswept) ++ toLe 2 h.prio ++ toLe 4 h.index ++
      toLe 8 h.assoc ++ toLe 2 (min 0xFFFF count) ++ toLe 2 cursor ++ toLe 2 h.gen ++ zeros 2 ++
      toLe 8 (if more then position ((h :: rest).getLastD h) else 0)

/-- Completing a MATCH_SEARCH whose every key has its result (R245, R247, R249). -/
def finishSearch (x : Nat) (s : State) : State :=
  let v := ctxOf s x
  let sr := v.search
  if sr.results.length < sr.keys then s
  else
    let p := v.part
    let keep := (List.range sr.keys).map (fun k =>
      let (held, _, _, _, _) := tget ([], 0, false, false, false) sr.results k
      if sr.step && 1 < held.length then sr.cursors[k]? else none)
    let s := modPart p (fun q => { q with cursors := sr.cursors.foldl (fun t i => tdel t i) q.cursors }) s
    let s := (List.range sr.keys).foldl (fun s k =>
      match keep.getD k none with
      | none => s
      | some i =>
        let (held, _, more, _, _) := tget ([], 0, false, false, false) sr.results k
        let cur : Cursor := { held := held.drop 1, more := more, restart := if more then position (held.getLastD {}) else 0, used := now s }
        modPart p (fun q => { q with cursors := tset q.cursors i cur }) s) s
    let recs := (List.range sr.keys).flatMap (fun k =>
      let (held, count, more, inc, re) := tget ([], 0, false, false, false) sr.results k
      resultRecord held count more inc re ((keep.getD k none).getD 0xFFFF))
    let hits := ((List.range sr.keys).filter (fun k => !(tget ([], 0, false, false, false) sr.results k).1.isEmpty)).length
    let made := (keep.filter (·.isSome)).length
    let ret := toLe 2 sr.keys ++ toLe 2 hits ++ toLe 2 made
    let n := v.unavail.length
    let r : Reply := if n = (partCells s p).length && n ≠ 0 then err stUnavail n
      else { status := if n = 0 then stOk else stPartial, detail := n, ret := ret, payload := recs }
    conclude v.cmd r s

/-- A key's result enters its context (a placement lookup has none), which completes with its last key. -/
def keyResult (x k : Nat) (reports : List KeyReport) (lost reswept : Bool) (s : State) : State :=
  let (held, more, count) := heldOf reports
  finishSearch x (modCtx x (fun v => { v with
    search := { v.search with results := tset v.search.results k (held, count, more, lost, reswept) }, progress := now s }) s)

/-- A cell replaced by a marker, in the searches of some keys. -/
def markKeys (c : Nat) (keys : List BKey) (s : State) : State :=
  keys.foldl (fun s k => modCtx k.ctx (fun v => { v with unavail := if c ∈ v.unavail then v.unavail else v.unavail ++ [c] }) s) s

/-- All reports of a batch are in: keys that lost candidates are swept once more, the others have their results (R251). A cell that has
left since the first sweep is replaced by a marker in the second. -/
def batchDone (p i : Nat) (s : State) : State :=
  match tget? (part s p).batches i with
  | none => s
  | some b =>
    let per (k : Nat) : List KeyReport := b.reports.map (fun e => e.2.getD k {})
    let again := b.keys.zipIdx.filter (fun e => !e.1.again && (per e.2).any (·.failed))
    let done := b.keys.zipIdx.filter (fun e => !(!e.1.again && (per e.2).any (·.failed)))
    let s := modPart p (fun v => { v with batches := tdel v.batches i }) s
    let s := done.foldl (fun s e => keyResult e.1.ctx e.1.key (per e.2) b.lost e.1.again s) s
    if again.isEmpty then s
    else
      let j := max i (((part s p).batches.map (·.1)).foldl max 0) + 1
      let keys : List BKey := again.map (fun e => { e.1 with again := true })
      let nb : Batch := { placement := b.placement, width := b.width, closed := true, keys := keys }
      let up := (partCells s p).filter (cellUp s)
      let down := (partCells s p).filter (fun c => !cellUp s c)
      let s := down.foldl (fun s c => markKeys c keys s) s
      if up.isEmpty then keys.foldl (fun s k => keyResult k.ctx k.key [] true true s) s
      else
        let s := modPart p (fun v => { v with batches := tset v.batches j { nb with waitFor := up, lost := b.lost || !down.isEmpty } }) s
        up.foldl (fun s c => modCell c (fun v => { v with sweeps := j :: v.sweeps }) s) s

/-- A cell's reports for a batch, or its marker, have arrived. -/
def reportBatch (p i c : Nat) (reports : Option (List KeyReport)) (s : State) : State :=
  match tget? (part s p).batches i with
  | none => s
  | some b =>
    let b := { b with waitFor := b.waitFor.filter (· != c), lost := b.lost || reports.isNone, reports := match reports with
      | some r => b.reports ++ [(c, r)]
      | none => b.reports }
    let s := modPart p (fun v => { v with batches := tset v.batches i b }) s
    let s := if reports.isSome then s else markKeys c b.keys s
    if b.closed && b.waitFor.isEmpty then batchDone p i s else s

/-! ### MATCH_SEARCH and its batches (R242, R249, R310) -/

/-- The parameters of a MATCH_SEARCH: width, keys as unit lists, START_AFTER, STEP; none when they break R249 row 3. -/
def searchArgs (s : State) (p : Nat) (b : List Byte) : Option (Nat × List (List Nat × Nat) × Bool) :=
  let n := u8 b 0
  let w := u8 b 1
  let src := u8 b 2
  let fl := u8 b 3
  let tc := u32 b 8
  let ids := align32 (0x20 + 4 * n)
  let after := if src = 0 then align32 (0x20 + 8 * w * n) else align32 (ids + 4 * tc)
  let body := if src = 0 then 0x20 + 8 * w * n else ids + 4 * tc
  let full := if bitOf fl 1 then after + 8 * n else body
  let lens := (List.range n).map (fun i => u32 b (0x20 + 4 * i))
  let hasWidth := (List.range 2048).any (fun k => decide (k < placeBank0 (part s p).match_) && bankWidth (part s p).match_ k == w)
  if n = 0 || 32 < n || !(w = 1 || w = 2 || w = 4) || 1 < src || 4 ≤ fl || !zeroIn b 0xC 0x20 || b.length ≠ full || !hasWidth ||
      (src = 1 && (w ≠ 2 || lens.any (fun l => l = 0 || tc < l) || !zeroIn b (0x20 + 4 * n) ids)) ||
      (src = 0 && !zeroIn b 4 0xC) || (bitOf fl 1 && !zeroIn b body after) then none
  else
    let toks := (List.range tc).map (fun i => u32 b (ids + 4 * i))
    some (w, (List.range n).map (fun i =>
      (if src = 0 then (List.range w).map (fun j => u64 b (0x20 + 8 * (w * i + j))) else fpUnits s p (u32 b 4) toks (lens.getD i 1),
       if bitOf fl 1 then u64 b (after + 8 * i) else 0)), bitOf fl 0)

/-- Closing a batch: it goes to every powered cell of the partition, a marker replaces every other (R242). -/
def closeBatch (p i : Nat) (s : State) : State :=
  match tget? (part s p).batches i with
  | none => s
  | some b =>
    let up := (partCells s p).filter (cellUp s)
    let down := (partCells s p).filter (fun c => !cellUp s c)
    let s := modPart p (fun v => { v with batches := tset v.batches i { b with closed := true, waitFor := up, lost := !down.isEmpty } }) s
    let s := down.foldl (fun s c => markKeys c b.keys s) s
    if up.isEmpty then batchDone p i s else up.foldl (fun s c => modCell c (fun v => { v with sweeps := v.sweeps ++ [i] }) s) s

/-- A batch that holds these keys; one with 32 keys closes (R242). -/
def setBatch (p i : Nat) (b : Batch) (s : State) : State :=
  let s := modPart p (fun v => { v with batches := tset v.batches i b }) s
  if b.keys.length = 32 then closeBatch p i s else s

/-- Joining the newest batch of a width of the tenant banks, while it is open and has room, or starting one; all keys of a search enter
one batch (R242). -/
def joinBatch (p w : Nat) (keys : List BKey) (s : State) : State :=
  let last := ((part s p).batches.filter (fun e => e.2.width == w && !e.2.placement && !e.2.keys.any (·.again))).foldl
    (fun (a : Option (Nat × Batch)) e => if a.elim true (fun x => decide (x.1 < e.1)) then some e else a) none
  match last.filter (fun e => !e.2.closed && decide (e.2.keys.length + keys.length ≤ 32)) with
  | some (i, b) => setBatch p i { b with keys := b.keys ++ keys } s
  | none => setBatch p (((part s p).batches.map (·.1)).foldl max 0 + 1) { width := w, keys := keys } s

/-- Cursors in use or reserved by a partition. -/
def cursorsFree (s : State) (p : Nat) : List Nat := (List.range 1024).filter (fun i => !thas (part s p).cursors i)

/-- A START_AFTER position that names an index in a placement bank (R237, R246). -/
def afterPlaced (s : State) (p a : Nat) : Bool :=
  bitOf a 63 && decide (placeBank0 (part s p).match_ ≤ unitBank (bitsOf a 0 25 % 1048576))

/-- MATCH_SEARCH (R249). -/
def cmdMatchSearch : Handler := fun id c s =>
  let p := c.part
  let n := u8 c.block 0
  let step := bitOf (u8 c.block 3) 0
  if step && (cursorsFree s p).length < min n 32 then (s, some (err stBusy))
  else if (partCells s p).isEmpty then (s, some (err stUnavail))
  else match searchArgs s p c.block with
  | none => (s, some (err stInvalid))
  | some (w, keys, step) =>
    if keys.any (fun k => afterPlaced s p k.2) then (s, some (err stAuth))
    else if ((partCells s p).filter (cellUp s)).isEmpty then (s, some (err stUnavail (partCells s p).length))
    else if !fitsReply c (32 * keys.length) then (s, some (err stInvalid 0xFFF2))
    else
      let cur := if step then (cursorsFree s p).take keys.length else []
      let s := modPart p (fun v => { v with cursors := cur.foldl (fun t i => tset t i { reserved := true }) v.cursors }) s
      let x := c.ctx.getD 0
      let s := modCtx x (fun v => { v with
        cmd := id, search := { width := w, step := step, keys := keys.length, cursors := cur }
        deadline := now s + heldSetting c 1 0 [10000] }) s
      (joinBatch p w (keys.zipIdx.map (fun e => { ctx := x, key := e.2, parts := e.1.1, after := e.1.2 })) s, none)

/-- MATCH_SEARCH. -/
def execMatchSearch (src : Source) (pkt : Packet) (s : State) : Host.Outcome State Fault Refusal :=
  .next (submitOp 0x0303 src pkt cmdMatchSearch s)

/-! ### Sweeps (R243, R244) -/

/-- The batch at the head of a cell's list, with its partition. -/
def headBatch (s : State) (c : Nat) : Option (Nat × Batch) :=
  match (cell s c).sweeps with
  | [] => none
  | i :: _ => (tget? (part s (cellOwner s c)).batches i).map (fun b => (i, b))

/-- The second sweep of a batch's keys under R251. -/
def secondSweep (b : Batch) : Bool := !b.keys.isEmpty && b.keys.all (·.again)

/-- What the bucket that a batch's sweep draws on holds now (R243). -/
def sweepNs (s : State) (c : Nat) (b : Batch) : Nat :=
  let m := (part s (cellOwner s c)).match_
  if b.placement then bucketNs s (cell s c).placeDuty m.placeDuty else bucketNs s (cell s c).tenantDuty m.dutyCap

/-- The sweep of the batch at the head of a cell's list may start: no other sweep, and 360 ns held in its bucket, on which a second sweep
under R251 does not draw. Elements that its banks have run before it (R265). -/
def canSweep (s : State) (c : Nat) : Bool :=
  match headBatch s c with
  | none => false
  | some (_, b) =>
    let v := cell s c
    (v.pwr.st ≤ 1 || v.pwr.st == 5) && v.sweeping.isNone && (secondSweep b || decide (360 ≤ sweepNs s c b))

/-- SWEEP_START (R243, R265). -/
def execSweepStart (c : Nat) (s : State) : Host.Outcome State Fault Refusal :=
  .next (if s.dbg.frozen || !canSweep s c then s else
    match headBatch s c with
    | none => s
    | some (i, b) =>
      let m := (part s (cellOwner s c)).match_
      modCell c (fun v =>
        let v := { v with
          sweeping := some i
          sweepAhead := (v.banks.filter (fun e => sweepCovers m b e.1 && !e.2.isEmpty)).map (fun e => (e.1, e.2.length)) }
        if secondSweep b then v
        else if b.placement then { v with placeDuty := { ns := sweepNs s c b - 360, at_ := now s } }
        else { v with tenantDuty := { ns := sweepNs s c b - 360, at_ := now s } }) s)

/-- BATCH_CLOSE (R242): the open batch closes when a sweep of its bank set and width can start in every cell. -/
def execBatchClose (p i : Nat) (s : State) : Host.Outcome State Fault Refusal :=
  .next (match tget? (part s p).batches i with
    | none => s
    | some b =>
      let free := ((partCells s p).filter (cellUp s)).all (fun c =>
        (cell s c).sweeping.isNone && (cell s c).sweeps.isEmpty && decide (360 ≤ sweepNs s c b))
      let first := (part s p).batches.all (fun e => decide (i ≤ e.1) || e.2.closed || e.2.width != b.width || e.2.placement != b.placement)
      if !s.dbg.frozen && !b.closed && first && free then closeBatch p i s else s)

/-! ### Cursors (R247, R311) -/

/-- Taking up to `n` matches of a cursor whose entries still stand: records, skipped, what is left. -/
def stepCursor (s : State) (p : Nat) : Nat → Nat → List Hit → List (List Byte) × Nat × List Hit
  | _, 0, l => ([], 0, l)
  | 0, _, l => ([], 0, l)
  | _, _, [] => ([], 0, [])
  | fuel + 1, n + 1, h :: rest =>
    let ok := match entryCell s p h.index with
      | none => false
      | some c => entryValid (cell s c) (h.index % 1048576) && (shadowAt (cell s c) (h.index % 1048576)).gen == h.gen
    if ok then
      let (r, k, l) := stepCursor s p fuel n rest
      ((toLe 8 (position h) ++ toLe 8 h.assoc ++ toLe 2 h.gen ++ zeros 6) :: r, k, l)
    else
      let (r, k, l) := stepCursor s p fuel (n + 1) rest
      (r, k + 1, l)

/-- Reading the entry at a unit position would lose it (R253) while a sweep of its bank is under way: its markers wait (R240). -/
def lossWaits (s : State) (p c u : Nat) : Bool :=
  cellUp s c && bankSwept s c u && shadowBad (cell s c) u (bankWidth (part s p).match_ (unitBank u))

/-- MATCH_STEP (R247, R311). -/
def cmdMatchStep : Handler := fun id c s =>
  let cur := u16 c.block 0
  let n := u8 c.block 2
  let p := c.part
  if !blockIs c 3 || n = 0 || 64 < n then (s, some (err stInvalid))
  else match tget? (part s p).cursors cur with
  | none => (s, some (err stNotFound))
  | some v =>
    if v.reserved then (s, some (err stNotFound))
    else if !fitsReply c (24 * n) then (s, some (err stInvalid 0xFFF2))
    else
      let (_, _, seen) := stepCursor s p 65 n v.held
      let reads := v.held.take (v.held.length - seen.length)
      match reads.findSome? (fun h => (entryCell s p h.index).filter (fun k => lossWaits s p k (h.index % 1048576))) with
      | some k => (queueWrite k id s, none)
      | none =>
      let s := reads.foldl (fun s h => readIndex p h.index s) s
      let (recs, sk, left) := stepCursor s p 65 n ((tget v (part s p).cursors cur).held)
      let fin := left.isEmpty
      let nv : Cursor := { v with held := left, used := now s }
      let s := modPart p (fun q => { q with cursors := if fin then tdel q.cursors cur else tset q.cursors cur nv }) s
      (s, some (okPay (toLe 2 recs.length ++ toLe 2 sk ++ toLe 2 (b2n fin + if fin && v.more then 4 else 0) ++ zeros 2 ++
        toLe 8 (if fin then v.restart else 0)) recs.flatten))

/-! ### Sweeps that end, the patrol -/

/-- Writes of entries that have waited for a sweep of their bank go on, in their order (R240). -/
def writesGo (c : Nat) (s : State) : State :=
  (cell s c).writeQ.foldl (fun s id =>
    let op := (tget {} s.cmds id : Cmd).opcode
    begin_ (if op = 0x0301 then cmdMatchInsert else if op = 0x0302 then cmdMatchDelete else cmdMatchStep) id s)
    (modCell c (fun v => { v with writeQ := [] }) s)

/-- SWEEP_DONE (R240, R244, R251, R253, R265): not before the elements that came to its banks before it have run. -/
def execSweepDone (c : Nat) (s : State) : Host.Outcome State Fault Refusal :=
  .next (if s.dbg.frozen then s else
    match (cell s c).sweeping with
    | none => s
    | some i =>
      if !(cell s c).sweepAhead.isEmpty then s else
      let p := cellOwner s c
      let s := modCell c (fun v => { v with sweeping := none, sweeps := v.sweeps.filter (· != i) }) s
      match tget? (part s p).batches i with
      | none => writesGo c s
      | some b =>
        let rank := ((partCells s p).findIdx? (· == c)).getD 0
        let rs := b.keys.map (cellReport s c rank b)
        let s := (rs.flatMap (·.2.2)).foldl (fun s u => readFixed c u b.width s) s
        let s := ((rs.flatMap (·.2.1)).dedup).foldl (fun s u => repairEntry c u b.width s) s
        writesGo c (reportBatch p i c (some (rs.map (·.1))) s))

/-- PATROL_COMPARE (R252, R253): the next unit position that is listed, its raw unit compared with its shadow record. -/
def execPatrolCompare (c : Nat) (s : State) : Host.Outcome State Fault Refusal :=
  .next (if s.dbg.frozen || !cellUp s c || (cell s c).sweeping.isSome || s.node.phase != .active then s else
    let v := cell s c
    let pos := (v.units.map (·.1) ++ v.shadow.map (·.1)).filter (fun u => decide (v.patrolPos ≤ u))
    match minBy id pos with
    | none => modCell c (fun v => { v with patrolPos := 0, patrolLap := true }) s
    | some u =>
      let w := max 1 (shadowAt v u).width
      let sh := shadowAt v u
      let s := modCell c (fun v => { v with patrolPos := u + 1 }) s
      let raw := unitAt v u
      let s := readFixed c u 1 s
      if sh.cls.any (fun x => 3 ≤ x) then loseEntry c (u / w * w) w s
      else
        let want : MUnit := if sh.valid then { value := sh.value, mask := sh.mask } else {}
        if raw = want then s else repairEntry c u 1 s)

/-- MATCH_STEP. -/
def execMatchStep (src : Source) (pkt : Packet) (s : State) : Host.Outcome State Fault Refusal :=
  .next (submitOp 0x0304 src pkt cmdMatchStep s)

/-- CURSOR_TIMEOUT (R247): a cursor idle for 10 ms is freed. -/
def execCursorTimeout (p i : Nat) (s : State) : Host.Outcome State Fault Refusal :=
  .next (if !nodeLive s then s else match tget? (part s p).cursors i with
    | some v => if !v.reserved && v.used + 10000 ≤ now s then modPart p (fun q => { q with cursors := tdel q.cursors i }) s else s
    | none => s)

end Sys2Proof.Machine
end

