-- ==== Sys2Proof/Machine/Bank.lean ====
section
/-! DEFINITION. Bank-side units: elements, BANK_OP, BANK_OPSTAT (chapter 10). -/

namespace Sys2Proof.Machine

/-! ### Rows and columns (R33 to R36, R256, R260) -/

/-- The region of a cell row index: 0 raw, 1 page, 2 metadata, 3 shadow, 4 system, 5 lend (R36). -/
def rowRegion (l : Layout) (row : Nat) : Nat :=
  let a := l.rawMib / 2
  let b := a + l.pageMib / 2
  let c := b + l.metaMib / 2
  if row < a then 0 else if row < b then 1 else if row < c then 2 else if row < c + 128 then 3 else if row < c + 384 then 4 else 5

/-- The first row of the page region, and of the metadata region. -/
def regionRow (l : Layout) (region : Nat) : Nat := if region = 1 then l.rawMib / 2 else l.rawMib / 2 + l.pageMib / 2

/-- The number of the 64-byte granule of an interleaved region at a bank, row of the region and column (R33). -/
def granNo (bank row col : Nat) : Nat := (row * 256 + col / 2 * 32 + bank % 32) * 128 + col % 2 * 64 + bank / 32

/-! ### Lanes (R258) -/

/-- Bytes of a lane. -/
def laneBytes (lane : Nat) : Nat := if lane = 1 then 1 else if lane = 4 then 4 else 2
/-- A two's complement value of n bits. -/
def signedOf (n v : Nat) : Int := if v < 2 ^ (n - 1) then v else (v : Int) - 2 ^ n
/-- A value clamped to n bits, with SAT. -/
def satInt (n : Nat) (x : Int) : Nat × Nat :=
  let hi : Int := 2 ^ (n - 1) - 1
  let lo : Int := -(2 ^ (n - 1))
  ((clampI lo hi x % 2 ^ n).toNat, if x < lo || hi < x then 1 else 0)
/-- The format of a floating lane. -/
def laneFmt (lane : Nat) : FFmt := if lane = 3 then fBF16 else fFP32
/-- The quiet NaN of a floating lane. -/
def laneNaN (lane : Nat) : Nat := if lane = 3 then 0x7FC0 else 0x7FC00000
/-- A total order key of a floating lane: −0 below +0, infinities at the ends. -/
def laneKey (f : FFmt) (c : Nat) : Int := if fNeg f c then -(fMag f c : Int) - 1 else fMag f c

/-- An exact finite result in a floating lane (R258): saturating, with SAT. -/
def laneRound (f : FFmt) (neg : Bool) (q : Rat) : Nat × Nat :=
  let r := fRound f .near true neg q
  (r, if fIsInf f (fRound f .near false neg q) then 1 else 0)

/-- ADD or MUL of a floating lane: the result and its flags (SAT 1, NAN 2). -/
def laneArith (lane : Nat) (mul : Bool) (a b : Nat) : Nat × Nat :=
  let f := laneFmt lane
  let inf := f.maxCode + 1
  let sign (n : Bool) : Nat := if n then 2 ^ (f.width - 1) else 0
  if fIsNan f a || fIsNan f b then (laneNaN lane, 2)
  else if mul then
    let neg := fNeg f a != fNeg f b
    if fIsInf f a || fIsInf f b then
      if fMag f a = 0 || fMag f b = 0 then (laneNaN lane, 2) else (inf + sign neg, 0)
    else laneRound f neg (fVal f a * fVal f b)
  else if fIsInf f a then if fIsInf f b && fNeg f a != fNeg f b then (laneNaN lane, 2) else (a, 0)
  else if fIsInf f b then (b, 0)
  else laneRound f (fNeg f a && fNeg f b && fMag f a == 0 && fMag f b == 0) (fVal f a + fVal f b)

/-- One lane of a class B operation: the result and its flags. -/
def laneOp (op lane lo hi a b : Nat) : Nat × Nat :=
  if lane ≤ 2 then
    let n := 8 * lane
    let x := signedOf n a
    let y := signedOf n b
    if op = 0x10 then satInt n (x + y) else if op = 0x11 then satInt n (x * y)
    else if op = 0x12 then satInt n (max x y)
    else if op = 0x13 then satInt n (min (max x (signedOf n lo)) (signedOf n hi))
    else satInt n (max x 0)
  else
    let f := laneFmt lane
    let big (u v : Nat) : Nat := if laneKey f u < laneKey f v then v else u
    let small (u v : Nat) : Nat := if laneKey f v < laneKey f u then v else u
    if op = 0x10 || op = 0x11 then laneArith lane (op == 0x11) a b
    else if fIsNan f a || (op = 0x12 && fIsNan f b) then (laneNaN lane, 2)
    else if op = 0x12 then (big a b, 0)
    else if op = 0x13 then (small (big a lo) hi, 0)
    else (big a 0, 0)

/-- A column of 64 bytes under a class B operation. -/
def columnB (op lane lo hi : Nat) (a b : List Byte) : List Byte × Nat :=
  let w := laneBytes lane
  let res := (List.range (64 / w)).map (fun i => laneOp op lane lo hi (leAt a (i * w) w) (leAt b (i * w) w))
  (res.flatMap (fun r => toLe w r.1), res.foldl (fun m r => Nat.lor m r.2) 0)

/-- A column of 64 bytes under a bitwise operation. -/
def columnA (op : Nat) (a b : List Byte) : List Byte :=
  (a.zip b).map (fun x => if op = 3 then x.1 &&& x.2 else if op = 4 then x.1 ||| x.2 else if op = 5 then x.1 ^^^ x.2 else x.1 &&& ~~~x.2)

/-! ### Executing an element (R259, R262) -/

/-- The key under which the page region's granule g of a cell is kept. -/
def pageGranKey (c g : Nat) : Nat := granKey c (g / 128) (g % 128)

/-- A filled granule: the bytes as stored, of no tweak, its words of the classes that data and check lanes make (R40). -/
def fillGran (e : Elem) : Granule := { data := e.fill, kind := 255, cls := granClasses e.fill e.check }

/-- What a ROWCOPY takes from a granule of the metadata region: the granule as it is stored, its word classes with it (R56, R259). -/
def metaSrc (s : State) (c g : Nat) : Granule := { metaGran s c g with cls := metaClsOf (cell s c) g }

/-- An element runs (R257): its effect on the rows, and its flags. Every source is read before a destination is written. -/
def runElement (c bank : Nat) (e : Elem) (s : State) : State × Nat :=
  let l := (part s (cellOwner s c)).layout
  let reg := rowRegion l e.rowD
  let cols := List.range e.ncol
  if reg = 0 then
    let rd (row col : Nat) : List Byte := rawRead s.raw (rawKey c bank row (64 * col)) 64
    let out := cols.map (fun i =>
      let d := e.colD + i
      if e.op = 1 then (d, rd e.rowA (e.colA + i), 0)
      else if e.op = 2 then (d, e.fill, 0)
      else if e.op < 0x10 then (d, columnA e.op (rd e.rowA d) (rd e.rowB d), 0)
      else let r := columnB e.op e.lane e.lo e.hi (rd e.rowA d) (rd e.rowB d)
        (d, r.1, r.2))
    (out.foldl (fun s x => putRaw (rawKey c bank e.rowD (64 * x.1)) x.2.1 s) s, out.foldl (fun m x => Nat.lor m x.2.2) 0)
  else
    let base := regionRow l reg
    let dst (i : Nat) : Nat := granNo bank (e.rowD - base) (e.colD + i)
    if reg = 1 then
      let src := cols.map (fun i => if e.op = 1 then gran s (pageGranKey c (granNo bank (e.rowA - base) (e.colA + i))) else fillGran e)
      (src.zipIdx.foldl (fun s x => setGran (pageGranKey c (dst x.2)) x.1 s) s, 0)
    else if reg = 2 then
      let src := cols.map (fun i => if e.op = 1 then metaSrc s c (granNo bank (e.rowA - base) (e.colA + i)) else fillGran e)
      (src.zipIdx.foldl (fun s x => putMeta c (dst x.2) { x.1 with cls := [] } x.1.cls s) s, 0)
    else (s, 0)

/-! ### BANK_OP (R263, R264) -/

/-- Element i of a BANK_OP, with what its command shares; its cell and bank first. -/
def elemAt (b : List Byte) (i : Nat) : Nat × Nat × Elem :=
  let x := slice b (0x60 + 16 * i) 16
  (u8 x 0, u16 x 2, { op := u8 x 1, rowA := u16 x 4, rowB := u16 x 6, rowD := u16 x 8, colA := u8 x 0xA, colD := u8 x 0xB, ncol := u8 x 0xC
                      lane := u8 x 0xD, lo := u32 b 8, hi := u32 b 0xC, fill := slice b 0x10 64, check := slice b 0x50 16, index := i })

/-- The operation uses source A; source B. -/
def usesA (op : Nat) : Bool := op != 2
/-- The operation uses source B. -/
def usesB (op : Nat) : Bool := (3 ≤ op && op ≤ 6) || (0x10 ≤ op && op ≤ 0x12)

/-- Order 3 of R264 for an element. -/
def elemBad (b : List Byte) (i : Nat) : Bool :=
  let x := slice b (0x60 + 16 * i) 16
  let (_, bank, e) := elemAt b i
  let known := (1 ≤ e.op && e.op ≤ 6) || e.op == 8 || (0x10 ≤ e.op && e.op ≤ 0x14)
  let nan (c : Nat) : Bool := if e.lane ≤ 2 then false else fIsNan (laneFmt e.lane) (c % 2 ^ (laneFmt e.lane).width)
  let key (c : Nat) : Int := if e.lane ≤ 2 then signedOf (8 * max 1 e.lane) (c % 2 ^ (8 * max 1 e.lane)) else laneKey (laneFmt e.lane) (c % 2 ^ (laneFmt e.lane).width)
  !known || 2047 < bank || u16 x 0xE ≠ 0 || (
    e.ncol = 0 || 16 < e.colD + e.ncol || 16 < e.colA + e.ncol || 15 < e.colA || 15 < e.colD ||
    (0x10 ≤ e.op && (e.lane = 0 || 4 < e.lane)) || (e.op < 0x10 && e.lane ≠ 0) || (e.op ≠ 1 && e.colA ≠ e.colD) ||
    (e.op = 0x13 && (nan e.lo || nan e.hi || key e.hi < key e.lo ||
      (e.lane ≤ 3 && (2 ^ (8 * laneBytes e.lane) ≤ e.lo || 2 ^ (8 * laneBytes e.lane) ≤ e.hi)))) ||
    40959 < e.rowA || 40959 < e.rowB || 40959 < e.rowD ||
    (e.op ≠ 8 && ((!usesA e.op && e.rowA ≠ 0) || (!usesB e.op && e.rowB ≠ 0))))

/-- Order 6 of R264 for an element: rows of one region, none marked Node only, FILL_CHECK zero in the raw region. -/
def elemRegion (s : State) (c : Cmd) (e : Elem) : Bool :=
  let p := c.part
  let l := (part s p).layout
  let rows := e.rowD :: ((if usesA e.op then [e.rowA] else []) ++ (if usesB e.op then [e.rowB] else []))
  let reg := rowRegion l e.rowD
  let user := rawRows s p - heldSetting c 0x30 0 [0]
  rows.any (fun r => rowRegion l r != reg) || (reg = 0 && rows.any (fun r => r < user)) ||
    (3 ≤ reg && e.op ≤ 2) || (reg = 0 && e.op = 2 && !allZero e.check)

/-- The lowest element that meets a condition. -/
def firstElem (n : Nat) (f : Nat → Bool) : Option Nat := (List.range n).find? f

/-- The state with a BANK_OP changed. -/
def modOp (p op : Nat) (f : BankOp → BankOp) (s : State) : State := modPart p (fun v => { v with ops := tmod v.ops op f }) s

/-- Every element of a BANK_OP that has not finished yet has ended. -/
def opEnded (o : BankOp) : Bool := !o.finished && decide (o.total ≤ o.done + o.dropped + o.lost)

/-- A BANK_OP whose last element has ended completes, or leaves its record (R264, R269, R270). -/
def postOp (p op : Nat) (s : State) : State :=
  match tget? (part s p).ops op with
  | none => s
  | some o =>
    if !opEnded o then s
    else
      let st := if o.cancelled then stCancelled else if 0 < o.lost then stUnavail else stOk
      let det := if st = stUnavail then o.lost else 0
      let ret := toLe 4 op ++ toLe 2 o.done ++ toLe 1 o.flags
      if o.mode = 1 && o.released then modPart p (fun v => { v with ops := tdel v.ops op }) { s with ctxs := tdel s.ctxs o.ctx }
      else if o.mode = 1 then
        let s := { s with ctxs := tdel s.ctxs o.ctx }
        modOp p op (fun o => { o with finished := true, status := st, detail := det, endAt := if o.endAt = 0 then now s else o.endAt }) s
      else
        let s := modPart p (fun v => { v with ops := tdel v.ops op }) s
        match o.cmd with
        | some id => conclude id { status := st, detail := det, ret := ret } s
        | none => s

/-- What follows the end of an element. While control firmware restarts, an op that has ended keeps its reply or record until firmware
runs again (R271). -/
def endOp (p op : Nat) (s : State) : State :=
  if s.node.restart.isSome then modOp p op (fun o => if opEnded o then { o with endAt := now s } else o) s
  else postOp p op s

/-- The replies and records of a partition's ops that have ended (R271). -/
def postOps (p : Nat) (s : State) : State := ((part s p).ops.map (·.1)).foldl (fun s o => postOp p o s) s

/-- A bank may execute the element at the head of its queue: no sweep covers it, or the element came before the sweep (R265). -/
def bankFree (s : State) (c bank : Nat) : Bool :=
  let v := cell s c
  match v.sweeping with
  | none => true
  | some i =>
    (tget? (part s (cellOwner s c)).batches i).elim true (fun b => !sweepCovers (part s (cellOwner s c)).match_ b bank) ||
      decide (0 < tget 0 v.sweepAhead bank)

/-- A cell's bank queues with the elements kept that `keep` picks and the first `run` of each bank, which runs; those that came before a
sweep are counted anew. -/
def cutBanks (run : Nat → Nat) (keep : Elem → Bool) (v : Cell) : Cell :=
  let cut (bank : Nat) (l : List Elem) : List Elem := l.take (run bank) ++ (l.drop (run bank)).filter keep
  { v with
    banks := (v.banks.map (fun b => (b.1, cut b.1 b.2))).filter (fun b => !b.2.isEmpty)
    sweepAhead := (v.sweepAhead.map (fun a => (a.1, (cut a.1 ((tget [] v.banks a.1).take a.2)).length))).filter (fun a => a.2 != 0) }

/-- Elements of an op that have not started are dropped; the one running in each bank finishes (R270). -/
def cancelOp (p op : Nat) (s : State) : State :=
  let cut (c : Nat) : Cell → Cell := cutBanks (fun bank => if bankFree s c bank && cellUp s c then 1 else 0) (fun e => e.opId != op)
  let count (s : State) : Nat := sumBy (partCells s p) (fun c => sumBy (cell s c).banks (fun b => (b.2.filter (fun e => e.opId == op)).length))
  let before := count s
  let s := (partCells s p).foldl (fun s c => modCell c (cut c) s) s
  endOp p op (modOp p op (fun o => { o with cancelled := true, dropped := o.dropped + (before - count s) }) s)

/-- The elements of BANK_OPs that a cell holds are not executed: each counts in its op (R270). -/
def loseOps (c : Nat) (s : State) : State :=
  let p := cellOwner s c
  let els := ((cell s c).banks.flatMap (·.2)).filter (fun e => e.add.isNone)
  let s := modCell c (cutBanks (fun _ => 0) (fun e => e.add.isSome)) s
  let s := els.foldl (fun s e => modOp p e.opId (fun o => { o with lost := o.lost + 1 }) s) s
  (els.map (·.opId)).eraseDups.foldl (fun s o => endOp p o s) s

/-- What elements that a BANK_OP has queued on a cell meet (R270): a stack in self-refresh is woken as for any access, and they wait; of a
cell that is powered down, or counts as such from R411 on, they are not executed (log 109). -/
def meetCell (c : Nat) (s : State) : State :=
  let w := (cell s c).pwr
  if w.st = 2 then leaveCellOff c (if w.prev = 1 then 1 else 0) w.askMhz none s
  else if w.st = 3 || w.st = 5 then loseOps c s else s

/-- BANK_OP: all elements checked before any is queued. -/
def cmdBankOp : Handler := fun id c s =>
  let b := c.block
  let p := c.part
  let n := u16 b 0
  let mode := u8 b 2
  let e (i : Nat) := elemAt b i
  if 64 ≤ ((part s p).ops.filter (fun o => !o.2.finished)).length then (s, some (err stBusy))
  else if (partCells s p).isEmpty then (s, some (err stUnavail))
  else if n = 0 || 4096 < n || 1 < mode || !zeroIn b 3 8 || b.length ≠ 0x60 + 16 * n then (s, some (err stInvalid))
  else if (u32 b 8 ≠ 0 || u32 b 0xC ≠ 0) && !(List.range n).any (fun i => (e i).2.2.op == 0x13) then (s, some (err stInvalid))
  else match firstElem n (elemBad b) with
  | some i => (s, some (err stInvalid i))
  | none =>
    match firstElem n (fun i => (e i).1 ∉ partCells s p) with
    | some i => (s, some (err stNotFound i))
    | none =>
      match firstElem n (fun i => (e i).2.2.op == 8) with
      | some i => (s, some (err stUnsupported i))
      | none =>
        match firstElem n (fun i => elemRegion s c (e i).2.2) with
        | some i => (s, some (err stInvalid i))
        | none =>
          match firstElem n (fun i => 3 ≤ (e i).2.2.op && rowRegion (part s p).layout (e i).2.2.rowD ≠ 0) with
          | some i => (s, some (err stProtected i))
          | none =>
            let op := nextOpId s
            let ctx := c.ctx.getD 0
            let s := modNode (fun v => { v with nextOp := v.nextOp + 1 }) s
            let s := (List.range n).foldl (fun s i =>
              let (ce, bank, el) := e i
              modCell ce (fun v => { v with banks := tset v.banks bank (tget [] v.banks bank ++ [{ el with opId := op, queuedAt := now s }]) }) s) s
            let o : BankOp := { mode := mode, cmd := some id, ctx := ctx, total := n }
            let s := modPart p (fun v => { v with ops := tset v.ops op o }) s
            let s := if mode = 1 then
                modPart p (fun v => { v with ops := tmod v.ops op (fun o => { o with cmd := none }) }) (complete id (okRet (toLe 4 op)) s)
              else s
            (((List.range n).map (fun i => (e i).1)).dedup.foldl (fun s k => meetCell k s) s, none)

/-- BANK_OP. -/
def execBankOp (src : Source) (pkt : Packet) (s : State) : Host.Outcome State Fault Refusal :=
  .next (submitOp 0x0401 src pkt cmdBankOp s)

/-- The element that now stands at the head of a queue has waited there from this moment. -/
def headAt (t : Nat) : List Elem → List Elem
  | [] => []
  | e :: es => { e with queuedAt := t } :: es

/-- One element fewer stands before the sweep in a bank. -/
def stepAhead (bank : Nat) (t : Tab Nat) : Tab Nat := if tget 0 t bank ≤ 1 then tdel t bank else tset t bank (tget 0 t bank - 1)

/-- The element at the head of a bank's queue runs (R265). -/
def bankStep (c bank : Nat) (s : State) : State :=
  let p := cellOwner s c
  match tget [] (cell s c).banks bank with
  | [] => s
  | e :: rest =>
    if s.dbg.frozen || !cellUp s c && (cell s c).pwr.st ≠ 5 || !bankFree s c bank then s
    else
      let (s, fl) := runElement c bank e s
      let s := modCell c (fun v => { v with
        banks := if rest.isEmpty then tdel v.banks bank else tset v.banks bank (headAt (now s) rest)
        sweepAhead := stepAhead bank v.sweepAhead }) s
      match e.add with
      | some (q, gs, serial) =>
        let s := modCell c (fun v => { v with incDone := v.incDone ++ [(e.opId, bank, e.rowB)] }) s
        if (cell s c).banks.any (fun b => b.2.any (fun x => x.add.isSome && x.opId == e.opId)) then s
        else
          let s := modCell c (fun v => { v with
            incRows := (v.incDone.filter (fun x => x.1 == e.opId)).foldl (fun t x => tset t x.2.1 ((tget [] t x.2.1).erase x.2.2)) v.incRows
            incDone := v.incDone.filter (fun x => x.1 != e.opId) }) s
          modGset q gs (fun g => if g.serial = serial then { g with adds := g.adds - 1, done := g.done + 1 } else g) s
      | none => endOp p e.opId (modOp p e.opId (fun o => { o with done := o.done + 1, flags := Nat.lor o.flags fl }) s)

/-- BANK_ELEMENT_DONE (R265): the element at the head of a bank's queue has run. -/
def execBankElementDone (c bank : Nat) (s : State) : Host.Outcome State Fault Refusal := .next (bankStep c bank s)

/-- ELEMENT_WAIT_EXPIRY (R266): an element that has waited 2 µs at the head of its bank's queue takes the bank before any access
that arrives after this moment. -/
def execElementWaitExpiry (c bank : Nat) (s : State) : Host.Outcome State Fault Refusal :=
  .next (
    match tget [] (cell s c).banks bank with
    | [] => s
    | e :: rest =>
      if s.dbg.frozen || !cellUp s c || now s < e.queuedAt + 2 then s
      else modCell c (fun v => { v with banks := tset v.banks bank ({ e with first := true } :: rest) }) s)

/-- An access that arrives at a bank: an element that took the bank before it runs first (R266). -/
def bankAccess (c bank : Nat) (s : State) : State :=
  if ((tget [] (cell s c).banks bank).head?.map (·.first)).getD false then bankStep c bank s else s

/-- The bank of a granule of an interleaved region (R33). -/
def granBank (g : Nat) : Nat := g / 128 % 32 + 32 * (g % 64)

/-- Accesses that arrive at a cell's banks for granules of a page: an element that took one of the banks before runs first (R266). -/
def pageAccess (c : Nat) (grans : List Nat) (s : State) : State :=
  (((cell s c).banks.filter (fun b => (b.2.head?.map (·.first)).getD false)).map (·.1)).foldl (fun s b =>
    if grans.any (fun g => granBank g == b) then bankStep c b s else s) s

/-- The fetch of a page from the stack arrives at the banks of the granules that it reads (R22, R266); a lent page and one held in T1 are
read elsewhere. -/
def fetchAccess (c : Nat) (ht : HTok) (pl : Place) (s : State) : State :=
  if isLent pl.handle || inT1 s pl.handle then s
  else pageAccess c ((fetchGrans (walkRec s pl.handle) (walkCls s pl.handle) (min 64 ((ctxOf s ht.tok.ctx).len - 64 * pl.page))).map
    (fun g => 128 * hSlot pl.handle + g)) s

/-- PAGE_FETCH_DONE (R22, R41, R266): the fetch reads its page once the banks that it needs are its own. -/
def execPageFetchDone (c core place inc : Nat) (s : State) : Host.Outcome State Fault Refusal :=
  .next (match placeOwner (coreOf (cell s c) core) place with
    | none => fetchDone c core place inc s
    | some (_, ht, pl) => fetchDone c core place inc (fetchAccess c ht pl s))

/-- BANK_OPSTAT (R269, R322). -/
def cmdBankOpstat : Handler := fun _ c s =>
  let p := c.part
  let op := u32 c.block 0
  let fl := u8 c.block 4
  if !blockIs c 5 || 1 < fl then (s, some (err stInvalid))
  else if op = 0 then
    (s, some (okRet (zeros 10 ++ toLe 2 ((part s p).ops.filter (fun o => !o.2.finished)).length)))
  else match tget? (part s p).ops op with
  | none => (s, some (err stNotFound))
  | some o =>
    if o.mode = 0 || o.released then (s, some (err stNotFound)) else
    let busy := sumBy (partCells s p) (fun k => ((cell s k).banks.filter (fun b => b.2.any (fun e => e.opId == op))).length)
    let runs := 0 < o.done || (partCells s p).any (fun k => cellUp s k && (cell s k).banks.any (fun b =>
      (b.2.head?.map (·.opId)) == some op && bankFree s k b.1))
    let drop (t : Tab BankOp) : Tab BankOp := if o.finished then tdel t op else tmod t op (fun o => { o with released := true })
    let s := if fl = 1 then modPart p (fun v => { v with ops := drop v.ops }) s else s
    (s, some (okRet (toLe 1 (if o.finished then 2 else if runs then 1 else 0) ++ toLe 1 o.flags ++
      toLe 2 (if o.finished then o.status else 0) ++ toLe 2 (if o.finished then o.detail else 0) ++ toLe 2 o.done ++ toLe 2 busy)))

/-- BANK_OPSTAT. -/
def execBankOpstat (src : Source) (pkt : Packet) (s : State) : Host.Outcome State Fault Refusal :=
  .next (submitOp 0x0402 src pkt cmdBankOpstat s)

/-- OP_RECORD_EXPIRY (R269): a record goes 10 s after the last element ended. -/
def execOpRecordExpiry (p op : Nat) (s : State) : Host.Outcome State Fault Refusal :=
  .next (if !nodeLive s then s else match tget? (part s p).ops op with
    | some o => if o.finished && o.endAt + 10000000 ≤ now s then modPart p (fun v => { v with ops := tdel v.ops op }) s else s
    | none => s)

/-! ### CANCEL and DEADLINE_EXPIRY (R28, R145, R270, R286) -/

/-- A search gives up its place in batches and the cursors it reserved. -/
def releaseSearch (i : Nat) (s : State) : State :=
  let x := ctxOf s i
  modPart x.part (fun v => { v with
    cursors := v.cursors.filter (fun e => !(e.2.reserved && e.1 ∈ x.search.cursors))
    batches := v.batches.map (fun e => (e.1, if e.2.closed then
        { e.2 with keys := e.2.keys.map (fun k => if k.ctx = i then { k with ctx := 2 ^ 32 } else k) }
      else { e.2 with keys := e.2.keys.filter (fun k => k.ctx != i) })) }) s

/-- A search's batch has reached the cells. -/
def searchSwept (s : State) (i : Nat) : Bool :=
  (part s (ctxOf s i).part).batches.any (fun e => e.2.closed && e.2.keys.any (fun k => k.ctx == i))

/-- An accepted command ends without its effect: CANCELLED, TIMEOUT, INTERNAL, or for a lost issuer. What it holds of
units, sets, queues and batches goes back. -/
def abortCmd (id : Nat) (r : Reply) (s : State) : State :=
  match tget? s.cmds id with
  | none => s
  | some c =>
    let s := (part s c.part).seqs.foldl (fun s e => modSeq c.part e.1 (fun q => { q with waiting := q.waiting.filter (· != id) }) s) s
    match c.ctx with
    | some i =>
      if c.held then conclude id r s
      else if c.opcode = 0x0201 || c.opcode = 0x0202 then endCtx i r s
      else if c.opcode = 0x0303 then conclude id r (releaseSearch i s)
      else if c.opcode = 0x0401 then
        match (part s c.part).ops.find? (fun o => o.2.cmd == some id) with
        | some o => cancelOp c.part o.1 s
        | none => conclude id r s
      else conclude id r s
    | none => conclude id r s

/-- An APPEND that is running has written, or its parts have been sent (R308). -/
def appendWritten (s : State) (c : Cmd) (id : Nat) : Bool :=
  c.opcode == 0x0103 && !c.held && !(part s c.part).seqs.any (fun e => id ∈ e.2.waiting)

/-- CANCEL (R286): by TAG, of its own source. -/
def cmdCancel : Handler := fun _ c s =>
  let tag := c.objectId % 2 ^ 32
  if 2 ^ 32 ≤ c.objectId || !blockIs c 0 then (s, some (err stInvalid))
  else match s.cmds.find? (fun e => e.2.src == c.src && e.2.tag == tag && e.2.opcode != 0x0206) with
  | none => (s, some (err stNotFound))
  | some (id, t) =>
    if !(isDataPath t.opcode || t.opcode == 0x0401) then (s, some (err stNotFound))
    else if appendWritten s t id then (s, some (err stConflict))
    else if t.opcode == 0x0303 && !t.held && (t.ctx.elim false (searchSwept s)) then (s, some (err stNotFound))
    else if t.opcode == 0x0201 && (t.ctx.elim false (fun i => (ctxOf s i).shipping)) then (s, some (err stNotFound))
    else (abortCmd id (err stCancelled) s, some (okRet []))

/-- CANCEL. -/
def execCancel (src : Source) (pkt : Packet) (s : State) : Host.Outcome State Fault Refusal :=
  .next (submitOp 0x0206 src pkt cmdCancel s)

/-- DEADLINE_EXPIRY (R145, R151): a request of which some query group has not reached the reply ends with TIMEOUT, one that
still waits behind FENCE too. A reply that has been handed to the transport engine is not affected. -/
def execDeadlineExpiry (ctx : Nat) (s : State) : Host.Outcome State Fault Refusal :=
  .next (if !nodeLive s then s else match tget? s.ctxs ctx with
    | none => s
    | some x => if (deadlineField (tget {} s.cmds x.cmd)).isSome && x.deadline ≠ 0 && x.deadline ≤ now s && !x.finished &&
          !(x.shipping && x.kind == 0x0201) then
        abortCmd x.cmd (err stTimeout) s else s)

end Sys2Proof.Machine
end

