-- ==== Sys2Proof/Machine/Fabric.lean ====
section
/-! DEFINITION. Members and their replies, leases, placement, mirrors and coding across nodes (chapter 08). -/

namespace Sys2Proof.Machine

/-! ### Members of a request (R209 to R212, R92) -/

/-- The home stops acting as home of a sequence (R217): its requests end with STALE_EPOCH, an edit that it has forwarded among them,
leases that it granted and its own are fenced. What it holds of a sequence in spans is a member's part from then on. -/
def loseHome (p job seq node epoch : Nat) (s : State) : State :=
  let fwd (w : Await) : Bool := (w.kind == 10 || w.kind == 11) && w.job == job && w.seq == seq
  let sent := ((part s p).awaits.filter fwd).filterMap (·.cmd)
  let mine := s.cmds.filter (fun e => e.2.part == p && !e.2.fabric && u32 e.2.block 0 == job && u48 e.2.block 4 == seq &&
    (e.2.opcode == 0x0201 || e.2.opcode == 0x0202 || e.2.opcode == 0x0103 || e.1 ∈ sent))
  let s := mine.foldl (fun s e => abortCmd e.1 (homeMoved node epoch) s) s
  let spread := (spanRecs s p job seq).any (fun e => e.2.owner != s.node.nodeId)
  modPart p (fun v => { v with
    awaits := v.awaits.filter (fun w => !fwd w)
    seqs := tmod v.seqs (seqKey job seq) (fun q => { q with member := q.member || spread })
    placeRecs := v.placeRecs.map (fun e => (e.1, if e.2.kind = 0x11 && e.2.job = job && e.2.seq = seq then { e.2 with holder := 0xFFFF, leaseEnd := 0 } else e.2))
    spans := v.spans.map (fun e => (e.1, if e.2.job = job && e.2.seq = seq then { e.2 with fenced := true } else e.2)) }) s

/-- A member has named a home of a greater HOME_EPOCH (R209): the node stops acting as home. -/
def depose (p job seq node epoch : Nat) (s : State) : State :=
  loseHome p job seq node epoch (modPart p (fun v => { v with
    deposed := v.deposed.filter (fun d => !(d.job == job && d.seq == seq)) ++ [{ job := job, seq := seq, node := node, epoch := epoch }] }) s)

/-- Pages of a neighbour's stubs saw committed use: their entries' ages become 0 (R92). The bytes after the rows, one per stub
in ascending position, say which. -/
def markUsed (handles : List Nat) (used : List Byte) (s : State) : State :=
  handles.zipIdx.foldl (fun s e => if (used.getD e.2 0) = 0 then s else
    modCell (hCell e.1) (fun c => { c with lends := tmod c.lends (hSlot e.1) (fun l => { l with age := 0 }) }) s) s

/-- A member's rows are accepted (R209). The reply's payload holds its RETURN and then its rows. -/
def acceptRows (i k status detail : Nat) (payload : List Byte) (s : State) : State :=
  let x := ctxOf s i
  let q : SubReq := tget {} x.subs k
  let rows := readRows x.r 0 (reqRows x.r) (payload.drop 16)
  let s := modCtx i (fun x => { x with
    subAttended := x.subAttended + u32 payload 0, skipped := if x.r.bwd then x.skipped else x.skipped + u32 payload 4
    subDetail := if status = stPoisoned then x.subDetail + detail else x.subDetail
    subUnavail := if status = stPartial then x.subUnavail + detail else x.subUnavail
    stopped := x.stopped || status == stPartial, progress := now s }) s
  if q.kind = 3 then
    neighbourDone i k (some rows) (markUsed q.handles (payload.drop (16 + reqRows x.r * partSize (reqDim x.r))) s)
  else
    pump (settle i (modCtx i (fun x => { x with
      subs := tmod x.subs k (fun q => { q with state := 1, bytes := payload.drop 16, came := x.arrivals + 1 })
      arrivals := x.arrivals + 1 }) s))

/-- The event that a member's outcome posts (R209): MEMBER_SUSPECT, PLACE_MISMATCH, or none. -/
def memberEvent (status detail : Nat) : Option Nat :=
  if status = stNotFound || status = stInvalid || status = stUnsupported then some 18
  else if status = stNoLease || (status = stStale && detail ≠ 1) || status = stBusy || status = stUnavail || status = stTimeout ||
      status = stInternal then some 17
  else none

/-- An owner's part whose reply reports that its mirror failed: the home clears MIRROR_SYNC and posts MIRROR_LOST (R216). -/
def mirrorReport (p job seq span status detail : Nat) (s : State) : State :=
  if status = stOk && detail = 1 then (spanRec s p job seq span).elim s (fun e => mirrorLost p e.1 e.2 s) else s

/-- What this node asked of others for a command and a span is no longer awaited. -/
def unawait (p id kind span : Nat) (s : State) : State :=
  modPart p (fun v => { v with awaits := v.awaits.filter (fun w => !(w.kind == kind && w.cmd == some id && w.span == span)) }) s

/-- The reply, if there is one, that ends a command. -/
def partEnds (id : Nat) (r : Option Reply) (s : State) : State :=
  match r with
  | some r => conclude id r s
  | none => s

/-- The part of a distributed APPEND that a member has answered (R209, R214): the next part runs, or the command ends with the
member's status. A member that is ahead of the record is met with the record read again: where it has changed, the part runs again from
its first token (R209). -/
def partReply (id span status detail : Nat) (ret : List Byte) (s : State) : State :=
  let c : Cmd := tget {} s.cmds id
  let job := u32 c.block 0
  let seq := u48 c.block 4
  let sub : SubReq := tget {} (ctxOf s (c.ctx.getD 0)).subs span
  let s := mirrorReport c.part job seq span status detail (unawait c.part id 1 span s)
  if status = stStale && detail = 3 && (spanRec s c.part job seq span).elim false (fun e => e.2.owner != sub.node || e.2.epoch != sub.epoch) then
    let (s, r) := runParts id c 66 ((appendArg c.block).first + sub.tag + sub.tries) sub.tag sub.tries s
    partEnds id r s
  else if status = stOk then
    match partDone id span (some (u32 ret 4, u32 ret 8)) s with
    | (s, some r) => conclude id r s
    | (s, none) => s
  else if status = stStale && detail = 1 then depose c.part job seq (u16 ret 0) (u64 ret 8) s
  else
    let node := ((ctxOf s (c.ctx.getD 0)).subs.find? (fun e => e.1 == span)).elim 0xFFFF (·.2.node)
    let s := (memberEvent status detail).elim s (fun code => postEvent code c.part 0 (memberData node job seq span) s)
    conclude id { status := status, detail := detail, ret := ret } s

/-- MEMBER_REPLY (R209). A sub-request that no longer waits drops its late reply (R210). -/
def memberReply (i k status detail : Nat) (payload : List Byte) (s : State) : State :=
  match tget? s.ctxs i with
  | none => s
  | some x =>
    match tget? x.subs k with
    | none => s
    | some q =>
      if x.kind = 0x0103 then partReply x.cmd k status detail payload s
      else if q.state ≠ 0 || q.kind = 4 then s
      else if status = stOk || status = stPartial || status = stPoisoned then
        if payload.length < 16 + reqRows x.r * partSize (reqDim x.r) then reissue i k (postMember 17 i k s)
        else acceptRows i k status detail payload s
      else if status = stStale && detail = 1 then depose x.part x.r.job x.r.seq (u16 payload 0) (u64 payload 8) s
      else if status = stNotFound || status = stInvalid || status = stUnsupported then
        let s := postMember 18 i k s
        let theirs := q.handles.filterMap (fun h => (lendOf s h).map (·.handle))
        let s := if status = stNotFound && q.kind = 3 then
          loseLent x.part q.node (fun e => e.conn == q.conn && e.handle ∈ theirs) s else s
        if q.kind = 3 then neighbourDone i k none s else spanFailed i k s
      else
        match (spanRecs s x.part x.r.job x.r.seq).find? (fun e => e.2.span == q.span) with
        | some (_, r) =>
          if status = stStale && detail = 3 && q.kind = 0 && !q.again && !x.r.bwd && (r.owner ≠ q.node || r.epoch ≠ q.epoch) then
            sendSub i k { q with node := r.owner, epoch := r.epoch, again := true } (remaining s x - 50) s
          else reissue i k (postMember 17 i k s)
        | none => reissue i k (postMember 17 i k s)

/-- MEMBER_REPLY. -/
def execMemberReply (ctx sub status detail : Nat) (payload : List Byte) (s : State) : Host.Outcome State Fault Refusal :=
  .next (if !nodeLive s then s else memberReply ctx sub status detail payload s)

/-- MEMBER_SUSPECT of the node that has not answered a part of an APPEND within MEMBER_WAIT (R209). R210 re-issues no APPEND: the part goes
on waiting for its answer or for the end of its connection, a DESIGN CHOICE (log 114). -/
def partSuspect (i k : Nat) (x : Ctx) (q : SubReq) (s : State) : State :=
  let b := (tget {} s.cmds x.cmd : Cmd).block
  postEvent 17 x.part 0 (memberData q.node (u32 b 0) (u48 b 4) q.span)
    (modCtx i (fun x => { x with subs := tmod x.subs k (fun q => { q with asked := false }) }) s)

/-- MEMBER_WAIT_EXPIRY (R209, R210): no reply by the sub-request's deadline. -/
def execMemberWaitExpiry (ctx sub : Nat) (s : State) : Host.Outcome State Fault Refusal :=
  .next (if !nodeLive s then s else match tget? s.ctxs ctx with
    | none => s
    | some x =>
      match tget? x.subs sub with
      | none => s
      | some q =>
        if q.state = 0 && q.kind ≤ 2 && !q.again && x.kind ≠ 0x0103 && q.sentAt + min (memberWait s x) ((x.deadline - q.sentAt) / 2) ≤ now s then
          reissue ctx sub (postMember 17 ctx sub s)
        else if x.kind = 0x0103 && q.kind = 1 && q.asked && q.sentAt + memberWait s x ≤ now s then partSuspect ctx sub x q s
        else s)

/-- SPAN_DEADLINE_EXPIRY (R210): 50 µs before the request's deadline. A node that has not answered what was sent to it last posts
MEMBER_SUSPECT, a lending neighbour too (R92, R209). -/
def execSpanDeadlineExpiry (ctx sub : Nat) (s : State) : Host.Outcome State Fault Refusal :=
  .next (if !nodeLive s then s else match tget? s.ctxs ctx with
    | none => s
    | some x =>
      match tget? x.subs sub with
      | none => s
      | some q =>
        if q.state = 0 && q.kind ≠ 4 && x.kind ≠ 0x0103 && x.deadline ≤ now s + 50 then
          let s := if q.asked then postMember 17 ctx sub s else s
          (if q.kind = 3 then neighbourDone ctx sub none s else spanFailed ctx sub s)
        else s)

/-! ### What a member serves (R208, R216, R225, R92) -/

/-- A write-through: only from the record's owner, at an epoch not below the highest applied (R216); in its turn among the edits
and extensions of the mirror's map (R71). -/
def cmdWriteThrough : Handler := fun id c s =>
  let p := c.part
  let a := appendArg c.block
  let job := u32 c.block 0
  let seq := u48 c.block 4
  let peer := match c.src with
    | .conn id => (connOf s (id % 65536)).peerNode
    | _ => 0xFFFF
  if (partCells s p).isEmpty || (poolCells s p).isEmpty then (s, some (err stUnavail))
  else
    let s := meetCmd c job seq s
    match homeBehind s c job seq with
    | some r => (s, some r)
    | none =>
      match seqOf s p a.key, spanSt s p job seq true with
      | some q, some (i, x) =>
        let hi := a.first + a.n
        if (spanRec s p job seq (extSpan c)).elim true (fun e => e.2.owner != peer) || extEpoch c < x.stream then (s, some (err stStale 2))
        else if !appendOk q c then (s, some (err stInvalid))
        else if mustQueue q c || cutBlocks s p q a.layer (max a.first (seqLen q a.layer)) hi then (queueEdit p a.key id s, none)
        else if max (seqLen q a.layer) (spanFloor s c job seq) < a.first then (s, some (err stInvalid))
        else
          match appendRun p q c a.first hi s with
          | (.error e, s) => (s, some e)
          | (.ok (w, m), s) => (modSpan p i (fun x => { x with stream := extEpoch c }) s, some (appendRet s p a.key a.layer w m))
      | none, _ => (s, some (err stNotFound))
      | _, none => (s, some (err stNoLease (extSpan c)))

/-- APPEND as it arrives: a write-through under ROLE 1, else the command itself. -/
def cmdAppendAny : Handler := fun id c s => if c.fabric && extRole c = 1 then cmdWriteThrough id c s else cmdAppend id c s

/-- WRITE_THROUGH (R216). -/
def execWriteThrough (src : Source) (pkt : Packet) (s : State) : Host.Outcome State Fault Refusal :=
  .next (submitOp 0x0103 src pkt cmdAppendAny s)

/-- The lent pages that a ROLE 3 sub-request names (R92): the handles after its parameter block (log 88). -/
def namedPages (r : Req) (b : List Byte) : List Nat :=
  let n := attendLen r
  (List.range ((b.length - n) / 4)).map (fun i => u32 b (n + 4 * i))

/-- A neighbour's part of a walk over the named pages that the sender's partition has lent to this one (R92), in place of a map;
none where one of them is not held. -/
def lentMap (s : State) (p node opart job seq : Nat) (hs : List Nat) : Option (Tab Nat) :=
  hs.foldl (fun (t : Option (Tab Nat)) h =>
    match t, lentOf s h with
    | some t, some x =>
      if x.ownerNode = node && x.ownerPart = opart && x.r.job = job && x.r.seq = seq && hCell h ∈ partCells s p && hCls h = x.cls then
        some (tset t (posKey x.r.layer x.r.kvHead x.r.pageIndex) (lentMark + h))
      else none
    | _, _ => none) (some [])

/-- What pages alone show of the sequence that a request names: a node without its root takes the shape from their records, of its KV heads
those that the request asks for (R92, R183, R229). -/
def pagesSeq (s : State) (r : Req) (map : Tab Nat) : Seq :=
  let one := (map.head?.map (fun e => walkRec s e.2)).getD {}
  { job := r.job, seq := r.seq, format := one.format, dim := one.dim, layers := 504, kvHeads := (reqKvs r).foldl max 0 + 1
    scaling := one.scaling, kComp := one.kComp, vComp := one.vComp, map := map }

/-- ROLE 3: the lent pages of a sequence that the sub-request names are attended with the same parameters. -/
def cmdNeighbour : Handler := fun _ c s =>
  let p := c.part
  let job := u32 c.block 0
  let seq := u48 c.block 4
  let cv := match c.src with
    | .conn id => connOf s (id % 65536)
    | _ => {}
  let r := attendReq c.block
  let hs := namedPages r c.block
  let s := meetCmd c job seq s
  if (partCells s p).isEmpty then (s, some (err stUnavail))
  else match homeBehind s c job seq with
  | some r => (s, some r)
  | none =>
    match lentMap s p cv.peerNode cv.peerPart job seq hs with
    | none => (s, some (err stNotFound))
    | some map =>
      let q := pagesSeq s r map
      if map.isEmpty then (s, some (err stNotFound))
      else if !attendOk s p q r (c.block.take (attendLen r)) then (s, some (err stInvalid))
      else if attendRefused r then (s, some (err stUnsupported))
      else match c.ctx with
      | none => (s, some (err stBusy))
      | some i =>
        let r := subReq c
        let s := modCtx i (fun x => { x with named := hs }) s
        (startRequest i c r q (walkMap q r r.keyHi) (min r.keyHi 4194304) [] [] [] 0 s, none)

/-! ### Coding and reconstruction (R226 to R229) -/

/-- Doubling in GF(2^8) with polynomial 0x11D. -/
def gfDouble (a : Nat) : Nat := if 128 ≤ a then Nat.xor (2 * a - 256) 0x1D else 2 * a
/-- Multiplication in GF(2^8) (R227). -/
def gfMul (a b : Nat) : Nat := (List.range 8).foldl (fun acc i =>
  if bitOf b i then Nat.xor acc ((List.range i).foldl (fun x _ => gfDouble x) a) else acc) 0
/-- α to a power. -/
def gfPow (n : Nat) : Nat := (List.range n).foldl (fun x _ => gfDouble x) 1
/-- The inverse: a^254. -/
def gfInv (a : Nat) : Nat := (List.range 254).foldl (fun x _ => gfMul x a) 1
/-- A stream's bytes times a constant. -/
def gfScale (k : Nat) (b : List Byte) : List Byte := b.map (fun x => BitVec.ofNat 8 (gfMul k x.toNat))
/-- The bytewise sum of two streams, the shorter extended with zeros (R226). -/
def xorBytes (a b : List Byte) : List Byte :=
  (List.range (max a.length b.length)).map (fun i => a.getD i 0 ^^^ b.getD i 0)

/-- The ordinal in its span's stream of a position; `pages` is the span's pages per layer and KV head (R226). -/
def streamPos (kvHeads pages first pos : Nat) : Nat := (posLayer pos * kvHeads + posKv pos) * pages + (posPage pos - first)

/-- The key of a parity page of a group. -/
def parityKey (group pos : Nat) : Nat := group * 2 ^ 32 + pos

/-- The parity members that a record names. -/
def parityNodes (r : PlaceRec) : List Nat := [r.parity0, r.parity1].filter (· != 0xFFFF)

/-- CODE_BUILDING replaced with CODED in the records of a group that satisfy a condition (R228). -/
def setCoded (p : Nat) (done : PlaceRec → Bool) (s : State) : State :=
  modPart p (fun v => { v with placeRecs := v.placeRecs.map (fun e => (e.1,
    if done e.2 then { e.2 with flags := setBit (clearBit e.2.flags 3) 2 } else e.2)) }) s

/-- A span record of a group that is being coded. -/
def building (group : Nat) (r : PlaceRec) : Bool := r.kind == 0x11 && r.codeGroup == group && bitOf r.flags 3

/-- The home replaces CODE_BUILDING with CODED in a group's records when all streams are complete at every parity member, and tells the
group's other nodes, whose own records follow (R228; the form is log 90's). -/
def markCoded (p group : Nat) (s : State) : State :=
  let done (r : PlaceRec) : Bool := building group r && isHome s p r.job r.seq &&
    (parityNodes r).all (fun n => if n = s.node.nodeId then decide (r.codeK ≤ r.codedStreams.length) else n ∈ r.codedBy)
  let whole := (tvals (part s p).placeRecs).filter done
  let others := (whole.flatMap (fun r => r.owner :: parityNodes r)).dedup.filter (· != s.node.nodeId)
  (others.filterMap (fabricConn s p)).foldl (fun s ci =>
    let (tag, s) := newTag s
    askNode ci 15 [tag, group] s) (setCoded p done s)

/-- The records of a group that is being coded, changed. -/
def modGroup (p group : Nat) (f : PlaceRec → PlaceRec) (s : State) : State :=
  modPart p (fun v => { v with placeRecs := v.placeRecs.map (fun e => (e.1,
    if e.2.codeGroup = group && bitOf e.2.flags 3 then f e.2 else e.2)) }) s

/-- A list with an element, once. -/
def addOnce (n : Nat) (l : List Nat) : List Nat := if n ∈ l then l else l ++ [n]

/-- A page of a stream added into a parity page (R227), or the first of a new one in a slot of the group's class, which is not
allocated below HARD_FLOOR (R87): a stream of which a page found no slot is not complete here (R228). The slot's record carries the job
(R230). -/
def addParity (p job group codePos pos : Nat) (page : PageImage) (s : State) : State :=
  let recs := (part s p).placeRecs.filter (fun e => e.2.codeGroup == group && (bitOf e.2.flags 3 || bitOf e.2.flags 2))
  let second := recs.any (fun e => e.2.parity1 == s.node.nodeId)
  let d := page.tiles ++ page.record
  let d := if second then gfScale (gfPow codePos) d else d
  let key := parityKey group pos
  let put (x : ParityPage) (s : State) : State :=
    modPart p (fun v => { v with parity := tset v.parity key { x with
      bytes := xorBytes x.bytes d, heads := max x.heads ((recOf page.record).kvHead + 1), bad := (x.bad ++ page.poison).dedup } }) s
  match tget? (part s p).parity key with
  | some x => put x s
  | none =>
    match (if poolLevel s p < (part s p).pool.hardFloor then none else allocPage p (poolCells s p) (tileClass page.tiles.length) none s) with
    | none => modGroup p group (fun r => { r with codedShort := addOnce codePos r.codedShort }) s
    | some (h, s) =>
      let (uid, s) := newUid p 1 s
      let s := modPage h (fun g => { g with r := { g.r with job := job, uid := uid } }) s
      put { group := group, member := codePos, uid := uid, job := job, handle := h, units := slotUnits (tileClass page.tiles.length) } s

/-- Answering another node's question (log 90), in the form of a reply (R281). -/
def answerNode (conn tag : Nat) (r : Reply) (s : State) : State :=
  answerFabric conn [tag, r.status] (replyBytes tag (part s (connOf s (conn % 65536)).part).inc s.node.nodeInc r ++ r.payload) s

/-- Every stream of a group is complete at this node, a parity member (R228). -/
def streamsWhole (s : State) (p group : Nat) : Bool :=
  (part s p).placeRecs.any (fun e => e.2.codeGroup == group && (bitOf e.2.flags 2 || (bitOf e.2.flags 3 && decide (e.2.codeK ≤ e.2.codedStreams.length))))

/-- The homes that have asked whether a group's streams are complete are answered when they are (R228). -/
def answerCoded (p group : Nat) (s : State) : State :=
  if !streamsWhole s p group then s
  else
    let asked := (part s p).codeAsks.filter (fun a => a.1 == group)
    asked.foldl (fun s a => answerNode a.2.1 a.2.2 (okRet []) s)
      (modPart p (fun v => { v with codeAsks := v.codeAsks.filter (fun a => a.1 != group) }) s)

/-- PARITY_STREAM (R228): a parity member adds one page of a data owner's stream into its parity page; the last page completes the
stream here. -/
def execParityStream (conn p job group codePos pos : Nat) (page : PageImage) (last : Bool) (s : State) :
    Host.Outcome State Fault Refusal :=
  .next (if !nodeLive s then s else match fabricIdx s conn with
    | none => s
    | some ci =>
      if (connOf s ci).part ≠ p then s else
      let s := addParity p job group codePos pos page s
      if !last then s
      else markCoded p group (answerCoded p group
        (modGroup p group (fun r => if codePos ∈ r.codedShort then r else { r with codedStreams := addOnce codePos r.codedStreams }) s)))

/-- The record of the span that a ROLE 2 sub-request names. -/
def lostRec (s : State) (c : Cmd) : Option PlaceRec :=
  ((spanRecs s c.part (u32 c.block 0) (u48 c.block 4)).find? (fun e => e.2.span == extSpan c && spanCoded e.2)).map (·.2)

/-- Positions that a ROLE 2 sub-request asks for, ascending. -/
def reconPos (r : Req) (lost : PlaceRec) : List Nat :=
  (reqKvs r).flatMap (fun kv => ((reqPages r r.keyHi).filter (fun k => spanHas lost k && inRange r r.keyHi 0 (rowsPerKv r) k)).map
    (fun k => posKey r.layer kv k))

/-- Pages per layer and KV head of a span, the open one up to a request's KEY_HI. -/
def spanPages (r : Req) (x : PlaceRec) : Nat := (if spanOpen x then ceilDiv r.keyHi 64 else x.lastPage + 1) - x.firstPage

/-- Recovering one page of a lost stream from parity and the surviving members' pages at the same ordinal (R227). `two` holds
PARITY1's page and the CODE_POS of a second lost member. -/
def recoverPage (p0 : List Byte) (alive : List (Nat × List Byte)) (j : Nat) (two : Option (Nat × List Byte)) : List Byte :=
  let x0 := alive.foldl (fun a e => xorBytes a e.2) p0
  match two with
  | none => x0
  | some (b, p1) =>
    let x1 := alive.foldl (fun a e => xorBytes a (gfScale (gfPow e.1) e.2)) p1
    gfScale (gfInv (Nat.xor (gfPow j) (gfPow b))) (xorBytes (gfScale (gfPow b) x0) x1)

/-- KV_HEADS of a coding group, as the records of its streams show it. -/
def groupHeads (s : State) (p group : Nat) : Nat :=
  (tvals (part s p).parity).foldl (fun m x => if x.group = group then max m x.heads else m) 1

/-- The poisoned words among words `k·n/4` to `(k+1)·n/4` of a fetched stream of `m` pages of n bytes, whose poisoned words follow it
(log 88), numbered from the first. -/
def fetchedBad (b : List Byte) (m n k : Nat) : List Nat :=
  let tail := b.drop (m * n)
  ((List.range (tail.length / 4)).map (fun i => u32 tail (4 * i))).filterMap (fun w =>
    if k * (n / 4) ≤ w && w < (k + 1) * (n / 4) then some (w - k * (n / 4)) else none)

/-- The page recovered at place `k` of the positions asked for (R227, R229): none where this node holds no parity of it. A poisoned
word in any source poisons it. `got`: member CODE_POS (255 for PARITY1) and what it sent, one slot and record per position. -/
def recovered (s : State) (c : Cmd) (i : Nat) (r : Req) (lost : PlaceRec) (got : List (Nat × List Byte)) (pos : List Nat) (k : Nat) :
    Option LentPage :=
  let p := c.part
  let ord := streamPos (groupHeads s p lost.codeGroup) (spanPages r lost) lost.firstPage (pos.getD k 0)
  (tget? (part s p).parity (parityKey lost.codeGroup ord)).map (fun x =>
    let n := x.bytes.length
    let cut (b : List Byte) : List Byte := slice b (k * n) n
    let others := (List.range lost.codeK).filter (fun j => j != lost.codePos && !got.any (fun e => e.1 == j))
    let alive := (got.filter (fun e => e.1 != 255)).map (fun y => (y.1, cut y.2))
    let two := match others, got.find? (fun e => e.1 == 255) with
      | [b], some y => some (b, cut y.2)
      | _, _ => none
    let bytes := recoverPage x.bytes alive lost.codePos two
    let tiles := bytes.take (n - 2048)
    let q := recOf (bytes.drop (n - 2048))
    let bad := x.bad.map (fun w => if w < 512 then n / 4 - 512 + w else w - 512) ++ got.flatMap (fun e => fetchedBad e.2 pos.length n k)
    { ownerNode := lost.owner, job := r.job, cls := tileClass tiles.length, r := { q with lent := true, poisoned := q.poisoned || !bad.isEmpty }
      secret := (tget {} (part s p).keys r.job : JobKey).secret, borrowGen := (part s p).gen, recon := some i
      grans := (List.range (tiles.length / 64)).map (fun g => (g,
        { data := slice tiles (64 * g) 64, uid := q.uid, idx := g, kind := 6, cls := wordMarks bad g }))
      recCls := ((List.range 32).map (fun g => (g, wordMarks (bad.filterMap (fun w => if n / 4 - 512 ≤ w then some (w - (n / 4 - 512)) else none)) g))).filter
        (fun e => !e.2.isEmpty) })

/-- The recovered pages go into the lend region and are attended like lent pages (R229); their records show then whether the request fits
their sequence (R130). -/
def reconstruct (i : Nat) (c : Cmd) (lost : PlaceRec) (got : List (Nat × List Byte)) (s : State) : State :=
  let p := c.part
  let r := subReq c
  let pos := reconPos r lost
  let placed := (List.range pos.length).foldl (fun (acc : Option (Tab Nat × State)) k =>
    match acc with
    | none => none
    | some (t, s) =>
      match recovered s c i r lost got pos k with
      | none => some (t, s)
      | some x => (lendPlace s p x).map (fun e =>
          (tset t (pos.getD k 0) (lentMark + mkHandle e.1 e.2 x.cls), modCell e.1 (fun v => { v with lent := tset v.lent e.2 x }) s))) (some ([], s))
  match placed with
  | none => conclude (ctxOf s i).cmd (err stBusy) s
  | some (map, s) =>
    let q := if map.isEmpty then { pagesSeq s r map with dim := r.dim } else pagesSeq s r map
    if !map.isEmpty && !attendOk s p q r c.block then conclude (ctxOf s i).cmd (err stInvalid) s else
    startRequest i c r q (walkMap q r r.keyHi) (min r.keyHi 4194304) [] [] [] 0 s

/-- Asking a surviving member, or PARITY1 (255), for its pages at the positions asked for (R229). -/
def fetchFrom (id i : Nat) (c : Cmd) (lost : PlaceRec) (who ci : Nat) (s : State) : State :=
  let p := c.part
  let r := attendReq c.block
  let ords := (reconPos r lost).map (streamPos (groupHeads s p lost.codeGroup) (spanPages r lost) lost.firstPage)
  let (tag, s) := newTag s
  let w : Await := { conn := connId s ci, tag := tag, kind := 12, job := r.job, seq := r.seq, span := who, cmd := some id, at_ := now s }
  let s := modCtx i (fun x => { x with subs := tset x.subs who { span := who, kind := 4, sentAt := now s } }) s
  askNode ci 12 ([tag, lost.codeGroup] ++ ords) (modPart p (fun v => { v with awaits := v.awaits ++ [w] }) s)

/-- Where a lost span's pages can be had from (R229): the data members of its group that are reached, each by its position and
connection, and PARITY1 where one of them is not. -/
def reconSources (s : State) (p : Nat) (lost : PlaceRec) : List (Nat × Nat) :=
  let mates := ((part s p).placeRecs.filter (fun e => e.2.kind == 0x11 && spanCoded e.2 && e.2.codeGroup == lost.codeGroup &&
    e.2.codePos != lost.codePos)).map (fun e => (e.2.codePos, e.2.owner))
  let live := mates.filterMap (fun e => (fabricConn s p e.2).map (fun ci => (e.1, ci)))
  if live.length + 1 < lost.codeK then
    match (if lost.parity1 = 0xFFFF then none else fabricConn s p lost.parity1) with
    | some ci => live ++ [(255, ci)]
    | none => live
  else live

/-- ROLE 2 (R229): the reconstructor asks every surviving data member for its pages at the ordinals in range, and PARITY1 for one
that it cannot reach. The fields are checked first, as far as they can be without the sequence (R130, R144). -/
def cmdReconstruct : Handler := fun id c s =>
  let p := c.part
  let r := attendReq c.block
  let s := meetCmd c r.job r.seq s
  if (partCells s p).isEmpty then (s, some (err stUnavail))
  else match homeBehind s c r.job r.seq with
  | some e => (s, some e)
  | none =>
    if !attendOk s p { dim := r.dim, format := 1, layers := 504, kvHeads := (reqKvs r).foldl max 0 + 1 } r c.block then (s, some (err stInvalid))
    else if attendRefused r then (s, some (err stUnsupported))
    else match lostRec s c, c.ctx with
    | some lost, some i =>
      if lost.parity0 ≠ s.node.nodeId then (s, some (err stNoLease (extSpan c)))
      else
        let live := reconSources s p lost
        if live.length + 1 < lost.codeK then (s, some (err stUnavail lost.codeK))
        else
          let s := live.foldl (fun s e => fetchFrom id i c lost e.1 e.2 s) (modCtx i (fun x => { x with r := r }) s)
          if live.isEmpty then (reconstruct i c lost [] s, none) else (s, none)
    | _, _ => (s, some (err stNoLease (extSpan c)))

/-- A surviving member's pages have come; with the last the span is recovered (R229). A member that answers with an error is a
second lost one: PARITY1 takes its place, where it has not been asked yet (R227). -/
def reconGot (id who status : Nat) (ret : List Byte) (s : State) : State :=
  match tget? s.cmds id with
  | none => s
  | some c =>
    match c.ctx, lostRec s c with
    | some i, some lost =>
      if status ≠ stOk then
        let s := modCtx i (fun x => { x with subs := tdel x.subs who }) s
        match (if who = 255 || thas (ctxOf s i).subs 255 || lost.parity1 = 0xFFFF then none else fabricConn s c.part lost.parity1) with
        | some ci => fetchFrom id i c lost 255 ci s
        | none => conclude id (err stUnavail lost.codeK) s
      else
        let s := modCtx i (fun x => { x with subs := tmod x.subs who (fun q => { q with state := 1, bytes := ret }) }) s
        let subs := (ctxOf s i).subs
        if subs.any (fun e => e.2.state == 0) then s
        else reconstruct i c lost (subs.map (fun e => (e.1, e.2.bytes))) (modCtx i (fun x => { x with subs := [] }) s)
    | _, _ => s

/-- ATTEND as it arrives: by the role of its fabric extension. -/
def cmdAttendAny : Handler := fun id c s =>
  if c.fabric && extRole c = 3 then cmdNeighbour id c s
  else if c.fabric && extRole c = 2 then cmdReconstruct id c s else cmdAttend id c s

/-- A packet of a fabric row: only with FABRIC set and the role that the row stands for. -/
def subRow (ok : Cmd → Bool) (h : Handler) (src : Source) (pkt : Packet) (s : State) : State :=
  let c := parseCmd s src pkt
  if 80 ≤ pkt.bytes.length && c.fabric && ok c then submit src pkt h s else s

/-- Handlers of the sub-requests that have rows of their own opcode. -/
def subHandler : Handler := fun id c s =>
  if c.opcode = 0x0201 then cmdAttendAny id c s else if c.opcode = 0x0202 then cmdAttendBwd id c s
  else if c.opcode = 0x0103 then cmdAppendAny id c s else cmdSeqCreate id c s

/-- SUB_REQUEST (R208): an ATTEND, ATTEND_BWD, APPEND or SEQ_CREATE with FABRIC set, in the owner's role. -/
def execSubRequest (src : Source) (pkt : Packet) (s : State) : Host.Outcome State Fault Refusal :=
  .next (subRow (fun c => (c.opcode == 0x0201 || c.opcode == 0x0202 || c.opcode == 0x0103 || c.opcode == 0x0101) && extRole c == 0)
    subHandler src pkt s)
/-- MIRROR_READ (R225): a sub-request of ROLE 1. -/
def execMirrorRead (src : Source) (pkt : Packet) (s : State) : Host.Outcome State Fault Refusal :=
  .next (subRow (fun c => c.opcode == 0x0201 && extRole c == 1) subHandler src pkt s)
/-- RECONSTRUCTION (R229): a sub-request of ROLE 2. -/
def execReconstruction (src : Source) (pkt : Packet) (s : State) : Host.Outcome State Fault Refusal :=
  .next (subRow (fun c => c.opcode == 0x0201 && extRole c == 2) subHandler src pkt s)
/-- LEND_NEIGHBOUR_ATTEND (R92): a sub-request of ROLE 3. -/
def execLendNeighbourAttend (src : Source) (pkt : Packet) (s : State) : Host.Outcome State Fault Refusal :=
  .next (subRow (fun c => c.opcode == 0x0201 && extRole c == 3) subHandler src pkt s)

end Sys2Proof.Machine
end

