-- ==== Sys2Proof/Machine/Leases.lean ====
section
/-! DEFINITION. Span leases, placement updates and the answers to what this node has asked of others (R201 to R224, R325, R326). -/

namespace Sys2Proof.Machine

/-- STALE_EPOCH as the reply of a lease command whose sender is behind (R219). -/
def staleBehind : Reply := err stStale 3

/-- The µs of validity that an owner holds from the time it sent its request (R218). -/
def ownerTime (s : State) (p : Nat) : Nat := fabricSet s p 1 - fabricSet s p 3

/-- RETURN of a lease command: the record's EPOCH, and the validity of a grant or renewal (R325). -/
def leaseRet (epoch us : Nat) : Reply := okRet (toLe 8 epoch ++ toLe 8 us)

/-- LEASE_TIME and the µs that an owner holds of it, as a command took the settings at its acceptance (R218, R294). -/
def heldLease (c : Cmd) : Nat := heldSetting c 0x20 1 fabricDflt
/-- The owner's part of `heldLease`. -/
def heldOwner (c : Cmd) : Nat := heldLease c - heldSetting c 0x20 3 fabricDflt

/-- Granting or renewing at the home (R218): LEASE_END is the time of receipt plus LEASE_TIME. -/
def grantRec (p ri node epoch time : Nat) (s : State) : State :=
  modRec p ri (fun r => { r with epoch := epoch, holder := node, leaseEnd := now s + time, promptAt := 0 }) s

/-- A span's record at a node whose lease its home has granted: it names the node, and as mirror the owner that it named before where the
node was that owner's mirror (R220). -/
def ownedRec (me epoch : Nat) (r : PlaceRec) : PlaceRec :=
  if r.owner = me then r else { r with owner := me, mirror := if r.mirror = me then r.owner else r.mirror, epoch := max r.epoch epoch }

/-- The lease that an owner holds once its home has granted it (R218), of a request sent at a time under a HOME_EPOCH, for so many µs. A
mirror that has become owner is mirror no longer. A grant that comes after a greater HOME_EPOCH or span epoch was met is fenced (R222). -/
def holdLease (p job seq span epoch sentAt us homeEpoch : Nat) (s : State) : State :=
  let mirrored := spanSt s p job seq true
  let s := match mirrored with
    | some (i, _) => modPart p (fun v => { v with spans := tdel v.spans i }) s
    | none => s
  let hold (x : SpanSt) : SpanSt := { x with
    span := span, epoch := epoch, valid := true, sentAt := sentAt, endAt := sentAt + us
    fenced := (x.span == span && decide (epoch < x.seen)) || decide (homeEpoch < x.homeEpoch)
    seen := if x.span = span then x.seen else 0
    renewAt := sentAt + fabricSet s p 2, handoff := none }
  let s := (spanRec s p job seq span).elim s (fun e => modRec p e.1 (ownedRec s.node.nodeId epoch) s)
  match spanSt s p job seq false with
  | some (i, x) => if epoch < x.epoch then s else modSpan p i hold s
  | none => addSpan p (hold { job := job, seq := seq, home := s.node.nodeId, homeEpoch := myHomeEpoch s p job seq }) s

/-- The epoch at which an owner acquires when it is prompted (R221). -/
def acquireEpoch (s : State) (p job seq prompted : Nat) : Nat :=
  match spanSt s p job seq false with
  | some (_, x) => if prompted ≤ x.issued then x.issued + 1 else prompted
  | none => prompted

/-- A home knows the lengths of a sequence (R223): what it holds of it is no member's part. -/
def learn (p job seq : Nat) (s : State) : State := modSeq p (seqKey job seq) (fun q => { q with member := false }) s

/-- The layers whose length is known, as bits: those known before and those in which a sequence has tokens. -/
def knownLayers (q : Seq) (mask : Nat) : Nat :=
  maskOf ((List.range q.layers).filter (fun l => bitOf mask l || decide (0 < seqLen q l)))

/-- Asking the owner of the last span that may hold tokens for its lengths (R223), span by span from the highest in a list, while the length
of some layer is unknown; where a span is this node's own its lengths are at hand (the question's form is log 90's). -/
def askOwners (p job seq : Nat) : List PlaceRec → Nat → State → State
  | [], _, s => learn p job seq s
  | r :: rest, mask, s =>
    let q := (seqOf s p (seqKey job seq)).getD {}
    if 0 < q.layers && (List.range q.layers).all (bitOf mask) then learn p job seq s
    else if r.owner = s.node.nodeId then askOwners p job seq rest (knownLayers q mask) s
    else match fabricConn s p r.owner with
    | none => s
    | some ci =>
      let (tag, s) := newTag s
      let w : Await := { conn := connId s ci, tag := tag, kind := 14, job := job, seq := seq, span := r.span, arg := mask, at_ := now s }
      askNode ci 14 [tag, job, seq] (modPart p (fun v => { v with awaits := v.awaits ++ [w] }) s)

/-- Asking for the lengths of a sequence from the spans below one (R223). -/
def askLengths (p job seq below mask : Nat) (s : State) : State :=
  askOwners p job seq (((spanRecs s p job seq).map (·.2)).filter (fun r => decide (r.span < below))).reverse mask s

/-- A home that has not learned the lengths asks for them once every span is held (R223). -/
def learnWhenHeld (p job seq : Nat) (s : State) : State :=
  if isHome s p job seq && unlearned s p job seq && (spanRecs s p job seq).all (fun e => e.2.holder != 0xFFFF) &&
      !(part s p).awaits.any (fun w => w.kind == 14 && w.job == job && w.seq == seq) then askLengths p job seq 64 0 s
  else s

/-- The home prompts a span's owner while no node holds an unexpired lease at EPOCH (R221). It acquires its own span itself
(R223). -/
def prompt (p ri : Nat) (s : State) : State :=
  let r := tget {} (part s p).placeRecs ri
  if r.kind ≠ 0x11 || !isHome s p r.job r.seq then s
  else if r.owner = s.node.nodeId then
    let e := acquireEpoch s p r.job r.seq r.epoch
    learnWhenHeld p r.job r.seq (holdLease p r.job r.seq r.span e (now s) (ownerTime s p) (myHomeEpoch s p r.job r.seq)
      (grantRec p ri r.owner e (fabricSet s p 1) s))
  else
    let s := modRec p ri (fun r => { r with promptAt := now s + fabricSet s p 2 }) s
    match fabricConn s p r.owner with
    | none => s
    | some ci =>
      let block := toLe 4 r.job ++ toLe 6 r.seq ++ [BitVec.ofNat 8 r.span, 0] ++ toLe 2 r.owner ++ zeros 18
      askFabric p ci 0x0603 r.epoch (myHomeEpoch s p r.job r.seq) r.epoch s.node.nodeId r.span 0 0 block
        { kind := 23, job := r.job, seq := r.seq, span := r.span } s

/-- The home finds a span's lease ended, released or fenced, and prompts (R221). -/
def dropLease (p ri : Nat) (s : State) : State :=
  prompt p ri (modRec p ri (fun r => { r with holder := 0xFFFF, leaseEnd := 0 }) s)

/-! ### Lease commands (R219, R325) -/

/-- The fields of the lease block. -/
structure LeaseArg where
  job : Nat
  seq : Nat
  span : Nat
  record : Nat
  target : Nat
  part : Nat
  jobMask : Nat
  seqMask : Nat
  deriving DecidableEq, Repr

/-- The lease block (R325). -/
def leaseArg (b : List Byte) : LeaseArg :=
  { job := u32 b 0, seq := u48 b 4, span := u8 b 0xA, record := u8 b 0xB, target := u16 b 0xC, part := u16 b 0xE
    jobMask := u32 b 0x10, seqMask := u48 b 0x14 }

/-- The lease block is well formed: RECORD 1 only where it has a meaning, masks and TARGET zero where they have none. -/
def leaseOk (c : Cmd) (handoff home : Bool) : Bool :=
  let a := leaseArg c.block
  blockIs c 0x1A && a.span ≤ 63 && (handoff || a.target == 0) && a.target ≤ 0xFFF && (if c.fabric then a.part == 0 else true) &&
  (if home then a.record == 1 && a.span == 0 else a.record == 0 && a.jobMask == 0 && a.seqMask == 0)

/-- The node that sent a fabric command. -/
def senderNode (s : State) (c : Cmd) : Nat :=
  match c.src with
  | .conn id => (connOf s (id % 65536)).peerNode
  | _ => 0xFFFF

/-- A node-to-node lease command at the home: the form, the home, the record; then its own outcome. -/
def atHome (c : Cmd) (handoff : Bool) (act : Nat → PlaceRec → State → State × Reply) (s : State) : State × Option Reply :=
  let a := leaseArg c.block
  if !c.fabric then (s, some (err stAuth))
  else match spanRec s c.part a.job a.seq a.span with
  | none => (s, some (err stNotFound))
  | some (ri, r) =>
    if !leaseOk c handoff false then (s, some (err stInvalid))
    else match (homeFor s c.part a.job a.seq).orElse (fun _ => homeBehind s c a.job a.seq) with
    | some r => (s, some r)
    | none => let x := act ri r (meetCmd c a.job a.seq s)
      (x.1, some x.2)

/-- LEASE_ACQUIRE at the home (R219). -/
def cmdLeaseAcquire : Handler := fun _ c s =>
  atHome c false (fun ri r s =>
    if c.epoch < r.epoch then (s, staleBehind)
    else if r.owner ≠ senderNode s c then (s, err stNoLease r.span)
    else (learnWhenHeld c.part r.job r.seq (grantRec c.part ri r.owner c.epoch (heldLease c) s), leaseRet c.epoch (heldOwner c))) s

/-- LEASE_ACQUIRE (R219). -/
def execLeaseAcquire (src : Source) (pkt : Packet) (s : State) : Host.Outcome State Fault Refusal :=
  .next (submitOp 0x0601 src pkt cmdLeaseAcquire s)

/-- The home record that the operator names by key and mask (R217). -/
def homeNamed (s : State) (a : LeaseArg) : Option (Nat × PlaceRec) :=
  (part s a.part).placeRecs.find? (fun e => e.2.kind == 0x10 && e.2.job == a.job && e.2.seq == a.seq &&
    e.2.mask / 2 ^ 8 % 2 ^ 32 == a.jobMask && e.2.mask / 2 ^ 40 % 2 ^ 48 == a.seqMask)

/-- A home record extended after it had expired makes its spans' owners be prompted again (R217, R221). -/
def promptAll (p : Nat) (s : State) : State :=
  (part s p).placeRecs.foldl (fun s e => if e.2.kind = 0x11 && e.2.holder = 0xFFFF then prompt p e.1 s else s) s

/-- LEASE_RENEW: by the holder of a span to its home, or by the operator for a home record, which no node-to-node form names (R217, R219,
R325). -/
def cmdLeaseRenew : Handler := fun _ c s =>
  let a := leaseArg c.block
  if a.record = 1 then
    if c.fabric || c.part ≠ 0 then (s, some (err stAuth))
    else match homeNamed s a with
    | none => (s, some (err stNotFound))
    | some (ri, r) =>
      if !leaseOk c false true then (s, some (err stInvalid))
      else if c.epoch ≠ r.epoch then (s, some staleBehind)
      else
        let s := modRec a.part ri (fun r => { r with leaseEnd := now s + fabricSet s a.part 1, expired := false }) s
        (if r.expired then promptAll a.part s else s, some (leaseRet r.epoch (fabricSet s a.part 1)))
  else
    atHome c false (fun ri r s =>
      if c.epoch ≠ r.epoch || r.holder ≠ senderNode s c then (s, staleBehind)
      else (grantRec c.part ri r.holder r.epoch (heldLease c) s, leaseRet r.epoch (heldOwner c))) s

/-- LEASE_RENEW (R219). -/
def execLeaseRenew (src : Source) (pkt : Packet) (s : State) : Host.Outcome State Fault Refusal :=
  .next (submitOp 0x0602 src pkt cmdLeaseRenew s)

/-- The record of a span after a handoff at the home (R219): the sender becomes the mirror, the target the owner. -/
def handedOff (target sender epoch : Nat) (r : PlaceRec) : PlaceRec :=
  { r with owner := target, mirror := sender, epoch := epoch, holder := 0xFFFF, leaseEnd := 0 }

/-- The entry of a placement record, with its associated data: the record's index and the node that it names (R202). -/
def writeEntry (p ri : Nat) (r : PlaceRec) (s : State) : State :=
  match entryCell s p r.index with
  | some ci => putEntry ci (r.index % 1048576) 2 [r.key % 2 ^ 64, r.key / 2 ^ 64] [r.mask % 2 ^ 64, r.mask / 2 ^ 64] (ri + r.owner * 2 ^ 20) s
  | none => s

/-- A handoff takes effect at the home: the record changes, and the new owner is prompted (R219, R221). Its entry stays as PLACE_SET wrote
it (R237). -/
def handOver (p ri target sender epoch : Nat) (r : PlaceRec) (s : State) : State :=
  let r := handedOff target sender epoch r
  prompt p ri (modRec p ri (fun _ => r) s)

/-- LEASE_HANDOFF of an owner at the home (R219); the handoff is forwarded to the target as the prompt of R221. -/
def cmdHandoffAtHome : Handler := fun _ c s =>
  atHome c true (fun ri r s =>
    if c.epoch ≤ r.epoch then (s, staleBehind)
    else
      let a := leaseArg c.block
      (handOver c.part ri a.target (senderNode s c) c.epoch r s, leaseRet c.epoch 0)) s

/-- Parts of APPENDs of a sequence that this node has accepted as its span's owner before a command and not completed (R220 step 2):
sub-requests, one that is held among them, and write-throughs of its own that are not answered. -/
def partsRunning (s : State) (p job seq before : Nat) : Bool :=
  (part s p).awaits.any (fun w => w.kind == 6 && w.job == job && w.seq == seq) ||
  s.cmds.any (fun e => decide (e.1 < before) && e.2.part == p && e.2.fabric && e.2.opcode == 0x0103 && extRole e.2 != 1 &&
    u32 e.2.block 0 == job && u48 e.2.block 4 == seq)

/-- The owner records ISSUED_EPOCH, fences its lease and sends LEASE_HANDOFF (E + 1) to the home (R220 steps 3 and 4); where
it is the home itself, the record changes at once. -/
def sendHandoff (p i : Nat) (s : State) : State :=
  match tget? (part s p).spans i with
  | none => s
  | some x =>
    match x.handoff with
    | none => s
    | some (cmd, target, _) =>
      let e := x.epoch + 1
      let s := modSpan p i (fun x => { x with issued := e, fenced := true }) s
      if isHome s p x.job x.seq then
        match spanRec s p x.job x.seq x.span with
        | none => conclude cmd (err stNotFound) s
        | some (ri, r) =>
          let s := modSpan p i (fun x => { x with handoff := none, mirror := true, stream := x.epoch }) s
          if e ≤ r.epoch then conclude cmd staleBehind s
          else conclude cmd (leaseRet e 0) (handOver p ri target s.node.nodeId e r s)
      else
        match fabricConn s p x.home with
        | none => s
        | some ci =>
          let block := toLe 4 x.job ++ toLe 6 x.seq ++ [BitVec.ofNat 8 x.span, 0] ++ toLe 2 target ++ zeros 18
          askFabric p ci 0x0603 e x.homeEpoch e x.home x.span 0 0 block
            { kind := 22, job := x.job, seq := x.seq, span := x.span, arg := e, cmd := some cmd } s

/-- Every handoff whose parts have completed goes on (R220). -/
def handoffsGo (p : Nat) (s : State) : State :=
  (part s p).spans.foldl (fun s e =>
    match tget? (part s p).spans e.1 with
    | some x => if x.issued ≤ x.epoch && x.handoff.elim false (fun h => !partsRunning s p x.job x.seq h.1) then sendHandoff p e.1 s else s
    | none => s) s

/-! ### The queue of edits (R71) -/

/-- The handler of an opcode that edits or extends a map. -/
def editHandler (op : Nat) : Handler :=
  if op = 0x0102 then cmdSeqDestroy else if op = 0x0103 then cmdAppendAny else if op = 0x0105 then cmdPageShare
  else if op = 0x0106 then cmdPageMigrate else if op = 0x0107 then cmdPageLend else if op = 0x0108 then cmdPageRecall
  else cmdSeqMapEdit

/-- EDIT_QUEUE_RESUME (R71): the first edit or extension that waits applies to the new map. An APPEND that still meets cut
slots (R73) waits on. A handoff that waited for a part goes on (R220). -/
def execEditQueueResume (p job seq : Nat) (s : State) : Host.Outcome State Fault Refusal :=
  .next (if !nodeLive s then s else let key := seqKey job seq
    match seqOf s p key with
    | none => s
    | some q =>
      match q.waiting with
      | [] => s
      | id :: rest =>
        match tget? s.cmds id with
        | none => modSeq p key (fun q => { q with waiting := rest }) s
        | some c =>
          let a := appendArg c.block
          if q.editing || (c.opcode = 0x0103 && cutBlocks s p q a.layer (max a.first (seqLen q a.layer)) (a.first + a.n)) then s
          else
            let s := modSeq p key (fun q => { q with waiting := rest }) (modCmd id (fun c => { c with rerun := true }) s)
            handoffsGo p (begin_ (editHandler c.opcode) id s))

/-- LEASE_HANDOFF of the operator at an owner (R219, R220). An EPOCH other than that of the lease names a lease that is not held, and 0
names none: a DESIGN CHOICE (log 115). The LEASE_TIME after which it ends with TIMEOUT runs from its acceptance: a DESIGN CHOICE
(log 116). -/
def cmdHandoff : Handler := fun id c s =>
  let a := leaseArg c.block
  if c.part ≠ 0 then (s, some (err stAuth))
  else match spanRec s a.part a.job a.seq a.span with
  | none => (s, some (err stNotFound))
  | some (_, r) =>
    if !leaseOk c true false then (s, some (err stInvalid))
    else if r.mirror ≠ a.target || !spanSynced r then (s, some (err stInvalid))
    else match spanSt s a.part a.job a.seq false with
    | none => (s, some (err stNoLease a.span))
    | some (i, x) =>
      if !leaseValid s x || x.span ≠ a.span || x.handoff.isSome || (c.epoch ≠ 0 && c.epoch ≠ x.epoch) then (s, some (err stNoLease a.span))
      else (handoffsGo a.part (modSpan a.part i (fun x => { x with handoff := some (id, a.target, c.at_ + fabricSet s a.part 1) }) s), none)

/-- LEASE_HANDOFF from the home to a record's owner: prompt to acquire (R219, R221). A greater HOME_EPOCH or span epoch than
the node's own fences its lease (R222). -/
def cmdPrompt : Handler := fun _ c s =>
  let a := leaseArg c.block
  let p := c.part
  if (seqOf s p (seqKey a.job a.seq)).isNone then (s, some (err stNotFound))
  else if !leaseOk c true false || a.target ≠ s.node.nodeId then (s, some (err stInvalid))
  else match homeBehind s c a.job a.seq with
    | some r => (s, some r)
    | none =>
      let s := meetEpochs p a.job a.seq a.span c.epoch (extHome c) c.homeEpoch s
      let s := match spanSt s p a.job a.seq false with
        | some (i, _) => modSpan p i (fun x => { x with home := extHome c, homeEpoch := c.homeEpoch, span := a.span }) s
        | none => addSpan p { job := a.job, seq := a.seq, span := a.span, home := extHome c, homeEpoch := c.homeEpoch } s
      let e := acquireEpoch s p a.job a.seq c.epoch
      let s := match fabricConn s p (extHome c) with
        | none => s
        | some ci =>
          let block := toLe 4 a.job ++ toLe 6 a.seq ++ [BitVec.ofNat 8 a.span, 0] ++ zeros 20
          askFabric p ci 0x0601 e c.homeEpoch e (extHome c) a.span 0 0 block
            { kind := 2, job := a.job, seq := a.seq, span := a.span, arg := e, homeEpoch := c.homeEpoch, us := heldOwner c } s
      (s, some (leaseRet c.epoch 0))

/-- LEASE_HANDOFF by its form: the operator's, an owner's to its home, a home's to a record's owner. -/
def cmdLeaseHandoff : Handler := fun id c s =>
  let a := leaseArg c.block
  if !c.fabric then cmdHandoff id c s
  else if (homeRec s c.part a.job a.seq).elim false (fun e => e.2.1.owner == s.node.nodeId) then cmdHandoffAtHome id c s
  else cmdPrompt id c s

/-- LEASE_HANDOFF, the operator's form (R220). -/
def execLeaseHandoff (src : Source) (pkt : Packet) (s : State) : Host.Outcome State Fault Refusal :=
  .next (submitOp 0x0603 src pkt cmdLeaseHandoff s)

/-- LEASE_HANDOFF from an owner at the home (R219). -/
def execLeaseHandoffAtHome (src : Source) (pkt : Packet) (s : State) : Host.Outcome State Fault Refusal :=
  .next (submitOp 0x0603 src pkt (fun id c s => if c.fabric then cmdHandoffAtHome id c s else cmdHandoff id c s) s)

/-- The home's prompt at a record's owner (R221). -/
def execLeasePrompt (src : Source) (pkt : Packet) (s : State) : Host.Outcome State Fault Refusal :=
  .next (submitOp 0x0603 src pkt (fun id c s => if c.fabric then cmdPrompt id c s else cmdHandoff id c s) s)

/-- LEASE_RELEASE at the home (R219). -/
def cmdLeaseRelease : Handler := fun _ c s =>
  atHome c false (fun ri r s =>
    if c.epoch ≠ r.epoch then (s, staleBehind) else (dropLease c.part ri s, leaseRet r.epoch 0)) s

/-- LEASE_RELEASE (R219). -/
def execLeaseRelease (src : Source) (pkt : Packet) (s : State) : Host.Outcome State Fault Refusal :=
  .next (submitOp 0x0604 src pkt cmdLeaseRelease s)

/-! ### Times of leases (R217, R218, R219, R221) -/

/-- HOME_RECORD_EXPIRY (R217): the home record's LEASE_END has come. -/
def execHomeRecordExpiry (p ri : Nat) (s : State) : Host.Outcome State Fault Refusal :=
  .next (if !nodeLive s then s else match tget? (part s p).placeRecs ri with
    | none => s
    | some r =>
      if r.kind = 0x10 && bitOf r.flags 4 && r.owner = s.node.nodeId && !r.expired && r.leaseEnd ≤ now s then
        let s := latchWake s
        let ids := (part s p).seqs.map (fun e => (e.2.job, e.2.seq)) ++
          ((part s p).placeRecs.filter (fun e => e.2.kind == 0x11)).map (fun e => (e.2.job, e.2.seq))
        let mine := ids.filter (fun e => (homeRec s p e.1 e.2).elim false (fun h => h.1 == ri))
        mine.foldl (fun s e => loseHome p e.1 e.2 0 0 s) (modRec p ri (fun r => { r with expired := true }) s)
      else s)

/-- LEASE_EXPIRY (R221): the home finds a span's lease ended. -/
def execLeaseExpiry (p ri : Nat) (s : State) : Host.Outcome State Fault Refusal :=
  .next (if !nodeLive s then s else match tget? (part s p).placeRecs ri with
    | none => s
    | some r => if r.kind = 0x11 && r.holder ≠ 0xFFFF && r.leaseEnd ≤ now s then dropLease p ri (latchWake s) else s)

/-- PROMPT_REPEAT (R221). -/
def execPromptRepeat (p ri : Nat) (s : State) : Host.Outcome State Fault Refusal :=
  .next (if !nodeLive s then s else match tget? (part s p).placeRecs ri with
    | none => s
    | some r => if r.kind = 0x11 && r.holder = 0xFFFF && r.promptAt ≠ 0 && r.promptAt ≤ now s then prompt p ri (latchWake s) else s)

/-- RENEW_TIMER (R219): an owner renews every RENEW_PERIOD; a home renews its own span itself. -/
def execRenewTimer (p job seq span : Nat) (s : State) : Host.Outcome State Fault Refusal :=
  .next (if !nodeLive s then s else match spanSt s p job seq false with
    | none => s
    | some (i, x) =>
      if x.span ≠ span || !leaseValid s x || now s < x.renewAt then s
      else
        let s := modSpan p i (fun x => { x with renewAt := now s + fabricSet s p 2 }) (latchWake s)
        if isHome s p job seq then
          match spanRec s p job seq span with
          | some (ri, r) => if r.holder = s.node.nodeId && r.epoch = x.epoch then
              holdLease p job seq span x.epoch (now s) (ownerTime s p) (myHomeEpoch s p job seq)
                (grantRec p ri r.holder r.epoch (fabricSet s p 1) s) else s
          | none => s
        else match fabricConn s p x.home with
        | none => s
        | some ci =>
          let block := toLe 4 job ++ toLe 6 seq ++ [BitVec.ofNat 8 span, 0] ++ zeros 20
          askFabric p ci 0x0602 x.epoch x.homeEpoch x.epoch x.home span 0 0 block
            { kind := 21, job := job, seq := seq, span := span, arg := x.epoch, homeEpoch := x.homeEpoch, us := ownerTime s p } s)

/-- OWNER_LEASE_END (R208, R218): the owner's lease has ended; GRACE after it, reads end too. -/
def execOwnerLeaseEnd (p job seq span : Nat) (s : State) : Host.Outcome State Fault Refusal :=
  .next (if !nodeLive s then s else match spanSt s p job seq false with
    | none => s
    | some (i, x) => if x.span = span && x.valid && x.endAt + fabricSet s p 4 ≤ now s then
        modSpan p i (fun x => { x with valid := false }) s else s)

/-- HANDOFF_TIMEOUT (R219): the home has not answered within LEASE_TIME. -/
def execHandoffTimeout (p job seq span : Nat) (s : State) : Host.Outcome State Fault Refusal :=
  .next (if !nodeLive s then s else match (part s p).spans.find? (fun e => e.2.job == job && e.2.seq == seq && e.2.span == span && e.2.handoff.isSome) with
    | none => s
    | some (i, x) =>
      match x.handoff with
      | some (cmd, _, end_) => if end_ ≤ now s then
          conclude cmd (err stTimeout) (modSpan p i (fun x => { x with handoff := none }) s) else s
      | none => s)

/-! ### PLACE_SET (R204, R224, R228, R326) -/

/-- The placement record that a PLACE_SET carries (R203), with its key and mask. LAST_PAGE of an open span reads 0xFFFF (R199). -/
def placeRecOf (b : List Byte) : PlaceRec :=
  let r := slice b 0x30 64
  { key := leAt b 0x10 16, mask := leAt b 0x20 16, job := u32 r 0, seq := u48 r 4, kind := u8 r 0xA, span := u8 r 0xB
    owner := u16 r 0xC, mirror := u16 r 0xE, epoch := u64 r 0x10, firstPage := u16 r 0x18, lastPage := if bitOf (u16 r 0x1C) 5 then 0xFFFF else u16 r 0x1A
    flags := u16 r 0x1C, codeGroup := u16 r 0x1E, codeK := u8 r 0x20, codePos := u8 r 0x21, parity0 := u16 r 0x22
    parity1 := u16 r 0x24, leaseEnd := u64 r 0x28, holder := u16 r 0x30 }

/-- A key and mask of R201. -/
def placeKeyOk (key mask : Nat) : Bool :=
  let kind := key % 256
  (kind == 0x10 || kind == 0x11) && Nat.land key (2 ^ 128 - 1 - mask) == 0 && mask % 256 == 255 &&
  key / 2 ^ 94 == 0 && mask / 2 ^ 94 == 2 ^ 34 - 1 &&
  (if kind == 0x11 then mask / 2 ^ 8 % 2 ^ 80 == 2 ^ 80 - 1 else key / 2 ^ 88 % 64 == 0)

/-- A node ID field, or 0xFFFF where the field may say none. -/
def nodeOrNone (v : Nat) : Bool := decide (v ≤ 0xFFF) || v == 0xFFFF

/-- A record's fields fit its key (R203). -/
def placeRecOk (r : PlaceRec) (b : List Byte) : Bool :=
  let span := r.kind == 0x11
  let coded := bitOf r.flags 2 || bitOf r.flags 3
  r.kind == r.key % 256 && r.job == r.key / 2 ^ 8 % 2 ^ 32 && r.seq == r.key / 2 ^ 40 % 2 ^ 48 && r.span == r.key / 2 ^ 88 % 64 &&
  r.owner ≤ 0xFFF && nodeOrNone r.mirror && nodeOrNone r.parity1 && (!coded || r.parity0 ≤ 0xFFF) && nodeOrNone r.holder &&
  r.flags < 64 && (if span then !bitOf r.flags 4 else r.flags % 16 == 0 && !bitOf r.flags 5) &&
  (!span || bitOf r.flags 5 || r.firstPage ≤ r.lastPage) &&
  (!coded || (2 ≤ r.codeK && r.codeK ≤ 16 && r.codePos < r.codeK)) &&
  zeroIn b 0x56 0x58 && zeroIn b 0x62 0x70

/-- The record bytes agree, what the node itself keeps beside them apart. -/
def sameRec (a b : PlaceRec) : Bool :=
  { a with index := 0, promptAt := 0, expired := false, codedStreams := [], codedBy := [], codedShort := [] } ==
  { b with index := 0, promptAt := 0, expired := false, codedStreams := [], codedBy := [], codedShort := [] }

/-- The pages of a span that this node holds, lent ones that are not lost included, in ascending layer, KV head and page index. -/
def spanMap (s : State) (q : Seq) (r : PlaceRec) : List (Nat × Nat) :=
  q.map.filter (fun e => spanHas r (posPage e.1) && (isPage e.2 || (lendOf s e.2).elim false (fun l => !l.lost)))

/-- A page as its owner sends it on: its own after the committed read that sending is (R516), a lent one as it was when lent. -/
def sentImage (p h : Nat) (s : State) : PageImage × State :=
  if isStub h then ((lendOf s h).elim { record := [], tiles := [], poison := [] } (·.image), s)
  else
    let (_, s) := commitRead h (List.range (slotBytes (hCls h) / 64)) s
    (pageImage s p h, s)

/-- Every page of a span goes over a connection to its mirror (R224). -/
def sendSpan (p ci : Nat) (q : Seq) (r : PlaceRec) (s : State) : State :=
  (spanMap s q r).foldl (fun s e =>
    let (i, s) := sentImage p e.2 s
    sendFabric ci 7 ([r.job, r.seq, r.span, r.epoch] ++ i.poison) (i.record ++ i.tiles) s) s

/-- MIRROR_SYNC set in this node's record of a span that names a mirror (R224). -/
def syncMirror (p job seq span mirror : Nat) (s : State) : State :=
  (spanRec s p job seq span).elim s (fun e =>
    if e.2.mirror = mirror then modRec p e.1 (fun r => { r with flags := setBit r.flags 1 }) s else s)

/-- The owner sends every page of its span to the mirror (R224), and with the last sets MIRROR_SYNC in its own record, as the home does in
its. -/
def resyncSend (p ri : Nat) (s : State) : State :=
  let r := tget {} (part s p).placeRecs ri
  match seqOf s p (seqKey r.job r.seq), fabricConn s p r.mirror with
  | some q, some ci =>
    modRec p ri (fun r => { r with flags := setBit r.flags 1 }) (sendSpan p ci q r s)
  | _, _ => s

/-- The last page of a span; of an open one, the last that this node holds. -/
def spanEnd (s : State) (q : Seq) (r : PlaceRec) : Nat :=
  if spanOpen r then ((spanMap s q r).map (fun e => posPage e.1)).foldl max r.firstPage else r.lastPage

/-- The ordinal of a position in the stream of the span that this node holds (R226). -/
def spanOrd (s : State) (q : Seq) (r : PlaceRec) (pos : Nat) : Nat :=
  streamPos q.kvHeads (spanEnd s q r + 1 - r.firstPage) r.firstPage pos

/-- A data owner sends its stream to each parity member (R228): nums are the group, CODE_POS, the ordinal in the stream and
whether it is the last page. -/
def codeSend (p ri : Nat) (s : State) : State :=
  let r := tget {} (part s p).placeRecs ri
  match seqOf s p (seqKey r.job r.seq) with
  | none => s
  | some q =>
    let pages := spanMap s q r
    let ord := spanOrd s q r
    ((parityNodes r).filterMap (fabricConn s p)).foldl (fun s ci =>
      pages.zipIdx.foldl (fun s e =>
        let (i, s) := sentImage p e.1.2 s
        let last := e.2 + 1 == pages.length
        sendFabric ci 8 ([r.codeGroup, r.codePos, ord e.1.1, b2n last] ++ i.poison)
          (i.record ++ i.tiles) s) s) s

/-- The home asks the parity members of a group to answer when all streams are complete (R228); of one group it asks once (log 90). -/
def askCoded (p : Nat) (r : PlaceRec) (s : State) : State :=
  ((parityNodes r).filter (· != s.node.nodeId)).foldl (fun s n =>
    match fabricConn s p n with
    | none => s
    | some ci =>
      if (part s p).awaits.any (fun w => w.kind == 17 && w.arg == r.codeGroup && w.conn == connId s ci) then s
      else
        let (tag, s) := newTag s
        let w : Await := { conn := connId s ci, tag := tag, kind := 17, job := r.job, seq := r.seq, span := r.span, arg := r.codeGroup, at_ := now s }
        askNode ci 17 [tag, r.codeGroup, r.codeK] (modPart p (fun v => { v with awaits := v.awaits ++ [w] }) s)) s

/-- The home asks a span's owner to send its pages to a new mirror (R224). -/
def askResync (p : Nat) (r : PlaceRec) (s : State) : State :=
  match fabricConn s p r.owner with
  | none => s
  | some ci =>
    let (tag, s) := newTag s
    let w : Await := { conn := connId s ci, tag := tag, kind := 16, job := r.job, seq := r.seq, span := r.span, arg := r.mirror, at_ := now s }
    askNode ci 16 [tag, r.job, r.seq, r.span, r.mirror] (modPart p (fun v => { v with awaits := v.awaits ++ [w] }) s)

/-- A record names this node as a span's mirror: what it holds of the sequence is a mirror's copy from now on (R220, R222). -/
def becomeMirror (p : Nat) (r : PlaceRec) (s : State) : State :=
  if r.mirror ≠ s.node.nodeId || (seqOf s p (seqKey r.job r.seq)).isNone || (spanSt s p r.job r.seq true).isSome then s
  else match spanSt s p r.job r.seq false with
  | some (i, x) => if x.span = r.span then modSpan p i (fun x => { x with mirror := true, fenced := true, stream := x.epoch }) s else s
  | none => addSpan p { job := r.job, seq := r.seq, span := r.span, mirror := true, homeEpoch := myHomeEpoch s p r.job r.seq } s

/-- What follows a span record that has been placed: members created, resynchronisation and coding streams, the prompt. -/
def spanPlaced (p ri : Nat) (old : Option PlaceRec) (s : State) : State :=
  let r := tget {} (part s p).placeRecs ri
  let me := s.node.nodeId
  let home := isHome s p r.job r.seq
  let names (n : Nat) : Bool := old.elim false (fun o => o.owner == n || o.mirror == n)
  let newMirror := r.mirror != 0xFFFF && bitOf r.flags 0 && !bitOf r.flags 1 &&
    old.elim true (fun o => o.mirror != r.mirror || o.epoch != r.epoch)
  let newCode := bitOf r.flags 3 && !(old.elim false (fun o => bitOf o.flags 3))
  let s := match (if home then seqOf s p (seqKey r.job r.seq) else none) with
    | some q => createMembers p q r (fun n => !names n) s
    | none => s
  let s := if !newMirror then s else if r.owner = me then resyncSend p ri s else if home then askResync p r s else s
  let s := if newCode && r.owner = me then codeSend p ri s else s
  let s := if newCode && home then askCoded p r s else s
  let s := becomeMirror p r (epochFence p r.job r.seq r.span r.epoch 0 s)
  if r.holder = 0xFFFF then prompt p ri s else s

/-- The sequences that a partition knows of: those it holds and those of its span records. -/
def knownSeqs (s : State) (p : Nat) : List (Nat × Nat) :=
  ((part s p).seqs.map (fun e => (e.2.job, e.2.seq)) ++
    ((part s p).placeRecs.filter (fun e => e.2.kind == 0x11)).map (fun e => (e.2.job, e.2.seq))).dedup

/-- This node serves a sequence as its home: under its winning record, or with no record and a map that is no member's part (R205). -/
def servesHome (s : State) (p job seq : Nat) : Bool :=
  isHome s p job seq || ((homeRec s p job seq).isNone && (seqOf s p (seqKey job seq)).elim false (fun q => !q.member))

/-- A node that a PLACE_SET has made home prompts every span's owner (R223); of a sequence that it held before it creates the
members (R200). -/
def gainHome (p job seq : Nat) (s : State) : State :=
  (spanRecs s p job seq).foldl (fun s e =>
    let s := match seqOf s p (seqKey job seq) with
      | some q => if q.member then s else createMembers p q e.2 (fun _ => true) s
      | none => s
    prompt p e.1 (modRec p e.1 (fun x => { x with holder := 0xFFFF, leaseEnd := 0 }) s)) s

/-- The EPOCH of the winning home record of a sequence. -/
def homeEpochOf (s : State) (p job seq : Nat) : Nat := (homeRec s p job seq).elim 0 (fun e => e.2.1.epoch)

/-- What follows a home record that has been placed or deleted (R217, R222, R223): `before` is the state before it. A lease under a smaller
HOME_EPOCH is fenced; a sequence of which another node's record now wins is lost, one of which this node's record now wins, or wins under
a greater EPOCH, is gained. -/
def homesChanged (p : Nat) (before s : State) : State :=
  (knownSeqs s p).foldl (fun s e =>
    match homeRec s p e.1 e.2 with
    | none => s
    | some (_, r, _) =>
      let s := epochFence p e.1 e.2 0 0 r.epoch s
      if r.owner ≠ s.node.nodeId then (if servesHome before p e.1 e.2 then loseHome p e.1 e.2 r.owner r.epoch s else s)
      else if isHome s p e.1 e.2 && (!isHome before p e.1 e.2 || homeEpochOf before p e.1 e.2 < r.epoch) then gainHome p e.1 e.2 s
      else s) s

/-- Streams and parity members that have completed stay with a record whose coding goes on (R228). -/
def keepCoding (o r : PlaceRec) : PlaceRec :=
  if bitOf o.flags 3 && bitOf r.flags 3 && o.codeGroup == r.codeGroup then { r with codedStreams := o.codedStreams, codedBy := o.codedBy, codedShort := o.codedShort }
  else r

/-- What follows a record placed or deleted. -/
def recPlaced (p ri : Nat) (r : PlaceRec) (old : Option PlaceRec) (before s : State) : State :=
  if r.kind = 0x11 then spanPlaced p ri old s else homesChanged p before s

/-- PLACE_SET (R204, R326). -/
def cmdPlaceSet : Handler := fun _ c s =>
  let b := c.block
  let p := u16 b 0
  let op := u8 b 2
  let r := placeRecOf b
  let del := op == 2
  if p = 0 || !(part s p).exists_ then (s, some (err stNotFound))
  else if !blockIs c 0x70 || 2 < op || !zeroIn b 3 0x10 || !placeKeyOk r.key r.mask || (if del then !zeroIn b 0x30 0x70 else !placeRecOk r b) then
    (s, some (err stInvalid))
  else
    let found := (part s p).placeRecs.find? (fun e => e.2.key == r.key && e.2.mask == r.mask)
    let s := match found with
      | some (_, o) => readIndex p o.index s
      | none => s
    let found := (part s p).placeRecs.find? (fun e => e.2.key == r.key && e.2.mask == r.mask)
    let ret (index ri : Nat) : Option Reply := some (okRet (toLe 4 index ++ toLe 4 ri))
    match found with
    | some (ri, o) =>
      if del then
        let s := match entryCell s p o.index with
          | some ci => dropEntry ci (o.index % 1048576) 2 s
          | none => s
        let s1 := modPart p (fun v => { v with placeRecs := tdel v.placeRecs ri }) s
        (if o.kind = 0x10 then homesChanged p s s1 else s1, ret o.index ri)
      else if r.epoch < o.epoch then (s, some staleBehind)
      else if op = 1 && r.kind = 0x11 && (r.owner ≠ o.owner || r.mirror ≠ o.mirror) && r.epoch = o.epoch then (s, some (err stInvalid))
      else if r.epoch = o.epoch then (if sameRec r o then (s, ret o.index ri) else (s, some (err stConflict)))
      else
        let r := keepCoding o { r with index := o.index }
        (recPlaced p ri r (some o) s (modRec p ri (fun _ => r) (writeEntry p ri r s)), ret o.index ri)
    | none =>
      if op ≠ 0 then (s, some (err stNotFound))
      else
        match freeEntry s p 2 (fun k => decide (placeBank0 (part s p).match_ ≤ k)),
          findFree (thas (part s p).placeRecs) 1048576 ((part s p).placeRecs.length + 1) 0 with
        | some index, some ri =>
          let r := { r with index := index }
          (recPlaced p ri r none s (modPart p (fun v => { v with placeRecs := tset v.placeRecs ri r }) (writeEntry p ri r s)), ret index ri)
        | _, _ => (s, some (err stBusy))

/-- PLACE_SET. -/
def execPlaceSet (src : Source) (pkt : Packet) (s : State) : Host.Outcome State Fault Refusal :=
  .next (submitOp 0x0605 src pkt cmdPlaceSet s)

/-! ### Resynchronisation at the mirror (R224) -/

/-- RESYNC_PAGE (R224): a page whose tokens a write-through has already written is skipped; over a hole the page is an extension, elsewhere
an edit, which waits for nothing here and is left out where it cannot be made (R74, R192); an epoch above that of the node's own lease of
the span fences it (R222). -/
def execResyncPage (conn p job seq span epoch : Nat) (page : PageImage) (s : State) : Host.Outcome State Fault Refusal :=
  .next (if !nodeLive s then s else match fabricIdx s conn with
    | none => s
    | some ci =>
      let key := seqKey job seq
      match spanSt s p job seq true, seqOf s p key with
      | some (i, x), some q =>
        let r := recOf page.record
        let pos := posKey r.layer r.kvHead r.pageIndex
        let written := (pageOf s (handleAt q pos)).elim (handleAt q pos != 0) (fun g => decide (r.tokens ≤ g.r.tokens))
        if (connOf s ci).part ≠ p then s
        else if x.span ≠ span || epoch < x.stream || written then epochFence p job seq span epoch 0 s
        else if handleAt q pos ≠ 0 && (swapCheck s p q pos [handleAt q pos]).isSome then epochFence p job seq span epoch 0 s
        else match landPage (part s p).pool.hardFloor p key pos (handleAt q pos != 0) none page (epochFence p job seq span epoch 0 s) with
        | none => s
        | some s =>
          let s := modSeq p key (fun q => { q with len := tset q.len r.layer (max (seqLen q r.layer) (64 * r.pageIndex + r.tokens)) }) s
          modSpan p i (fun x => { x with stream := epoch }) s
      | _, _ => s)

/-! ### Answers (FABRIC_REPLY) -/

/-- The lengths that a span's owner has answered (R223): four bytes per layer after a SEQ_CREATE block that describes the
sequence, of which the home makes its root where it has none. Of a layer without tokens in a span the one before it is asked. -/
def lengthsCame (p : Nat) (w : Await) (ret : List Byte) (s : State) : State :=
  let lens := (List.range ((ret.length - 32) / 4)).map (fun i => u32 ret (32 + 4 * i))
  let key := seqKey w.job w.seq
  let s := match seqOf s p key with
    | some _ => s
    | none =>
      let q := createArgs (ret.take 32)
      if q.job ≠ w.job || q.seq ≠ w.seq then s
      else match allocBlock p (blockCells s p q 0) 1 s with
      | none => s
      | some (b, s) => setSeq p key { q with blocks := [(0, b)], member := true } s
  let fresh := lens.zipIdx.filter (fun e => e.1 != 0 && !bitOf w.arg e.2)
  let s := modSeq p key (fun q => { q with len := fresh.foldl (fun t e => tset t e.2 e.1) q.len }) s
  askLengths p w.job w.seq w.span (fresh.foldl (fun m e => m + 2 ^ e.2) w.arg) s

/-- The page that a record, tiles of a class's slot and the numbers of poisoned words carry, in one string (log 88). -/
def imageOf (cls : Nat) (b : List Byte) : PageImage :=
  let n := slotBytes cls
  let tail := b.drop (2048 + n)
  { record := b.take 2048, tiles := slice b 2048 n, poison := (List.range (tail.length / 4)).map (fun i => u32 tail (4 * i)) }

/-- STALE_EPOCH with detail 1 answers what this node sent: the HOME_EPOCH that it names is met (R206, R222); a home whose message was
answered so stops acting as home (R209, R217). -/
def movedReply (p : Nat) (w : Await) (ret : List Byte) (s : State) : State :=
  if w.kind = 10 || w.kind = 13 || w.kind = 23 then depose p w.job w.seq (u16 ret 0) (u64 ret 8) s
  else meetEpochs p w.job w.seq w.span 0 (u16 ret 0) (u64 ret 8) s

/-- An owner has answered an edit that this home forwarded (R318). With the last of them a truncation is made here too, and the command
ends; a refusal ends it with the owner's reply, whatever the others have done: a DESIGN CHOICE (log 111). -/
def editAnswered (p : Nat) (w : Await) (r : Reply) (s : State) : State :=
  let id := w.cmd.getD 0
  let key := seqKey w.job w.seq
  match tget? s.cmds id with
  | none => s
  | some c =>
    if r.status ≠ stOk then conclude id r s
    else if (part s p).awaits.any (fun x => x.kind == 10 && x.cmd == w.cmd) then s
    else if u8 c.block 0xC = 0 then
      let x := truncateHere p key c s
      conclude id x.2 x.1
    else conclude id (editRet s p key) s

/-- The home has answered a LEASE_HANDOFF of this node (R220): the node is the span's mirror from then on, in its own record too. -/
def handoffAnswered (p : Nat) (w : Await) (r : Reply) (s : State) : State :=
  match (part s p).spans.find? (fun e => e.2.job == w.job && e.2.seq == w.seq && e.2.handoff.isSome) with
  | none => s
  | some (i, x) =>
    let target := x.handoff.elim 0xFFFF (·.2.1)
    let s := if r.status = stOk then
        (spanRec s p w.job w.seq w.span).elim s (fun e => modRec p e.1 (handedOff target s.node.nodeId w.arg) s)
      else s
    conclude (w.cmd.getD 0) r (modSpan p i (fun x =>
      if r.status = stOk then { x with handoff := none, mirror := true, stream := x.epoch } else { x with handoff := none }) s)

/-- A write-through has been answered (R216): a mirror that fails is in sync no longer, in the home's record as in the owner's. -/
def writeAnswered (p : Nat) (w : Await) (ok : Bool) (s : State) : State :=
  let id := w.cmd.getD 0
  match tget? s.cmds id with
  | none => s
  | some c =>
    if c.fabric then
      let s := if ok then s else mirrorGone p w.job w.seq w.span s
      let x := ctxOf s (c.ctx.getD 0)
      let a := appendArg c.block
      handoffsGo p (conclude id { appendRet s p a.key a.layer x.skipped x.shipped with detail := if ok then 0 else 1 } s)
    else
      let s := if ok then s else (spanRec s p w.job w.seq w.span).elim s (fun e => mirrorLost p e.1 e.2 s)
      let (s, r) := partDone id w.span none s
      handoffsGo p (partEnds id r s)

/-- A neighbour has answered PAGE_RECALL for the page of a stub (R93). One that does not hold it has lost it: the entry is marked, and
LENT_LOST is posted (R94, R315). -/
def recallAnswered (p : Nat) (w : Await) (r : Reply) (s : State) : State :=
  let id := w.cmd.getD 0
  match jobOf s p id with
  | none => s
  | some j =>
    let h := handleAt ((seqOf s p j.seqKey).getD {}) w.arg
    let e := (lendOf s h).getD {}
    if r.status = stOk then
      let (s, r) := recallLanded p id w.arg (imageOf e.cls r.ret) s
      partEnds id r s
    else
      let s := modLend h (fun e => { e with recalling := false }) s
      let s := if r.status = stNotFound then loseLent p e.node (fun x => x.conn == e.conn && x.handle == e.handle) s else s
      let (s, r) := stopJob p id (if r.status = stNotFound then err stPoisoned 1 else err r.status r.detail) s
      partEnds id r s

/-- An answer to what this node sent over a fabric connection. -/
def answered (p : Nat) (w : Await) (status detail : Nat) (ret : List Byte) (s : State) : State :=
  let ok := status == stOk
  let r : Reply := { status := status, detail := detail, ret := ret }
  let id := w.cmd.getD 0
  if w.kind = 1 then partReply id w.span status detail ret s
  else if w.kind = 2 then
    if ok then holdLease p w.job w.seq w.span w.arg w.at_ w.us w.homeEpoch s
    else if status = stStale then (spanSt s p w.job w.seq false).elim s (fun e => fence p e.1 s) else s
  else if w.kind = 21 then
    match spanSt s p w.job w.seq false with
    | none => s
    | some (i, x) =>
      if x.epoch ≠ w.arg then s
      else if ok then modSpan p i (fun x => { x with sentAt := w.at_, endAt := max x.endAt (w.at_ + w.us) }) s
      else if status = stStale then fence p i s else s
  else if w.kind = 22 then handoffAnswered p w r s
  else if w.kind = 3 then
    let (s, r) := if ok then lendTaken p id w.arg (u32 ret 0) s else stopJob p id (err status) s
    partEnds id r s
  else if w.kind = 4 then modCell (hCell w.arg) (fun c => { c with lends := tdel c.lends (hSlot w.arg) }) s
  else if w.kind = 5 then recallAnswered p w r s
  else if w.kind = 6 then writeAnswered p w ok s
  else if w.kind = 10 then editAnswered p w r s
  else if w.kind = 11 then
    let key := seqKey w.job w.seq
    let x := if ok then recopyLanded p id key w.arg (imageOf ((seqOf s p key).elim 0 (·.cls)) ret) s else (s, err status detail)
    conclude id x.2 x.1
  else if w.kind = 12 then reconGot id w.span status ret s
  else if w.kind = 14 then if ok then lengthsCame p w ret s else s
  else if w.kind = 17 then if ok then
      markCoded p w.arg (modGroup p w.arg (fun r => { r with codedBy := addOnce (connOf s (w.conn % 65536)).peerNode r.codedBy }) s) else s
  else if w.kind = 16 then (if ok then syncMirror p w.job w.seq w.span w.arg s else s)
  else s

/-- FABRIC_REPLY: matched to what was sent by connection and tag; an answer that nothing awaits is dropped. -/
def fabricReply (conn tag status detail : Nat) (ret : List Byte) (s : State) : State :=
  let p := (connOf s (conn % 65536)).part
  match (part s p).awaits.find? (fun w => w.conn == conn && w.tag == tag) with
  | none => s
  | some w =>
    let s := modPart p (fun v => { v with awaits := v.awaits.filter (fun x => !(x.conn == conn && x.tag == tag)) }) s
    let s := if status = stStale && detail = 1 && w.kind ∉ [1, 3, 4, 5] then movedReply p w ret s else s
    answered p w status detail ret s

/-- FABRIC_REPLY (R219). -/
def execFabricReply (conn tag status detail : Nat) (ret : List Byte) (s : State) : Host.Outcome State Fault Refusal :=
  .next (if !nodeLive s then s else fabricReply conn tag status detail ret s)

/-! ### What another node asks (R223, R224, R228, R229; log 90) -/

/-- What this node sends for the ordinals of a stream that a reconstructor asks for (R229): per ordinal the tiles and the record, zeros
where it holds no such page; then the numbers of the words that are poisoned, four bytes each (log 88). -/
def fetchedBytes (n : Nat) (pages : List (Option PageImage)) : List Byte :=
  pages.flatMap (fun x => x.elim (zeros n) (fun i => padTo n (i.tiles ++ i.record))) ++
    pages.zipIdx.flatMap (fun e => e.1.elim [] (fun i =>
      i.poison.flatMap (fun w => toLe 4 (e.2 * (n / 4) + (if w < 512 then n / 4 - 512 + w else w - 512)))))

/-- The pages of handles, as their owner sends them. -/
def sentImages (p : Nat) : List (Option Nat) → State → List (Option PageImage) × State
  | [], s => ([], s)
  | none :: hs, s =>
    let (l, s) := sentImages p hs s
    (none :: l, s)
  | some h :: hs, s =>
    let (i, s) := sentImage p h s
    let (l, s) := sentImages p hs s
    (some i :: l, s)

/-- A parity page as the parity member that holds it sends it. -/
def parityImage (x : ParityPage) : PageImage :=
  { record := x.bytes.drop (x.bytes.length - 2048), tiles := x.bytes.take (x.bytes.length - 2048), poison := x.bad }

/-- The pages of a coding group at the ordinals asked for, of the span that this node owns in it, or else its parity pages (R229). -/
def groupPages (p group : Nat) (ords : List Nat) (s : State) : Option (List Byte × State) :=
  match (part s p).placeRecs.find? (fun e => e.2.kind == 0x11 && spanCoded e.2 && e.2.codeGroup == group && e.2.owner == s.node.nodeId) with
  | some (_, r) =>
    match seqOf s p (seqKey r.job r.seq) with
    | none => none
    | some q =>
      let (l, s) := sentImages p (ords.map (fun o => ((spanMap s q r).find? (fun e => spanOrd s q r e.1 == o)).map (·.2))) s
      some (fetchedBytes (slotBytes q.cls + 2048) l, s)
  | none =>
    match (tvals (part s p).parity).find? (fun x => x.group == group) with
    | none => none
    | some y => some (fetchedBytes y.bytes.length (ords.map (fun o => (tget? (part s p).parity (parityKey group o)).map parityImage)), s)

/-- A sequence's layout and LENGTH of every layer, as the home asks for them (R223). -/
def lengthsAnswer (q : Seq) : List Byte := createBlock q ++ (List.range q.layers).flatMap (fun l => toLe 4 (seqLen q l))

/-- The span that a home names to its owner: as this node's record has it, else with all that this node holds of the sequence. -/
def spanAsked (s : State) (p job seq span : Nat) : PlaceRec :=
  (spanRec s p job seq span).elim { job := job, seq := seq, kind := 0x11, span := span, flags := 0x20 } (·.2)

/-- A question that has come over a fabric connection: 11 a page of a mirror's copy (R318), 12 pages of a coding group for a
reconstruction (R229), 14 the lengths of a sequence (R223), 15 that a group is coded (R228), 16 the sending of a span to its mirror
(R224), 17 whether a group's streams are complete (R228), which waits until they are. -/
def askedHere (conn kind tag : Nat) (nums : List Nat) (s : State) : State :=
  let p := (connOf s (conn % 65536)).part
  let n (i : Nat) : Nat := nums.getD i 0
  let seq := seqOf s p (seqKey (n 0) (n 1))
  if kind = 11 then
    match seq.map (fun q => handleAt q (posKey (n 2) (n 3) (n 4))) with
    | some h =>
      if h = 0 then answerNode conn tag (err stNotFound) s
      else
        let (i, s) := sentImage p h s
        answerNode conn tag (okPay [] (i.record ++ i.tiles ++ i.poison.flatMap (toLe 4))) s
    | none => answerNode conn tag (err stNotFound) s
  else if kind = 15 then answerNode conn tag (okRet []) (setCoded p (building (n 0)) s)
  else if kind = 12 then
    match groupPages p (n 0) (nums.drop 1) s with
    | some (b, s) => answerNode conn tag (okPay [] b) s
    | none => answerNode conn tag (err stNotFound) s
  else if kind = 14 then
    answerNode conn tag (seq.elim (err stNotFound) (fun q => okPay [] (lengthsAnswer q))) s
  else if kind = 16 then
    match seq, fabricConn s p (n 3) with
    | some q, some ci =>
      answerNode conn tag (okRet []) (syncMirror p (n 0) (n 1) (n 2) (n 3) (sendSpan p ci q (spanAsked s p (n 0) (n 1) (n 2)) s))
    | _, _ => answerNode conn tag (err stNotFound) s
  else answerCoded p (n 0) (modPart p (fun v => { v with codeAsks := v.codeAsks ++ [(n 0, conn, tag)] }) s)

end Sys2Proof.Machine
end

