-- ==== Sys2Proof/Machine/NetOps.lean ====
section
/-! DEFINITION. Connections: paths, congestion, sending, receive pools and regions, and what their failure ends (chapter 14). -/

namespace Sys2Proof.Machine

/-- PSNs wrap at 24 bits. -/
def psnMod : Nat := 2 ^ 24
/-- The distance from one PSN up to another. -/
def psnDist (a b : Nat) : Nat := (b + psnMod - a) % psnMod
/-- LOCAL_QPN of a connection (R352). -/
def localQpn (i : Nat) : Nat := 0x800000 + i

/-- The defaults of TIMERS (R380). -/
def netTimerDflt : List Nat := [100, 7, 10, 7, 64]

/-- The TIMERS item (R380): ACK_TIMEOUT µs, RETRY_CNT, RNR_TIMER µs, RNR_RETRY, CAP_TRIES. -/
def netTimer (s : State) (p i : Nat) : Nat := setting s p 0x0102 i netTimerDflt

/-- Packets and pins are served: the node is powered, out of boot and reset, and not frozen. -/
def netLive (s : State) : Bool := nodeLive s && s.node.phase != .recovery

/-! ### Paths (R376, R377) -/

/-- A port carries traffic: STATE 3 or 5 (R376). -/
def portUsable (s : State) (g : Nat) : Bool := (portOf s g).st == 3 || (portOf s g).st == 5

/-- The node-to-path entry of a node in the ROUTES item (R376; the item's form is the model's, log 13). -/
def routeOf (s : State) (node : Nat) : List Nat :=
  let v := itemVals s 0 0x0104 []
  ((List.range (v.headD 0)).findSome? (fun i =>
    let e := (v.drop (1 + 38 * i)).take 38
    if e.headD 0xFFFF = node then some e else none)).getD []

/-- The IP address of a node in ROUTES. -/
def nodeAddr (s : State) (node : Nat) : List Byte := (List.range 4).flatMap (fun i => toLe 4 ((routeOf s node).getD (1 + i) 0))

/-- The node expected as a Weftlink port's partner. -/
def neighbourOf (s : State) (w : Nat) : Nat := let v := itemVals s 0 0x0104 []
  v.getD (1 + 38 * v.headD 0 + w) 0xFFFF

/-- A frame of a Weftlink port comes from the port's partner: any other source is not accepted (R377). -/
def fromPartner (s : State) (code : Nat) (addr : List Byte) : Bool :=
  code < 16 || addr == nodeAddr s (portOf s code).partner

/-- A path is usable (R376). -/
def pathUsable (s : State) (code : Nat) : Bool :=
  portUsable s code && (code < 16 || (portOf s code).partner == neighbourOf s (code - 16))

/-- The usable paths of a connection: port code and UDP source port (R377). -/
def connPaths (s : State) (i : Nat) : List (Nat × Nat) :=
  let c := connOf s i
  if c.kind = 2 then
    let e := routeOf s c.peerNode
    ((List.range (e.getD 5 0)).map (fun k => (e.getD (6 + 2 * k) 0, e.getD (7 + 2 * k) 0))).filter (fun q => pathUsable s q.1)
  else if !portUsable s c.port then []
  else if c.mode = 0 then [(c.port, 0xC000 + i % 0x4000)]
  else (List.range c.entropy).map (fun k => (c.port, 0xC000 + (16 * i + k) % 0x4000))

/-- The path of an entropy index: port code and UDP source port (R360, R377). -/
def pathOf (s : State) (i e : Nat) : Option (Nat × Nat) :=
  match connPaths s i with
  | [] => none
  | l => some (l.getD (if (connOf s i).mode = 0 then 0 else e % l.length) (0, 0))

/-- A setting of item NET behind those of the ports (R380): SPRAY_PORT, then the DSCP of each CLASS. -/
def netSet (s : State) (i : Nat) : Nat := (itemVals s 0 0x0103 []).getD (192 + i) (if i = 0 then 0x12B9 else 0)

/-- The peer's IP address: a node's entry in ROUTES, or PEER_ADDR. -/
def peerIp (s : State) (ci : Nat) : List Byte := let c := connOf s ci
  if c.kind = 2 then nodeAddr s c.peerNode else c.peerAddr

/-- Something leaves by a port: the port leaves LPI (R338). -/
def useTx (port : Nat) (s : State) : State := modPort port (fun g => { g with st := if g.st = 5 then 3 else g.st, lastBusy := now s }) s

/-- Mb/s of a port: its lane rate over four lanes, or eight of a Weftlink port that is not degraded (R335, R341). -/
def portMbps (s : State) (g : Nat) : Nat :=
  [0, 25, 50, 100, 200].getD (portOf s g).rate 0 * (if g < 16 || (portOf s g).width4 then 4 else 8) * 1000

/-- line_rate of a connection in Mb/s (R374). -/
def lineRate (s : State) (i : Nat) : Nat :=
  let ports := (connPaths s i).map (·.1)
  if (connOf s i).mode = 0 then (ports.head?.map (portMbps s)).getD 0
  else sumBy ports.eraseDups (portMbps s)

/-! ### Congestion (R374, R375) -/

/-- A congestion signal, at most once per CNP_INTERVAL. -/
def congest (i : Nat) (s : State) : State :=
  let x := (connOf s i).cc
  if x.signalAt.elim false (fun t => decide (now s < t + x.cnpInterval)) then
    modConn i (fun c => { c with cc := { x with signalled := true } }) s
  else
    let g : Rat := (x.g : Rat) / 65536
    modConn i (fun c => { c with cc := { x with
      target := x.rate, rate := max (x.minRate : Rat) (x.rate * (1 - x.alpha / 2)), alpha := (1 - g) * x.alpha + g
      signalAt := some (now s), signalled := true } }) s

/-- Parameters of R375 put into use. -/
def useCc (v : List Nat) (x : Cc) : Cc :=
  { x with g := v.getD 0 256, alpha0 := v.getD 1 65535, ai := v.getD 2 400, timer := v.getD 3 55, cnpInterval := v.getD 4 50
           minRate := v.getD 5 1000, pendingParams := [] }

/-- The rate timer: new CC_PARAMS take effect, and TIMER without a signal raises the rate. -/
def ccTick (i : Nat) (s : State) : State :=
  let c := connOf s i
  let x := if c.cc.pendingParams.isEmpty then c.cc else useCc c.cc.pendingParams c.cc
  let g : Rat := (x.g : Rat) / 65536
  let t : Rat := min (lineRate s i : Rat) (x.target + x.ai)
  let x := if x.signalled then { x with signalled := false } else { x with alpha := (1 - g) * x.alpha, target := t, rate := (x.rate + t) / 2 }
  modConn i (fun c => { c with cc := { x with nextTimer := now s + x.timer } }) s

/-- CC_PARAMS, 16 bytes (R375). -/
def ccParams (b : List Byte) (off : Nat) : List Nat :=
  [u16 b off, u16 b (off + 2), u32 b (off + 4), u16 b (off + 8), u16 b (off + 0xA), u32 b (off + 0xC)]

/-- Ranges of R375. -/
def ccOk (v : List Nat) : Bool :=
  1 ≤ v.getD 0 0 && 1 ≤ v.getD 2 0 && v.getD 2 0 ≤ 100000 && 1 ≤ v.getD 3 0 && v.getD 3 0 ≤ 10000 && 1 ≤ v.getD 4 0 && v.getD 4 0 ≤ 10000 &&
  1 ≤ v.getD 5 0 && v.getD 5 0 ≤ 800000

/-! ### Regions and pools (R367 to R371) -/

/-- The region that an RKEY names (R370). -/
def regionOf (s : State) (p rkey : Nat) : Option (Nat × Region) :=
  match tget? (part s p).regions (rkey % 4096) with
  | some r => if r.rkey = rkey then some (rkey % 4096, r) else none
  | none => none

/-- The state with a region changed. -/
def modRegion (p i : Nat) (f : Region → Region) (s : State) : State := modPart p (fun v => { v with regions := tmod v.regions i f }) s

/-- A message into a region has been accepted (R371). -/
def acceptInto (p i : Nat) (s : State) : State := modRegion p i (fun r => { r with accepted := r.accepted + 1, ever := r.ever + 1 }) s

/-- REGION_REVOKE completes when every accepted message has gone (R371). -/
def revokeCheck (p i : Nat) (s : State) : State :=
  match tget? (part s p).regions i with
  | some r =>
    match r.revokeCmd with
    | some cmd => if r.accepted = 0 then
        conclude cmd (okRet (toLe 4 r.refused)) (modPart p (fun v => { v with regions := tdel v.regions i }) s) else s
    | none => s
  | none => s

/-- An accepted message into a region has been delivered, refused or dropped. -/
def leaveRegion (p i : Nat) (s : State) : State := revokeCheck p i (modRegion p i (fun r => { r with accepted := r.accepted - 1 }) s)

/-- A refusal counted at a revoking region (R371). -/
def refusedAt (p rkey : Nat) (s : State) : State :=
  match regionOf s p rkey with
  | some (i, r) => if r.revoking then modRegion p i (fun r => { r with refused := r.refused + 1 }) s else s
  | none => s

/-- The state with a receive pool changed. -/
def modPool (p k : Nat) (f : Pool → Pool) (s : State) : State :=
  modPart p (fun v => { v with pools := tset v.pools k (f (tget {} v.pools k)) }) s

/-- Taking a buffer from the head of a pool (R368); its region counts the message. -/
def takeBuf (p k : Nat) (s : State) : Option (Buf × State) :=
  match (tget {} (part s p).pools k : Pool).bufs with
  | [] => none
  | b :: rest =>
    let s := modPool p k (fun q => { q with bufs := rest }) s
    some (b, match regionOf s p b.rkey with
      | some (i, _) => acceptInto p i s
      | none => s)

/-- A buffer goes back to the head of its pool, unless its region is being revoked (R365, R371). -/
def returnBuf (p k : Nat) (b : Buf) (s : State) : State :=
  match regionOf s p b.rkey with
  | some (i, r) => leaveRegion p i (if r.revoking then s else modPool p k (fun q => { q with bufs := b :: q.bufs }) s)
  | none => modPool p k (fun q => { q with bufs := b :: q.bufs }) s

/-- Writing received bytes into a region (R39, R370); bytes for a cell whose stack is off are lost. -/
def placeBytes (p i off : Nat) (b : List Byte) (s : State) : State :=
  match tget? (part s p).regions i with
  | none => s
  | some r => if cellUp s r.cell then putRaw (rawAddr s p r.cell (r.off + off)) b s else s

/-- A receive completion record (R369). -/
def recvRecord (id : Nat) (m : MsgIn) (b : Buf) (writeImm : Bool) : List Byte :=
  toLe 4 id ++ toLe 4 m.msn ++ toLe 4 (if writeImm then 0 else m.bytes) ++ toLe 4 (m.imm.getD 0) ++ toLe 4 b.rkey ++
    toLe 2 (b2n m.imm.isSome + 2 * b2n writeImm) ++ zeros 2 ++ toLe 8 b.off

/-- Posting a record to a pool's completion ring (R369, R484). -/
def postRecv (p k : Nat) (rb : List Byte) (s : State) : State :=
  drainPoolRing p k (modPart p (fun v => { v with
    poolRings := tset v.poolRings k (let r : Ring := tget {} v.poolRings k
      { r with waiting := r.waiting ++ [rb] }) }) s)

/-! ### Failure (R379) -/

/-- What a message of the node carried ends without delivery. -/
def msgFailed (ci : Nat) (m : MsgOut) (s : State) : State :=
  match m.purpose with
  | .reply => modConn ci (fun c => { c with lostReplies := c.lostReplies + 1 }) s
  | .attendWrite cmd => attendWritten cmd false s
  | .gradient ctx => gradSent ctx false s
  | .fabric => s
  | .event => s

/-- A message of the node has been acknowledged in full. -/
def msgDone (ci : Nat) (m : MsgOut) (s : State) : State :=
  if m.failed ≠ 0 then msgFailed ci m s
  else match m.purpose with
  | .attendWrite cmd => attendWritten cmd true s
  | .gradient ctx => gradSent ctx true s
  | _ => s

/-- What awaits an answer over a connection that failed ends as its rule says; a handoff waits on for its home (R219). -/
def awaitFailed (p : Nat) (w : Await) (s : State) : State :=
  if w.kind = 1 then answered p w stNoLease w.span [] s
  else if w.kind ∈ [3, 5, 6] then answered p w stBusy 0 [] s
  else if w.kind ∈ [10, 11] then answered p w stNoLease w.span [] s
  else if w.kind = 12 then answered p w stUnavail 0 [] s
  else s

/-- Failure of a fabric connection is a member's failure (R209, R379). -/
def membersFailed (id : Nat) (s : State) : State :=
  let s := s.ctxs.foldl (fun s e => e.2.subs.foldl (fun s k =>
    if k.2.conn = id && k.2.state = 0 && e.2.kind ≠ 0x0103 && e.2.kind ≠ 0 then reissue e.1 k.1 (postMember 17 e.1 k.1 s) else s) s) s
  let p := (connOf s (id % 65536)).part
  let lost := (part s p).awaits.filter (fun w => w.conn == id)
  lost.foldl (fun s w => awaitFailed p w s) (modPart p (fun v => { v with awaits := v.awaits.filter (fun w => w.conn != id) }) s)

/-- What a connection carries ends (R379): partial messages, buffers, messages of the node, members. -/
def endCarried (ci : Nat) (s : State) : State :=
  let c := connOf s ci
  let s := c.msgs.reverse.foldl (fun s m =>
    let s := match m.buf with
      | some b => returnBuf c.part c.pool b s
      | none => s
    match m.region with
    | some i => if m.isSend then s else leaveRegion c.part i s
    | none => s) s
  let s := modConn ci (fun c => { c with msgs := [], window := [], sendQ := [], unacked := [], rnrUntil := none, ackDue := none }) s
  let s := c.sendQ.foldl (fun s m => msgFailed ci m s) s
  if c.kind = 2 then membersFailed (connId s ci) s else s

/-- A connection enters ERROR (R354, R379). -/
def failConn (ci : Nat) (s : State) : State :=
  if (connOf s ci).state = 2 then s else endCarried ci (modConn ci (fun c => { c with state := 2 }) s)

/-- A connection is destroyed; a CONN_CREATE that still waits for its peer ends with the given reply. -/
def destroyConn (ci : Nat) (s : State) : State :=
  let c := connOf s ci
  let s := endCarried ci (modConn ci (fun c => { c with state := 2, capCmd := none }) s)
  let s := match c.capCmd with
    | some id => conclude id (err stTimeout) s
    | none => s
  { s with conns := tdel s.conns ci }

/-- The partition's connections destroyed, ascending. -/
def destroyConns (p : Nat) (s : State) : State :=
  (s.conns.filter (fun e => e.2.part == p)).foldl (fun s e => destroyConn e.1 s) s

/-! ### Sending (R359 to R361, R366) -/

/-- Packets of a message of so many bytes (R361). -/
def packetsOf (n : Nat) : Nat := max 1 (ceilDiv n 4096)

/-- The message of the node that holds a PSN. -/
def msgOfPsn (c : Conn) (psn : Nat) : Option MsgOut :=
  c.sendQ.find? (fun m => 0 < m.sent && decide (psnDist m.start psn < packetsOf m.bytes.length))

/-- Packet k of a message is VOID: the message was refused before the packet was first sent (R365). -/
def voided (m : MsgOut) (k : Nat) : Bool := m.failed != 0 && decide (m.voidFrom ≤ k)

/-- SFLAGS of packet k of a message. -/
def sflags (m : MsgOut) (k : Nat) (again : Bool) : Nat :=
  let last := k + 1 == packetsOf m.bytes.length
  b2n (k == 0) + 2 * b2n last + 4 * b2n again + 8 * b2n last + 16 * b2n (voided m k)

/-- The outbound association of a connection: the installed one, or on a fabric connection the one derived for the node's own
generation, a fresh one where the generation has moved (R390). -/
def outSa (s : State) (ci : Nat) : Option Sa :=
  let c := connOf s ci
  if c.kind ≠ 2 then c.saOut
  else
    let k : JobKey := tget {} (part s c.part).keys c.job
    let spi := 2 ^ 31 + k.jkg % 128 * 2 ^ 24 + c.peerQpn % 65536
    if c.saOut.elim false (fun x => x.spi == spi) then c.saOut
    else some {
      spi := spi
      kcv := kcvOf ((saKey c.job k.jkg k.secret (saEnd s.node.nodeId c.part (localQpn ci)) (saEnd c.peerNode c.peerPart c.peerQpn)).take 32) }

/-- A packet of a connection leaves on an entropy index, with the headers of R357: `fill` gives it what its kind carries. Nothing
leaves where no path is usable. -/
def sendPkt (ci e : Nat) (fill : PktOut → PktOut) (s : State) : State :=
  match pathOf s ci e with
  | none => s
  | some (port, from_) =>
    let s := modConn ci (fun c => { c with saOut := (outSa s ci).map (fun x => { x with seqNo := x.seqNo + 1, packets := x.packets + 1 }) }) (useTx port s)
    let c := connOf s ci
    let sa : Sa := c.saOut.getD {}
    emit (.packet (fill {
      conn := connId s ci, port := port, src := if c.kind = 2 then nodeAddr s s.node.nodeId else c.localAddr, dst := peerIp s ci
      dscp := netSet s (1 + c.cls), spi := sa.spi, espSeq := sa.seqNo, srcPort := from_
      dstPort := if c.mode = 0 then 4791 else netSet s 0, qpn := c.peerQpn })) s

/-- The BTH opcode of packet k of a message (R358): the node's SENDs carry no immediate, its WRITEs carry one. -/
def opcodeOf (m : MsgOut) (k : Nat) : Nat :=
  let first := k == 0
  let last := k + 1 == packetsOf m.bytes.length
  if m.send then (if first && last then 4 else if first then 0 else if last then 2 else 1)
  else if first && last then 0x0B else if first then 6 else if last then 9 else 7

/-- The Spray extension header of packet k of a message on an entropy index (R361). -/
def sehBytes (m : MsgOut) (k e : Nat) (again : Bool) : List Byte :=
  [1, BitVec.ofNat 8 (sflags m k again), BitVec.ofNat 8 e, 0] ++ toLe 4 m.msn ++ toLe 4 m.start ++
    toLe 4 (if k + 1 = packetsOf m.bytes.length then m.bytes.length else 0)

/-- One packet of a message leaves (R357, R360, R361, R372): RETH in every Spray packet of a WRITE and in its first Standard one, ImmDt
in the last. -/
def emitPacket (ci : Nat) (m : MsgOut) (k e : Nat) (again : Bool) (s : State) : State :=
  let last := k + 1 == packetsOf m.bytes.length
  let spray := (connOf s ci).mode == 1
  sendPkt ci e (fun p => { p with
    opcode := opcodeOf m k, psn := (m.start + k) % psnMod, ackReq := last, seh := if spray then sehBytes m k e again else []
    reth := if !m.send && (spray || k == 0) then some (m.rkey, m.va, m.bytes.length) else none
    imm := if !m.send && last then some m.imm else none
    payload := if voided m k then [] else slice m.bytes (4096 * k) 4096 }) s

/-- The next entropy index of a Spray connection; an index that CE_ECHO has named is passed over for TIMER (R360, R374). -/
def nextEntropy (s : State) (c : Conn) : Nat :=
  let n := max 1 c.entropy
  let order := (List.range n).map (fun i => (c.nextEntropy + i) % n)
  (order.find? (fun e => (tget 0 c.skip e) ≤ now s)).getD (c.nextEntropy % n)

/-- A message comes from the node merge unit or the hub as a reply, so that its packets take packet buffers of the send buffer. -/
def isReply (m : MsgOut) : Bool :=
  match m.purpose with
  | .reply | .attendWrite _ => true
  | _ => false
/-- Packet buffers that a connection's replies hold: one for each packet that has been sent and not acknowledged (R19, log 91). -/
def buffersUsed (c : Conn) : Nat :=
  (c.unacked.filter (fun u => c.sendQ.any (fun m => 0 < m.sent && m.msn == u.msn && isReply m))).length

/-- The next message of a connection with a packet to send. -/
def nextMsg (c : Conn) : Option MsgOut := c.sendQ.find? (fun m => decide (m.sent < packetsOf m.bytes.length))
/-- The connection may send that packet now: window (R360), wait for RNR (R359), a usable path, the reply loop's credit (R19). -/
def maySend (s : State) (ci : Nat) (m : MsgOut) : Bool :=
  let c := connOf s ci
  c.state == 1 && s.sec.mstate != 2 && c.rnrUntil.isNone && !(connPaths s ci).isEmpty &&
    (c.mode != 1 || decide (psnDist c.sndCum c.sndNext < 1024)) && (!isReply m || placesLeft Config.packetBuffers (buffersUsed c))

/-- Sending the next packet of a connection (R360): one message after another in queue order. -/
def sendNext (ci : Nat) (s : State) : State :=
  let c := connOf s ci
  match nextMsg c with
  | none => s
  | some m =>
    if !maySend s ci m then s
    else
      let first := m.sent == 0
      let m := if first then { m with msn := c.msnOut, start := c.sndNext } else m
      let e := if c.mode = 1 then nextEntropy s c else 0
      let s := emitPacket ci m m.sent e false s
      let new : Unacked := { psn := c.sndNext, msn := m.msn, sentAt := now s, entropy := e }
      let at0 := (c.sendQ.takeWhile (fun x => !decide (x.sent < packetsOf x.bytes.length))).length
      let n := if m.failed ≠ 0 then 0 else (slice m.bytes (4096 * m.sent) 4096).length
      meter c.part c.job (fun x => { x with bytesTx := sat64 x.bytesTx n }) (modConn ci (fun c => { c with
        sendQ := c.sendQ.set at0 { m with sent := m.sent + 1 }
        sndNext := (c.sndNext + 1) % psnMod, msnOut := if first then (c.msnOut + 1) % 2 ^ 32 else c.msnOut
        nextEntropy := (e + 1) % max 1 c.entropy, unacked := c.unacked ++ [new], ackedAt := if c.unacked.isEmpty then now s else c.ackedAt }) s)

/-- A connection of a higher CLASS can send (R278, R354). -/
def outranked (s : State) (ci : Nat) : Bool :=
  s.conns.any (fun e => decide ((connOf s ci).cls < e.2.cls) && (nextMsg e.2).any (maySend s e.1))

/-- Resending one PSN (R359, R366); past RETRY_CNT resends the connection enters ERROR. -/
def resendPsn (ci psn : Nat) (s : State) : State :=
  let c := connOf s ci
  match c.unacked.find? (fun u => u.psn == psn) with
  | none => s
  | some u =>
    if netTimer s c.part 1 ≤ u.resends then failConn ci s
    else match msgOfPsn c psn with
    | none => s
    | some m =>
      let e := if c.mode = 1 then (u.entropy + 1) % max 1 c.entropy else 0
      let s := emitPacket ci m (psnDist m.start psn) e true s
      modConn ci (fun c => { c with
        resends := c.resends + 1
        unacked := c.unacked.map (fun x => if x.psn = psn then { x with resends := x.resends + 1, sentAt := now s, entropy := e } else x) }) s

/-- Going back to a PSN: it and every later unacknowledged PSN are sent again in order (R359). -/
def goBack (ci psn : Nat) (s : State) : State :=
  let c := connOf s ci
  ((c.unacked.filter (fun u => decide (psnDist psn u.psn < psnMod / 2))).map (·.psn)).foldl (fun s q => resendPsn ci q s) s

/-- Everything below a PSN has been acknowledged: messages whose last PSN lies below it have been delivered. -/
def ackedTo (ci cum : Nat) (s : State) : State :=
  let c := connOf s ci
  if psnDist c.sndCum c.sndNext < psnDist c.sndCum cum || cum = c.sndCum then s
  else
    let adv := psnDist c.sndCum cum
    let done (m : MsgOut) : Bool := packetsOf m.bytes.length ≤ m.sent &&
      decide (psnDist c.sndCum ((m.start + packetsOf m.bytes.length - 1) % psnMod) < adv)
    let s := modConn ci (fun c => { c with
      sndCum := cum, sendQ := c.sendQ.filter (fun m => !done m)
      unacked := c.unacked.filter (fun u => !decide (psnDist c.sndCum u.psn < adv)) }) s
    (c.sendQ.filter done).foldl (fun s m => msgDone ci m s) s

/-! ### Entering READY (R354, R355) -/

/-- Sequence state at READY: both directions start at START_PSN, or at the two INIT_PSNs. -/
def readyConn (ci : Nat) (s : State) : State :=
  let r := lineRate s ci
  modConn ci (fun c => { c with
    state := 1, sndNext := c.initPsn, sndCum := c.initPsn, rcvCum := if c.mode = 0 then c.initPsn else c.peerInit
    msnOut := 0, msnIn := 0, msgs := [], window := [], unacked := [], sinceAck := 0, ackDue := none, nakSent := false, ceEcho := 0
    nextEntropy := 0, skip := [], rnrCount := 0, rnrUntil := none, ackedAt := now s
    cc := { c.cc with rate := r, target := r, alpha := (c.cc.alpha0 : Rat) / 65536, nextTimer := now s + c.cc.timer, signalAt := none, signalled := false } }) s

/-- ERROR to INIT: sequence state and security associations are discarded (R354). -/
def initConn (ci : Nat) (s : State) : State :=
  modConn ci (fun c => { c with
    state := 0, sendQ := [], unacked := [], msgs := [], window := [], saOut := none, saIn := [], jgIn := 0, startSet := false
    sndNext := 0, sndCum := 0, rcvCum := 0, msnIn := 0, msnOut := 0, ackDue := none, sinceAck := 0, nakSent := false, ceEcho := 0 }) s

end Sys2Proof.Machine
end

