-- ==== Sys2Proof/Machine/NetCmds.lean ====
section
/-! DEFINITION. Transport commands, the capability exchange, and the transport's own timers (chapter 14; R323, R324). -/

namespace Sys2Proof.Machine

/-! ### Creation and the capability exchange (R351 to R356) -/

/-- Connections that a partition may have (R380). -/
def connQuota (s : State) (p : Nat) : Nat :=
  if p = 0 then 65536 - sumBy (tenants s) (fun t => setting s t 0x0100 0 [0]) else setting s p 0x0100 0 [0]

/-- The default of CONN_QUOTA for a tenant that is being created (R380). -/
def quotaDefault (s : State) (p : Nat) : Nat :=
  min 2048 (64512 - sumBy ((tenants s).filter (· != p)) (fun t => setting s t 0x0100 0 [0]))

/-- A capability datagram of this node (R356). -/
def capDatagram (s : State) (ci typ : Nat) : List Byte :=
  let c := connOf s ci
  let fab := c.kind == 2
  let b := toLe 2 1 ++ [BitVec.ofNat 8 typ, BitVec.ofNat 8 (1 + 2 * b2n fab)] ++ toLe 4 (localQpn ci) ++ toLe 4 c.peerQpn ++
    toLe 4 c.initPsn ++ toLe 4 (if fab then c.job else 0) ++ toLe 2 s.node.nodeId ++ toLe 2 c.part ++ toLe 2 (if fab then c.peerPart else 0) ++
    [16, 0]
  b ++ toLe 4 (crc32c b)

/-- A capability datagram leaves in plaintext UDP to SPRAY_PORT at an address (R355), by a usable path of the connection. -/
def capSend (ci typ : Nat) (dst : List Byte) (s : State) : State :=
  match pathOf s ci 0 with
  | none => s
  | some (port, _) => emit (.datagram (connId s ci) port dst (netSet s 0) (capDatagram s ci typ)) (useTx port s)

/-- RETURN of CONN_CREATE (R323). -/
def connRet (s : State) (ci : Nat) : Reply :=
  okRet (toLe 4 (connId s ci) ++ toLe 4 (localQpn ci) ++ [BitVec.ofNat 8 (connOf s ci).mode])

/-- CONN_CREATE ends; a connection that is refused goes away (R323). -/
def capEnd (ci : Nat) (r : Option Reply) (s : State) : State :=
  match (connOf s ci).capCmd with
  | none => s
  | some id =>
    let s := modConn ci (fun c => { c with capCmd := none }) s
    match r with
    | some r => conclude id r { s with conns := tdel s.conns ci }
    | none =>
      let s := if (connOf s ci).kind = 2 then readyConn ci s else s
      conclude id (connRet s ci) s

/-- CONN_CREATE (R323, R351, R355). -/
def cmdConnCreate : Handler := fun id c s =>
  let b := c.block
  let p := c.part
  let mode := u8 b 0
  let fl := u8 b 1
  let fab := bitOf fl 0
  let kind := if fab then 2 else if bitOf fl 1 then 1 else 0
  if !blockIs c 0x30 || 2 < mode || 4 ≤ fl || u32 b 8 ≥ psnMod ||
      (if fab then mode != 1 || u32 b 4 == 0 || u16 b 2 > 0xFFF else u16 b 2 != 0 || u16 b 0xE != 0) then (s, some (err stInvalid))
  else if 63 < u8 b 0xC || 15 < u8 b 0xD then (s, some (err stNotFound))
  else if fab && !thas (part s p).keys (u32 b 4) then (s, some (err stAuth))
  else if connQuota s p ≤ (s.conns.filter (fun e => e.2.part == p)).length || 65536 ≤ s.conns.length then (s, some (err stBusy))
  else
    let (start, s) := draw s
    match findFree (thas s.conns) 65536 (s.conns.length + 1) (start % 65536) with
    | none => (s, some (err stBusy))
    | some ci =>
      let (psn, s) := if mode = 0 then (0, s) else draw s
      let reuse := (tget 0 s.reuse ci + 1) % 65536
      let x : Conn :=
        { reuse := reuse, kind := kind, mode := if mode = 0 then 0 else 1, asked := mode, part := p, job := u32 b 4, peerQpn := u32 b 8
          peerNode := u16 b 2, peerPart := u16 b 0xE, pool := u8 b 0xC, port := u8 b 0xD, peerAddr := slice b 0x10 16
          localAddr := slice b 0x20 16, initPsn := psn % psnMod, startSet := mode != 0
          cc := useCc (tget [256, 65535, 400, 55, 50, 1000] c.items 0x0101) {} }
      let s := { s with conns := tset s.conns ci x, reuse := tset s.reuse ci reuse }
      if mode = 0 then (s, some (connRet s ci))
      else
        let s := modConn ci (fun c => { c with capCmd := some id, capTries := 1, capDue := now s + 1000 }) s
        (capSend ci 1 (peerIp s ci) s, none)

/-- CONN_CREATE (R355). -/
def execConnCreate (src : Source) (pkt : Packet) (s : State) : Host.Outcome State Fault Refusal :=
  .next (submitOp 0x0501 src pkt cmdConnCreate s)

/-- CAP_RETRY (R355): a capability datagram every 1 ms; no answer after the last try. -/
def execCapRetry (ci : Nat) (s : State) : Host.Outcome State Fault Refusal :=
  .next (match tget? s.conns ci with
    | none => s
    | some c =>
      if !netLive s || c.capCmd.isNone || now s < c.capDue then s
      else
        let tries := heldSetting (tget {} s.cmds (c.capCmd.getD 0)) 0x0102 4 netTimerDflt
        let most := if c.asked = 2 then min tries 8 else tries
        if c.capTries < most then
          capSend ci 1 (peerIp s ci) (modConn ci (fun c => { c with capTries := c.capTries + 1, capDue := now s + 1000 }) s)
        else if c.asked = 1 then capEnd ci (some (err stTimeout)) s
        else capEnd ci none (modConn ci (fun c => { c with mode := 0, startSet := false }) s))

/-- A datagram is well formed (R356). -/
def capOk (d : List Byte) : Bool :=
  d.length == 32 && u16 d 0 == 1 && (u8 d 2 == 1 || u8 d 2 == 2) && u8 d 3 < 4 && u8 d 7 == 0 && u8 d 0xB == 0 && u8 d 0xF == 0 &&
  u16 d 0x14 % 0x8000 ≤ 0xFFF && 1 ≤ u8 d 0x1A && u8 d 0x1A ≤ 16 && u8 d 0x1B == 0 && u32 d 0x1C == crc32c (d.take 0x1C) &&
  (bitOf (u8 d 3) 1 || (u32 d 0x10 == 0 && u16 d 0x18 == 0))

/-- The connection of this node that a datagram matches (R356). -/
def capMatch (s : State) (addr d : List Byte) : Option (Nat × Conn) :=
  s.conns.find? (fun e =>
    e.2.state ≤ 1 && (if bitOf (u8 d 3) 1 then
      e.2.kind == 2 && e.2.job == u32 d 0x10 && e.2.peerNode == u16 d 0x14 && e.2.peerPart == u16 d 0x16 && e.2.part == u16 d 0x18
    else e.2.kind != 2 && localQpn e.1 == u32 d 8 && e.2.peerAddr == addr))

/-- CAPABILITY_DATAGRAM (R355, R356). -/
def execCapabilityDatagram (port : Nat) (fromAddr d : List Byte) (s : State) : Host.Outcome State Fault Refusal :=
  .next (if !netLive s || !portUsable s port then s
    else
      let s := latchWake s
      if !capOk d || !fromPartner s port fromAddr then s
      else match capMatch s fromAddr d with
      | none => s
      | some (ci, c) =>
        let spray := bitOf (u8 d 3) 0
        let s := if c.capCmd.isSome then
            if spray then
              capEnd ci none (modConn ci (fun c => { c with
                mode := 1, peerInit := u32 d 0xC, entropy := min 16 (u8 d 0x1A), peerQpn := if c.kind = 2 then u32 d 4 else c.peerQpn }) s)
            else if c.asked = 1 then capEnd ci (some (err stUnsupported)) s
            else capEnd ci none (modConn ci (fun c => { c with mode := 0, startSet := false }) s)
          else if c.state = 0 && spray && c.mode = 1 then
            modConn ci (fun c => { c with peerInit := u32 d 0xC, entropy := min 16 (u8 d 0x1A) }) s
          else s
        if u8 d 2 = 1 && thas s.conns ci then
          emit (.datagram (connId s ci) port fromAddr (netSet s 0) (capDatagram s ci 2)) (useTx port s) else s)

/-! ### CONN_MODIFY, CONN_DESTROY, SA_INSTALL -/

/-- The connection of the issuer's partition that OBJECT_ID names (R296, R352). -/
def connNamed (s : State) (c : Cmd) : Option Nat :=
  match if c.objectId < 2 ^ 32 then connIdx s c.objectId else none with
  | some i => if (connOf s i).part = c.part then some i else none
  | none => none

/-- CONN_MODIFY (R354). -/
def cmdConnModify : Handler := fun _ c s =>
  let b := c.block
  let mask := u32 b 0
  let new := u8 b 4
  match connNamed s c with
  | none => (s, some (err stNotFound))
  | some ci =>
    let x := connOf s ci
    let cc := ccParams b 0x10
    if !blockIs c 0x20 || 16 ≤ mask || (bitOf mask 1 && 3 < u8 b 5) || (bitOf mask 2 && psnMod ≤ u32 b 8) || (bitOf mask 3 && !ccOk cc) ||
        !zeroIn b 6 8 || !zeroIn b 0xC 0x10 then (s, some (err stInvalid))
    else
      let start := x.mode != 0 || x.startSet || bitOf mask 2
      let mayGo := (x.state == 0 && new == 1 && start && (x.kind == 2 || (x.saOut.isSome && !x.saIn.isEmpty)) && x.capCmd.isNone) ||
        (x.state == 1 && new == 2) || (x.state == 2 && new == 0)
      if (bitOf mask 0 && !mayGo) || (bitOf mask 2 && (x.state ≠ 0 || x.mode ≠ 0)) then (s, some (err stConflict))
      else
        let s := if bitOf mask 1 then modConn ci (fun c => { c with cls := u8 b 5 }) s else s
        let s := if bitOf mask 2 then modConn ci (fun c => { c with initPsn := u32 b 8, startSet := true }) s else s
        let s := if bitOf mask 3 then modConn ci (fun c => { c with cc := { c.cc with pendingParams := cc } }) s else s
        let s := if bitOf mask 0 then (if new = 1 then readyConn ci s else if new = 2 then failConn ci s else initConn ci s) else s
        (s, some (okRet [BitVec.ofNat 8 (connOf s ci).state]))

/-- CONN_MODIFY. -/
def execConnModify (src : Source) (pkt : Packet) (s : State) : Host.Outcome State Fault Refusal :=
  .next (submitOp 0x0502 src pkt cmdConnModify s)

/-- CONN_DESTROY (R379). -/
def cmdConnDestroy : Handler := fun _ c s =>
  match connNamed s c with
  | none => (s, some (err stNotFound))
  | some ci => if !blockIs c 0 then (s, some (err stInvalid)) else (destroyConn ci s, some (okRet []))

/-- CONN_DESTROY. -/
def execConnDestroy (src : Source) (pkt : Packet) (s : State) : Host.Outcome State Fault Refusal :=
  .next (submitOp 0x0503 src pkt cmdConnDestroy s)

/-- SA_INSTALL (R373, R390). -/
def cmdSaInstall : Handler := fun _ c s =>
  let b := c.block
  match connNamed s c with
  | none => (s, some (err stNotFound))
  | some ci =>
    let x := connOf s ci
    let kcv := kcvOf (slice b 0x20 32)
    let sa : Sa := { spi := u32 b 4, kcv := kcv }
    if !blockIs c 0x40 || 1 < u8 b 0 || !zeroIn b 1 4 || !zeroIn b 0xC 0x20 || 2 ^ 31 ≤ u32 b 4 then (s, some (err stInvalid))
    else if x.kind = 2 || (u8 b 0 = 1 && 2 ≤ x.saIn.length) then (s, some (err stConflict))
    else
      let s := if u8 b 0 = 0 then modConn ci (fun c => { c with saOut := some sa }) s
        else modConn ci (fun c => { c with saIn := c.saIn ++ [sa] }) s
      (s, some (okRet (toLe 4 kcv)))

/-- SA_INSTALL. -/
def execSaInstall (src : Source) (pkt : Packet) (s : State) : Host.Outcome State Fault Refusal :=
  .next (submitOp 0x0506 src pkt cmdSaInstall s)

/-! ### Regions and pools -/

/-- REGION_REGISTER (R370). -/
def cmdRegionRegister : Handler := fun _ c s =>
  let b := c.block
  let p := c.part
  let cl := u8 b 0
  let off := u64 b 8
  let len := u32 b 0x10
  let share := rawRows s p * 1024
  if !blockIs c 0x14 || 1 < u8 b 1 || !zeroIn b 2 8 || len = 0 || 2048 * share ≤ off || share < off % max 1 share + len ||
      off % max 1 share / 1024 < rawRows s p - heldSetting c 0x30 0 [0] then (s, some (err stInvalid))
  else if cl ∉ partCells s p then (s, some (err stNotFound))
  else match findFree (thas (part s p).regions) 4096 4096 0 with
  | none => (s, some (err stBusy))
  | some i =>
    let (t, s) := draw s
    let rkey := (t % (2 ^ 20 - 1) + 1) * 4096 + i
    let r : Region := { rkey := rkey, cell := cl, off := off, len := len, writable := u8 b 1 == 1 }
    (modPart p (fun v => { v with regions := tset v.regions i r }) s, some (okRet (toLe 4 rkey)))

/-- REGION_REGISTER. -/
def execRegionRegister (src : Source) (pkt : Packet) (s : State) : Host.Outcome State Fault Refusal :=
  .next (submitOp 0x0504 src pkt cmdRegionRegister s)

/-- REGION_REVOKE (R371): revoking at once, buffers withdrawn; it completes after the drain. -/
def cmdRegionRevoke : Handler := fun id c s =>
  let p := c.part
  match regionOf s p c.objectId with
  | none => (s, some (err stNotFound))
  | some (i, r) =>
    if !blockIs c 0 then (s, some (err stInvalid))
    else if r.revoking then (s, some (err stNotFound))
    else
      let s := modPart p (fun v => { v with
        pools := v.pools.map (fun e => (e.1, { e.2 with bufs := e.2.bufs.filter (fun q => q.rkey != r.rkey) })) }) s
      (revokeCheck p i (modRegion p i (fun r => { r with revoking := true, refused := 0, revokeCmd := some id }) s), none)

/-- REGION_REVOKE. -/
def execRegionRevoke (src : Source) (pkt : Packet) (s : State) : Host.Outcome State Fault Refusal :=
  .next (submitOp 0x0505 src pkt cmdRegionRevoke s)

/-- SRQ_POST (R368). -/
def cmdSrqPost : Handler := fun _ c s =>
  let b := c.block
  let p := c.part
  let k := u8 b 0
  let n := u16 b 2
  let bufs : List Buf := (List.range n).map (fun i => { rkey := u32 b (0x20 + 16 * i), len := u32 b (0x24 + 16 * i), off := u64 b (0x28 + 16 * i) })
  let v : Pool := tget {} (part s p).pools k
  let want := if v.posted = 0 then (bufs.headD {}).len else v.bufLen
  let good (q : Buf) : Bool := q.len == want && 1 ≤ q.len && (match regionOf s p q.rkey with
    | some (_, r) => !r.revoking && q.off + q.len ≤ r.len
    | none => false)
  if n = 0 || 4096 < n || b.length ≠ 0x20 + 16 * n || u8 b 1 ≠ 0 || !zeroIn b 4 0x20 || !bufs.all good then (s, some (err stInvalid))
  else if 63 < k then (s, some (err stNotFound))
  else if 16384 < v.bufs.length + n then (s, some (err stBusy))
  else (modPool p k (fun v => { v with bufLen := want, bufs := v.bufs ++ bufs, posted := v.posted + n }) s, some (okRet (toLe 4 n)))

/-- SRQ_POST. -/
def execSrqPost (src : Source) (pkt : Packet) (s : State) : Host.Outcome State Fault Refusal :=
  .next (submitOp 0x0507 src pkt cmdSrqPost s)

/-! ### Timers and signals of a connection (R359, R364, R366, R374) -/

/-- A connection that is READY on a live node, by its index. -/
def readyConnAt (s : State) (ci : Nat) : Bool := netLive s && (tget? s.conns ci).elim false (fun c => c.state == 1)

/-- A connection by QPN (R352). -/
def qpnConn (s : State) (qpn : Nat) : Option Nat :=
  if 0x800000 ≤ qpn && readyConnAt s (qpn - 0x800000) then some (qpn - 0x800000) else none

/-- CC_TIMER (R374). -/
def execCcTimer (ci : Nat) (s : State) : Host.Outcome State Fault Refusal :=
  .next (if readyConnAt s ci && (connOf s ci).cc.nextTimer ≤ now s then ccTick ci s else s)


/-- ACK_TIMEOUT: in Standard mode since any acknowledgement came, or since the wait for one began (R359); in Spray mode since the PSN was
last sent (R366). -/
def execAckTimeout (ci psn : Nat) (s : State) : Host.Outcome State Fault Refusal :=
  .next (if !readyConnAt s ci then s
    else
      let c := connOf s ci
      match c.unacked.find? (fun u => u.psn == psn && !u.marked) with
      | none => s
      | some u =>
        if now s < (if c.mode = 1 then u.sentAt else c.ackedAt) + netTimer s c.part 0 || c.rnrUntil.isSome then s
        else if c.mode = 1 then resendPsn ci psn s
        else goBack ci ((c.unacked.head?.map (·.psn)).getD psn) (modConn ci (fun c => { c with ackedAt := now s }) s))

/-- The RNR NAKs that a message has met, with the one that has just come (R359). -/
def rnrTries (c : Conn) (msn : Nat) : Nat := if c.rnrMsn = msn then c.rnrCount + 1 else 1

/-- The message that an RNR NAK names waits for the peer's timer; after RNR_RETRY of them for one message the connection enters ERROR
(R359). -/
def rnrWait (ci psn : Nat) (s : State) : State :=
  match msgOfPsn (connOf s ci) psn with
  | none => s
  | some m =>
    if netTimer s (connOf s ci).part 3 ≤ rnrTries (connOf s ci) m.msn then failConn ci s
    else modConn ci (fun c => { c with rnrCount := rnrTries c m.msn, rnrMsn := m.msn, rnrUntil := some (now s) }) s

/-- An RNR NAK (R358, R359): it acknowledges what came before its PSN, and the message of its PSN waits. -/
def rnrMet (ci psn : Nat) (s : State) : State :=
  rnrWait ci psn (modConn ci (fun c => { c with ackedAt := now s }) (ackedTo ci psn s))

/-- RNR_TIMER_EXPIRY (R359): the NAK's timer has run out, and the message is sent again. -/
def execRnrTimerExpiry (ci : Nat) (s : State) : Host.Outcome State Fault Refusal :=
  .next (if readyConnAt s ci && (connOf s ci).rnrUntil.isSome then
    let s := modConn ci (fun c => { c with rnrUntil := none }) s
    (connOf s ci).unacked.foldl (fun s u => match msgOfPsn (connOf s ci) u.psn with
      | some m => emitPacket ci m (psnDist m.start u.psn) 0 true
          (modConn ci (fun c => { c with unacked := c.unacked.map (fun x => if x.psn = u.psn then { x with sentAt := now s } else x) }) s)
      | none => s) s
  else s)

/-- PACKET_SEND (R360); a connection of a higher CLASS that can send goes first (R278, log 106). -/
def execPacketSend (ci : Nat) (s : State) : Host.Outcome State Fault Refusal :=
  .next (if readyConnAt s ci && !outranked s ci then sendNext ci s else s)

/-- The SACK block of a Spray connection (R364). -/
def sackBlock (c : Conn) (code msn : Nat) : List Byte :=
  toLe 4 c.rcvCum ++ toLe 2 c.ceEcho ++ [BitVec.ofNat 8 code, 0] ++ toLe 4 (if code = 0 then 0 else msn) ++ zeros 4 ++
    toLe 128 (maskOf (c.window.map (psnDist c.rcvCum)))

/-- An acknowledgement packet: BTH Acknowledge with the AETH of a syndrome and the count of messages received, and in Spray mode the
SACK block (R357, R359, R364). It leaves on entropy index 0 (log 106). -/
def ackPkt (ci psn syn : Nat) (sack : List Byte) (s : State) : State :=
  let m := (connOf s ci).msnIn
  sendPkt ci 0 (fun p => { p with opcode := 0x11, psn := psn, aeth := some (syn * 2 ^ 24 + m % 2 ^ 24), sack := sack }) s

/-- Acknowledging what has been received; a refusal names its message (R359, R364). -/
def sendAck (ci code msn : Nat) (s : State) : State :=
  let c := connOf s ci
  let s := ackPkt ci ((c.rcvCum + psnMod - 1) % psnMod) 0x1F (if c.mode = 1 then sackBlock c code msn else []) s
  modConn ci (fun c => { c with sinceAck := 0, ackDue := none, ceEcho := 0 }) s

/-- ACK_DELAY_EXPIRY (R359, R364): 4 µs after the last packet. -/
def execAckDelayExpiry (ci : Nat) (s : State) : Host.Outcome State Fault Refusal :=
  .next (if readyConnAt s ci then
    (match (connOf s ci).ackDue with
     | some t => if t ≤ now s then sendAck ci 0 0 s else s
     | none => s)
  else s)

/-- A packet received is acknowledged at the sixteenth, on request, or 4 µs later. -/
def noteAck (ci : Nat) (ask : Bool) (s : State) : State :=
  let s := modConn ci (fun c => { c with sinceAck := c.sinceAck + 1, ackDue := some (now s + 4) }) s
  if ask || 16 ≤ (connOf s ci).sinceAck then sendAck ci 0 0 s else s

/-! ### Security associations of received packets (R372, R373, R390) -/

/-- The sequence number is new and within the anti-replay window of 4,096 (R372). -/
def replayOk (x : Sa) (n : Nat) : Bool := decide (x.seqNo < n + 4096) && !(n ∈ x.seen) && n != 0

/-- Recording a sequence number. -/
def replayNote (x : Sa) (n : Nat) : Sa :=
  let top := max x.seqNo n
  { x with seqNo := top, packets := x.packets + 1, seen := (n :: x.seen).filter (fun k => decide (top < k + 4096)) }

/-- The sender's generation that a fabric SPI means (R390). -/
def spiGen (jIn own spi : Nat) : Nat :=
  let b := if jIn ≠ 0 then jIn else max 1 (own - 64)
  b + (bitsOf spi 24 7 + 128 - b % 128) % 128

/-- A packet that fails its association or its window is dropped and counted. -/
def dropPacket (ci : Nat) (s : State) : State := modConn ci (fun c => { c with dropped := c.dropped + 1 }) s

/-- A job's generation rises on receipt of a later one (R390). -/
def raiseJkg (p job j : Nat) (s : State) : State :=
  modPart p (fun v => { v with keys := tmod v.keys job (fun k => if k.jkg < j then { k with jkg := j } else k) }) s

/-- The inbound security association of a packet: authenticates it and notes its sequence number, or drops it. -/
def authPacket (ci spi : Nat) (auth : Bool) (n : Nat) (s : State) : Option State :=
  let c := connOf s ci
  let ok (x : Sa) : Bool := replayOk x n
  let note (x : Sa) : Sa := replayNote x n
  if c.kind = 2 then
    let own := (tget {} (part s c.part).keys c.job).jkg
    let j := spiGen c.jgIn own spi
    if !auth || s.sec.mstate = 2 || !bitOf spi 31 || bitsOf spi 16 8 ≠ 0 || spi % 65536 ≠ ci || j < c.jgIn then none
    else
      let key (_ : Unit) : List Byte := saKey c.job j (tget {} (part s c.part).keys c.job : JobKey).secret
        (saEnd c.peerNode c.peerPart c.peerQpn) (saEnd s.node.nodeId c.part (localQpn ci))
      let x : Sa := (c.saIn.find? (fun x => x.spi == spi)).getD { spi := spi, kcv := kcvOf ((key ()).take 32) }
      if !ok x then none
      else some (raiseJkg c.part c.job j (modConn ci (fun c => { c with saIn := [note x], jgIn := j }) s))
  else match c.saIn.find? (fun x => x.spi == spi) with
  | none => none
  | some x =>
    if !auth || !ok x then none
    else
      let newer := c.saIn.length == 2 && (c.saIn.getD 1 {}).spi == spi
      some (modConn ci (fun c => { c with saIn := if newer then [note x] else c.saIn.map (fun y => if y.spi = spi then note y else y) }) s)

/-! ### SPRAY_ACK_RECEIVE (R364 to R366) -/

/-- The sender takes a Spray acknowledgement. -/
def takeSack (ci : Nat) (a : Sack) (s : State) : State :=
  let s := ackedTo ci (a.cum % psnMod) s
  let s := modConn ci (fun c => { c with
    unacked := c.unacked.map (fun u => if psnDist a.cum u.psn < 1024 && bitOf a.bitmap (psnDist a.cum u.psn) then { u with marked := true } else u)
    sendQ := if a.nakCode = 0 then c.sendQ else c.sendQ.map (fun m =>
      if m.msn = a.nakMsn && 0 < m.sent && m.failed = 0 then { m with failed := a.nakCode, voidFrom := m.sent } else m)
    refusals := c.refusals + (if a.nakCode = 0 then 0 else 1)
    skip := (bitList a.ceEcho 16).foldl (fun t e => tset t e (now s + c.cc.timer)) c.skip }) s
  let s := if a.ceEcho = 0 then s else congest ci s
  let marked := ((bitList a.bitmap 1024).map (fun j => j))
  let again := (connOf s ci).unacked.filter (fun u => let d := psnDist a.cum u.psn
    !u.marked && d < 1024 && 8 ≤ (marked.filter (fun j => decide (d < j))).length)
  again.foldl (fun s u => resendPsn ci u.psn s) s

/-! ### ARP and Neighbour Discovery (R377) -/

/-- The node's own addresses on an Ethernet port: the NET item's fields of the port (log 13). -/
def ownAddr (s : State) (port : Nat) (nd : Bool) : List Byte :=
  let v := (itemVals s 0 0x0103 []).drop (12 * port)
  if nd then (List.range 4).flatMap (fun i => toLe 4 (v.getD (3 + i) 0)) else toLe 4 (v.getD 0 0)

/-- ARP_ND_RECEIVE (R377): requests for an own address are answered; senders enter the cache of 4,096. -/
def execArpNdReceive (port : Nat) (isNd isRequest : Bool) (target sender mac : List Byte) (s : State) : Host.Outcome State Fault Refusal :=
  .next (if !netLive s || 16 ≤ port || !portUsable s port then s
    else
      let own := ownAddr s port isNd
      let mine := target == own && !allZero own
      let s := if isRequest && mine then emit (.neighbour port (own ++ sender ++ mac)) (useTx port s) else s
      if mine || !isRequest then
        { s with neigh := ({ addr := sender, mac := mac } :: s.neigh.filter (fun n => n.addr != sender)).take 4096 }
      else s)

end Sys2Proof.Machine
end

