-- ==== Sys2Proof/Machine/Links.lean ====
section
/-! DEFINITION. Lanes, ports and link negotiation (chapter 13). Ports are numbered by port code: 0 to 15 Ethernet, 16 to 23
Weftlink. -/

namespace Sys2Proof.Machine

/-- A group's setting: 0 USE, 1 ETH_ADV, 2 AN_EN, 3 FORCE_SPEED, 4 EEE_ADV, 5 MEDIA (R333). -/
def laneSet (s : State) (g i : Nat) : Nat := (itemVals s 0 0x01F0 []).getD (6 * g + i) ([1, 0xF, 1, 3, 1, 0].getD i 0)
/-- A Weftlink port's setting: 0 WL_RATES, 1 ALLOW_4, 2 PARK_EN, 3 FAST_EN (R334). -/
def weftSet (s : State) (w i : Nat) : Nat := (itemVals s 0 0x01F1 []).getD (4 * w + i) ([0xF, 1, 1, 1].getD i 0)

/-- A port exists (R330, R331). -/
def portExists (s : State) (g : Nat) : Bool :=
  if g < 16 then laneSet s g 0 == 1
  else g < 24 && laneSet s (2 * (g - 16)) 0 == 2 && laneSet s (2 * (g - 16) + 1) 0 == 2

/-- The port whose values XPT_GROUP_STAT[g] shows (R349): the Weftlink port of both its groups, or the group's own. -/
def groupPort (s : State) (g : Nat) : Nat := if portExists s (16 + g / 2) then 16 + g / 2 else g

/-- The link layers and the always-on domain run (R347, R350). -/
def linkLive (s : State) : Bool := s.node.phase != .off && s.node.phase != .tripped

/-- A port carries traffic or is parked. -/
def portUp (p : Port) : Bool := p.st == 3 || p.st == 4 || p.st == 5

/-- LINK_EVT is set, and when it was clear raises the operator's link vector (R349, R482, R483). -/
def linkEvent (g : Nat) (s : State) : State :=
  let s' := modPort g (fun p => { p with evt := true }) s
  if (portOf s g).evt then s' else raiseMsi 0 68 s'

/-- The pages that a port with AN_EN sends (R336): the speeds advertised, the kind of PHY type, EEE capability. Clause 73's own layout
is not the spec's (log 5). -/
def ownPage (s : State) (g : Nat) : List Byte :=
  [BitVec.ofNat 8 (laneSet s g 1), BitVec.ofNat 8 (laneSet s g 5), BitVec.ofNat 8 (laneSet s g 4)]

/-- A port starts negotiating: auto-negotiation or exchange, or training at the forced speed (R336, R340). What the always-on domain
keeps of the last session stays (R347). -/
def startPort (g : Nat) (s : State) : State :=
  if !portExists s g then modPort g (fun p => { p with st := 0 }) s
  else if g < 16 && laneSet s g 2 = 0 then
    modPort g (fun p => { p with
      st := 2, run := 0, rate := laneSet s g 3 + 1, fec := if laneSet s g 3 = 0 then 1 else 2, cable := laneSet s g 5 == 1, eeeOn := false
      fast := false, fastAt := none, since := now s }) s
  else
    let s := modPort g (fun p => { p with st := 1, run := 0, fast := false, parkAsked := false, since := now s }) s
    if g < 16 then emit (.link g 5 (ownPage s g)) s else s

/-- A port goes down and negotiates again (R344, R349). -/
def downPort (g : Nat) (s : State) : State :=
  let s := if portUp (portOf s g) then linkEvent g (modPort g (fun p => { p with downs := satAdd 0xFFFF p.downs 1 }) s) else s
  startPort g s

/-- A port asks its partner to park it (R345). -/
def askPark (g : Nat) (s : State) : State := emit (.link g 2 []) (modPort g (fun p => { p with parkAsked := true }) s)

/-- The training result that a port stores with its session (R347): per lane the equaliser settings at the negotiated rate, and for a
Weftlink also at 25 Gb/s; their values are the training's (log 3). -/
def storeTaps (g : Nat) (s : State) : State :=
  let (n, s) := draw s
  modPort g (fun p =>
    let lanes := if g < 16 || p.width4 then 4 else 8
    { p with coef := true, taps := (List.range lanes).map (Config.trained n 0), taps25 := if g < 16 then [] else (List.range lanes).map (Config.trained n 1) }) s

/-- What a port discards with its stored coefficients. -/
def dropTaps (p : Port) : Port := { p with coef := false, taps := [], taps25 := [], tag := 0, fastAt := none }

/-- A port comes up; one that comes up in Drizzle parks at once (R345), or enters LPI (R338). -/
def upPort (g : Nat) (s : State) : State :=
  let s := linkEvent g (modPort g (fun p => { p with st := 3, fastLast := p.fast, fastAt := none, lastBusy := now s }) (storeTaps g s))
  if s.node.phase = .drizzle then
    (if g < 16 then (if (portOf s g).eeeOn then modPort g (fun p => { p with st := 5 }) s else s)
     else if (portOf s g).park then askPark g s else s)
  else s

/-! ### Ethernet (R336 to R339) -/

/-- AUTONEG (R336, R348): the partner's technologies and EEE; bit k of `speeds` is the backplane PHY type of the speed of code k, bit
4 + k the copper-cable one. -/
def execAutoneg (g page speeds : Nat) (eee : Bool) (s : State) : Host.Outcome State Fault Refusal :=
  .next (let p := portOf s g
    if !linkLive s || 16 ≤ g || !portExists s g || laneSet s g 2 = 0 then s
    else
      let s := if portUp p || p.st = 2 then downPort g s else s
      let kind := laneSet s g 5
      match ((List.range 4).filter (fun k => bitOf (laneSet s g 1) k && bitOf speeds (4 * kind + k))).getLast? with
      | none => modPort g (fun p => { dropTaps p with st := 6, page := page }) s
      | some k =>
        let fast := p.coef && p.page == page
        modPort g (fun p => { (if fast then p else dropTaps p) with
          st := 2, rate := k + 1, fec := if k = 0 then 1 else 2, cable := kind == 1, eeeOn := eee && laneSet s g 4 == 1, speed := k, since := now s
          fast := fast, fastAt := if fast then some (p.fastAt.getD (now s)) else none, page := page }) s)

/-- LINK_TRAINING_DONE (R337): the PCS reports link status OK. -/
def execLinkTrainingDone (g : Nat) (s : State) : Host.Outcome State Fault Refusal :=
  .next (if linkLive s && g < 16 && portExists s g && (portOf s g).st = 2 then upPort g s else s)

/-- LINK_LOCK_TIMEOUT (R337). -/
def execLinkLockTimeout (g : Nat) (s : State) : Host.Outcome State Fault Refusal :=
  .next (if linkLive s && g < 16 && portExists s g && (portOf s g).st = 2 then startPort g s else s)

/-- LPI_ENTRY (R338, R344): only where both sides advertised it; a MAC whose transmit queue has been empty for 2 µs. -/
def execLpiEntry (g : Nat) (s : State) : Host.Outcome State Fault Refusal :=
  .next (let p := portOf s g
    if linkLive s && portExists s g && p.st = 3 && p.eeeOn && (16 ≤ g || decide (p.lastBusy + 2 ≤ now s)) then
      modPort g (fun p => { p with st := 5 }) s
    else s)

/-- CONTROL_FRAME_RECEIVE (R339): PAUSE and PFC frames are discarded and counted. -/
def execControlFrameReceive (g : Nat) (s : State) : Host.Outcome State Fault Refusal :=
  .next (if linkLive s && g < 16 && portExists s g && portUp (portOf s g) then
    modPort g (fun p => { p with ctrlDrops := satAdd 0xFFFF p.ctrlDrops 1 }) s else s)

/-! ### Weftlink (R340 to R344) -/

/-- This node's capability block (R340); FAST_RETRAIN is left out until the stored state has been checked (R350). -/
def ownBlock (s : State) (w : Nat) : List Byte :=
  let fast := weftSet s w 3 == 1 && s.node.linkChecked
  let b := [1, BitVec.ofNat 8 (weftSet s w 0), BitVec.ofNat 8 (1 + 2 * weftSet s w 1), 7] ++
    toLe 2 (weftSet s w 2 + 2 * b2n fast + 4) ++ toLe 2 s.node.nodeId ++ [BitVec.ofNat 8 w, BitVec.ofNat 8 s.node.trayPos] ++
    toLe 2 (portOf s (16 + w)).tag
  b ++ toLe 4 (crc32c b)

/-- The always-on domain checks its stored state at a time that the spec leaves free (R350, log 103). -/
def checkStored (s : State) : State :=
  if s.node.linkChecked then s
  else
    let (n, s) := draw s
    modNode (fun k => { k with linkChecked := n % 2 == 1 }) s

/-- A block that is not ignored (R340): VERSION 1 and no reserved bit set. -/
def blockKnown (b : List Byte) : Bool :=
  b.length == 16 && u8 b 0 == 1 && u8 b 1 < 16 && u8 b 2 < 4 && u8 b 3 < 8 && u16 b 4 < 8 && u16 b 6 < 4096
/-- A block is valid (R340): it is not ignored, and its CRC agrees. -/
def blockOk (b : List Byte) : Bool := blockKnown b && u32 b 0xC == crc32c (b.take 12)

/-- The best common mode of two blocks (R341): lane rate code, FEC code, whether it runs 4 lanes. -/
def commonMode (a b : List Byte) : Option (Nat × Nat × Bool) :=
  let rates := Nat.land (u8 a 1) (u8 b 1)
  let lanes := Nat.land (u8 a 2) (u8 b 2)
  let fecs := Nat.land (u8 a 3) (u8 b 3)
  let best := ([3, 2, 1, 0].filter (bitOf rates)).findSome? (fun k =>
    let f := if 2 ≤ k then (if bitOf fecs 2 then some 2 else none) else ([2, 1, 0].find? (bitOf fecs))
    f.map (fun f => (k + 1, f)))
  match best with
  | none => none
  | some (r, f) => if bitOf lanes 0 then some (r, f, false) else if bitOf lanes 1 then some (r, f, true) else none

/-- The partner's third equal block in succession (R341, R342, R348): a shared node ID, fast retrain, no common mode, or cold
training. The leader of cold training sends coefficient requests. -/
def leaveExchange (g : Nat) (b : List Byte) (s : State) : State :=
  let p := portOf s g
  let own := ownBlock s (g - 16)
  let feats := Nat.land (u16 own 4) (u16 b 4)
  let fast := bitOf feats 1 && u16 b 6 == p.partner && u8 b 8 == p.page && u16 b 0xA == p.tag && p.tag != 0
  let keep (p : Port) : Port := { p with partner := u16 b 6, page := u8 b 8, park := bitOf feats 0, eeeOn := bitOf feats 2, since := now s }
  let lead (s : State) : State := if s.node.nodeId < u16 b 6 then emit (.link g 6 []) s else s
  if u16 b 6 = s.node.nodeId then modPort g (fun p => { p with st := 7 }) s
  else if fast then lead (modPort g (fun p => { keep p with st := 2, fast := true, fastAt := some (p.fastAt.getD (now s)) }) s)
  else match commonMode own b with
  | none => modPort g (fun p => { keep p with st := 6 }) s
  | some (r, f, four) =>
    lead (modPort g (fun p => { keep p with
      st := 2, rate := r, fec := f, width4 := four, degraded := false, goodGroup := none, fast := false, fastAt := none }) s)

/-- CAPABILITY_BLOCK (R340, R341, R342, R344, R348): at the third equal block in succession the port leaves the exchange. A block whose
CRC is wrong breaks the succession. In training the same block is the partner's that is still in the exchange, and another one
restarts it. -/
def execCapabilityBlock (g : Nat) (b : List Byte) (s : State) : Host.Outcome State Fault Refusal :=
  .next (if !linkLive s || g < 16 || !portExists s g || !blockKnown b then s
    else if !blockOk b then modPort g (fun p => { p with run := 0 }) s
    else if (portOf s g).st = 2 && (portOf s g).block = b then s
    else
      let s := checkStored (if portUp (portOf s g) || (portOf s g).st = 2 then downPort g s else s)
      let p := portOf s g
      let run := if p.block = b then p.run + 1 else 1
      let s := modPort g (fun p => { p with block := b, run := run }) s
      if run < 3 then s else leaveExchange g b s)

/-- CAPABILITY_BLOCK_REPEAT (R340, R350): every 10 µs until both sides have left the exchange, of which the end of training tells. -/
def execCapabilityBlockRepeat (g : Nat) (s : State) : Host.Outcome State Fault Refusal :=
  .next (let p := portOf s g
    if linkLive s && 16 ≤ g && portExists s g && !portUp p && p.blockAt.elim true (fun t => decide (t + 10 ≤ now s)) then
      let s := checkStored s
      emit (.link g 1 (ownBlock s (g - 16))) (modPort g (fun p => { p with blockAt := some (now s) }) s)
    else s)

/-- WEFT_TRAINING_DONE (R342, R343): `failed` marks the lanes that did not pass, of which a degraded port uses one
group's; `tag` is the partner's COEF_TAG where the
partner leads. The leader's final training frame carries the tag that it has drawn. -/
def execWeftTrainingDone (g failed tag : Nat) (s : State) : Host.Outcome State Fault Refusal :=
  .next (let p := portOf s g
    if !linkLive s || g < 16 || !portExists s g || p.st ≠ 2 then s
    else
      let failed := match p.goodGroup with
        | some q => if p.width4 then failed / 16 ^ q % 16 * 16 ^ q else failed % 256
        | none => failed % 256
      let oneGroup := failed % 16 = 0 || failed / 16 = 0
      let four := weftSet s (g - 16) 1 == 1 && bitOf (u8 p.block 2) 1
      if failed = 0 || (!p.width4 && oneGroup && four) then
        let lead := s.node.nodeId < p.partner
        let (d, s) := if lead then draw s else (0, s)
        let t := if lead then d % 65535 + 1 else tag % 65536
        let s := if lead then emit (.link g 7 (toLe 2 t)) s else s
        let s := modPort g (fun p => if failed = 0 then { p with tag := t }
          else { p with tag := t, degraded := true, width4 := true, goodGroup := some (if failed % 16 = 0 then 0 else 1) }) s
        upPort g s
      else startPort g s)

/-- LINK_LOSS (R344). -/
def execLinkLoss (g : Nat) (s : State) : Host.Outcome State Fault Refusal :=
  .next (if linkLive s && portExists s g && portUp (portOf s g) then downPort g s else s)

/-! ### Parking (R345, R346) -/

/-- PARK_REQ from the partner: always answered with PARK_ACK. -/
def execParkReq (g : Nat) (s : State) : Host.Outcome State Fault Refusal :=
  .next (let p := portOf s g
    if linkLive s && 16 ≤ g && portExists s g && portUp p && p.park then
      emit (.link g 3 []) (modPort g (fun p => { p with st := 4, parkAsked := false }) s)
    else s)

/-- PARK_ACK: both sides switch to lane 0 at 25 Gb/s. -/
def execParkAck (g : Nat) (s : State) : Host.Outcome State Fault Refusal :=
  .next (if linkLive s && 16 ≤ g && portExists s g && (portOf s g).parkAsked && portUp (portOf s g) then
    modPort g (fun p => { p with st := 4, parkAsked := false }) s else s)

/-- UNPARK (R346): every lane restored and checked; a failed check leads to the exchange, for
fast retrain under R348. It wins over a PARK_REQ that crosses
it. -/
def execUnpark (g : Nat) (checkOk : Bool) (s : State) : Host.Outcome State Fault Refusal :=
  .next (let p := portOf s g
    if !linkLive s || g < 16 || !portExists s g || !portUp p then s
    else if p.st ≠ 4 then modPort g (fun p => { p with parkAsked := false }) s
    else if checkOk then modPort g (fun p => { p with st := 3 }) s
    else modPort g (fun p => { p with fastAt := some (now s) }) (downPort g s))

/-- FAST_RETRAIN_TIMEOUT (R348): cold bring-up; the stored coefficients are discarded. -/
def execFastRetrainTimeout (g : Nat) (s : State) : Host.Outcome State Fault Refusal :=
  .next (let p := portOf s g
    if linkLive s && portExists s g && !portUp p && p.fastAt.elim false (fun t => decide (t + 200000 ≤ now s)) then
      startPort g (modPort g dropTaps s)
    else s)

/-- A node reset on the ports (R9, R348): each goes down and comes back by fast retrain from the stored state; LINK_EVT and FAST_LAST
return to their reset values. -/
def retrainAll (s : State) : State :=
  (List.range 24).foldl (fun s g =>
    let fast := (portOf s g).coef && (16 ≤ g || laneSet s g 2 == 1)
    startPort g (modPort g (fun p => { p with
      downs := if portUp p then satAdd 0xFFFF p.downs 1 else p.downs, evt := false, fastLast := false, fastAt := if fast then some (now s) else none }) s)) s

/-- The settings of a port that are in effect: an Ethernet port with AN_EN does not use FORCE_SPEED, one without it neither ETH_ADV nor
EEE_ADV. -/
def portSettings (s : State) (g : Nat) : List Nat :=
  if g < 16 then
    (if laneSet s g 2 = 1 then [1, laneSet s g 1, laneSet s g 4, laneSet s g 5] else [0, laneSet s g 3, laneSet s g 5])
  else (List.range 4).map (weftSet s (g - 16))

/-- A commit of LANES or WEFT: each port whose effective settings changed goes down and starts afresh (R332). -/
def linksCommitted (old s : State) : State :=
  let same (g : Nat) : Bool := portExists old g == portExists s g && portSettings old g == portSettings s g
  (List.range 24).foldl (fun s g =>
    if same g || (!portExists old g && !portExists s g) then s else downPort g (modPort g dropTaps s)) s

end Sys2Proof.Machine
end

