-- ==== Sys2Proof/Machine/Reset.lean ====
section
/-! DEFINITION. Cells leaving and returning, the effects of R57 and R235, power states and Drizzle (chapters 02, 15, 16). -/

namespace Sys2Proof.Machine

/-! ### What a cell and a partition lose (R57, R235, R402) -/

/-- A core that holds no work; its incarnation, service and recovery history stay. -/
def emptyCore (k : Core) : Core := { inc := k.inc, st := k.st, resets := k.resets, checkAt := k.checkAt, cmd := k.cmd, cause := k.cause }

/-- A cell without work in its ring, cores, merge unit, sequencer and banks (R402). -/
def emptyWork (v : Cell) : Cell :=
  { v with
    credits := 4096, waiting := [], ring := [], entries := [], reports := [], sentWords := 0, outbox := [], cores := v.cores.map (fun e => (e.1, emptyCore e.2))
    sweeps := [], sweeping := none, sweepAhead := [], writeQ := [], banks := [], incRows := [], incDone := [] }

/-- Steps 2 and 3 of R57, with R235 and R402, on one cell: raw rows zero, system and page regions fresh, every match unit an
empty marker. What lies in the always-on domain or counts from power-up stays (R449); every other field of the cell's registers returns
to its reset value (R9). -/
def wipeCell (c : Nat) (s : State) : State :=
  loseStack c (modCell c (fun v =>
    { pwr := v.pwr, inc := v.inc, retiredCores := v.retiredCores, engineResets := v.engineResets
      dblRefresh := v.dblRefresh, cores := v.cores.map (fun e => (e.1, emptyCore e.2)) }) s)

/-- The part of R57 outside the cells: PART_GEN advances, keys and everything held under them are gone. -/
def erasePartn (v : Partn) : Partn :=
  { v with
    gen := v.gen + 1, seqs := [], recl := [], uidNext := 1, tables := [], lentTables := [], scorers := [], gsets := [], keys := []
    cal := [], cursors := [], batches := [], placeRecs := [], spans := [], deposed := [], met := [], awaits := [], codeAsks := [], jobs := [], ops := [], parity := [], orphans := 0 }

/-- R57 on a partition: its cells and what it holds in the hub. -/
def eraseP (p : Nat) (s : State) : State :=
  modPart p erasePartn ((partCells s p).foldl (fun s c => wipeCell c s) s)

/-- Items that partition 0 sets for a tenant (R451): QOS_MAX, CONN_QUOTA. -/
def operatorItems : List Nat := [2, 0x0100]

/-- What a partition reset returns to its defaults besides R57 (R440, R451): the partition's own items, its staging set,
counters, the registers of its window (R9) but for its envelope, which survives (R422), pools and regions; PART_INC increments. -/
def resetPartn (v : Partn) : Partn :=
  { v with
    staged := [], calStaged := [], items := v.items.filter (fun e => e.1 ∈ operatorItems), pool := {}, stat := {}
    match_ := { placeBanks := v.match_.placeBanks, placeDuty := v.match_.placeDuty }, meters := [], mtrSel := 0, mtrValid := false, mtr := []
    pools := [], poolRings := [], regions := [], throttleEvt := false, commits := [], commitQ := [], aperture := 0, configGen := 0, stageSerial := 0, drawW := 0
    subs := v.subs.filter (fun q => q.conn.isNone), inc := (v.inc + 1) % 65536 }

/-- A cell goes out of service (R436): its incarnation advances; every record, batch and op that awaits it gets its marker. Words that it
has sent stay in their channel and are discarded as they arrive (R435). -/
def fenceCell (c : Nat) (s : State) : State :=
  let p := cellOwner s c
  let s := modCell c (fun v => { v with inc := (v.inc + 1) % 65536 }) s
  let s := (s.ctxs.map (·.1)).foldl (fun s i => markCell i c s) s
  let s := (((part s p).batches.filter (fun b => c ∈ b.2.waitFor)).map (·.1)).foldl (fun s b => reportBatch p b c none s) s
  modCell c (fun v => { emptyWork v with reports := v.reports, sentWords := v.sentWords }) (modCell c (fun v => { v with banks := [], sweepAhead := [] }) (loseOps c s))

/-- Pages that the partition has lent are released before its connections go (R95 step 1). -/
def releaseLends (p : Nat) (s : State) : State :=
  (partCells s p).foldl (fun s c => ((cell s c).lends.map (·.1)).foldl (fun s k => releaseLent p (mkHandle c k 3) s) s) s

/-- The fabric connection of a partition to a partition of another node. -/
def fabricTo (s : State) (p node part : Nat) : Option Nat :=
  (s.conns.find? (fun e => e.2.part == p && e.2.kind == 2 && e.2.peerNode == node && e.2.peerPart == part && e.2.mode == 1 &&
    e.2.state == 1)).map (·.1)

/-- The owners of pages that the partition holds for others are told of their loss, each over its own connection, where they can be
reached (R94). -/
def reportLosses (p : Nat) (s : State) : State :=
  let held := (partCells s p).flatMap (fun c => (cell s c).lent.map (fun e => ((e.2.ownerNode, e.2.ownerPart), mkHandle c e.1 e.2.cls)))
  ((held.map (·.1)).eraseDups).foldl (fun s n =>
    match fabricTo s p n.1 n.2 with
    | some ci => sendFabric ci 9 ((held.filter (fun e => e.1 == n)).map (·.2)) [] s
    | none => s) s

/-- Confirmations of releases that a partition in reset still waits for (R95). -/
def releasesOut (s : State) (p : Nat) : List Await := (part s p).awaits.filter (fun w => w.kind == 4)

/-- The partition's connections go, but those on which a confirmation is awaited (R95). -/
def destroyIdle (p : Nat) (s : State) : State :=
  (s.conns.filter (fun e => e.2.part == p && !(releasesOut s p).any (fun w => w.conn == connId s e.1))).foldl (fun s e => destroyConn e.1 s) s

/-- Commands of a partition that a reset ends (R440), but the one that asked for it. -/
def endPartCmds (p : Nat) (keep : Option Nat) (s : State) : State :=
  let n := (partCells s p).length
  postOps p <| (s.cmds.filter (fun e => e.2.part == p && some e.1 != keep)).foldl (fun s e =>
    match tget? s.cmds e.1 with
    | none => s
    | some c =>
      if c.opcode = 0x0103 then abortCmd e.1 (err stUnavail) s
      else if isDataPath c.opcode then (if c.opcode = 0x0206 || c.opcode = 0x0304 || c.opcode = 0x0203 then s else abortCmd e.1 (err stUnavail n) s)
      else if c.held then s
      else abortCmd e.1 (err stInternal 3) s) s

/-- Everything that a partition loses when it goes into reset (R440): commands end, leases are fenced, lent pages are released
and losses reported, connections, regions and pools go. A connection on which the confirmation of a release is awaited goes with the
confirmations or 10 ms later (R95). -/
def fencePart (p : Nat) (keep : Option Nat) (s : State) : State :=
  let s := (partCells s p).foldl (fun s c => fenceCell c s) s
  let s := endPartCmds p keep s
  let s := destroyIdle p (releaseLends p (reportLosses p s))
  fenceAll p (modPart p (fun v => { v with regions := [], pools := [], poolRings := [] }) s)

/-- A partition's lent pages are released, without waiting for a confirmation, and its connections go (R95: ZEROISE, TAMPER_N; at a
node reset received packets are dropped from its first step on, R441). -/
def releaseAndDrop (p : Nat) (s : State) : State := destroyConns p (releaseLends p s)

/-! ### POWER_STATE (R328, R410 to R414) -/

/-- A cell's transition is in progress (R410). -/
def cellMoving (s : State) (c : Nat) : Bool := let w := (cell s c).pwr
  5 ≤ w.st || w.cmd.isSome || w.pendMhz.isSome

/-- Setting a powered cell's own ceiling: STATE 0 removes it, STATE 1 sets it (R418). -/
def setCeil (st mhz c : Nat) (s : State) : State :=
  applyClock c (modCellPwr c (fun w => { w with st := st, askMhz := if st = 1 then mhz else 1500 }) s)

/-- POWER_STATE of one cell. -/
def cellPower (id c st mhz : Nat) (s : State) : State × Option Reply :=
  let w := (cell s c).pwr
  let done (s : State) : State × Option Reply := (s, some (okRet (toLe 1 st ++ zeros 7)))
  if st ≤ 1 then
    if w.st ≤ 1 then
      let s := setCeil st mhz c s
      if clockSettled s c then done s else (modCellPwr c (fun w => { w with cmd := some id }) s, none)
    else (leaveCellOff c st mhz (some id) s, none)
  else if w.st = st then done s
  else if 2 ≤ w.st then (s, some (err stInvalid))
  else (enterCellOff c st (some id) (loseOps c s), none)

/-- POWER_STATE of the node: Active or Reduced on every cell that is not in Cell-off, or Drizzle (R414). -/
def nodePower (id st mhz : Nat) (s : State) : State × Option Reply :=
  if st = 4 then (modNode (fun n => { n with phase := .quiescing, drizzleCmd := some id, drizzleAt := n.time }) s, none)
  else
    let s := ((List.range 24).filter (cellUp s)).foldl (fun s c => setCeil st mhz c s) s
    if (List.range 24).all (clockSettled s) then (s, some (okRet (toLe 1 st ++ zeros 7)))
    else (modPwr (fun w => { w with nodeCmd := some id }) s, none)

/-- POWER_STATE. -/
def cmdPowerState : Handler := fun id c s =>
  let b := c.block
  let scope := u8 b 0
  let ce := u8 b 1
  let st := u8 b 2
  let mhz := u16 b 4
  let tenant := c.part != 0
  let form := blockIs c 6 && scope ≤ 1 && st ≤ 4 && u8 b 3 == 0 && (scope == 1 || ce == 0) && (scope == 1 || st ≤ 1 || st == 4 || tenant) &&
    (if st == 1 then 400 ≤ mhz && mhz ≤ 1800 && mhz ≤ powerSet s 0 else mhz == 0) && (scope == 0 || st ≤ 3 || tenant)
  if !form then (s, some (err stInvalid))
  else if tenant && (scope = 0 || st = 4) then (s, some (err stAuth))
  else if scope = 1 && (ce > 23 || cellOwner s ce = 0 || (tenant && cellOwner s ce != c.part)) then (s, some (err stNotFound))
  else if scope = 1 && st = 3 && (cell s ce).pwr.st ≠ 3 && cellHolds s ce then (s, some (err stInvalid))
  else if scope = 1 then (if cellMoving s ce then (s, some (err stBusy)) else cellPower id ce st mhz s)
  else if (List.range 24).any (cellMoving s) || s.pwr.nodeCmd.isSome || s.node.drizzleCmd.isSome then (s, some (err stBusy))
  else nodePower id st mhz s

/-- POWER_STATE. -/
def execPowerState (src : Source) (pkt : Packet) (s : State) : Host.Outcome State Fault Refusal :=
  .next (submitOp 0x0801 src pkt cmdPowerState s)

/-- A partition whose cells have all come up for its creation: R57 runs on them, and PARTITION_CREATE completes (R413). -/
def createReady (p : Nat) (s : State) : State :=
  let v := part s p
  if v.creating && (partCells s p).all (cellUp s) then
    let s := (partCells s p).foldl (fun s c => wipeCell c s) s
    let s := modPart p (fun v => { v with creating := false, inReset := false, gen := v.gen + 1, resetCmd := none }) s
    match v.resetCmd with
    | some id => conclude id (okRet (toLe 4 (part s p).gen ++ toLe 4 (lendBytes v.layout / 2 ^ 20))) s
    | none => s
  else s

/-- R57 steps 2 and 3 and R235 on one cell whose stack was off (R412). Its counts and event bits, which run from the partition's reset
(R49, R254), stay. Every page slot is free again, those retired under R46 with them, and RETIRED_SLOTS is 0: a DESIGN CHOICE, since R46
keeps a retired slot until the partition is reset and R57 step 3 frees all (log 74). -/
def rejoinCell (c : Nat) (s : State) : State :=
  let o := cell s c
  modCell c (fun v => { v with
    ce := o.ce, ue := o.ue, poisonEvt := o.poisonEvt, scrubLap := o.scrubLap, poisonLog := o.poisonLog, poisonCount := o.poisonCount
    repairs := o.repairs, lostEntries := o.lostEntries, repairEvt := o.repairEvt, lostEvt := o.lostEvt, patrolLap := o.patrolLap
    staleDrops := o.staleDrops }) (wipeCell c s)

/-- CELL_OFF_EXIT_DONE (R412): the stack is awake; one that was unpowered is written afresh before the cell rejoins the pool (log 74). -/
def execCellOffExitDone (c : Nat) (s : State) : Host.Outcome State Fault Refusal :=
  .next (
    let w := (cell s c).pwr
    if w.st ≠ 6 || s.dbg.frozen then s
    else
      let st := w.target.getD 0
      let s := powerUp c st (if w.prev = 3 then rejoinCell c s else s)
      let s := match w.cmd with
        | some id => powerReply id st s
        | none => s
      createReady (cellOwner s c) s)

/-! ### Drizzle (R414 to R417) -/

/-- Every request context, BANK_OP, gradient flush and unacknowledged send has finished (R414). -/
def quiet (s : State) : Bool :=
  s.ctxs.all (fun e => (tget? s.cmds e.2.cmd).elim true (·.held)) &&
  s.parts.all (fun e => e.2.ops.all (fun o => o.2.finished)) &&
  s.conns.all (fun e => e.2.state != 1 || (e.2.sendQ.isEmpty && e.2.unacked.isEmpty)) &&
  s.cmds.all (fun e => e.2.held || some e.1 == s.node.drizzleCmd)

/-- In Drizzle the rails of the working cells go to retention (R414). -/
def sleepRails (s : State) : State :=
  (List.range 24).foldl (fun s c => if cellUp s c then
    emit (.avs c 550) (modCellPwr c (fun w => { w with coreMhz := 0, vddMv := 550, wroteMv := 550, wroteAt := none, pendMhz := none }) s) else s) s

/-- In Drizzle Weftlinks are asked to park (R345) and Ethernet ports with LPI enter it (R338). -/
def sleepLinks (s : State) : State :=
  (List.range 24).foldl (fun s g =>
    let p := portOf s g
    if p.st ≠ 3 && p.st ≠ 5 then s
    else if 16 ≤ g then (if p.park then askPark g s else s)
    else if p.eeeOn then modPort g (fun p => { p with st := 5 }) s else s) s

/-- DRIZZLE_QUIESCED (R414, R415): the reply, then rails and links. -/
def execDrizzleQuiesced (s : State) : Host.Outcome State Fault Refusal :=
  .next (if s.node.phase = .quiescing && quiet s && !s.dbg.frozen then
    sleepLinks (sleepRails (modNode (fun n => { n with
      phase := .drizzle, drizzleCmd := none, drizzleAt := n.time, drizzleWake := if powerSet s 3 = 0 then 0 else n.time + powerSet s 3 })
      (powerReply (s.node.drizzleCmd.getD 0) 4 s)))
  else s)

/-- DRIZZLE_QUIESCE_EXPIRY (R414): entry is abandoned. -/
def execDrizzleQuiesceExpiry (s : State) : Host.Outcome State Fault Refusal :=
  .next (if !nodeLive s then s else if s.node.phase = .quiescing && s.node.drizzleAt + powerSet s 2 ≤ now s then abandonDrizzle s else s)

/-- Waking from Drizzle (R417): links, rails, clocks, and then the node is Active. An UNPARK goes out also where a PARK_REQ is under way,
and wins over it (R346). -/
def finishWake (s : State) : State :=
  if s.node.phase = .drizzle || s.node.phase = .waking then
    let s := (List.range 24).foldl (fun s g =>
      let p := portOf s g
      if p.st = 4 then emit (.link g 4 []) s
      else if p.parkAsked then emit (.link g 4 []) (modPort g (fun p => { p with parkAsked := false }) s) else if p.st = 5 && g < 16 then modPort g (fun p => { p with st := 3 }) s
      else s) s
    let s := modNode (fun n => { n with phase := .active, drizzleWake := 0 }) s
    (List.range 24).foldl (fun s c => if cellUp s c then powerUp c (cell s c).pwr.st s else s) s
  else s

/-- WAKE (R417). -/
def execWake (s : State) : Host.Outcome State Fault Refusal :=
  .next (if s.dbg.frozen then s else finishWake (latchWake s))

/-- DRIZZLE_TIMER_EXPIRY (R416). -/
def execDrizzleTimerExpiry (s : State) : Host.Outcome State Fault Refusal :=
  .next (if s.node.phase = .drizzle && s.node.drizzleWake ≠ 0 && s.node.drizzleWake ≤ now s && !s.dbg.frozen then latchWake s else s)

/-- WAKE_N (R416): the pin driven low. -/
def execWakeN (low : Bool) (s : State) : Host.Outcome State Fault Refusal :=
  .next (if low && !s.dbg.frozen then latchWake s else s)

end Sys2Proof.Machine
end

