-- ==== Sys2Proof/Machine/Dump.lean ====
section
/-! DEFINITION. The dump engine (R453 to R457) and Frost (R458 to R463). -/

namespace Sys2Proof.Machine

/-! ### Settings of item 0x0400, RECOVERY (R446, R447) -/

/-- Defaults of item RECOVERY, in the order of its fields: CTX_WD, CORE_WD, CELL_WD, HUB_WD, HB_PERIOD, DUMP_UNIT_WAIT, AUTO_MAX,
CORE_RETIRE, NODE_KEEP, DUMP_AT (bit level − 2), DUMP_HOLD, TOKEN_RETRIES, RETIRE_COUNT, PART_COUNT, NODE_COUNT, CLIMB_WINDOW,
SAMPLE_LIST. -/
def recDflt : List Nat := [10, 4, 4, 10, 10, 10, 5, 1, 1, 0xE, 2, 1, 3, 3, 2, 600, 0]
/-- A setting of item RECOVERY. -/
def recSet (s : State) (i : Nat) : Nat := setting s 0 0x0400 i recDflt
/-- The time on which CLIMB_WINDOW is measured: it does not count what passes in Frost (R462). -/
def runTime (s : State) : Nat := now s - s.dbg.frozenUs
/-- Those times, on `runTime`, that lie within CLIMB_WINDOW (R444). -/
def inWindow (s : State) (l : List Nat) : List Nat := l.filter (fun t => decide (runTime s < t + recSet s 15 * 1000000))

/-! ### Units and records (R455, R456) -/

/-- Unit codes of a cell: its cores, then its six cell units. -/
def cellUnitCodes (c : Nat) : List Nat :=
  (List.range 16).map (fun k => 0x1000 + 16 * c + k) ++ (List.range 6).map (fun k => 0x2000 + 0x1000 * k + c)
/-- Ascending order of unit codes, in which a reader goes through them (R454). -/
def insertUnit (u : Nat) (l : List Nat) : List Nat := l.takeWhile (· < u) ++ u :: l.dropWhile (· < u)
/-- The units of a set of cells, ascending. -/
def cellsUnits (cells : List Nat) : List Nat := (cells.flatMap cellUnitCodes).foldl (fun l u => insertUnit u l) []
/-- The hub blocks. -/
def hubUnits : List Nat := (List.range 8).map (0x8000 + ·)
/-- Every unit of the node: cells, hub blocks, each partition's hub state, the event logs. -/
def allUnits (s : State) : List Nat :=
  let ps := 0 :: tenants s
  cellsUnits (bitList s.node.cellsPresent 24) ++ hubUnits ++ ps.map (0x9000 + ·) ++ ps.map (fun p => if p = 0 then 0xAFFF else 0xA000 + p)
/-- The affected units of a partition (R453). -/
def partUnits (s : State) (p : Nat) : List Nat := cellsUnits (partCells s p) ++ [0x9000 + p, 0xA000 + p]

/-- Data bytes of a unit's record (R456); a core's sample is 4 KiB, or the ranges of DUMP_LIST. -/
def unitLen (s : State) (sampled : Bool) (u : Nat) : Nat :=
  if u / 4096 = 1 then
    256 + (if sampled then sumBy ((List.range 16).map (fun i => (itemVals s 0 0x0401 []).getD (2 * i + 1) 0)) id else 4096)
  else if u / 4096 ≤ 7 then 2048 else if u / 4096 = 8 then 16384 else if u / 4096 = 9 then 65536 else 32768

/-- The incarnation of a unit (R435). -/
def unitInc (s : State) (u : Nat) : Nat :=
  let i := u % 4096
  if u / 4096 = 1 then (coreOf (cell s (i / 16)) (i % 16)).inc
  else if u / 4096 ≤ 7 then (cell s i).inc
  else if u / 4096 = 8 then (s.node.hubInc + if i = 6 then s.node.ctrlInc else 0) % 65536
  else if i = 0xFFF || i = 0 then s.node.nodeInc
  else (part s i).inc

/-- A unit's record as read. -/
def unitRec (s : State) (sampled : Bool) (u : Nat) : DumpRec :=
  { unit := u, inc := unitInc s u, len := unitLen s sampled u
    log := if u / 4096 = 10 then (part s (if u % 4096 = 0xFFF then 0 else u % 4096)).log.reverse else [] }

/-- Bytes that a record occupies. -/
def recLen (r : DumpRec) : Nat := 16 + r.len
/-- TOTAL_LENGTH of a dump. -/
def dumpLen (d : Dump) : Nat := 64 + sumBy d.recs recLen
/-- Records without response. -/
def noResponse (d : Dump) : Nat := (d.recs.filter (fun r => bitOf r.flags 0)).length
/-- Dump-SRAM bytes in use. -/
def dumpsLen (l : List Dump) : Nat := sumBy l dumpLen

/-- A record's bytes: the event log is known, status registers and samples are not laid out by the spec (log 3). -/
def recImage (id : Nat) (r : DumpRec) : List Byte :=
  toLe 2 r.unit ++ toLe 2 r.flags ++ toLe 2 r.inc ++ zeros 2 ++ toLe 4 r.len ++ zeros 4 ++
    (if r.unit / 4096 = 10 then padTo r.len r.log.flatten else (List.range r.len).map (Config.imageByte (id * 2 ^ 16 + r.unit)))

/-- The bytes of a dump (R455). -/
def dumpImage (s : State) (d : Dump) : List Byte :=
  toLe 4 d.id ++ toLe 2 1 ++ toLe 1 d.level ++ toLe 1 d.cause ++ toLe 2 s.node.nodeId ++ toLe 2 s.node.nodeInc ++ toLe 2 d.part ++
    toLe 2 d.flags ++ toLe 8 d.time ++ toLe 4 d.recs.length ++ toLe 4 (dumpLen d) ++ toLe 2 (noResponse d) ++ zeros 30 ++
    d.recs.flatMap (recImage d.id)

/-! ### Collection (R453, R454, R457) -/

/-- The oldest dumps go until the rest and a new one fit into 8 MiB (R457); answers what is left and how many went. -/
def makeRoom (need : Nat) : List Dump → List Dump × Nat
  | [] => ([], 0)
  | d :: rest => if dumpsLen (d :: rest) + need ≤ 8388608 then (d :: rest, 0) else
      let r := makeRoom need rest
      (r.1, r.2 + 1)

/-- A collection ends: the dump is in the dump SRAM, and DUMP_COLLECT replies. -/
def closeDump (truncated : Bool) (s : State) : State :=
  match s.dbg.collect with
  | none => s
  | some c =>
    let (n, s) := if truncated then draw s else (0, s)
    let d := if truncated then { c.dump with flags := c.dump.flags + 4, recs := c.dump.recs.take (n % (c.dump.recs.length + 1)) } else c.dump
    let (old, lost) := if bitOf d.flags 0 then makeRoom (dumpLen d) s.dbg.dumps else (s.dbg.dumps, 0)
    let s := modDbg (fun g => { g with collect := none, dumps := old ++ [d], dumpsLost := satAdd 0xFFFF g.dumpsLost lost }) s
    match c.cmd with
    | some id =>
      let ret := toLe 4 d.id ++ toLe 4 (dumpLen d) ++ toLe 2 (noResponse d)
      conclude id { status := if 0 < noResponse d then stPartial else stOk, ret := ret } s
    | none => s

/-- Beginning a collection of some units. -/
def startDump (level cause p : Nat) (auto_ sampled : Bool) (units : List Nat) (cmd : Option Nat) (s : State) : State :=
  let s := closeDump false s
  let d : Dump := { id := s.node.nextDump, level := level, cause := cause, part := p, flags := b2n auto_ + 2 * b2n sampled, time := now s
                    recs := units.map (unitRec s sampled) }
  modDbg (fun g => { g with collect := some { dump := d, cmd := cmd, at_ := now s } }) (modNode (fun n => { n with nextDump := n.nextDump + 1 }) s)

/-- The dump before a recovery, where DUMP_AT selects its level (R453). -/
def autoDump (level cause p : Nat) (units : List Nat) (s : State) : State :=
  if bitOf (recSet s 9) (level - 2) then startDump level cause p true (recSet s 16 == 1) units none s else s

/-- DUMP_UNIT_WAIT_EXPIRY (R454). -/
def execDumpUnitWaitExpiry (unit : Nat) (s : State) : Host.Outcome State Fault Refusal :=
  .next (modDbg (fun g => { g with collect := g.collect.map (fun c => { c with
    dump := { c.dump with recs := c.dump.recs.map (fun r => if r.unit = unit then { r with flags := setBit r.flags 0, len := 0 } else r) } }) }) s)

/-- DUMP_TRUNCATED (R454). -/
def execDumpTruncated (s : State) : Host.Outcome State Fault Refusal :=
  .next (if s.dbg.collect.elim false (fun c => decide (c.at_ + 100000 ≤ now s)) && !s.dbg.frozen then closeDump true s else s)

/-- DUMP_COLLECT (R329, R453). -/
def cmdDumpCollect : Handler := fun id c s =>
  let mask := u32 c.block 0
  let fl := u8 c.block 4
  if !blockIs c 5 || 2 ^ 24 ≤ mask || 4 ≤ fl then (s, some (err stInvalid))
  else if !s.dbg.dumps.isEmpty || s.dbg.collect.isSome then (s, some (err stBusy))
  else (startDump 0 0 0xFFFF false (bitOf fl 1) (cellsUnits (bitList mask 24) ++ if bitOf fl 0 then hubUnits else []) (some id) s, none)

/-- DUMP_COLLECT. -/
def execDumpCollect (src : Source) (pkt : Packet) (s : State) : Host.Outcome State Fault Refusal :=
  .next (submitOp 0x0804 src pkt cmdDumpCollect s)

/-- DUMP_READ (R329). -/
def cmdDumpRead : Handler := fun _ c s =>
  let id := u32 c.block 0
  let off := u32 c.block 4
  let n := u32 c.block 8
  match s.dbg.dumps.find? (fun d => d.id == id) with
  | none => (s, some (err stNotFound))
  | some d =>
    if !blockIs c 13 || 1 < u8 c.block 12 || n = 0 || (if isMctp c.src then 4032 else 1048576) < n || dumpLen d ≤ off then (s, some (err stInvalid))
    else if !fitsReply c (min n (dumpLen d - off)) then (s, some (err stInvalid 0xFFF2))
    else
      let pay := slice (dumpImage s d) off n
      let s := if u8 c.block 12 = 1 then modDbg (fun g => { g with dumps := g.dumps.filter (fun x => x.id != id) }) s else s
      (s, some (okPay (toLe 4 (dumpLen d)) pay))

/-- DUMP_READ. -/
def execDumpRead (src : Source) (pkt : Packet) (s : State) : Host.Outcome State Fault Refusal :=
  .next (submitOp 0x0805 src pkt cmdDumpRead s)

/-! ### Frost (R458 to R463) -/

/-- The node can freeze: its islands run. -/
def canFreeze (s : State) : Bool := !s.dbg.frozen && s.node.phase != .off && s.node.phase != .tripped

/-- Entering Frost: SOURCE 1 from outside, 2 FROST_ARM now, 3 a trigger; the node's own freeze drives FROST_N and disarms. -/
def freeze (source : Nat) (s : State) : State :=
  let s := modDbg (fun g => { g with frozen := true, frozenAt := now s, source := source }) s
  if source = 1 then s
  else drivePin 3 false (modDbg (fun g => { g with driving := true, armTrigger := 0, fired := none }) s)

/-- FROST_N_FALL (R458). -/
def execFrostNFall (s : State) : Host.Outcome State Fault Refusal := .next (if canFreeze s then freeze 1 s else s)

/-- FROST_TRIGGER (R458): a trigger that has fired freezes after its delay. -/
def execFrostTrigger (s : State) : Host.Outcome State Fault Refusal :=
  .next (match s.dbg.fired with
    | some t => if canFreeze s && decide (t ≤ now s) && s.dbg.armTrigger != 0 then freeze (if s.dbg.armTrigger = 1 then 2 else 3) s else s
    | none => s)

/-- FROST_ARM (R329, R458). Trigger 1 fires now, and freezes after DELAY_NS. -/
def cmdFrostArm : Handler := fun _ c s =>
  let b := c.block
  let t := u8 b 0
  let d := u32 b 4
  if !blockIs c 8 || 3 < t || 1000000 < d then (s, some (err stInvalid))
  else
    (modDbg (fun g => { g with
      armTrigger := t, armLevel := u8 b 1, armCode := u16 b 2, armDelay := d
      fired := if t = 1 then some (now s + (d + 999) / 1000) else none }) s, some (okRet []))

/-- FROST_ARM. -/
def execFrostArm (src : Source) (pkt : Packet) (s : State) : Host.Outcome State Fault Refusal :=
  .next (submitOp 0x0806 src pkt cmdFrostArm s)

/-- The node stops driving FROST_N (R461). -/
def releaseFrost (s : State) : State :=
  if s.dbg.driving then drivePin 3 true (modDbg (fun g => { g with driving := false }) s) else s

/-- RELEASE: BAR4 or the TAP (R461). -/
def execRelease (s : State) : Host.Outcome State Fault Refusal := .next (releaseFrost s)

/-- A lease that expired during Frost is fenced at the restart (R462). -/
def fenceExpired (s : State) : State :=
  (s.parts.map (·.1)).foldl (fun s p => modPart p (fun v => { v with
    spans := v.spans.map (fun e => (e.1, if e.2.valid && decide (e.2.endAt ≤ now s) then { e.2 with fenced := true } else e.2)) }) s) s

/-- The islands run again; the time that they stood still is noted. -/
def thaw (s : State) : State :=
  modDbg (fun g => { g with
    frozen := false, source := 0, tripped := none, frozenUs := g.frozenUs + if g.frozen then now s - g.frozenAt else 0 }) s

/-- A reset, power loss or THERMTRIP_N ends Frost (R463). -/
def endFrost (s : State) : State := thaw (releaseFrost s)

end Sys2Proof.Machine
end

