-- ==== Sys2Proof/Machine/Recovery.lean ====
section
/-! DEFINITION. The recovery levels, the watchdogs and the climb (R431 to R452). -/

namespace Sys2Proof.Machine

/-- The node serves work, so that its watchdogs count. -/
def working_ (s : State) : Bool :=
  !s.dbg.frozen && (s.node.phase = .active || s.node.phase = .quiescing || s.node.phase = .drizzle || s.node.phase = .waking)

/-- A recovery is recorded and announced (R448, R450): outcome 0 done, 1 climbed, 2 halted. -/
def postRecovery (level outcome cause scope inc p : Nat) (s : State) : State :=
  let was := s.dbg.recoveryEvt
  let s := modDbg (fun g => { g with lastLevel := level, lastCause := cause, recoveryEvt := true }) s
  let s := if was then s else raiseMsi 0 70 s
  postEvent 21 p 0 (toLe 1 level ++ toLe 1 outcome ++ toLe 1 cause ++ toLe 2 scope ++ toLe 2 inc) s

/-- A climb beyond AUTO_MAX is not made: the unit, named by its level and scope, stays out of service until RESET_LEVEL (R445). -/
def halt (level cause scope inc p : Nat) (s : State) : State :=
  postRecovery level 2 cause scope inc p (assertFault (modDbg (fun g => { g with halted := (level, scope) :: g.halted }) s))

/-- RESET_LEVEL from partition 0 takes up a unit that a held climb left out of service (R445). -/
def unhalt (level scope : Nat) (s : State) : State :=
  releaseFault (modDbg (fun g => { g with halted := g.halted.filter (fun h => h != (level, scope) && h.1 != 1) }) s)

/-! ### Level 5 (R442) -/

/-- Level 5: the dump, and then the hold before PWRCYC_REQ_N. -/
def level5 (cause : Nat) (cmd : Option Nat) (s : State) : State :=
  let s := match cmd with
    | some id => conclude id (okRet [5]) s
    | none => s
  let s := postRecovery 5 0 cause 0xFFFF s.node.nodeInc 0 s
  let s := autoDump 5 cause 0xFFFF (allUnits s) s
  modNode (fun n => { n with phase := .held, holdUntil := n.time + recSet s 10 * 1000000, restart := none, drizzleCmd := none }) s

/-- A climb to level 5. -/
def climb5 (s : State) : State :=
  if recSet s 6 < 5 then halt 4 s.dbg.lastCause 0xFFFF s.node.nodeInc 0 s
  else level5 7 none (postRecovery 4 1 s.dbg.lastCause 0xFFFF s.node.nodeInc 0 s)

/-! ### Level 4 (R441, R443, R451, R452) -/

/-- Tenants that a node reset keeps (R441); `inside` names the partition in whose cells the cause lay. -/
def keptParts (s : State) (engine : Bool) (inside : Option Nat) : List Nat :=
  if engine || recSet s 8 != 1 then []
  else (tenants s).filter (fun p => some p != inside && !(part s p).inReset && !(part s p).creating)

/-- Items of partition 0 whose staged and active values lie in the always-on domain: LANES and WEFT (R332), RECOVERY (R446, R447). -/
def alwaysOnItems : List Nat := [0x01F0, 0x01F1, 0x0400]

/-- What a partition loses in the hub at a node reset, kept or not; its registers return to their reset values (R9). A staging set
empties (R451) but for what the always-on domain holds (log 105). -/
def hubReset (v : Partn) : Partn :=
  { v with
    staged := v.staged.filter (fun e => e.item ∈ alwaysOnItems), calStaged := [], commits := [], commitQ := [], regions := [], pools := [], poolRings := [], awaits := [], codeAsks := [], jobs := [], subs := []
    cursors := [], ops := [], batches := [], gsets := [], mtrSel := 0, mtrValid := false, mtr := [], emerg := false
    throttleEvt := false, aperture := 0, pfAperture := 0, stat := {}, envelope := none, drawW := 0, resetCmd := none
    configGen := 0, stageSerial := 0
    seqs := v.seqs.map (fun e => (e.1, { e.2 with editing := false, waiting := [], cuts := [] }))
    scorers := v.scorers.map (fun e => (e.1, { e.2 with refs := 0 })) }

/-- A cell's units at a node reset: work, T1 copies, error registers and pages recovered for others are gone. Of a kept partition a copy that
a pin holds stays: R452 step 4 frees T1 copies and R89 keeps a held page in T1, a DEDUCED reading (log 117). -/
def hubResetCell (v : Cell) : Cell :=
  let v := emptyWork v
  { v with
    inc := (v.inc + 1) % 65536, cores := v.cores.map (fun e => (e.1, { e.2 with inc := (e.2.inc + 1) % 65536 })), t1 := v.t1.filter (fun h => (tget? v.pages (hSlot h)).elim false (fun g => 0 < g.t1Holds)), ce := 0, ue := 0, retiredSlots := 0, staleDrops := 0, poisonEvt := false, scrubLap := false, poisonLog := [], poisonCount := 0
    rewriteQ := [], repairs := 0, lostEntries := 0, repairEvt := false, lostEvt := false, patrolLap := false
    lent := v.lent.filter (fun e => e.2.recon.isNone), pwr := { v.pwr with cmd := none, fault := false, alert := false } }

/-- An edit that spans commands is given up: EDITING and RECALLING clear, and a page that it had allocated is free again (R452, R467). -/
def abandonEdit (p id : Nat) (s : State) : State :=
  let s := endEdit (tget {} s.cmds id) s
  let s := match jobOf s p id with
    | some j => if j.kind = 1 then (j.todo.head?.map (fun pos =>
        modLend (handleAt ((seqOf s p j.seqKey).getD {}) pos) (fun e => { e with recalling := false }) s)).getD s else s
    | none => s
  endJob p id s

/-- What a command holds besides its context: fabric questions, parts of an edit. Late answers are dropped by tag (R210). -/
def dropWork (p id : Nat) (s : State) : State :=
  modPart p (fun v => { v with awaits := v.awaits.filter (fun w => w.cmd != some id) }) (abandonEdit p id s)

/-- The cores of a cell are reset with it: each takes its next incarnation (R435). -/
def bumpCores (c : Nat) (s : State) : State :=
  modCell c (fun v => { v with cores := v.cores.map (fun e => (e.1, { e.2 with inc := (e.2.inc + 1) % 65536 })) }) s

/-- Level 4 up to step 3 of R441. `rst`: RESET_N holds the node in step 3. -/
def level4 (cause : Nat) (engine rst : Bool) (inside cmd : Option Nat) (s : State) : State :=
  let engine := engine || s.sec.mstate = 2
  let s := match cmd with
    | some id => conclude id (okRet [4]) s
    | none => s
  let kept := keptParts s engine inside
  let s := if rst then s else autoDump 4 cause 0xFFFF (allUnits s) s
  let ps := s.parts.map (·.1)
  let s := (ps.filter (fun p => p ∉ kept)).foldl (fun s p => releaseAndDrop p s) s
  let s := s.cmds.foldl (fun s e => dropWork e.2.part e.1 (dropHolds e.2 s)) s
  let s := ps.foldl (fun s p => modPart p hubReset (fenceAll p s)) s
  let s := (s.cells.map (·.1)).foldl (fun s c => modCell c hubResetCell s) s
  let s := { s with
    cmds := [], ctxs := [], conns := []
    fns := s.fns.map (fun e => (e.1, ({ d0 := e.2.d0, bme := e.2.bme } : Fn))) }
  let s := modPwr (fun w => { thermtrip := w.thermtrip, pkgW := w.pkgW, hubTemp := w.hubTemp }) s
  let s := modSec (fun x => { x with mstate := if engine && x.mstate != 3 then 0 else x.mstate, zeroised := false, selftest := false }) s
  let s := modDbg (fun g => { g with halted := [], dumpsLost := 0, object := 0, offset := 0, recoveryEvt := false, lastCause := cause, nodeResets := satAdd 0xFFFF g.nodeResets 1 }) s
  retrainAll <| modNode (fun n => { n with
    phase := .level4, linkChecked := false, nodeInc := (n.nodeInc + 1) % 65536, level4At := n.time, kept := kept, engineReset := engine, resetHeld := rst
    fwStage := {}, restart := none, activating := false, nodeIncs := [], partIncs := [], drizzleCmd := none, drizzleWake := 0, refLoss := false, sharedCe := 0
    sharedUe := 0, hubInc := (n.hubInc + 1) % 65536, resetTimes := runTime s :: inWindow s n.resetTimes }) s

/-- Beginning a node reset, which climbs to level 5 where NODE_COUNT of them have occurred within CLIMB_WINDOW (R444). -/
def nodeReset (cause : Nat) (engine rst : Bool) (inside cmd : Option Nat) (s : State) : State :=
  let s := level4 cause engine rst inside cmd (endFrost s)
  if recSet s 14 ≠ 0 && recSet s 14 ≤ s.node.resetTimes.length then climb5 s else s

/-- A climb to level 4 from a narrower recovery. -/
def climb4 (from_ scope inc p : Nat) (inside : Option Nat) (s : State) : State :=
  if recSet s 6 < 4 then halt from_ s.dbg.lastCause scope inc p s
  else nodeReset 7 false false inside none (postRecovery from_ 1 s.dbg.lastCause scope inc p s)

/-- The rest of R452 for a kept partition: the reclamation list empties once no request walks a map. -/
def restorePart (p : Nat) (s : State) : State := reclaim p s

/-- A partition that a node reset does not keep (R441); one whose destruction was under way ends with it. -/
def losePart (p : Nat) (s : State) : State :=
  modPart p (fun v =>
    if v.destroying then { inc := v.inc, gen := v.gen, log := v.log } else { resetPartn v with inReset := false, creating := false, resetCmd := none })
    (eraseP p s)

/-- A slot holds a verified image (R464). -/
def slotOk (s : State) (k : Nat) : Bool := (tget {} s.node.slots k).present && (tget {} s.node.slots k).verified
/-- The slot that the boot ROM takes: the one that the slot-select record names, then the other (R468). -/
def bootSlot (s : State) : Option Nat :=
  if slotOk s s.node.slotSelect then some s.node.slotSelect
  else if slotOk s (1 - s.node.slotSelect) then some (1 - s.node.slotSelect) else none

/-- NODE_RESET_DONE (R441 steps 4 to 8); without a verified image the node enters recovery mode (R469). -/
def nodeResetDone (present : Nat) (s : State) : State :=
  let s := closeDump false s
  let cause := s.dbg.lastCause
  let kept := s.node.kept
  let s := ((s.parts.map (·.1)).filter (fun p => p != 0 && (part s p).exists_)).foldl (fun s p =>
    if p ∈ kept then restorePart p s else losePart p s) s
  let s := if s.node.engineReset then eraseP 0 s else s
  let mask := maskOf ((List.range 24).filter (fun c => bitOf present c || cellOwner s c ∈ kept))
  let s := if s.node.engineReset then
      let (n, s) := draw s
      modNode (fun k => { k with bootNonce := n }) (modSec (fun x => if x.mstate = 3 then x else
        { x with mstate := 1, failedTest := 0, engineInc := (x.engineInc + 1) % 65536 }) s)
    else s
  let slot := bootSlot s
  let s := modNode (fun n => { n with
    phase := if slot.isSome then .active else .recovery, activeSlot := slot.getD n.activeSlot, kept := [], engineReset := false
    cellsPresent := mask, refLoss := false, linkChecked := true }) s
  let s := if slot.isSome then s else assertFault s
  let s := (List.range 24).foldl (fun s c => if cellUp s c then powerUp c (cell s c).pwr.st s else s) s
  postRecovery 4 0 cause 0xFFFF s.node.nodeInc 0 (releaseFault s)

/-- NODE_RESET_DONE: the cells whose stacks have trained. -/
def execNodeResetDone (present : Nat) (s : State) : Host.Outcome State Fault Refusal :=
  .next (if s.node.phase = .level4 && !s.node.resetHeld && !s.dbg.frozen then nodeResetDone (present % 2 ^ 24) s else s)

/-- NODE_RESET_TIMEOUT (R444): the node is not Active within 6 s. -/
def execNodeResetTimeout (s : State) : Host.Outcome State Fault Refusal :=
  .next (if s.node.phase = .level4 && !s.node.resetHeld && decide (s.node.level4At + 6000000 ≤ now s) && !s.dbg.frozen then climb5 s else s)

/-! ### Level 3 (R440) -/

/-- Level 3 up to R57. -/
def level3 (p cause : Nat) (cmd : Option Nat) (s : State) : State :=
  let s := autoDump 3 cause p (partUnits s p) s
  let was := (part s p).resetCmd
  let s := match was with
    | some id => if was = cmd then s else conclude id (err stInternal 3) s
    | none => s
  let s := modPart p (fun v => { v with inReset := true }) s
  let s := fencePart p cmd s
  let s := (partCells s p).foldl (fun s c => bumpCores c s) s
  let s := modDbg (fun g => { g with lastCause := cause, partResets := satAdd 0xFFFF g.partResets 1 }) s
  modPart p (fun v => { v with resetAt := now s, resetCmd := cmd, resetCause := cause, resets := runTime s :: inWindow s v.resets }) s

/-- Beginning a partition reset, which climbs to level 4 where PART_COUNT of them have occurred within CLIMB_WINDOW (R444). -/
def partReset (p cause : Nat) (cmd : Option Nat) (s : State) : State :=
  let s := level3 p cause cmd s
  if recSet s 13 ≠ 0 && recSet s 13 ≤ (part s p).resets.length then climb4 3 p (part s p).inc p (some p) s else s

/-- A climb to level 3. -/
def climb3 (from_ scope inc p : Nat) (cmd : Option Nat) (s : State) : State :=
  if recSet s 6 < 3 then halt from_ s.dbg.lastCause scope inc p s
  else partReset p 7 cmd (postRecovery from_ 1 s.dbg.lastCause scope inc p s)

/-- PARTITION_RESET_DONE (R440): R57 has run; PART_INC increments and ring fetch resumes. -/
def execPartitionResetDone (p : Nat) (s : State) : Host.Outcome State Fault Refusal :=
  .next (
    let v := part s p
    if v.exists_ && v.inReset && !v.creating && !v.destroying && s.node.phase != .level4 && canFreeze s && !((3, p) ∈ s.dbg.halted) &&
        ((releasesOut s p).isEmpty || decide (v.resetAt + 10000 ≤ now s)) then
      let s := destroyConns p (closeDump false s)
      let s := modFn p (fun f => { f with evt := {} }) s
      let s := modPart p (fun v => { resetPartn v with inReset := false, resetCmd := none }) (eraseP p s)
      let s := postRecovery 3 0 v.resetCause p (part s p).inc p s
      match v.resetCmd with
      | some id => conclude id (okRet [3]) s
      | none => s
    else s)

/-- PART_RESET_TIMEOUT (R444). -/
def execPartResetTimeout (p : Nat) (s : State) : Host.Outcome State Fault Refusal :=
  .next (
    let v := part s p
    if v.exists_ && v.inReset && !v.creating && !v.destroying && working_ s && !((3, p) ∈ s.dbg.halted) && decide (v.resetAt + 800000 ≤ now s) then
      climb4 3 p v.inc p (some p) s
    else s)

/-! ### Level 1 (R438) -/

/-- Every element of a BANK_OP that has not run is dropped. -/
def dropElements (p op : Nat) (s : State) : State :=
  (partCells s p).foldl (fun s c => modCell c (cutBanks (fun _ => 0) (fun e => e.opId != op)) s) s

/-- Ending a command by level 1 with a reply. -/
def endByReset (id : Nat) (r : Reply) (s : State) : State :=
  let c := tget {} s.cmds id
  let s := dropWork c.part id s
  match (part s c.part).ops.find? (fun o => o.2.cmd == some id) with
  | some o => conclude id r (modPart c.part (fun v => { v with ops := tdel v.ops o.1 }) (dropElements c.part o.1 s))
  | none => abortCmd id r s

/-- The handler that runs a request once more. -/
def rerunHandler (op : Nat) : Handler := if op = 0x0303 then cmdMatchSearch else if op = 0x0203 then cmdMerge else cmdAttendAny

/-- A request runs once more in a fresh context, under the deadline it has (R438). -/
def rerun (id i : Nat) (s : State) : State :=
  let x := ctxOf s i
  let s := if x.kind = 0x0303 then releaseSearch i s else releaseCtx i s
  let c := tget {} s.cmds id
  let s := { s with ctxs := tdel s.ctxs i }
  match freeCtx s c.part with
  | none => conclude id (err stInternal 1) s
  | some j =>
    let fresh : Ctx := { cmd := id, kind := c.opcode, part := c.part, cls := c.qos, rerun := true, progress := now s }
    let s := modCmd id (fun c => { c with ctx := some j }) { s with ctxs := tset s.ctxs j fresh }
    let s := begin_ (rerunHandler c.opcode) id s
    modCtx j (fun y => if y.cmd = id then { y with deadline := x.deadline } else y) s

/-- Level 1 on a context: the command runs again or ends with INTERNAL, detail 1. -/
def level1 (i cause : Nat) (s : State) : State :=
  let x := ctxOf s i
  let p := x.part
  let s := match tget? s.cmds x.cmd with
    | some c =>
      if c.held then s
      else if (c.opcode = 0x0201 || c.opcode = 0x0203 || c.opcode = 0x0303) && !x.rerun && decide (2 * now s ≤ x.deadline + c.at_) then
        rerun x.cmd i s
      else endByReset x.cmd (err stInternal 1) s
    | none =>
      match (part s p).ops.find? (fun o => o.2.ctx == i && o.2.mode == 1 && !o.2.finished) with
      | some o => modPart p (fun v => { v with
          ops := tmod v.ops o.1 (fun q => { q with finished := true, status := stInternal, detail := 1, endAt := now s }) })
            (dropElements p o.1 { s with ctxs := tdel s.ctxs i })
      | none => { s with ctxs := tdel s.ctxs i }
  postRecovery 1 0 cause p (part s p).inc p s

/-! ### Level 2 (R439) -/

/-- A retired core never returns until power-up (R444). -/
def retireCore (c k : Nat) (s : State) : State :=
  modCell c (fun v => { v with
    retiredCores := setBit v.retiredCores k
    cores := tset v.cores k { coreOf v k with st := 2, cmd := none } }) s

/-- The core to which a request's tokens of a KV head are directed (R149). -/
def directedCore (s : State) (t : Token) : Option Nat := if (ctxOf s t.ctx).r.distrib = 2 then some (t.kv / 4 % 16) else none

/-- Tokens that a core holds go back to the head of their class queues (R439): answers those whose re-issues are exceeded. The places
that adopted fetches filled for tokens in the ring are lost with the scratchpad, and those tokens may go to any core (log 86). -/
def reissueTokens (c k : Nat) (s : State) : List Nat × State :=
  let v := coreOf (cell s c) k
  let toks := v.held.map (fun h => { h.tok with reissues := h.tok.reissues + 1, kept := [] })
  let bad := (toks.filter (fun t => recSet s 11 < t.reissues)).map (·.ctx) ++ v.carry.map (·.1)
  let back := toks.map (fun t => ({ tok := t, cls := (ctxOf s t.ctx).cls, core := directedCore s t } : RTok))
  let lost (t : RTok) : RTok := if t.core = some k && !t.tok.kept.isEmpty then { t with tok := { t.tok with kept := [] }, core := none } else t
  (bad.eraseDups, modCell c (fun w => { w with ring := back ++ w.ring.map lost }) s)

/-- Level 2 on a core: fence, re-issue, zeroed scratchpad, self-check (R436, R439). -/
def level2 (c k cause : Nat) (trip : Bool) (cmd : Option Nat) (s : State) : State :=
  let g := 16 * c + k
  let s := autoDump 2 cause (if cellOwner s c = 0 then 0xFFFF else cellOwner s c) [0x1000 + g] s
  let v := coreOf (cell s c) k
  let (bad, s) := reissueTokens c k s
  let s := match v.cmd with
    | some id => if v.cmd = cmd then s else conclude id (err stInternal 3) s
    | none => s
  let fresh : Core :=
    { inc := (v.inc + 1) % 65536, st := 1, resets := if trip then runTime s :: inWindow s v.resets else inWindow s v.resets
      checkAt := now s, cmd := cmd, cause := cause }
  let s := modCell c (fun w => { w with cores := tset w.cores k fresh, engineResets := satAdd 0xFFFF w.engineResets 1 }) s
  let s := modDbg (fun d => { d with lastCause := cause }) s
  bad.foldl (fun s i => if thas s.ctxs i then level1 i 0x0C s else s) s

/-- Whether a core has reached RETIRE_COUNT within CLIMB_WINDOW (R444). -/
def coreWorn (s : State) (c k : Nat) : Bool := decide (recSet s 12 ≤ (inWindow s (coreOf (cell s c) k).resets).length)

/-- A core that has reached RETIRE_COUNT is retired, or its recovery climbs (R444). -/
def wornOut (c k : Nat) (s : State) : State :=
  let v := coreOf (cell s c) k
  let g := 16 * c + k
  if recSet s 7 = 1 then
    let s := postRecovery 2 1 v.cause g v.inc (cellOwner s c) (retireCore c k s)
    match v.cmd with
    | some id => conclude id (okRet [2]) s
    | none => s
  else if cellOwner s c = 0 then halt 2 v.cause g v.inc 0 s
  else climb3 2 g v.inc (cellOwner s c) v.cmd s

/-- Beginning a core reset. -/
def coreReset (c k cause : Nat) (trip : Bool) (cmd : Option Nat) (s : State) : State :=
  let s := level2 c k cause trip cmd s
  if trip && coreWorn s c k then wornOut c k s else s

/-- CORE_SELF_CHECK_DONE (R439): a core returns to service, checks again, or has worn out. -/
def execCoreSelfCheckDone (c k : Nat) (pass : Bool) (s : State) : Host.Outcome State Fault Refusal :=
  .next (
    let v := coreOf (cell s c) k
    if v.st ≠ 1 || !working_ s || (2, 16 * c + k) ∈ s.dbg.halted then s
    else if pass then
      let s := modCore c k (fun v => { v with st := 0, cmd := none }) s
      let s := postRecovery 2 0 v.cause (16 * c + k) v.inc (cellOwner s c) s
      match v.cmd with
      | some id => conclude id (okRet [2]) s
      | none => s
    else
      let s := modCore c k (fun v => { v with resets := runTime s :: inWindow s v.resets, checkAt := now s }) s
      if coreWorn s c k then wornOut c k s else s)

/-- CORE_RESET_TIMEOUT (R444): a core that has not acknowledged its reset within 2 ms. -/
def execCoreResetTimeout (c k : Nat) (s : State) : Host.Outcome State Fault Refusal :=
  .next (
    let v := coreOf (cell s c) k
    let p := cellOwner s c
    if v.st = 1 && working_ s && !((2, 16 * c + k) ∈ s.dbg.halted) && decide (v.checkAt + 2000 ≤ now s) then
      let g := 16 * c + k
      if p = 0 then halt 2 v.cause g v.inc 0 s
      else if (part s p).inReset then s
      else climb3 2 g v.inc p v.cmd s
    else s)

/-! ### Watchdogs (R432, R458) -/

/-- What a watchdog starts at its level: the context, the core, the cell, the hub. -/
def tripAction (level a b : Nat) (s : State) : State :=
  if level = 1 then (if (tget? s.ctxs a).elim false (fun x => (tget? s.cmds x.cmd).elim true (fun c => !c.held)) then level1 a 1 s else s)
  else if level = 2 then (if (coreOf (cell s a) b).st = 0 && a < 24 && b < 16 then coreReset a b 2 true none s else s)
  else if level = 3 then
    let p := cellOwner s a
    if 24 ≤ a || (part s p).inReset then s
    else if p = 0 then
      let s := bumpCores a (wipeCell a (fenceCell a (autoDump 3 3 0xFFFF (cellsUnits [a]) s)))
      let s := modDbg (fun g => { g with partResets := satAdd 0xFFFF g.partResets 1 }) s
      postRecovery 3 0 3 0 (cell s a).inc 0 s
    else partReset p 3 none s
  else nodeReset 4 false false none none s

/-- A watchdog trips; a trigger of R458 freezes the node before any fence. -/
def trip (level a b : Nat) (s : State) : State :=
  if !working_ s then s
  else if s.dbg.armTrigger = 3 && s.dbg.armLevel ≤ level then modDbg (fun g => { g with tripped := some (level, a, b) }) (freeze 3 s)
  else tripAction level a b s

/-- CTX_WD_TRIP (R438). -/
def execCtxWdTrip (ctx : Nat) (s : State) : Host.Outcome State Fault Refusal := .next (if thas s.ctxs ctx then trip 1 ctx 0 s else s)
/-- CORE_WD_TRIP (R439). -/
def execCoreWdTrip (c k : Nat) (s : State) : Host.Outcome State Fault Refusal :=
  .next (if c < 24 && k < 16 && (coreOf (cell s c) k).st = 0 then trip 2 c k s else s)
/-- CELL_WD_TRIP (R440). -/
def execCellWdTrip (c unit : Nat) (s : State) : Host.Outcome State Fault Refusal :=
  .next (if c < 24 && unit < 6 then trip 3 c unit s else s)
/-- HUB_WD_TRIP (R441). -/
def execHubWdTrip (unit : Nat) (s : State) : Host.Outcome State Fault Refusal := .next (if unit < 8 then trip 4 unit 0 s else s)

/-- CONTEXT_RESET_TIMEOUT (R438): the recovery climbs to the level of the unit that keeps a context's resources. -/
def execContextResetTimeout (_ctx : Nat) (unit : StuckUnit) (s : State) : Host.Outcome State Fault Refusal :=
  .next (if !working_ s then s else
    match unit with
    | .core c k =>
      if 24 ≤ c || 16 ≤ k || (coreOf (cell s c) k).st ≠ 0 then s
      else if recSet s 6 < 2 then halt 1 s.dbg.lastCause (cellOwner s c) (part s (cellOwner s c)).inc (cellOwner s c) s
      else coreReset c k 7 false none (postRecovery 1 1 s.dbg.lastCause (cellOwner s c) (part s (cellOwner s c)).inc (cellOwner s c) s)
    | .cellUnit c _ =>
      let p := cellOwner s c
      if 24 ≤ c || p = 0 || (part s p).inReset then s else climb3 1 p (part s p).inc p none s
    | .hubBlock _ => climb4 1 0xFFFF s.node.nodeInc 0 none s)

/-! ### RESET_LEVEL (R328, R431, R445) -/

/-- RESET_LEVEL. -/
def cmdResetLevel : Handler := fun id c s =>
  let b := c.block
  let level := u8 b 0
  let p := if u16 b 2 = 0xFFFF then c.part else u16 b 2
  let core := u16 b 8
  if !blockIs c 10 || level = 0 || 5 < level || u8 b 1 ≠ 0 || (level ≠ 3 && u16 b 2 ≠ 0) || (level ≠ 1 && u32 b 4 ≠ 0) ||
      (level ≠ 2 && core ≠ 0) then (s, some (err stInvalid))
  else if c.part ≠ 0 && (level = 2 || 3 < level) then (s, some (err stAuth))
  else if level = 1 then
    match s.cmds.find? (fun e => e.2.src == c.src && e.2.tag == u32 b 4 && e.1 != id) with
    | none => (s, some (err stNotFound))
    | some (t, q) =>
      if q.ctx.isNone then (s, some (err stNotFound))
      else (postRecovery 1 0 8 c.part (part s c.part).inc c.part (endByReset t (err stCancelled) s), some (okRet [1]))
  else if level = 2 then
    if 384 ≤ core || !bitOf s.node.cellsPresent (core / 16) || bitOf (cell s (core / 16)).retiredCores (core % 16) then (s, some (err stNotFound))
    else (coreReset (core / 16) (core % 16) 8 false (some id) (unhalt 2 core s), none)
  else if level = 3 then
    if (c.part ≠ 0 && p ≠ c.part) || !(part s p).exists_ || (part s p).creating || (part s p).destroying then (s, some (err stNotFound))
    else (partReset p 8 (some id) (if c.part = 0 then unhalt 3 p s else s), none)
  else if level = 4 then (nodeReset (if s.sec.mstate = 2 then 9 else 8) false false none (some id) s, none)
  else (level5 8 (some id) s, none)

/-- RESET_LEVEL. -/
def execResetLevel (src : Source) (pkt : Packet) (s : State) : Host.Outcome State Fault Refusal :=
  .next (submitOp 0x0803 src pkt cmdResetLevel s)

/-- FROST_N_RISE (R462): the islands run again 1 µs after every node of the tray has released the pin; what a trigger froze
goes on. -/
def execFrostNRise (s : State) : Host.Outcome State Fault Refusal :=
  .next (if s.dbg.frozen && !s.dbg.driving then
    let t := s.dbg.tripped
    let s := fenceExpired (thaw s)
    match t with
    | some (level, a, b) => tripAction level a b s
    | none => s
  else s)

/-- DUMP_HOLD_EXPIRY (R442): the node asks for a power cycle. -/
def execDumpHoldExpiry (s : State) : Host.Outcome State Fault Refusal :=
  .next (if s.node.phase = .held && !s.node.pwrcyc && decide (s.node.holdUntil ≤ now s) && !s.dbg.frozen then
    drivePin 1 false (modNode (fun n => { n with pwrcyc := true }) (closeDump false s)) else s)

end Sys2Proof.Machine
end

