-- ==== Sys2Proof/Machine/Items.lean ====
section
/-! DEFINITION. Configuration items: defaults, ranges, relations, the staging set and commits (R288 to R294, R313). -/

namespace Sys2Proof.Machine

/-! ### Items -/

/-- The settings that an item has where nothing was committed, as 4-byte values in the order of its table (R313). -/
def itemDflt (s : State) (p item : Nat) : List Nat :=
  if item = 0x0001 then [10000]
  else if item = 0x0002 then [3]
  else if item = 0x0010 then [100, 1, 0x1400]
  else if item = 0x0020 then fabricDflt
  else if item = 0x0030 then [0]
  else if item = 0x0100 then [quotaDefault s p]
  else if item = 0x0101 then [256, 65535, 400, 55, 50, 1000]
  else if item = 0x0102 then netTimerDflt
  else if item = 0x0103 then List.replicate 192 0 ++ [0x12B9, 0, 0, 0, 0]
  else if item = 0x0104 then 0 :: List.replicate 8 0xFFFF
  else if item = 0x01F0 then (List.replicate 16 [1, 0xF, 1, 3, 1, 0]).flatten
  else if item = 0x01F1 then (List.replicate 8 [0xF, 1, 1, 1]).flatten
  else if item = 0x0200 then 0 :: (List.range 24).map (fun i => slotsOf s (i + 1))
  else if item = 0x0300 then powerDflt
  else if item = 0x0400 then recDflt
  else if item = 0x0401 then List.replicate 32 0
  else []

/-- The items that a CONFIG_STAGE may name (R288). -/
def itemList : List Nat :=
  [0x0001, 0x0002, 0x0010, 0x0011, 0x0020, 0x0030, 0x0100, 0x0101, 0x0102, 0x0103, 0x0104, 0x01F0, 0x01F1, 0x0200, 0x0300, 0x0400, 0x0401]
/-- The items of partition 0 (R288, R380, R404, R425, R446). -/
def operatorOnlyItem (item : Nat) : Bool := item ∈ [0x0002, 0x0100, 0x0103, 0x0104, 0x01F0, 0x01F1, 0x0200, 0x0300, 0x0400, 0x0401]
/-- The items that name a tenant; a staged one holds the tenant before its setting. -/
def targeted (item : Nat) : Bool := item == 0x0002 || item == 0x0100

/-- Each value lies between its bounds. -/
def inBounds : List (Nat × Nat) → List Nat → Bool
  | [], [] => true
  | b :: bs, v :: vs => decide (b.1 ≤ v) && decide (v ≤ b.2) && inBounds bs vs
  | _, _ => false

/-- The bounds of an item whose settings are independent of one another. -/
def itemBounds (item : Nat) : List (Nat × Nat) :=
  if item = 0x0001 then [(100, 10000000)]
  else if item = 0x0002 then [(0, 3)]
  else if item = 0x0010 then [(1, 1000000), (0, 1), (0, 0x3C00)]
  else if item = 0x0020 then [(50, 1000000), (200000, 60000000), (50000, 20000000), (1000, 500000), (0, 60000000), (0, 4096)]
  else if item = 0x0100 then [(0, 64512)]
  else if item = 0x0102 then [(10, 1000000), (0, 7), (1, 10000), (0, 7), (1, 1000)]
  else if item = 0x0103 then
    (List.replicate 16 ([(0, 2 ^ 32 - 1), (0, 32)] ++ List.replicate 5 (0, 2 ^ 32 - 1) ++ [(0, 128)] ++ List.replicate 4 (0, 2 ^ 32 - 1))).flatten ++
      [(0, 65535), (0, 63), (0, 63), (0, 63), (0, 63)]
  else if item = 0x01F0 then (List.replicate 16 [(0, 3), (0, 15), (0, 1), (0, 3), (0, 1), (0, 1)]).flatten
  else if item = 0x01F1 then (List.replicate 8 [(0, 15), (0, 1), (0, 1), (0, 1)]).flatten
  else if item = 0x0200 then (0, 1) :: List.replicate 24 (1, 256)
  else if item = 0x0300 then [(400, 1800), (400, 1200), (1000, 100000), (0, 3600000000), (80, 99), (80, 92)]
  else if item = 0x0400 then
    [(1, 255), (1, 200), (1, 200), (1, 100), (1, 100), (1, 100), (1, 5), (0, 1), (0, 1), (0, 15), (0, 10), (0, 3), (1, 15), (0, 15), (0, 15),
      (1, 4095), (0, 1)]
  else []

/-- One entry of ROUTES (log 13): node, address, path count, paths. -/
def routeOk (e : List Nat) : Bool :=
  decide (e.getD 0 4096 < 4096) && decide (e.getD 5 17 ≤ 16) &&
    (List.range 16).all (fun i => decide (e.getD (6 + 2 * i) 0 ≤ 23) && decide (e.getD (7 + 2 * i) 0 ≤ 65535))

/-- Every field of an item lies within its own range (R289). -/
def itemRange (s : State) (p item : Nat) (v : List Nat) : Bool :=
  if item = 0x0030 then v.length == 1 && v.headD 1 % 16 == 0 && decide (v.headD 0 + 16 ≤ rawRows s p)
  else if item = 0x0101 then v.length == 6 && ccOk v && decide (v.getD 0 0 ≤ 65535) && decide (v.getD 1 0 ≤ 65535)
  else if item = 0x0104 then
    let n := v.headD 0
    decide (n ≤ 4096) && v.length == 9 + 38 * n && (List.range n).all (fun i => routeOk ((v.drop (1 + 38 * i)).take 38)) &&
      (v.drop (1 + 38 * n)).all (fun x => decide (x < 4096) || x == 0xFFFF)
  else if item = 0x0401 then
    v.length == 32 && v.all (fun x => decide (x ≤ 3145728))
  else !(itemBounds item).isEmpty && inBounds (itemBounds item) v

/-! ### The staging set (R289, R102) -/

/-- The staged settings of an item, or none. -/
def stagedVals (s : State) (p item : Nat) : Option (List Nat) := ((part s p).staged.find? (fun g => g.item == item)).map (·.vals)
/-- The settings of an item in force. -/
def activeVals (s : State) (p item : Nat) : List Nat := itemVals s p item (itemDflt s p item)
/-- The settings that a commit would see: staged, or active (R291). -/
def seenVals (s : State) (p item : Nat) : List Nat := (stagedVals s p item).getD (activeVals s p item)

/-- Whether a staged entry is the one that an ACTION names. -/
def sameItem (item target : Nat) (g : Staged) : Bool := g.item == item && (!targeted item || g.vals.headD 0 == target)

/-- STAGE_SERIAL increments. -/
def bumpSerial (p : Nat) (s : State) : State := modPart p (fun v => { v with stageSerial := (v.stageSerial + 1) % 2 ^ 32 }) s

/-- Staging an item's settings. -/
def stageItem (p item target : Nat) (vals : List Nat) (size : Nat) (s : State) : State :=
  bumpSerial p (modPart p (fun v => { v with
    staged := v.staged.filter (fun g => !sameItem item target g) ++ [{ item := item, vals := vals, size := size }] }) s)

/-- Bytes of the entries of a calibration set. -/
def calBytes (c : CalSet) : Nat := sumBy c.entries (fun e => 2 * e.2.scale.length + e.2.zero.length)

/-- A part of a calibration set (R313): its header, and the entries from FIRST_LAYER on; none where it is not well formed. DESIGN
CHOICE: LAYERS of 1 to 512, KV_HEADS of 1 to 64 and HEAD_DIM of 0 to 2 are taken, the spec gives these fields no range here (log 79). -/
def calPart (b : List Byte) : Option CalSet :=
  let layers := u16 b 0
  let kv := u8 b 2
  let dc := u8 b 3
  let first := u16 b 4
  let n := u16 b 6
  let d := dimOf dc
  let e := 6 * d
  if layers = 0 || 512 < layers || kv = 0 || 64 < kv || 2 < dc || n = 0 || layers < first + n || b.length ≠ 8 + n * kv * e then none
  else
    let entry (i : Nat) : CalEntry :=
      let o := slice b (8 + i * e) e
      { scale := (List.range (2 * d)).map (fun k => u16 o (2 * k)), zero := (List.range (2 * d)).map (fun k => u8 o (4 * d + k)) }
    let es : Tab CalEntry := (List.range (n * kv)).map (fun i => ((first + i / kv) * 64 + i % kv, entry i))
    if es.any (fun x => x.2.scale.any (fun f => !fFinite fFP16 f || fMag fFP16 f == 0)) then none
    else some {
      layers := layers, kvHeads := kv, dim := dc, parts := (List.range n).map (fun i => (first + i, layers, kv, dc)), entries := es }

/-- A staged set with a part put into it: the part replaces the staged entries of its layers, which keep the shape that the part
gave (R102). -/
def joinCal (old : CalSet) (n : CalSet) : CalSet :=
  { n with
    parts := n.parts.foldl (fun t e => tset t e.1 e.2) old.parts
    entries := n.entries.foldl (fun t e => tset t e.1 e.2) (old.entries.filter (fun e => !thas n.parts (e.1 / 64))) }

/-- CONFIG_STAGE (R289, R313). -/
def cmdConfigStage : Handler := fun _ c s =>
  let b := c.block
  let p := c.part
  let item := u16 b 0
  let action := u8 b 2
  let job := u32 b 4
  let target := u16 b 8
  let n := u32 b 12
  let v := part s p
  let vals := (List.range (n / 4)).map (fun i => u32 b (32 + 4 * i))
  let ok (s : State) : State × Option Reply := (s, some (okRet (toLe 4 (part s p).stageSerial)))
  if 2 < action || u8 b 3 ≠ 0 || u16 b 10 ≠ 0 || !zeroIn b 16 32 || b.length ≠ 32 + n || (action ≠ 0 && n ≠ 0) then (s, some (err stInvalid))
  else if action = 2 then
    if job ≠ 0 || target ≠ 0 then (s, some (err stInvalid))
    else ok (bumpSerial p (modPart p (fun v => { v with staged := [], calStaged := [] }) s))
  else if item ∉ itemList then (s, some (err stInvalid))
  else if (item ≠ 0x0011 && job ≠ 0) || (if targeted item then target = 0 || 24 < target else target ≠ 0) then (s, some (err stInvalid))
  else if action = 0 && item ≠ 0x0011 && (n % 4 ≠ 0 || !itemRange s p item vals) then (s, some (err stInvalid))
  else if operatorOnlyItem item && p ≠ 0 then (s, some (err stAuth))
  else if item = 0x0011 then
    if action = 1 then ok (bumpSerial p (modPart p (fun v => { v with calStaged := tdel v.calStaged job }) s))
    else match calPart (b.drop 32) with
    | none => (s, some (err stInvalid))
    | some q =>
      let t := tset v.calStaged job (joinCal (tget {} v.calStaged job) q)
      if 64 < v.staged.length + t.length || 67108864 < sumBy t (fun e => calBytes e.2) then (s, some (err stBusy))
      else ok (bumpSerial p (modPart p (fun v => { v with calStaged := t }) s))
  else if action = 1 then ok (bumpSerial p (modPart p (fun v => { v with staged := v.staged.filter (fun g => !sameItem item target g) }) s))
  else
    let rest := v.staged.filter (fun g => !sameItem item target g)
    if 64 < rest.length + 1 + v.calStaged.length || 16777216 < sumBy rest (·.size) + n then (s, some (err stBusy))
    else ok (stageItem p item target (if targeted item then target :: vals else vals) n s)

/-- CONFIG_STAGE. -/
def execConfigStage (src : Source) (pkt : Packet) (s : State) : Host.Outcome State Fault Refusal :=
  .next (submitOp 0x0004 src pkt cmdConfigStage s)

/-! ### Commits (R291 to R294) -/

/-- MAX_CONNS of every tenant as a commit would leave it (R380). -/
def quotasSeen (s : State) (p : Nat) : List Nat := (tenants s).map (fun t =>
  match (part s p).staged.find? (sameItem 0x0100 t) with
  | some g => g.vals.getD 1 0
  | none => connQuota s t)

/-- The relations that R291 order 2 checks for an item, over the combined set; ranges count among them, since a register write
stages without a check (R475). -/
def relationOk (s : State) (p : Nat) (g : Staged) : Bool :=
  let v := g.vals
  if targeted g.item then
    itemRange s p g.item (v.drop 1) && (g.item != 0x0100 || decide ((quotasSeen s p).foldl (· + ·) 0 ≤ 64512))
  else itemRange s p g.item v &&
    (if g.item = 0x0020 then decide (3 * v.getD 2 0 ≤ v.getD 1 0) && decide (v.getD 4 0 ≤ v.getD 1 0)
     else if g.item = 0x01F0 then
      (List.range 16).all (fun k =>
        let use_ := v.getD (6 * k) 0
        let pair := v.getD (6 * (if k % 2 = 0 then k + 1 else k - 1)) 0
        use_ != 3 && (use_ != 2 || pair == 2) && !(use_ == 1 && v.getD (6 * k + 2) 0 == 1 && v.getD (6 * k + 1) 0 == 0))
     else if g.item = 0x01F1 then (List.range 8).all (fun k => v.getD (4 * k) 0 % 2 == 1)
     else if g.item = 0x0200 then
      decide (((tenants s).map (fun t => if (partCells s t).isEmpty then 0 else v.getD t 0)).foldl (· + ·) 0 ≤ 256)
     else if g.item = 0x0300 then decide (v.getD 1 0 ≤ v.getD 0 0)
     else if g.item = 0x0401 then
      v.all (fun x => x % 64 == 0) && (List.range 16).all (fun i => decide (v.getD (2 * i) 0 + v.getD (2 * i + 1) 0 ≤ 3145728)) &&
        decide (((List.range 16).map (fun i => v.getD (2 * i + 1) 0)).foldl (· + ·) 0 ≤ 4096)
     else true)

/-- A staged calibration set is whole: its parts agree in LAYERS, KV_HEADS and HEAD_DIM, and every layer has its entries (R102). -/
def calWhole (c : CalSet) : Bool :=
  c.layers != 0 && c.parts.length == c.layers && c.parts.all (fun e => e.2 == (c.layers, c.kvHeads, c.dim)) &&
    c.entries.length == c.layers * c.kvHeads

/-- Connections of a partition that are open. -/
def openConns (s : State) (p : Nat) : Nat := (s.conns.filter (fun e => e.2.part == p)).length

/-- The preconditions of R291 order 3: USER_ROWS (R261), MAX_CONNS (R380). -/
def preOk (s : State) (p : Nat) (g : Staged) : Bool :=
  if g.item = 0x0030 then
    g.vals == activeVals s p 0x0030 || ((part s p).gsets.isEmpty &&
      (part s p).regions.all (fun r => decide (rawRows s p ≤ (r.2.off % max 1 (rawRows s p * 1024)) / 1024 + g.vals.headD 0)))
  else if g.item = 0x0100 then decide (openConns s (g.vals.headD 0) ≤ g.vals.getD 1 0)
  else true

/-- A new commit replaces every entry and increments each entry's epoch (R105). DESIGN CHOICE: the first commit of an entry gives it
epoch 1, and a commit leaves its clip counts at zero (log 78). -/
def commitCal (old n : CalSet) : CalSet :=
  { n with parts := [], entries := n.entries.map (fun e =>
      let ep := min 0xFFFF ((tget {} old.entries e.1).epoch + 1)
      (e.1, { e.2 with epoch := ep, saturated := ep == 0xFFFF })) }

/-- What firmware does after a commit: ports renegotiate and the record is written to flash (R332, R510), clocks follow (R425). -/
def afterCommit (old : State) (items : List Nat) (s : State) : State :=
  let s := if 0x01F0 ∈ items || 0x01F1 ∈ items then
      let s := linksCommitted old s
      modNode (fun n => { n with slots := tmod n.slots n.activeSlot (fun f => { f with
        lanes := some (activeVals s 0 0x01F0), weft := some (activeVals s 0 0x01F1), nodeId := some n.nodeId }) }) s
    else s
  if 0x0300 ∈ items then applyClocks s else s

/-- Making staged items active as one effect. -/
def commitItems (p : Nat) (gs : List Staged) (cals : Tab CalSet) (s0 : State) : State :=
  let s := gs.foldl (fun s g =>
    if targeted g.item then modPart (g.vals.headD 0) (fun v => { v with items := tset v.items g.item (g.vals.drop 1) }) s
    else modPart p (fun v => { v with items := tset v.items g.item g.vals }) s) s0
  let s := modPart p (fun v => { v with
    cal := cals.foldl (fun t e => tset t e.1 (commitCal (tget {} t e.1) e.2)) v.cal
    staged := v.staged.filter (fun g => g ∉ gs), calStaged := v.calStaged.filter (fun e => !thas cals e.1)
    configGen := if gs.isEmpty && cals.isEmpty then v.configGen else (v.configGen + 1) % 2 ^ 32 }) s
  afterCommit s0 (gs.map (·.item)) s

/-- The least item of a list for which a check fails. -/
def firstFail (l : List Nat) : Option Nat := minBy id l

/-- The checks of R291 from order 2 on: the failing item, and whether at order 3. -/
def commitFail (s : State) (p : Nat) (gs : List Staged) (cals : Tab CalSet) : Option (Nat × Bool) :=
  let bad := (gs.filter (fun g => !relationOk s p g)).map (·.item) ++ (cals.filter (fun e => !calWhole e.2)).map (fun _ => 0x0011)
  match firstFail bad with
  | some i => some (i, false)
  | none => (firstFail ((gs.filter (fun g => !preOk s p g)).map (·.item))).map (fun i => (i, true))

/-- CONFIG_COMMIT (R291, R313). -/
def cmdConfigCommit : Handler := fun _ c s =>
  let p := c.part
  let v := part s p
  let ret (s : State) : List Byte := toLe 4 (part s p).configGen ++ toLe 4 (part s p).stageSerial
  if !blockIs c 0 then (s, some (err stInvalid))
  else if c.epoch ≠ 0 && c.epoch ≠ v.stageSerial then (s, some { status := stConflict, ret := zeros 4 ++ toLe 4 v.stageSerial })
  else match commitFail s p v.staged v.calStaged with
  | some (i, false) => (s, some (err stInvalid i))
  | some (i, true) => (s, some (err stConflict i))
  | none =>
    let s := commitItems p v.staged v.calStaged s
    (s, some (okRet (ret s)))

/-- CONFIG_COMMIT. -/
def execConfigCommit (src : Source) (pkt : Packet) (s : State) : Host.Outcome State Fault Refusal :=
  .next (submitOp 0x0005 src pkt cmdConfigCommit s)

/-! ### Register blocks with RWS fields (R290, R292, R475) -/

/-- Where an offset of a function's BAR0 leads: node-global space (true) or the function's own partition window (R473). -/
def regPlace (fn off : Nat) : Option (Bool × Nat) :=
  if fn = 0 then
    if off < 0x100000 then some (true, off)
    else if 0x1000000 ≤ off && off < 0x1010000 then some (false, off - 0x1000000)
    else none
  else if off < 0x10000 then some (false, off) else none

/-- BAR0 and BAR2 answer: not from a node reset until Active, not in Frost, not while PERST_N is low (R441, R459). -/
def barsLive (s : State) : Bool :=
  nodeLive s && !s.node.perstHeld

/-- The window of a function shows registers: its partition exists (R471). -/
def windowLive (s : State) (fn : Nat) : Bool := barsLive s && (fn == 0 || (part s fn).exists_)

/-- A TLP to a function is a wake event (R416). -/
def tlp (s : State) : State := if barsLive s then latchWake s else s

/-- The RWS fields of a register: item, and per field low bit, width, place in the item, scale. -/
def rwsFields (glob : Bool) (off : Nat) : Option (Nat × List (Nat × Nat × Nat × Nat)) :=
  if off % 8 ≠ 0 then none
  else if glob then
    if 0x3000 ≤ off && off < 0x3080 then
      let g := (off - 0x3000) / 8 * 6
      some (0x01F0, [(0, 2, g, 1), (2, 4, g + 1, 1), (6, 1, g + 2, 1), (7, 2, g + 3, 1), (9, 1, g + 4, 1), (10, 1, g + 5, 1)])
    else if 0x3080 ≤ off && off < 0x30C0 then
      let w := (off - 0x3080) / 8 * 4
      some (0x01F1, [(0, 4, w, 1), (4, 1, w + 1, 1), (5, 1, w + 2, 1), (6, 1, w + 3, 1)])
    else if off = 0x4000 then some (0x0400, [(0, 8, 0, 1), (8, 8, 1, 1), (16, 8, 2, 1), (24, 8, 3, 1), (32, 8, 4, 1), (40, 8, 5, 1)])
    else if off = 0x4008 then
      some (0x0400, [(0, 3, 6, 1), (3, 1, 7, 1), (4, 1, 8, 1), (6, 4, 9, 1), (10, 4, 10, 1), (14, 2, 11, 1), (16, 4, 12, 1), (20, 4, 13, 1),
        (24, 4, 14, 1), (28, 12, 15, 1), (40, 1, 16, 1)])
    else if 0x4200 ≤ off && off < 0x4280 then
      let i := (off - 0x4200) / 8 * 2
      some (0x0401, [(0, 22, i, 1), (32, 13, i + 1, 1)])
    else none
  else if off = 0x5000 then some (0x0020, [(0, 20, 0, 1), (20, 16, 1, 1000), (36, 16, 2, 1000), (52, 9, 3, 1000)])
  else if off = 0x5008 then some (0x0020, [(0, 16, 4, 1000), (16, 13, 5, 1)])
  else if off = 0x5010 then some (0x0102, [(0, 20, 0, 1), (20, 3, 1, 1), (24, 14, 2, 1), (38, 3, 3, 1), (41, 10, 4, 1)])
  else none

/-- The bits of a register that an access covers (R474). -/
def halfBits : Half → Nat × Nat
  | .low => (0, 32)
  | .high => (32, 64)
  | .full => (0, 64)

/-- The bits that a write puts at its place in the register. -/
def halfVal (half : Half) (val : BitVec 64) : Nat :=
  match half with
  | .low => val.toNat % 2 ^ 32
  | .high => val.toNat % 2 ^ 32 * 2 ^ 32
  | .full => val.toNat

/-- A register with a half written. -/
def mergeHalf (old : Nat) (half : Half) (val : BitVec 64) : Nat :=
  match half with
  | .low => old / 2 ^ 32 * 2 ^ 32 + val.toNat % 2 ^ 32
  | .high => val.toNat % 2 ^ 32 * 2 ^ 32 + old % 2 ^ 32
  | .full => val.toNat

/-- The field of a register as the settings of its item give it. -/
def fieldOf (v : List Nat) (f : Nat × Nat × Nat × Nat) : Nat := v.getD f.2.2.1 0 / f.2.2.2 % 2 ^ f.2.1

/-- The register value that a list of fields makes. -/
def regOf (v : List Nat) (fs : List (Nat × Nat × Nat × Nat)) : Nat := sumBy fs (fun f => fieldOf v f * 2 ^ f.1)

/-- Settings after a write of a register: those fields change that the written half reaches. -/
def writeFields (v : List Nat) (fs : List (Nat × Nat × Nat × Nat)) (half : Half) (val : BitVec 64) : List Nat :=
  let r := mergeHalf (regOf v fs) half val
  let hb := halfBits half
  fs.foldl (fun v f => if f.1 < hb.2 && hb.1 < f.1 + f.2.1 then v.set f.2.2.1 (bitsOf r f.1 f.2.1 * f.2.2.2) else v) v

/-- A write of a half of a register reaches one of its fields; reserved bits ignore writes (R8). -/
def fieldHit (fs : List (Nat × Nat × Nat × Nat)) (half : Half) : Bool :=
  fs.any (fun f => decide (f.1 < (halfBits half).2) && decide ((halfBits half).1 < f.1 + f.2.1))

/-- A write to a register with RWS fields stages its item (R290). -/
def rwsWrite (fn off : Nat) (half : Half) (val : BitVec 64) (s : State) : State :=
  match regPlace fn off with
  | none => s
  | some (glob, o) =>
    match rwsFields glob o with
    | none => s
    | some (item, fs) => if !fieldHit fs half then s else
      stageItem fn item 0 (writeFields (seenVals s fn item) fs half val) (4 * (seenVals s fn item).length) s

/-- RWS_WRITE (R290, R475). -/
def execRwsWrite (fn off : Nat) (half : Half) (val : BitVec 64) (s : State) : Host.Outcome State Fault Refusal :=
  .next (let s := tlp s; if windowLive s fn then rwsWrite fn off half val s else s)

/-- The items that a commit register commits (R292, R487, R488), and its number among the partition's commit registers. -/
def commitBlock (fn off : Nat) : Option (Nat × List Nat) :=
  match regPlace fn off with
  | some (true, 0x37F8) => some (0, [0x01F0, 0x01F1])
  | some (true, 0x47F8) => some (1, [0x0400, 0x0401])
  | some (false, 0x57F8) => some (2, [0x0020, 0x0102])
  | _ => none

/-- A block's staged items take effect, with the checks of R291 but order 1. -/
def commitNow (fn off : Nat) (s : State) : State :=
  match commitBlock fn off with
  | none => s
  | some (k, items) =>
    let gs := (part s fn).staged.filter (fun g => g.item ∈ items)
    match commitFail s fn gs [] with
    | some (i, _) => modPart fn (fun v => { v with commits := tset v.commits k { err := true, errItem := i } }) s
    | none => commitItems fn gs [] s

/-- A CONFIG_COMMIT of the partition that was accepted before command number `n` has not begun (R293). -/
def commitHeld (s : State) (p n : Nat) : Bool :=
  s.cmds.any (fun e => decide (e.1 < n) && e.2.held && e.2.opcode == 5 && e.2.part == p)

/-- Writing COMMIT (R292, R293): it acts at once, or waits behind the CONFIG_COMMITs and COMMIT bits accepted before it. -/
def commitReg (fn off : Nat) (s : State) : State :=
  if (part s fn).commitQ.isEmpty && !commitHeld s fn s.node.nextCmd then commitNow fn off s
  else if (part s fn).commitQ.any (fun w => w.1 == off) then s
  else modPart fn (fun v => { v with commitQ := v.commitQ ++ [(off, s.node.nextCmd)] }) s

/-- The oldest COMMIT of a partition that waits acts, when its turn has come (R293). -/
def commitTurn (p : Nat) (s : State) : State :=
  match (part s p).commitQ with
  | [] => s
  | w :: rest => if commitHeld s p w.2 then s else commitNow p w.1 (modPart p (fun v => { v with commitQ := rest }) s)

/-- Writing DISCARD: the block's items leave the staging set. -/
def discardReg (fn off : Nat) (s : State) : State :=
  match commitBlock fn off with
  | none => s
  | some (_, items) => modPart fn (fun v => { v with staged := v.staged.filter (fun g => g.item ∉ items) }) s

/-- COMMIT (R292). -/
def execCommit (fn off : Nat) (s : State) : Host.Outcome State Fault Refusal :=
  .next (let s := tlp s; if windowLive s fn then commitReg fn off s else s)
/-- DISCARD (R292). -/
def execDiscard (fn off : Nat) (s : State) : Host.Outcome State Fault Refusal :=
  .next (let s := tlp s; if windowLive s fn then discardReg fn off s else s)

/-- A write of a commit register as a whole (R292). -/
def commitWrite (fn off val : Nat) (s : State) : State :=
  match commitBlock fn off with
  | none => s
  | some (k, _) =>
    let s := if bitOf val 2 then modPart fn (fun v => { v with commits := tmod v.commits k (fun r => { r with err := false }) }) s else s
    if bitOf val 0 && bitOf val 1 then modPart fn (fun v => { v with commits := tset v.commits k { err := true, errItem := 0xFFFF } }) s
    else if bitOf val 0 then commitReg fn off s
    else if bitOf val 1 then discardReg fn off s
    else s

end Sys2Proof.Machine
end

