-- ==== Sys2Proof/Machine/HostQueues.lean ====
section
/-! DEFINITION. Queue pairs, rings, PCIe events, the raw aperture and register writes (chapter 18). -/

namespace Sys2Proof.Machine

/-! ### Queue pairs (R479 to R483) -/

/-- Queue pairs of a function (R473). -/
def qpCount (fn : Nat) : Nat := if fn = 0 then 64 else 8
/-- A function and queue pair of the node. -/
def qpExists (fn q : Nat) : Bool := decide (fn ≤ 24) && decide (q < qpCount fn)
/-- ERR changes; from 0 it sets ERR_EVT, which raises VECTOR (R480, R483). -/
def qpErr (fn q e : Nat) (s : State) : State :=
  let v := qpOf s fn q
  let s := modQp fn q (fun v => { v with err := if v.err = 0 then e else v.err, errEvt := v.errEvt || v.err == 0 }) s
  if v.err = 0 && !v.errEvt && v.vector ≤ vecMax fn then raiseMsi fn v.vector s else s

/-- A fault of ERR 1 to 3 stops acceptance; with ERR 3 the completions that wait are discarded and counted (R481). -/
def qpFault (fn q e : Nat) (s : State) : State :=
  let s := modQp fn q (fun v => { v with state := 2 }) (qpErr fn q e s)
  if e = 3 then
    let s := modQp fn q (fun v => { v with lost := satAdd 0xFFFF v.lost v.ready.length, ready := [] }) s
    { s with cmds := s.cmds.map (fun c => (c.1, if c.2.src == .qp fn q then { c.2 with discard := true } else c.2)) }
  else s

/-- A doorbell register takes its value; a value beyond the ring of a running queue pair is a fault. -/
def doorbell (cq : Bool) (fn q val : Nat) (s : State) : State :=
  if !barsLive s || !qpExists fn q then s
  else
    let i := val % 65536
    let s := modQp fn q (fun v => if cq then { v with cqHead := i } else { v with sqTail := i }) (latchWake s)
    let v := qpOf s fn q
    if v.state = 1 && 2 ^ ((if cq then v.cqLog else v.sqLog) + 4) ≤ i then qpFault fn q 1 s else s

/-- SQ_DOORBELL (R479). -/
def execSqDoorbell (fn q tail : Nat) (s : State) : Host.Outcome State Fault Refusal := .next (doorbell false fn q tail s)
/-- CQ_DOORBELL (R479). -/
def execCqDoorbell (fn q head : Nat) (s : State) : Host.Outcome State Fault Refusal := .next (doorbell true fn q head s)

/-- A write of HUB_QP_CFG (R480, R481). -/
def writeQpCfg (fn q cfg : Nat) (s : State) : State :=
  if !windowLive s fn || !qpExists fn q then s
  else
    let s := modQp fn q (fun v =>
      let v := { v with coalCount := bitsOf cfg 16 8, coalUs := bitsOf cfg 24 8 }
      if v.state = 0 then { v with sqLog := bitsOf cfg 0 4, cqLog := bitsOf cfg 4 4, vector := bitsOf cfg 8 7 } else v) s
    let v := qpOf s fn q
    if bitOf cfg 15 then
      if v.state ≠ 0 then s
      else if 12 < v.sqLog || 12 < v.cqLog || vecMax fn < v.vector then qpErr fn q 4 s
      else modQp fn q (fun v => { v with
        en := true, state := 1, err := 0, sqHead := 0, cqTail := 0, sqTail := 0, cqHead := 0, phase := true, coalesced := 0 }) s
    else if v.state = 1 || v.state = 2 then modQp fn q (fun v => { v with en := false, state := 3 }) s
    else s

/-- QP_ENABLE (R481). -/
def execQpEnable (fn q : Nat) (cfg : BitVec 64) (s : State) : Host.Outcome State Fault Refusal :=
  .next (writeQpCfg fn q (setBit cfg.toNat 15) (tlp s))
/-- QP_DISABLE (R481). -/
def execQpDisable (fn q : Nat) (cfg : BitVec 64) (s : State) : Host.Outcome State Fault Refusal :=
  .next (writeQpCfg fn q (clearBit cfg.toNat 15) (tlp s))

/-- QP_QUIESCE_DONE (R481): every accepted command has completed and been posted or discarded. -/
def execQpQuiesceDone (fn q : Nat) (s : State) : Host.Outcome State Fault Refusal :=
  .next (
    let v := qpOf s fn q
    if v.state = 3 && v.ready.isEmpty && !(s.cmds.any (fun c => c.2.src == .qp fn q)) && !s.dbg.frozen then
      modQp fn q (fun v => { v with state := 0, sqHead := 0, cqTail := 0, err := 0, coalesced := 0 }) s
    else s)

/-- The CQ entry of a completion (R478). -/
def cqEntry (v : Qp) (q : Nat) (c : Completion) : List Byte :=
  padTo 32 c.bytes ++ toLe 2 v.sqHead ++ toLe 1 q ++ toLe 1 (b2n v.phase) ++ zeros 28

/-- COMPLETION_POST (R478, R481, R483). -/
def execCompletionPost (fn q : Nat) (fault : Bool) (s : State) : Host.Outcome State Fault Refusal :=
  .next (
    let v := qpOf s fn q
    match v.ready with
    | [] => s
    | c :: rest =>
      if v.state = 0 || v.err = 3 || !(fnOf s fn).d0 || !(fnOf s fn).bme || !barsLive s then s
      else if fault then qpFault fn q 3 s
      else
        let size := 2 ^ (v.cqLog + 4)
        let tail := (v.cqTail + 1) % size
        let n := if c.notify || v.coalCount = 0 then v.coalesced else v.coalesced + 1
        let full := !c.notify && v.coalCount != 0 && decide (v.coalCount ≤ n)
        let s := modQp fn q (fun v => { v with
          ready := rest, cqTail := tail, phase := if tail = 0 then !v.phase else v.phase, coalesced := if full then 0 else n
          coalAt := if !c.notify && v.coalesced = 0 then now s + v.coalUs else v.coalAt }) s
        let s := emit (.cqEntry fn q v.cqTail (cqEntry v q c)) s
        if c.notify || full then raiseMsi fn v.vector s else s)

/-- COAL_US_EXPIRY (R483). -/
def execCoalUsExpiry (fn q : Nat) (s : State) : Host.Outcome State Fault Refusal :=
  .next (
    let v := qpOf s fn q
    if v.state ≠ 0 && v.coalCount ≠ 0 && 0 < v.coalesced && v.coalAt ≤ now s && barsLive s then
      raiseMsi fn v.vector (modQp fn q (fun v => { v with coalesced := 0 }) s)
    else s)

/-! ### Rings (R484) -/

/-- A ring of a function. -/
def ringOf (s : State) (fn : Nat) : RingId → Ring
  | .event => (fnOf s fn).evt
  | .pool i => tget {} (part s fn).poolRings i
/-- The state with a ring changed; a pool ring exists for the pools 0 to 63. -/
def modRing (fn : Nat) (r : RingId) (f : Ring → Ring) (s : State) : State :=
  match r with
  | .event => modFn fn (fun v => { v with evt := f v.evt }) s
  | .pool i => if i < 64 then modPart fn (fun v => { v with poolRings := tset v.poolRings i (f (tget {} v.poolRings i)) }) s else s

/-- What waits for a ring is written as far as it has room. -/
def drainRing (fn : Nat) : RingId → State → State
  | .event, s =>
    if (fnOf s fn).d0 && (fnOf s fn).bme then
      let w := (fnOf s fn).evt.waiting
      w.foldl (fun s rec => postEventRing fn rec s) (modFn fn (fun v => { v with evt := { v.evt with waiting := [] } }) s)
    else s
  | .pool i, s => drainPoolRing fn i s

/-- A write of a CTL register (R484): LOG_SIZE while EN is 0, VECTOR and HEAD at any time; EN 1 posts from TAIL 0. A HEAD beyond the ring is
taken modulo its size, and EN with a LOG_SIZE or VECTOR out of range enables nothing: DESIGN CHOICE (log 52). -/
def writeRingCtl (fn : Nat) (r : RingId) (ctl : Nat) (s : State) : State :=
  if !windowLive s fn then s
  else
    let old := ringOf s fn r
    let pool := match r with
      | .event => false
      | .pool _ => true
    let s := modRing fn r (fun v =>
      let v := { v with logSize := if v.en then v.logSize else bitsOf ctl 0 5, vector := if pool then bitsOf ctl 6 7 else 0 }
      { v with head := bitsOf ctl 16 16 % 2 ^ v.logSize }) s
    let v := ringOf s fn r
    if bitOf ctl 5 then
      if old.en then drainRing fn r s
      else if v.logSize < 6 || 16 < v.logSize || vecMax fn < v.vector then s
      else drainRing fn r (modRing fn r (fun v => { v with en := true, tail := 0 }) s)
    else modRing fn r (fun v => { v with en := false }) s

/-- RING_ENABLE (R484). -/
def execRingEnable (fn : Nat) (ring : RingId) (ctl : BitVec 64) (s : State) : Host.Outcome State Fault Refusal :=
  .next (writeRingCtl fn ring (setBit ctl.toNat 5) (tlp s))

/-- RING_HEAD_WRITE (R484): slots are free again, and what waits is posted. -/
def execRingHeadWrite (fn : Nat) (ring : RingId) (head : Nat) (s : State) : Host.Outcome State Fault Refusal :=
  .next (let s := tlp s; if windowLive s fn then drainRing fn ring (modRing fn ring (fun v => { v with head := head % 2 ^ v.logSize }) s) else s)

/-! ### PCIe events (R472) -/

/-- Window registers of a partition that an FLR of its function returns to their reset values; staged and active configuration,
pages and counters that are no registers are untouched. -/
def flrWindow (p : Nat) (s : State) : State :=
  let s := modPart p (fun v => { v with
    poolRings := v.poolRings.map (fun e => (e.1, ({ waiting := e.2.waiting } : Ring))), commits := v.commits.filter (fun e => e.1 != 2)
    commitQ := v.commitQ.filter (fun w => (commitBlock p w.1).elim true (fun b => b.1 != 2))
    mtrSel := 0, mtrValid := false, mtr := [], aperture := 0, throttleEvt := false }) s
  (partCells s p).foldl (fun s c => modCell c (fun v => { v with
    ce := 0, ue := 0, poisonEvt := false, scrubLap := false, repairs := 0, lostEntries := 0, repairEvt := false, lostEvt := false
    patrolLap := false }) s) s

/-- FLR of one function: queue pairs and rings disabled, completions of accepted commands discarded and counted from now on. -/
def flrFn (fn : Nat) (s : State) : State :=
  let s := { s with
    cmds := s.cmds.map (fun c => (c.1, match c.2.src with
      | .qp f _ => if f = fn then { c.2 with discard := true } else c.2
      | _ => c.2)) }
  let s := modFn fn (fun v => { v with
    qps := v.qps.map (fun e => (e.1, ({ lost := min 0xFFFF e.2.ready.length, malformed := e.2.malformed } : Qp))), evt := {}, pending := [] }) s
  flrWindow fn s

/-- Every function. -/
def flrAll (s : State) : State := (List.range 25).foldl (fun s f => flrFn f s) s

/-- The PCIe side is there: power is on. -/
def pcieOn (s : State) : Bool := s.node.phase != .off && s.node.phase != .tripped

/-- FLR (R472): of the PF, for every VF too. -/
def execFlr (fn : Nat) (s : State) : Host.Outcome State Fault Refusal :=
  .next (if !pcieOn s || s.dbg.frozen then s else if fn = 0 then flrAll s else if fn ≤ 24 then flrFn fn s else s)
/-- VF_ENABLE_CLEAR (R472, R471): VF Enable cleared acts on the PF and every VF; a smaller NumVFs on the VFs beyond it. -/
def execVfEnableClear (numVfs : Nat) (s : State) : Host.Outcome State Fault Refusal :=
  .next (if !pcieOn s || s.dbg.frozen then s
    else if numVfs = 0 then flrAll s
    else ((List.range 25).filter (fun f => numVfs < f)).foldl (fun s f => flrFn f s) s)
/-- PERST_N (R472). -/
def execPerstN (low : Bool) (s : State) : Host.Outcome State Fault Refusal :=
  .next (if !pcieOn s then s
    else if low then modNode (fun n => { n with perstHeld := true }) (flrAll s)
    else modNode (fun n => { n with perstHeld := false }) s)
/-- PCIE_LINK_DOWN (R472): hot reset or link down. -/
def execPcieLinkDown (s : State) : Host.Outcome State Fault Refusal := .next (if pcieOn s then flrAll s else s)

/-- D3HOT, or Bus Master Enable cleared (R472). -/
def execD3hot (fn : Nat) (bmeOnly : Bool) (s : State) : Host.Outcome State Fault Refusal :=
  .next (if !pcieOn s || 24 < fn then s else modFn fn (fun v => if bmeOnly then { v with bme := false } else { v with d0 := false }) s)

/-- RETURN_TO_D0 (R472): what waited is posted in order. -/
def execReturnToD0 (fn : Nat) (s : State) : Host.Outcome State Fault Refusal :=
  .next (if !pcieOn s || 24 < fn then s
    else
      let vs := (fnOf s fn).pending
      let s := modFn fn (fun v => { v with d0 := true, bme := true, pending := [] }) s
      let s := drainRing fn .event s
      let s := ((part s fn).poolRings.map (·.1)).foldl (fun s i => drainRing fn (.pool i) s) s
      vs.foldl (fun s v => raiseMsi fn v s) s)

/-! ### The raw aperture (R485, R486) -/

/-- The steering value of an aperture access: the function's own, or the PF's for a partition. -/
def apertureOf (s : State) (fn p : Nat) : Nat := if fn = 0 && p ≠ 0 then (part s p).pfAperture else (part s p).aperture

/-- The raw byte that an aperture offset shows, where the access reaches one (R486). -/
def apertureByte (s : State) (p steer off : Nat) : Option Nat :=
  let c := bitsOf steer 0 5
  let row := (bitsOf steer 24 2 * 1048576 + off) / 1024
  if 1048576 ≤ off || !(c ∈ partCells s p) || !cellUp s c || rawRows s p ≤ row || row < rawRows s p - userRows s p then none
  else some (rawKey c (bitsOf steer 8 11) row (off % 1024))

/-- The bytes of a read. -/
def apertureRead (s : State) (p steer off n : Nat) : List Byte :=
  (List.range n).map (fun i => match apertureByte s p steer (off + i) with
    | some a => rawGet s.raw a
    | none => 0)

/-- A write, byte by byte; bytes outside do nothing. -/
def apertureWrite (p steer : Nat) : Nat → List Byte → State → State
  | _, [], s => s
  | off, b :: bs, s => apertureWrite p steer (off + 1) bs (match apertureByte s p steer off with
    | some a => putRaw a [b] s
    | none => s)

/-- RAW_APERTURE_ACCESS (R486): an access in Drizzle completes after the wake, and one to a bank that an element has taken
after that element (R266). -/
def execRawApertureAccess (fn p off len : Nat) (data : Option (List Byte)) (s : State) : Host.Outcome State Fault Refusal :=
  .next (
    if fn ≠ 0 && p ≠ fn then s
    else
      let s := if barsLive s then finishWake (latchWake s) else s
      let steer := apertureOf s fn p
      let s := if barsLive s && bitsOf steer 0 5 ∈ partCells s p then bankAccess (bitsOf steer 0 5) (bitsOf steer 8 11) s else s
      match data with
      | none => emit (.apertureData fn (if barsLive s then apertureRead s p steer off len else zeros len)) s
      | some b => if barsLive s then apertureWrite p steer off (b.take len) s else s)

/-! ### Register writes -/

/-- A 64-bit register with some bits writable. -/
def maskWrite (old w mask : Nat) : Nat := (List.range 64).foldl (fun v i => if bitOf mask i then (if bitOf w i then setBit v i else clearBit v i) else v) old

/-- HUB_NODE_ID (R489): ignored while any tenant or connection exists; firmware writes it to flash (R510). -/
def writeNodeId (id : Nat) (s : State) : State :=
  if !(tenants s).isEmpty || !s.conns.isEmpty then s
  else modNode (fun n => { n with
    nodeId := id % 4096, slots := tmod n.slots n.activeSlot (fun f => { f with
      nodeId := some (id % 4096), lanes := some (activeVals s 0 0x01F0), weft := some (activeVals s 0 0x01F1) }) }) s

/-- NODE_ID_WRITE (R489). -/
def execNodeIdWrite (fn id : Nat) (s : State) : Host.Outcome State Fault Refusal :=
  .next (let s := tlp s; if fn = 0 && barsLive s then writeNodeId id s else s)

/-- MTR_SEL latches a composition (R492). -/
def writeMtrSel (p job : Nat) (s : State) : State :=
  let has := thas (part s p).meters job
  modPart p (fun v => { v with mtrSel := job, mtrValid := has, mtr := if has then meterVals (tget {} v.meters job) else [] }) s

/-- MTR_SEL (R492). -/
def execMtrSel (fn job : Nat) (s : State) : Host.Outcome State Fault Refusal :=
  .next (let s := tlp s; if windowLive s fn then writeMtrSel fn (job % 2 ^ 32) s else s)

/-- Writing SELFTEST (R401): the known-answer tests run on demand. -/
def startSelftest (s : State) : State := if s.sec.mstate = 1 then modSec (fun x => { x with selftest := true }) s else s

/-- SELFTEST (R401). -/
def execSelftest (fn : Nat) (s : State) : Host.Outcome State Fault Refusal :=
  .next (let s := tlp s; if fn = 0 && barsLive s then startSelftest s else s)

/-- A write in node-global space; `w` holds the written bits at their places, `lo` to `hi` are those written. -/
def writeGlobal (o w lo hi : Nat) (half : Half) (val : BitVec 64) (s : State) : State :=
  let hit (i : Nat) : Bool := decide (lo ≤ i) && decide (i < hi) && bitOf w i
  if o = 0 then (if lo = 0 then writeNodeId (w % 4096) s else s)
  else if o = 0x1000 then
    let s := if hit 3 then modSec (fun x => { x with zeroised := false }) s else s
    if hit 5 then startSelftest s else s
  else if o = 0x2000 then modPwr (fun x => { x with warn := x.warn && !hit 10, overT := x.overT && !hit 11 }) s
  else if 0x3100 ≤ o && o < 0x3180 && o % 8 = 0 then
    if hit 12 then modPort (groupPort s ((o - 0x3100) / 8)) (fun p => { p with evt := false }) s else s
  else if o = 0x37F8 || o = 0x47F8 then (if lo = 0 then commitWrite 0 o w s else s)
  else if o = 0x4010 then (if hit 49 then modDbg (fun d => { d with recoveryEvt := false }) s else s)
  else if 0x5000 ≤ o && o < 0x50C8 && o % 8 = 0 then
    let p := (o - 0x5000) / 8
    modPart p (fun v => if p = 0 then { v with aperture := maskWrite (mergeHalf v.aperture half val) 0 (2 ^ 64 - 1 - 0x307FF1F) }
      else { v with pfAperture := maskWrite (mergeHalf v.pfAperture half val) 0 (2 ^ 64 - 1 - 0x307FF1F) }) s
  else rwsWrite 0 o half val s

/-- A write in a function's own partition window. -/
def writeWindow (fn o w lo hi : Nat) (half : Half) (val : BitVec 64) (s : State) : State :=
  let hit (i : Nat) : Bool := decide (lo ≤ i) && decide (i < hi) && bitOf w i
  if o = 0x100 then modRing fn .event (fun r => { r with base := mergeHalf r.base half val / 64 * 64 }) s
  else if o = 0x108 then
    (if lo = 0 then writeRingCtl fn .event w s else s)
  else if 0x1000 ≤ o && o < 0x10C0 && o % 8 = 0 then
    let c := (o - 0x1000) / 8
    if c ∈ partCells s fn then modCell c (fun v => { v with
      poisonEvt := v.poisonEvt && !hit 48, scrubLap := v.scrubLap && !hit 49 }) s else s
  else if 0x2000 ≤ o && o < 0x20C0 && o % 8 = 0 then
    let c := (o - 0x2000) / 8
    if c ∈ partCells s fn then modCell c (fun v => { v with
      repairEvt := v.repairEvt && !hit 48, lostEvt := v.lostEvt && !hit 49, patrolLap := v.patrolLap && !hit 50 }) s else s
  else if o = 0x3000 then (if hit 1 then modPart fn (fun v => { v with throttleEvt := false }) s else s)
  else if o = 0x57F8 then (if lo = 0 then commitWrite fn (if fn = 0 then 0x1000000 + o else o) w s else s)
  else if 0x6000 ≤ o && o < 0x6400 && o % 16 = 0 then
    modRing fn (.pool ((o - 0x6000) / 16)) (fun r => { r with base := mergeHalf r.base half val / 64 * 64 }) s
  else if 0x6000 ≤ o && o < 0x6400 && o % 16 = 8 then (if lo = 0 then writeRingCtl fn (.pool ((o - 0x6000) / 16)) w s else s)
  else if o = 0x7000 then (if lo = 0 then writeMtrSel fn (w % 2 ^ 32) s else s)
  else if o = 0x8000 then
    modPart fn (fun v => { v with aperture := maskWrite (mergeHalf v.aperture half val) 0 (2 ^ 64 - 1 - 0x307FF1F) }) s
  else if 0x9000 ≤ o && o < 0x9000 + 0x40 * qpCount fn then
    let q := (o - 0x9000) / 64
    let r := (o - 0x9000) % 64
    let v := qpOf s fn q
    if r = 0 then (if v.state = 0 then modQp fn q (fun v => { v with sqBase := mergeHalf v.sqBase half val / 4096 * 4096 }) s else s)
    else if r = 8 then (if v.state = 0 then modQp fn q (fun v => { v with cqBase := mergeHalf v.cqBase half val / 4096 * 4096 }) s else s)
    else if r = 16 then (if lo = 0 then writeQpCfg fn q w s else s)
    else if r = 24 then (if hit 7 then modQp fn q (fun v => { v with errEvt := false }) s else s)
    else s
  else rwsWrite fn (if fn = 0 then 0x1000000 + o else o) half val s

/-- A write of the capture control register (R461): BAR4 or the TAP. -/
def writeCapCtl (half : Half) (val : BitVec 64) (s : State) : State :=
  let old := s.dbg.object * 65536 + s.dbg.offset * 2 ^ 32
  let v := mergeHalf old half val
  let s := modDbg (fun d => { d with object := bitsOf v 16 12, offset := bitsOf v 32 32 }) s
  if bitOf v 0 && s.dbg.frozen then releaseFrost s else s

/-- REGISTER_WRITE (R5, R474, R487, R488): BAR0 and BAR2 of a function, BAR4 of the PF. -/
def execRegisterWrite (fn bar off : Nat) (half : Half) (val : BitVec 64) (s : State) : Host.Outcome State Fault Refusal :=
  .next (
    if 24 < fn || off % 8 ≠ 0 then s
    else
      let hb := halfBits half
      let w := halfVal half val
      if bar = 4 then
        if fn ≠ 0 || !pcieOn s then s
        else if off = 8 then writeCapCtl half val s
        else if off = 0x10 && 49 < hb.2 && bitOf w 49 then modDbg (fun d => { d with recoveryEvt := false }) s
        else s
      else if bar = 2 then
        if hb.1 = 0 && off % 4096 = 0 then doorbell false fn (off / 4096) w s
        else if hb.1 = 0 && off % 4096 = 8 then doorbell true fn (off / 4096) w s
        else s
      else if bar ≠ 0 || !windowLive s fn then s
      else
        let s := tlp s
        match regPlace fn off with
        | some (true, o) => writeGlobal o w hb.1 hb.2 half val s
        | some (false, o) => writeWindow fn o w hb.1 hb.2 half val s
        | none => s)

end Sys2Proof.Machine
end

