-- ==== Sys2Proof/Machine/Boot.lean ====
section
/-! DEFINITION. Boot, resets from pins, loss of references, control restart and firmware (R421, R434, R443, R464 to R469, R504 to R506). -/

namespace Sys2Proof.Machine

/-! ### Power and boot (R437, R468, R504) -/

/-- What the loss of power leaves: flash with its slots, slot-select and counter records; the queue and the model's own fields stay. -/
def powerGone (s : State) : State :=
  { pending := s.pending, oracle := s.oracle, free := s.free, out := s.out
    node := { slots := s.node.slots, slotSelect := s.node.slotSelect, nodeInc := s.node.nodeInc } }

/-- POWER_LOSS (R506, R463). -/
def execPowerLoss (s : State) : Host.Outcome State Fault Refusal := .next (powerGone s)

/-- The image is there or recovery mode begins; the link record of its slot gives NODE_ID, LANES and WEFT, and the lane groups start
negotiation (R468 step 4, R469, R332, R489). -/
def loadImage (s : State) : State :=
  match bootSlot s with
  | none => assertFault (modNode (fun n => { n with phase := .recovery, activeSlot := n.slotSelect }) s)
  | some k =>
    let f := tget {} s.node.slots k
    let put (item : Nat) (v : Option (List Nat)) (t : Tab (List Nat)) : Tab (List Nat) := match v with
      | some l => tset t item l
      | none => t
    let s := modPart 0 (fun v => { v with items := put 0x01F1 f.weft (put 0x01F0 f.lanes v.items) }) s
    let s := modNode (fun n => { n with phase := .booting, activeSlot := k, nodeId := f.nodeId.getD 0 }) s
    (List.range 24).foldl (fun s g => startPort g s) s

/-- PWR_GOOD (R400, R437, R443, R468, R500): power-up from off. A failed self-test leaves the module in its error state; with
TAMPER_N low the boot ROM stops. -/
def execPwrGood (straps : Nat) (resetN tamperN selfTestOk : Bool) (s : State) : Host.Outcome State Fault Refusal :=
  .next (if s.node.phase != .off then s else
    let (n, s) := draw (powerGone s)
    let s := modNode (fun k => { k with
      phase := .booting, trayPos := straps % 32, nodeInc := (k.nodeInc + 1) % 65536, resetHeld := !resetN, bootNonce := n }) s
    if !tamperN then assertFault (modSec (fun x => { x with mstate := 3, tamperSeen := true }) s)
    else
      let s := if selfTestOk then s else
        let (t, s) := draw s
        assertFault (modSec (fun x => { x with mstate := 2, failedTest := 1 + t % 255 }) s)
      loadImage s)

/-- BOOT_DONE (R468 steps 8 and 9): the stacks that trained are present, each in Cell-off with the stack off. -/
def execBootDone (present : Nat) (s : State) : Host.Outcome State Fault Refusal :=
  .next (if s.node.phase = .booting && !s.node.resetHeld && s.sec.mstate ≠ 3 && !s.dbg.frozen then
    let s := modSec (fun x => { x with mstate := if x.mstate = 2 then 2 else 1 }) s
    releaseFault (modPart 0 (fun v => { v with exists_ := true }) (modNode (fun n => { n with phase := .active, linkChecked := true, cellsPresent := present % 2 ^ 24 }) s))
  else s)

/-- RESET_N (R443): a level 4 reset at once, held in step 3 while the pin is low. -/
def execResetN (s : State) : Host.Outcome State Fault Refusal :=
  .next (if s.node.phase = .off || s.node.phase = .tripped then s
    else if s.node.phase = .booting then modNode (fun n => { n with resetHeld := true }) (endFrost s)
    else nodeReset 0x0B true true none none s)

/-- RESET_N_RELEASE (R443, R504). -/
def execResetNRelease (s : State) : Host.Outcome State Fault Refusal :=
  .next (if s.node.resetHeld then modNode (fun n => { n with resetHeld := false, level4At := n.time }) s else s)

/-- REF_LOSS (R421): the PCIe link goes down; every port goes down; or leases are fenced and the node resets. -/
def execRefLoss (kind : RefKind) (s : State) : Host.Outcome State Fault Refusal :=
  .next (match kind with
    | .pcie => if pcieOn s then flrAll s else s
    | .serdes => if linkLive s && !s.dbg.frozen then (List.range 24).foldl (fun s g => if portExists s g then downPort g s else s) s else s
    | .system =>
      if !working_ s then s
      else
        let s := assertFault ((s.parts.map (·.1)).foldl (fun s p => fenceAll p s) s)
        modNode (fun n => { n with refLoss := true }) (nodeReset 0x0A false false none none s))

/-! ### Control restart (R434, R444, R467) -/

/-- A begun control command ends with a restart; what an unfinished edit held is returned. A BANK_OP runs on, and its reply is posted
once firmware runs again (R271; log 102). -/
def restartEnds (id : Nat) (s : State) : State :=
  let c := tget {} s.cmds id
  if (part s c.part).ops.any (fun o => o.2.cmd == some id) then s
  else abortCmd id (err stInternal 2) (dropWork c.part id s)

/-- Firmware runs again: what BANK_OPs have held back meanwhile is posted (R271). -/
def firmwareRuns (s : State) : State := (s.parts.map (·.1)).foldl (fun s p => postOps p s) s

/-- A control restart of the active slot; a second one within CLIMB_WINDOW climbs. -/
def controlRestart (s : State) : State :=
  let s := modDbg (fun g => { g with lastCause := 5 }) s
  if !(inWindow s s.node.restartTimes).isEmpty then climb4 0 0xFFFF s.node.nodeInc 0 none s
  else
    let s := modNode (fun n => { n with
      restart := some { at_ := n.time }, restartTimes := runTime s :: inWindow s n.restartTimes, ctrlInc := (n.ctrlInc + 1) % 65536 }) s
    (s.cmds.filter (fun e => !isDataPath e.2.opcode && !e.2.held)).foldl (fun s e => if thas s.cmds e.1 then restartEnds e.1 s else s) s

/-- HEARTBEAT_MISS (R434). -/
def execHeartbeatMiss (side : HeartbeatSide) (s : State) : Host.Outcome State Fault Refusal :=
  .next (if !working_ s then s else
    match side with
    | .securityMissed => if s.node.restart.isSome then s else controlRestart s
    | .controlMissed => nodeReset 6 true false none none s)

/-- CONTROL_RESTART_DONE (R467): waiting control commands may begin. -/
def execControlRestartDone (s : State) : Host.Outcome State Fault Refusal :=
  .next (match s.node.restart with
    | some r => if r.activate || s.dbg.frozen then s else
        firmwareRuns (postRecovery 0 0 5 0xFFFF s.node.nodeInc 0 (modNode (fun n => { n with restart := none }) s))
    | none => s)

/-- CONTROL_RESTART_TIMEOUT (R444). -/
def execControlRestartTimeout (s : State) : Host.Outcome State Fault Refusal :=
  .next (match s.node.restart with
    | some r => if !r.activate && working_ s && decide (r.at_ + 2000000 ≤ now s) then climb4 0 0xFFFF s.node.nodeInc 0 none s else s
    | none => s)

/-! ### Firmware (R329, R464 to R466, R469, R510) -/

/-- The slot that FW_STAGE writes. -/
def spareSlot (s : State) : Nat := 1 - s.node.activeSlot
/-- The largest image: a body of R510 and its signature. -/
def imageMax : Nat := 0x6F0000 + 96
/-- The signature of an image checks under the fused key (R464). -/
def imageOk (img : List Byte) : Bool :=
  decide (100 ≤ img.length) && vendorVerify (img.take (img.length - 96)) (img.drop (img.length - 96))

/-- FW_STAGE of a chunk (R329). -/
def stageChunk (off len : Nat) (final : Bool) (chunk : List Byte) (s : State) : State × Reply :=
  let st := s.node.fwStage
  if imageMax < len || len < off + chunk.length || (final && off + chunk.length ≠ len) then (s, err stInvalid)
  else if s.node.activating then (s, err stBusy)
  else if off ≠ 0 && (off ≠ st.bytes.length || len ≠ st.len) then (s, err stConflict)
  else
    let img := (if off = 0 then [] else st.bytes) ++ chunk
    let k := spareSlot s
    let empty (f : FwSlot) : FwSlot := { nodeId := f.nodeId, lanes := f.lanes, weft := f.weft }
    let s := modNode (fun n => { n with fwStage := { len := len, bytes := if final then [] else img }, slots := tset n.slots k (empty (tget {} n.slots k)) }) s
    if !final then (s, okRet (toLe 4 img.length))
    else if imageOk img then
      let s := modNode (fun n => { n with slots := tset n.slots k { tget {} n.slots k with
        present := true, verified := true, version := u32 img 0, body := img } }) s
      (s, okRet (toLe 4 img.length))
    else (s, err stAuth)

/-- FW_STAGE. -/
def cmdFwStage : Handler := fun _ c s =>
  let b := c.block
  let n := u32 b 12
  if b.length ≠ 32 + n || 1 < u8 b 8 || !zeroIn b 9 12 || !zeroIn b 16 32 then (s, some (err stInvalid))
  else
    let r := stageChunk (u32 b 0) (u32 b 4) (u8 b 8 == 1) (b.drop 32) s
    (r.1, some r.2)

/-- FW_STAGE. -/
def execFwStage (src : Source) (pkt : Packet) (s : State) : Host.Outcome State Fault Refusal :=
  .next (submitOp 0x0807 src pkt cmdFwStage s)

/-- The reply of an activation (R329). -/
def fwReply (s : State) : Reply :=
  okRet (toLe 4 (tget {} s.node.slots s.node.activeSlot).version ++ toLe 1 s.node.activeSlot)

/-- FW_ACTIVATE up to the switch (R465 steps 1 to 6); in recovery mode it restarts boot (R469). `cmd` is the command that waits. -/
def activate (cmd : Option Nat) (s : State) : State × Option Reply :=
  let k := if s.node.phase = .recovery && slotOk s s.node.activeSlot then s.node.activeSlot else spareSlot s
  if s.node.activating || s.node.restart.isSome then (s, some (err stBusy))
  else if !slotOk s k then (s, some (err stConflict))
  else if s.node.phase = .recovery then
    let s := modNode (fun n => { n with slotSelect := k, activeSlot := k }) s
    let r := fwReply s
    (loadImage s, some r)
  else
    let s := modNode (fun n => { n with
      activating := true, activeSlot := k, ctrlInc := (n.ctrlInc + 1) % 65536, restart := some { at_ := n.time, activate := true, cmd := cmd }
      slots := tset n.slots k { tget {} n.slots k with
        nodeId := some n.nodeId, lanes := some (activeVals s 0 0x01F0), weft := some (activeVals s 0 0x01F1) } }) s
    (s, none)

/-- FW_ACTIVATE. -/
def cmdFwActivate : Handler := fun id c s => if blockIs c 0 then activate (some id) s else (s, some (err stInvalid))

/-- FW_ACTIVATE. -/
def execFwActivate (src : Source) (pkt : Packet) (s : State) : Host.Outcome State Fault Refusal :=
  .next (submitOp 0x0808 src pkt cmdFwActivate s)

/-- FW_REPORT_RUNNING (R465 step 7). -/
def execFwReportRunning (s : State) : Host.Outcome State Fault Refusal :=
  .next (match s.node.restart with
    | some r =>
      if !r.activate || s.dbg.frozen then s
      else
        let s := firmwareRuns (modNode (fun n => { n with slotSelect := n.activeSlot, activating := false, restart := none }) s)
        match r.cmd with
        | some id => conclude id (fwReply s) s
        | none => s
    | none => s)

/-- FW_ACTIVATE_TIMEOUT (R466): the switch back, and the old firmware runs again. -/
def execFwActivateTimeout (s : State) : Host.Outcome State Fault Refusal :=
  .next (match s.node.restart with
    | some r =>
      if r.activate && decide (r.at_ + 2000000 ≤ now s) && !s.dbg.frozen then
        let s := firmwareRuns (modNode (fun n => { n with
          activeSlot := 1 - n.activeSlot, activating := false, restart := none, ctrlInc := (n.ctrlInc + 1) % 65536 }) s)
        match r.cmd with
        | some id => conclude id (err stInternal 0x0F01) s
        | none => s
      else s
    | none => s)

end Sys2Proof.Machine
end

