-- ==== Sys2Proof/Machine/RegRead.lean ====
section
/-! DEFINITION. What a read of a register returns (R5, R7, R8, R474, R475, R487 to R493): the registers of BAR0, the doorbells of BAR2 and
the capture registers of BAR4. Reads have no side effects, so that no row of the command table stands for them. -/

namespace Sys2Proof.Machine

/-- A field of so many bits at a bit position of a register. -/
def fieldAt (lo width v : Nat) : Nat := v % 2 ^ width * 2 ^ lo
/-- A count that saturates in its field. -/
def fieldSat (lo width v : Nat) : Nat := min v (2 ^ width - 1) * 2 ^ lo

/-! ### Registers of the node (R487) -/

/-- HUB_NODE_ID (R489). -/
def regNodeId (s : State) : Nat := fieldAt 0 12 s.node.nodeId + fieldAt 16 16 0x00A1 + fieldAt 32 24 s.node.cellsPresent
/-- HUB_PART_ID and HUB_PART_MAP[p] (R489). -/
def regPartId (s : State) (p : Nat) : Nat :=
  let v := part s p
  if p ≠ 0 && !v.exists_ then fieldAt 48 5 p
  else 1 + fieldAt 1 1 (b2n v.inReset) + fieldAt 8 24 v.mask + fieldAt 32 16 v.inc + fieldAt 48 5 p
/-- HUB_SHARED_ERR (R490). -/
def regSharedErr (s : State) : Nat := fieldSat 0 32 s.node.sharedCe + fieldSat 32 16 s.node.sharedUe
/-- SEC_NODE_STAT (R401). -/
def regSecNode (s : State) : Nat :=
  let x := s.sec
  fieldAt 0 2 x.mstate + fieldAt 2 1 (b2n (x.mstate == 1 && !x.selftest)) + fieldAt 3 1 (b2n x.zeroised) + fieldAt 4 1 (b2n x.tamperSeen) +
    fieldAt 5 1 (b2n x.selftest) + fieldAt 6 1 (b2n s.node.activating) + fieldAt 7 1 (b2n (strict s)) + fieldAt 8 8 x.failedTest +
    fieldAt 16 16 (sumBy s.parts (fun e => e.2.keys.length))
/-- NODE_STATE of R428. -/
def nodeState (s : State) : Nat :=
  match s.node.phase with
  | .drizzle => 4
  | .quiescing => 5
  | .waking => 6
  | _ => b2n (s.cells.any (fun e => e.2.pwr.st == 1))
/-- PWR_NODE_STAT (R428). -/
def regPwrNode (s : State) : Nat :=
  let w := s.pwr
  let hot (f : CellPwr → Nat) : Nat := s.cells.foldl (fun m e => max m (f e.2.pwr)) 0
  fieldAt 0 3 (nodeState s) + fieldAt 3 1 (b2n w.emerg) + fieldAt 4 6 w.causes + fieldAt 10 1 (b2n w.warn) + fieldAt 11 1 (b2n w.overT) +
    fieldAt 12 1 (b2n w.thermtrip) + fieldAt 13 1 (b2n s.node.refLoss) + fieldSat 16 16 w.pkgW + fieldSat 32 8 (hot (·.loomT)) +
    fieldSat 40 8 (hot (·.temp)) + fieldSat 48 8 w.hubTemp
/-- PWR_CELL_STAT[c] (R429): a cell whose clock is off has no ceiling in force. -/
def regPwrCell (s : State) (c : Nat) : Nat :=
  let w := (cell s c).pwr
  fieldAt 0 3 w.st + fieldAt 4 12 (if w.st ≤ 1 then ceilMhz s c else 0) + fieldAt 16 12 w.coreMhz + fieldAt 32 10 w.vddMv
/-- XPT_GROUP_STAT[g] (R349): both groups of a Weftlink port show the port. -/
def regGroupStat (s : State) (g : Nat) : Nat :=
  let p := portOf s (groupPort s g)
  fieldAt 0 4 p.st + fieldAt 4 3 p.rate + fieldAt 7 2 p.fec + fieldAt 9 1 (b2n (p.degraded && portUp p)) + fieldAt 10 1 (b2n p.eeeOn) +
    fieldAt 11 1 (b2n p.fastLast) + fieldAt 12 1 (b2n p.evt) + fieldAt 16 12 p.partner + fieldSat 32 16 p.downs + fieldSat 48 16 p.ctrlDrops
/-- A commit register (R292): COMMIT reads 1 while it waits for its turn (R293); DISCARD has acted when it is read. -/
def regCommit (s : State) (p k : Nat) : Nat :=
  let r := tget {} (part s p).commits k
  fieldAt 0 1 (b2n ((part s p).commitQ.any (fun w => (commitBlock p w.1).elim false (fun b => b.1 == k)))) + fieldAt 2 1 (b2n r.err) + fieldAt 16 16 r.errItem + fieldAt 32 32 (part s p).configGen
/-- DBG_RECOVERY_STAT (R448). -/
def regRecovery (s : State) : Nat :=
  let d := s.dbg
  fieldAt 0 3 d.lastLevel + fieldAt 8 8 d.lastCause + fieldSat 16 16 d.nodeResets + fieldSat 32 16 d.partResets + fieldAt 48 1 (b2n !d.halted.isEmpty) +
    fieldAt 49 1 (b2n d.recoveryEvt) + fieldAt 50 1 (b2n !d.dumps.isEmpty)
/-- DBG_CELL_CORES[c] (R449). -/
def regCellCores (s : State) (c : Nat) : Nat :=
  let v := cell s c
  fieldAt 0 16 v.retiredCores + fieldSat 16 16 v.engineResets + fieldSat 32 16 v.staleDrops

/-- An index into an array of registers of 8 bytes at `base`. -/
def regIdx (base n o : Nat) : Option Nat := if base ≤ o && o < base + 8 * n then some ((o - base) / 8) else none

/-- The value of a register in node-global space whose fields are not RWS; 0 where no register is. -/
def globalReg (s : State) (o : Nat) : Nat :=
  if o = 0 then regNodeId s else if o = 8 then now s else if o = 0x10 then regSharedErr s
  else if o = 0x1000 then regSecNode s else if o = 0x2000 then regPwrNode s
  else if o = 0x37F8 then regCommit s 0 0 else if o = 0x4010 then regRecovery s else if o = 0x47F8 then regCommit s 0 1
  else match regIdx 0x100 25 o, regIdx 0x2100 24 o, regIdx 0x3100 16 o, regIdx 0x3180 16 o, regIdx 0x4100 24 o, regIdx 0x5000 25 o with
  | some p, _, _, _, _, _ => regPartId s p
  | _, some c, _, _, _, _ => regPwrCell s c
  | _, _, some g, _, _, _ => regGroupStat s g
  | _, _, _, some g, _, _ => min (portOf s g).dropQpn (2 ^ 64 - 1)
  | _, _, _, _, some c, _ => regCellCores s c
  | _, _, _, _, _, some p => if p = 0 then (part s 0).aperture else (part s p).pfAperture
  | _, _, _, _, _, _ => 0

/-! ### Registers of a partition window (R488) -/

/-- CELL_MEM_ERRSTAT[c] (R49). -/
def regErrStat (s : State) (c : Nat) : Nat :=
  let v := cell s c
  fieldSat 0 16 v.ce + fieldSat 16 16 v.ue + fieldSat 32 16 v.retiredSlots + fieldAt 48 1 (b2n v.poisonEvt) + fieldAt 49 1 (b2n v.scrubLap) +
    fieldAt 50 1 (b2n (doubleRefresh s c))
/-- CELL_POOL_STAT (R490), as last updated. -/
def regPoolStat (s : State) (p : Nat) : Nat :=
  let x := (part s p).stat
  fieldAt 0 10 x.level + fieldAt 10 1 (b2n x.evicting) + fieldAt 11 1 (b2n x.admitStop) + fieldAt 12 1 (b2n x.allocStop) +
    fieldSat 16 32 x.freeUnits
/-- DUTY_WAIT: a closed batch at the head of a cell's list waits on a duty bucket (R254). -/
def dutyWait (s : State) (c : Nat) : Bool :=
  (headBatch s c).elim false (fun e => (cell s c).sweeping.isNone && !secondSweep e.2 && decide (sweepNs s c e.2 < 360))
/-- MAT_CELL_STAT[c] (R254). -/
def regMatCell (s : State) (c : Nat) : Nat :=
  let v := cell s c
  fieldSat 0 32 v.repairs + fieldSat 32 16 v.lostEntries + fieldAt 48 1 (b2n v.repairEvt) + fieldAt 49 1 (b2n v.lostEvt) +
    fieldAt 50 1 (b2n v.patrolLap) + fieldAt 51 1 (b2n (dutyWait s c))
/-- SEC_PART_STAT (R408). -/
def regSecPart (s : State) (p : Nat) : Nat :=
  let v := part s p
  fieldAt 0 1 (b2n v.emerg) + fieldAt 1 1 (b2n v.throttleEvt) + fieldAt 2 1 (b2n (strict s)) + fieldAt 16 16 v.keys.length
/-- PWR_PART_STAT (R430). -/
def regPwrPart (s : State) (p : Nat) : Nat :=
  let v := part s p
  fieldSat 0 16 (v.envelope.getD 0) + fieldSat 16 16 v.drawW + fieldAt 32 1 (b2n (envLimited s p))
/-- A CTL register of a ring (R484): the last field counts records dropped, or for a pool those that wait. -/
def regRing (r : Ring) (pool : Bool) : Nat :=
  fieldAt 0 5 r.logSize + fieldAt 5 1 (b2n r.en) + fieldAt 6 7 (if pool then r.vector else 0) + fieldAt 16 16 r.head + fieldAt 32 16 r.tail +
    fieldSat 48 16 (if pool then r.waiting.length else r.lost)
/-- HUB_QP_CFG (R480). -/
def regQpCfg (v : Qp) : Nat :=
  fieldAt 0 4 v.sqLog + fieldAt 4 4 v.cqLog + fieldAt 8 7 v.vector + fieldAt 15 1 (b2n v.en) + fieldAt 16 8 v.coalCount + fieldAt 24 8 v.coalUs
/-- HUB_QP_STAT (R480). -/
def regQpStat (v : Qp) : Nat :=
  fieldAt 0 2 v.state + fieldAt 4 3 v.err + fieldAt 7 1 (b2n v.errEvt) + fieldAt 8 16 v.sqHead + fieldAt 24 16 v.cqTail + fieldSat 40 16 v.lost
/-- MTR_SEL (R492). -/
def regMtrSel (s : State) (p : Nat) : Nat := fieldAt 0 32 (part s p).mtrSel + fieldAt 32 1 (b2n (part s p).mtrValid)
/-- MTR_PART_STAT (R492). -/
def regMtrPart (s : State) (p : Nat) : Nat :=
  let m := (part s p).meters
  fieldSat 0 13 (m.filter (fun e => e.1 != 0xFFFFFFFF)).length + fieldAt 13 1 (b2n (thas m 0xFFFFFFFF))

/-- The registers of one queue pair. -/
def qpReg (v : Qp) (r : Nat) : Nat :=
  if r = 0 then v.sqBase else if r = 8 then v.cqBase else if r = 16 then regQpCfg v else if r = 24 then regQpStat v else 0

/-- The value of a register in a partition's window whose fields are not RWS; registers indexed by a cell read as zero for cells
that the partition does not own. -/
def windowReg (s : State) (p o : Nat) : Nat :=
  let v := part s p
  let own (c f : Nat) : Nat := if c ∈ partCells s p then f else 0
  if o = 0 then regPartId s p
  else if p ≠ 0 && !v.exists_ then 0
  else if o = 8 then fieldAt 0 32 v.configGen + fieldAt 32 32 v.stageSerial
  else if o = 0x100 then (fnOf s p).evt.base else if o = 0x108 then regRing (fnOf s p).evt false
  else if o = 0x1100 then regPoolStat s p else if o = 0x3000 then regSecPart s p else if o = 0x4000 then regPwrPart s p
  else if o = 0x57F8 then regCommit s p 2 else if o = 0x7000 then regMtrSel s p else if o = 0x7040 then regMtrPart s p
  else if o = 0x8000 then v.aperture
  else if 0x6000 ≤ o && o < 0x6400 then
    let r : Ring := tget {} v.poolRings ((o - 0x6000) / 16)
    if o % 16 = 0 then r.base else regRing r true
  else if 0x9000 ≤ o && o < 0x9000 + 0x40 * qpCount p then qpReg (qpOf s p ((o - 0x9000) / 64)) ((o - 0x9000) % 64)
  else match regIdx 0x1000 24 o, regIdx 0x2000 24 o, regIdx 0x4100 24 o, regIdx 0x7008 7 o with
  | some c, _, _, _ => own c (regErrStat s c)
  | _, some c, _, _ => own c (regMatCell s c)
  | _, _, some c, _ => own c (regPwrCell s c)
  | _, _, _, some k => v.mtr.getD k 0 % 2 ^ 64
  | _, _, _, _ => 0

/-! ### Reads -/

/-- The blocks that hold RWS fields (R475): those at 0x3000 and 0x4000 of node-global space, and at 0x5000 of a window. -/
def rwsBlock (glob : Bool) (o : Nat) : Bool := if glob then o / 4096 == 3 || o / 4096 == 4 else o / 4096 == 5

/-- A register's value: an RWS field reads its staged value; at X + 0x800 of a block that holds RWS fields, the active copy of the
register at X, with the values in effect (R5, R7, R475). -/
def regValue (s : State) (p : Nat) (glob : Bool) (o : Nat) : Nat :=
  let active := rwsBlock glob o && bitOf o 11
  let x := if active then o - 0x800 else o
  match rwsFields glob x with
  | some (item, fs) =>
    if !glob && p ≠ 0 && !(part s p).exists_ then 0 else regOf (if active then activeVals s p item else seenVals s p item) fs
  | none => if glob then globalReg s x else windowReg s p x

/-- Where a read of BAR0 leads (R473): node-global space, or a partition's window. The PF reads every window. -/
def readPlace (fn off : Nat) : Option (Bool × Nat × Nat) :=
  if fn = 0 then
    if off < 0x100000 then some (true, 0, off)
    else if 0x1000000 ≤ off && off < 0x1000000 + 25 * 0x10000 then some (false, (off - 0x1000000) / 0x10000, (off - 0x1000000) % 0x10000)
    else none
  else if off < 0x10000 then some (false, fn, off) else none

/-- DBG_CAP_STAT (R461). -/
def capStat (s : State) : Nat :=
  let d := s.dbg
  b2n d.frozen + 2 * d.source + 8 * b2n d.driving + 65536 * d.dumpsLost + 2 ^ 32 * min (2 ^ 32 - 1) d.rxDrops
/-- A byte of the capture aperture (R460): the selected object from the selected offset, as it was when the islands stopped, or as it is
now. Layouts of objects are not the spec's, and no key is in one (log 104). -/
def captureByte (s : State) (a : Nat) : Byte :=
  Config.captureImage (if s.dbg.frozen then s.dbg.frozenAt else now s) s.dbg.object (s.dbg.offset * 65536 + a)
/-- DBG_CAP_CTL (R461). -/
def capCtl (s : State) : Nat := b2n (s.dbg.frozen && !s.dbg.driving) + 65536 * s.dbg.object + 2 ^ 32 * s.dbg.offset

/-- The directory of capture objects (R460): up to 4,096 entries of UNIT, OBJECT (1 to 3) and LENGTH; which there are the spec leaves
open (log 104). -/
def captureEntry (i : Nat) : List Byte :=
  let e := Config.captureObject i
  toLe 2 e.1 ++ toLe 1 (1 + e.2.1 % 3) ++ zeros 5 ++ toLe 8 e.2.2
/-- Entries of the directory. -/
def captureCount : Nat := Config.captureObjects % 4097
/-- A byte of BAR4 in the directory at 0x1000 or the aperture of 64 MiB at 0x0400_0000 (R460). -/
def captureWindow (s : State) (a : Nat) : Byte :=
  if 0x1000 ≤ a && a < 0x1000 + 16 * captureCount then (captureEntry ((a - 0x1000) / 16)).getD ((a - 0x1000) % 16) 0
  else if 0x4000000 ≤ a && a < 0x8000000 then captureByte s (a - 0x4000000)
  else 0

/-- The 64-bit register that a read of a function's BAR meets. Offsets that hold none read as zero (R8, R473); so do BAR0 and BAR2
while the node does not answer (R441). -/
def barReg (s : State) (fn bar off : Nat) : Nat :=
  if 24 < fn then 0
  else if bar = 4 then
    if fn ≠ 0 || !pcieOn s then 0
    else if off = 0 then capStat s else if off = 8 then capCtl s else if off = 0x10 then regRecovery s
    else leVal ((List.range 8).map (fun i => captureWindow s (off + i)))
  else if !barsLive s then 0
  else if bar = 2 then
    let v := qpOf s fn (off / 4096)
    if qpCount fn ≤ off / 4096 then 0 else if off % 4096 = 0 then v.sqTail else if off % 4096 = 8 then v.cqHead else 0
  else if bar = 0 then
    match readPlace fn off with
    | some (glob, p, o) => regValue s p glob o
    | none => 0
  else 0

/-- What a read returns: 8 bytes at an 8-byte aligned offset, or 4 bytes, one half of the register there; a read of any other size or
alignment is zero (R474). -/
def readReg (s : State) (fn bar off size : Nat) : Nat :=
  if size = 8 && off % 8 = 0 then barReg s fn bar off
  else if size = 4 && off % 4 = 0 then barReg s fn bar (off / 8 * 8) / 2 ^ (8 * (off % 8)) % 2 ^ 32
  else 0

end Sys2Proof.Machine
end

