-- ==== Sys2Proof/Machine/Security.lean ====
section
/-! DEFINITION. Job secrets, key rotation, attestation, zeroisation, tampering, self-tests and SPDM (chapter 15). -/

namespace Sys2Proof.Machine

/-! ### Job secrets (R387, R389, R391) -/

/-- Fabric connections of a job. -/
def jobConns (s : State) (p job : Nat) : List Nat :=
  (s.conns.filter (fun e => e.2.part == p && e.2.kind == 2 && e.2.job == job)).map (·.1)
/-- A job's fabric connections go to ERROR. -/
def failJob (p job : Nat) (s : State) : State := (jobConns s p job).foldl (fun s i => failConn i s) s

/-- The partition holds lent pages of a job for another node, or parity pages of one of its groups (R389). -/
def jobHeld (s : State) (p job : Nat) : Bool :=
  (partCells s p).any (fun c => (cell s c).lent.any (fun e => e.2.job == job && e.2.recon.isNone)) ||
    (part s p).parity.any (fun e => e.2.job == job)

/-- A job secret that was unwrapped is kept (R387): a new job's with JKG 1; the same again changes nothing; another with the same
OWNER_KEY replaces it, and the job's fabric connections go to ERROR. -/
def keepSecret (p job : Nat) (owner secret : List Byte) (s : State) : State × Option Reply :=
  let done (s : State) : State × Option Reply := (s, some (okRet (toLe 4 (kcvOf secret))))
  match tget? (part s p).keys job with
  | some k =>
    if k.owner ≠ owner then (s, some (err stConflict))
    else if k.secret = secret then done s
    else done (failJob p job (modPart p (fun v => { v with keys := tset v.keys job { k with secret := secret, jkg := 1, rotating := [] } }) s))
  | none =>
    if 1024 ≤ (part s p).keys.length then (s, some (err stBusy))
    else done (modPart p (fun v => { v with keys := tset v.keys job { secret := secret, owner := owner, jkg := 1 } }) s)

/-- JOB_KEY_INSTALL with ACTION 0. -/
def installKey (p : Nat) (b : List Byte) (s : State) : State × Option Reply :=
  let job := u32 b 0
  let owner := slice b 0x20 97
  let eph := slice b 0x90 97
  match ecPoint owner, ecPoint eph with
  | some _, some q =>
    match unwrapJob q job owner eph (slice b 0xF4 12) (slice b 0x100 32) (slice b 0x120 16) with
    | none => (s, some (err stAuth))
    | some secret => keepSecret p job owner secret s
  | _, _ => (s, some (err stInvalid))

/-- JOB_KEY_INSTALL (R327, R387, R389). -/
def cmdJobKeyInstall : Handler := fun _ c s =>
  let b := c.block
  let p := c.part
  let job := u32 b 0
  let pads := zeroIn b 5 0x20 && zeroIn b 0x81 0x90 && zeroIn b 0xF1 0xF4
  if b.length ≠ 0x130 || 1 < u8 b 4 || !pads || (u8 b 4 = 1 && !zeroIn b 0x20 0x130) then (s, some (err stInvalid))
  else if u8 b 4 = 0 then installKey p b s
  else if thas (part s p).keys job && jobHeld s p job then (s, some (err stConflict))
  else match tget? (part s p).keys job with
  | none => (s, some (err stNotFound))
  | some k =>
    let s := failJob p job (modPart p (fun v => { v with keys := tdel v.keys job }) s)
    (s, some (okRet (toLe 4 (kcvOf k.secret))))

/-- JOB_KEY_INSTALL. -/
def execJobKeyInstall (src : Source) (pkt : Packet) (s : State) : Host.Outcome State Fault Refusal :=
  .next (submitOp 0x0702 src pkt cmdJobKeyInstall s)

/-- A rotation is in progress: on a READY connection the first packet of the new generation is not yet acknowledged (R391). -/
def rotationOpen (s : State) (k : JobKey) : Bool :=
  k.rotating.any (fun e => match tget? s.conns e.1 with
    | some c => c.state == 1 && c.kind == 2 && !(decide (1 ≤ psnDist e.2 c.sndCum) && decide (psnDist e.2 c.sndCum < psnMod / 2))
    | none => false)

/-- KEY_ROTATE (R327, R391). -/
def cmdKeyRotate : Handler := fun _ c s =>
  let p := c.part
  let job := u32 c.block 0
  match tget? (part s p).keys job with
  | none => (s, some (err stNotFound))
  | some k =>
    if !blockIs c 4 then (s, some (err stInvalid))
    else if rotationOpen s k then (s, some (err stBusy))
    else
      let ready := (jobConns s p job).filter (fun i => (connOf s i).state == 1)
      let j := k.jkg + 1
      let k := { k with jkg := j, rotating := ready.map (fun i => (i, (connOf s i).sndNext)) }
      (modPart p (fun v => { v with keys := tset v.keys job k }) s, some (okRet (toLe 4 j ++ toLe 4 (Config.rotateCheck k.secret j))))

/-- KEY_ROTATE. -/
def execKeyRotate (src : Source) (pkt : Packet) (s : State) : Host.Outcome State Fault Refusal :=
  .next (submitOp 0x0703 src pkt cmdKeyRotate s)

/-! ### Attestation (R393, R396) -/

/-- A DMTF measurement block: index, specification 1, sizes, value type, value. -/
def measBlock (index type : Nat) (v : List Byte) : List Byte :=
  toLe 1 index ++ toLe 1 1 ++ toLe 2 (v.length + 3) ++ toLe 1 type ++ toLe 2 v.length ++ v

/-- State of a partition as blocks 6 and 16 + p report it: 0 absent, 1 in reset, 2 ready. -/
def partState (v : Partn) : Nat := if !v.exists_ then 0 else if v.inReset || v.creating then 1 else 2

/-- The active values of an item of a partition, each in 4 bytes (R313). -/
def itemBytes (s : State) (p item : Nat) : List Byte := (activeVals s p item).flatMap (toLe 4)

/-- The calibration sets of a partition: JOB_ID, shape, and every entry's scales and zero points (R313). -/
def calImage (s : State) (p : Nat) : List Byte :=
  (part s p).cal.flatMap (fun e => toLe 4 e.1 ++ toLe 2 e.2.layers ++ toLe 1 e.2.kvHeads ++ toLe 1 e.2.dim ++
    e.2.entries.flatMap (fun x => x.2.scale.flatMap (toLe 2) ++ x.2.zero.flatMap (toLe 1)))

/-- The node configuration digest: node-wide items in ascending number, without per-tenant values. -/
def nodeDigest (s : State) : List Byte :=
  sha384 ([0x0103, 0x0104, 0x01F0, 0x01F1].flatMap (itemBytes s 0) ++ (itemBytes s 0 0x0200).take 4 ++
    [0x0300, 0x0400, 0x0401].flatMap (itemBytes s 0))

/-- A partition's configuration digest: its active items, with its QOS_MAX, CONN_QUOTA and SLOTS. -/
def partDigest (s : State) (p : Nat) : List Byte :=
  sha384 ([0x0001, 0x0002, 0x0010].flatMap (itemBytes s p) ++ calImage s p ++
    [0x0020, 0x0030, 0x0100, 0x0101, 0x0102].flatMap (itemBytes s p) ++ (if p = 0 then [] else slice (itemBytes s 0 0x0200) (4 * p) 4))

/-- The image that a slot holds, measured. -/
def slotDigest (s : State) (k : Nat) : List Byte :=
  let f := tget {} s.node.slots k
  if f.present then sha384 f.body else zeros 48

/-- The partition-specific block of R393. -/
def partBlock16 (s : State) (p : Nat) : List Byte :=
  let v := part s p
  let jobs := v.keys.flatMap (fun e => toLe 4 e.1 ++ sha384 e.2.owner)
  toLe 1 (partState v) ++ toLe 8 v.gen ++ partDigest s p ++ sha384 jobs

/-- The value and type of a measurement block, where it exists. -/
def measurement (s : State) (i : Nat) : Option (Nat × List Byte) :=
  if i = 1 then some (0, padTo 48 Config.romDigest)
  else if i = 2 then some (1, slotDigest s 0)
  else if i = 3 then some (1, slotDigest s 1)
  else if i = 4 then
    let slot := if s.node.phase = .recovery then 0xFF else s.node.activeSlot
    some (0x83, toLe 1 slot ++ toLe 4 (tget {} s.node.slots s.node.activeSlot).version ++ toLe 1 (b2n s.node.activating) ++ toLe 1 s.sec.mstate)
  else if i = 5 then some (2, nodeDigest s)
  else if i = 6 then some (0x82, (List.range 25).flatMap (fun p =>
    let v := part s p
    toLe 1 (partState v) ++ toLe 4 v.mask ++ toLe 8 v.gen ++ toLe 2 v.inc))
  else if 16 ≤ i && i ≤ 40 then some (0x83, partBlock16 s (i - 16))
  else none

/-- The blocks of some indices. -/
def measBlocks (s : State) (l : List Nat) : List (List Byte) :=
  l.filterMap (fun i => (measurement s i).map (fun m => measBlock i m.1 m.2))

/-- Indices that an issuer receives (R396). -/
def measIndices (p : Nat) : List Nat := if p = 0 then [1, 2, 3, 4, 5, 6] ++ (List.range 25).map (16 + ·) else [1, 2, 3, 4, 5, 16 + p]

/-- ATTEST_GET (R327, R396). -/
def cmdAttestGet : Handler := fun _ c s =>
  let b := c.block
  let what := u8 b 0
  let blocks := measBlocks s (measIndices c.part)
  let pay := (if bitOf what 0 then toLe 4 Config.certChain.length ++ Config.certChain else []) ++
    (if bitOf what 1 then toLe 4 blocks.length ++ blocks.flatten else [])
  if b.length ≠ 64 || 3 < what || !zeroIn b 1 32 then (s, some (err stInvalid))
  else if !fitsReply c (pay.length + 96) then (s, some (err stInvalid 0xFFF2))
  else
    let (sig, s) := signed (slice b 0x20 32 ++ pay) s
    (s, some (okPay [] (pay ++ sig)))

/-- ATTEST_GET. -/
def execAttestGet (src : Source) (pkt : Packet) (s : State) : Host.Outcome State Fault Refusal :=
  .next (submitOp 0x0701 src pkt cmdAttestGet s)

/-! ### Zeroisation (R400) -/

/-- Steps 1 to 3 of R400: work of every partition ends, every key and connection goes, R57 runs on every partition. -/
def zeroiseAll (keep : Option Nat) (s : State) : State :=
  let ps := s.parts.map (·.1)
  let s := ps.foldl (fun s p =>
    let n := (partCells s p).length
    let s := (partCells s p).foldl (fun s c => fenceCell c s) s
    postOps p <| (s.cmds.filter (fun e => e.2.part == p && isDataPath e.2.opcode && some e.1 != keep)).foldl (fun s e =>
      if thas s.cmds e.1 then abortCmd e.1 (err stUnavail (if e.2.opcode = 0x0103 then 0 else n)) s else s) s) s
  let s := ps.foldl (fun s p => releaseAndDrop p s) s
  ps.foldl (fun s p => eraseP p s) s

/-- ZEROISE (R327, R400). -/
def cmdZeroise : Handler := fun id c s =>
  if !blockIs c 4 || u32 c.block 0 ≠ 0x5A45524F then (s, some (err stInvalid))
  else (modSec (fun x => { x with zeroised := true }) (zeroiseAll (some id) s), some (okRet []))

/-- ZEROISE. -/
def execZeroise (src : Source) (pkt : Packet) (s : State) : Host.Outcome State Fault Refusal :=
  .next (submitOp 0x0704 src pkt cmdZeroise s)

/-- TAMPER_N (R400): zeroisation, the tampered state, FAULT_N, and an event whose code the spec does not give (log 3). -/
def execTamperN (s : State) : Host.Outcome State Fault Refusal :=
  .next (if s.node.phase = .off || s.node.phase = .tripped || s.sec.mstate = 3 then s
    else
      let s := zeroiseAll none s
      let s := assertFault (modSec (fun x => { x with mstate := 3, tamperSeen := true }) s)
      let (n, s) := draw s
      postEvent (n % 65536) 0 0 [] s)

/-! ### Self-tests (R399, R401) -/

/-- The error state: every key but the fused items is erased, and work in progress ends with INTERNAL. -/
def errorState (test : Nat) (s : State) : State :=
  let s := modSec (fun x => { x with mstate := 2, selftest := false, failedTest := if x.failedTest = 0 then test % 256 else x.failedTest }) s
  let s := (s.cmds.map (·.1)).foldl (fun s id => if thas s.cmds id then endByReset id (err stInternal) s else s) s
  let s := (s.parts.map (·.1)).foldl (fun s p => modPart p (fun v => { v with keys := [] }) s) s
  assertFault { s with conns := s.conns.map (fun e => (e.1, { e.2 with saOut := none, saIn := [] })) }

/-- ENTROPY_TEST_FAIL (R399). -/
def execEntropyTestFail (test : Nat) (s : State) : Host.Outcome State Fault Refusal :=
  .next (if s.node.phase = .off || s.node.phase = .tripped || s.dbg.frozen || 2 ≤ s.sec.mstate then s else errorState test s)

/-- SELFTEST_DONE (R401): 0 when every test passed. -/
def execSelftestDone (failed : Nat) (s : State) : Host.Outcome State Fault Refusal :=
  .next (if !s.sec.selftest || s.dbg.frozen then s
    else if failed = 0 then modSec (fun x => { x with selftest := false }) s
    else errorState failed s)

/-! ### SPDM (R392, R394) -/

/-- SPDM request codes of DSP0274 (PRESUMED, log 14). -/
def spdmCodes : List Nat := [0x81, 0x82, 0x83, 0x84, 0xE0, 0xE1, 0xE3]

/-- An SPDM message header: version 1.2 or 1.3 as the responder speaks it, response code, two parameters. -/
def spdmMsg (code p1 p2 : Nat) (body : List Byte) : List Byte := toLe 1 0x12 ++ toLe 1 code ++ toLe 1 p1 ++ toLe 1 p2 ++ body

/-- The body of GET_MEASUREMENTS before its signature: the count alone, one block or all (R392, R393). -/
def spdmMeasure (s : State) (op : Nat) : Option (List Byte) :=
  let all := measIndices 0
  let l := if op = 0 then [] else if op = 0xFF then all else [op]
  if op ≠ 0 && (measBlocks s l).isEmpty then none
  else
    let rec_ := (measBlocks s l).flatten
    some (toLe 1 (measBlocks s l).length ++ toLe 3 rec_.length ++ rec_)

/-- SPDM_REQUEST (R392): the negotiation sequence, then digests, certificate, challenge and measurements. `param` holds the two
parameters of the request, the first in its low byte. -/
def execSpdmRequest (code param : Nat) (body : List Byte) (s : State) : Host.Outcome State Fault Refusal :=
  .next (
    let x := s.sec
    let p1 := param % 256
    let p2 := param / 256 % 256
    let send (b : List Byte) (s : State) : State := emit (.mctp 2 b) s
    let error (e : Nat) : State := send (spdmMsg 0x7F e 0 []) s
    if s.dbg.frozen || s.node.phase = .off || s.node.phase = .tripped then s
    else if !(code ∈ spdmCodes) then error 0x07
    else if code = 0x84 then
      send (spdmMsg 0x04 0 0 (toLe 1 0 ++ toLe 1 2 ++ toLe 2 0x1200 ++ toLe 2 0x1300))
        (modSec (fun y => { y with spdmVersion := true, spdmCaps := false, spdmAlgs := false }) s)
    else if code = 0xE1 then
      if !x.spdmVersion then error 0x04
      else send (spdmMsg 0x61 0 0 (zeros 4 ++ toLe 4 0x16)) (modSec (fun y => { y with spdmCaps := true, spdmAlgs := false }) s)
    else if code = 0xE3 then
      if !x.spdmCaps then error 0x04
      else send (spdmMsg 0x63 0 0 (toLe 4 0x80 ++ toLe 4 0x02)) (modSec (fun y => { y with spdmAlgs := true }) s)
    else if !x.spdmAlgs then error 0x04
    else if code = 0x81 then send (spdmMsg 0x01 0 1 (sha384 Config.certChain)) s
    else if code = 0x82 then
      let part_ := slice Config.certChain (u16 body 0) (u16 body 2)
      if p1 ≠ 0 then error 0x01
      else send (spdmMsg 0x02 0 0 (toLe 2 part_.length ++ toLe 2 (Config.certChain.length - u16 body 0 - part_.length) ++ part_)) s
    else if code = 0x83 then
      let b := sha384 Config.certChain ++ (measBlocks s (measIndices 0)).flatten
      let (sig, s) := signed (slice body 0 32 ++ b) s
      send (spdmMsg 0x03 0 1 (b ++ sig)) s
    else
      match spdmMeasure s p2 with
      | some b =>
        let (sig, s) := if bitOf p1 0 then signed (slice body 0 32 ++ b) s else ([], s)
        send (spdmMsg 0x60 (if p2 = 0 then (measIndices 0).length else 0) 0 (b ++ sig)) s
      | none => error 0x01)

end Sys2Proof.Machine
end

