-- ==== Sys2Proof/Machine/Manage.lean ====
section
/-! DEFINITION. NOP, IDENTIFY, READ_STATE, partitions, subscriptions, and the management paths beside MCTP commands (chapters 11, 12, 19). -/

namespace Sys2Proof.Machine

/-! ### NOP and IDENTIFY (R312) -/

/-- NOP. -/
def cmdNop : Handler := fun _ c s => if blockIs c 0 then (s, some (okRet (toLe 8 (now s)))) else (s, some (err stInvalid))
/-- NOP. -/
def execNop (src : Source) (pkt : Packet) (s : State) : Host.Outcome State Fault Refusal := .next (submitOp 0x0001 src pkt cmdNop s)

/-- "PCN-Q2480" in ASCII. -/
def partNumber : List Byte := [0x50, 0x43, 0x4E, 0x2D, 0x51, 0x32, 0x34, 0x38, 0x30]
/-- The version of a slot's image, 0 where the slot is empty. -/
def slotVersion (s : State) (k : Nat) : Nat := let f := tget {} s.node.slots k
  if f.present then f.version else 0
/-- The 256-byte identity payload. -/
def identity (s : State) : List Byte :=
  let ps := maskOf ((s.parts.filter (fun e => e.2.exists_)).map (·.1))
  padTo 256 (toLe 2 Config.vendorId ++ toLe 2 0x2480 ++ padTo 16 partNumber ++ toLe 2 0x00A1 ++ toLe 2 s.node.nodeId ++
    toLe 4 s.node.cellsPresent ++ toLe 4 ps ++ fingerprint ++ toLe 4 (slotVersion s 0) ++ toLe 4 (slotVersion s 1) ++
    toLe 1 s.node.activeSlot ++ toLe 1 s.node.trayPos)

/-- IDENTIFY. -/
def cmdIdentify : Handler := fun _ c s =>
  if !blockIs c 0 then (s, some (err stInvalid))
  else if !fitsReply c 256 then (s, some (err stInvalid 0xFFF2))
  else (s, some (okPay [] (identity s)))
/-- IDENTIFY. -/
def execIdentify (src : Source) (pkt : Packet) (s : State) : Host.Outcome State Fault Refusal :=
  .next (submitOp 0x0002 src pkt cmdIdentify s)

/-! ### READ_STATE (R297, R312, R381) -/

/-- What READ_STATE shows of an object: the bytes whose layout the spec gives; what follows in a layout that it does not give, as the
numbers that it consists of (log 3); and VERSION. -/
structure StateObj where
  known : List Byte := []
  more : Option (List Nat) := none
  version : Nat := 0
  deriving DecidableEq, Repr, Inhabited

/-- The bytes of an object. -/
def objImage (kind : Nat) (o : StateObj) : List Byte :=
  o.known ++ o.more.elim [] (fun l => (Config.objBytes kind l).1 :: (Config.objBytes kind l).2)

/-- A list among the numbers of an object: its length, then its elements. -/
def counted (l : List Nat) : List Nat := l.length :: l
/-- Rows of numbers. -/
def rows (l : List (List Nat)) : List Nat := l.length :: l.flatMap counted
/-- Bytes as numbers. -/
def nums (b : List Byte) : List Nat := b.map (·.toNat)

/-- A sequence entry (R65). -/
def entryImage (s : State) (p : Nat) (q : Seq) : List Byte :=
  let fl := 1 + 2 * b2n (leasedSeq s p q.job q.seq) + 4 * b2n q.editing + 8 * b2n q.prefixed + 16 * b2n q.evicting
  padTo 32 (toLe 4 q.job ++ toLe 6 q.seq ++ toLe 2 fl ++ toLe 4 (tget {} q.blocks 0).handle ++ toLe 4 q.gen ++ toLe 2 q.pinCount ++
    toLe 1 (leastAge s q))

/-- The block of a handle, in whichever map of the partition reaches it. -/
def findBlock (s : State) (p h : Nat) : Option (Seq × Nat × Blk) :=
  (part s p).seqs.findSome? (fun e => (e.2.blocks.find? (fun b => b.2.handle == h)).map (fun b => (e.2, b.1, b.2)))

/-- A digest index entry (R159). -/
def digestEntry (d : DigestObj) : List Byte :=
  toLe 4 d.job ++ toLe 6 d.seq ++ toLe 2 d.layer ++ toLe 1 d.kv ++ toLe 1 d.chunk ++ toLe 2 1 ++ toLe 4 d.handle ++ toLe 4 d.gen ++ toLe 8 d.uid

/-- A shadow record (R250). -/
def shadowImage (x : Shadow) : List Byte :=
  toLe 8 x.value ++ toLe 8 x.mask ++ toLe 8 x.assoc ++ toLe 2 x.gen ++ toLe 1 (x.width / 2) ++ toLe 1 (b2n x.valid + 2 * b2n x.head) ++ zeros 4

/-- A placement record (R203). -/
def placeImage (r : PlaceRec) : List Byte :=
  padTo 64 (toLe 4 r.job ++ toLe 6 r.seq ++ toLe 1 r.kind ++ toLe 1 r.span ++ toLe 2 r.owner ++ toLe 2 r.mirror ++ toLe 8 r.epoch ++
    toLe 2 r.firstPage ++ toLe 2 r.lastPage ++ toLe 2 r.flags ++ toLe 2 r.codeGroup ++ toLe 1 r.codeK ++ toLe 1 r.codePos ++
    toLe 2 r.parity0 ++ toLe 2 r.parity1 ++ zeros 2 ++ toLe 8 r.leaseEnd ++ toLe 2 r.holder)

/-- The KINDs and whether the operator may name a tenant: 0 operator only, 1 yes, 2 no (R297). -/
def kindRule (k : Nat) : Option Nat :=
  if k = 0x0001 then some 0
  else if k ∈ [0x0002, 0x0003, 0x0013, 0x0014, 0x0031, 0x0040, 0x0060] then some 1
  else if k ∈ [0x0010, 0x0011, 0x0012, 0x0020, 0x0021, 0x0022, 0x0023, 0x0024, 0x0030, 0x0050, 0x0051, 0x0052, 0x0053] then some 2
  else none

/-- Bytes of the SELECTOR that a KIND uses; the rest are zero (R312). -/
def selectorLen (k : Nat) (sel : List Byte) : Nat :=
  if k ∈ [0x0001, 0x0002, 0x0003, 0x0013, 0x0040, 0x0060] then 0
  else if k = 0x0010 then 10 else if k = 0x0023 then 14 else if k = 0x0030 then (if u8 sel 4 = 1 then 5 else 4) else if k = 0x0053 then 5 else 4

/-- An object that the spec names without a layout. -/
def openObj (version : Nat) (l : List Nat) : Option StateObj := some { more := some l, version := version }

/-- KIND 0x0001: identity, cells, partitions, power and recovery state. -/
def nodeNums (s : State) : List Nat :=
  nums (identity s) ++ rows ((List.range 24).map (fun c => [cellOwner s c, regPwrCell s c, regCellCores s c])) ++
    rows (s.parts.map (fun e => [e.1, regPartId s e.1])) ++ [regPwrNode s, regSecNode s, regRecovery s, s.node.nodeInc, s.pwr.budget]

/-- KIND 0x0002: cells, region layout, generation, incarnation. -/
def partNums (v : Partn) : List Nat := [v.mask, v.layout.rawMib, v.layout.pageMib, v.layout.metaMib, v.gen, v.inc]

/-- A calibration set: every entry with its epoch, SATURATED and the latest clip counts (R105). -/
def calNums (c : CalSet) : List Nat :=
  [c.layers, c.kvHeads, c.dim] ++ rows (c.entries.map (fun e =>
    [e.1, e.2.epoch, b2n e.2.saturated] ++ counted e.2.clips ++ counted e.2.scale ++ counted e.2.zero))

/-- KIND 0x0003: every item, active and staged, the staged calibration sets and the active ones whole, with STAGE_SERIAL. -/
def configNums (s : State) (p : Nat) : List Nat :=
  let v := part s p
  rows (itemList.map (fun i => i :: activeVals s p i)) ++ rows (v.staged.map (fun g => g.item :: g.vals)) ++
    rows (v.calStaged.map (fun e => e.1 :: calNums e.2)) ++ rows (v.cal.map (fun e => e.1 :: calNums e.2)) ++ [v.stageSerial]

/-- KIND 0x0012 after the record: age, reference and pin counts, T1 residence. -/
def pageNums (s : State) (h : Nat) (g : Page) : List Nat := [g.age, g.refs, g.pins, g.t1Holds, b2n (h ∈ (cell s (hCell h)).t1)]

/-- KIND 0x0013: level, the settings of R83, counts, use of the reclamation list, LENT_ORPHANS (R95). -/
def poolNums (s : State) (p : Nat) : List Nat :=
  let v := part s p
  let c := v.pool
  [poolLevel s p, c.highWm, c.lowWm, c.hardFloor, c.sweepMs, c.minEvictAge, c.t1Promote, b2n c.lendAccept] ++ counted c.lendJobs ++
    [freeUnits s p, sumBy (partCells s p) (fun k => (cell s k).pages.length), v.seqs.length,
     sumBy (partCells s p) (fun k => (cell s k).lends.length), sumBy (partCells s p) (fun k => (cell s k).lent.length), v.recl.length, v.orphans]

/-- KIND 0x0022: JOB_ID, shape, reference count (R183). -/
def scorerNums (c : Scorer) : List Nat := [c.job, c.dim, c.rank, c.layers, c.kvHeads, c.wformat, c.wcomp, c.serial, c.refs]

/-- KIND 0x0060: key check values of the partition's keys: its XTS keys, its fingerprint key, and for each job secret its own, its
lend keys' and its span coding key's (R298, R385). -/
def keyNums (s : State) (p : Nat) : List Nat :=
  [kcvOf (partXtsKeys s p), kcvOf (fpKey s p)] ++ rows ((part s p).keys.map (fun e =>
    [e.1, e.2.jkg, kcvOf e.2.secret, kcvOf (lendKeys s p e.1 e.2.secret), kcvOf (spanKey e.1 e.2.secret)]))

/-- KIND 0x0024: the set's table with its flags (R195). -/
def gsetNums (g : GSet) : List Nat :=
  [g.job, g.seq, g.layer, g.kvSet, g.lo, g.hi, g.dim, b2n g.closed] ++
    rows (g.pages.map (fun x => [x.kv, x.page, x.cell, x.bank, x.row, b2n x.excluded, b2n x.missing]))

/-- KIND 0x0050 (R381). -/
def connNums (c : Conn) : List Nat :=
  [c.kind, c.mode, c.state, c.peerQpn, c.peerNode, c.peerPart, c.port] ++ counted (nums c.peerAddr) ++ counted (nums c.localAddr) ++
    [c.sndNext, c.sndCum, c.rcvCum] ++ counted c.window ++ [c.msnOut, c.msnIn, c.cc.rate.num.toNat, c.cc.rate.den, c.cc.target.num.toNat,
     c.cc.target.den, c.cc.alpha.num.toNat, c.cc.alpha.den, c.cc.g, c.cc.alpha0, c.cc.ai, c.cc.timer, c.cc.cnpInterval, c.cc.minRate, c.entropy,
     c.lostReplies, c.resends, c.refusals]

/-- KIND 0x0053: SPI, sequence number, replay window, key check value (R381). -/
def saNums (x : Sa) : List Nat := [x.spi, x.seqNo] ++ counted x.seen ++ [x.kcv]

/-- The object of a KIND and SELECTOR in a partition; none where it does not exist. A cursor's VERSION is the ENTRY_GEN of the first
candidate it holds, 0 with none: R297 names ENTRY_GEN without saying of which entry (log 57). -/
def stateObj (s : State) (p kind : Nat) (sel : List Byte) : Option StateObj :=
  let v := part s p
  let n := u32 sel 0
  if kind = 0x0001 then openObj s.node.nodeInc (nodeNums s)
  else if kind = 0x0002 then openObj v.inc (partNums v)
  else if kind = 0x0003 then openObj v.configGen (configNums s p)
  else if kind = 0x0010 then (tget? v.seqs (blockSeq sel)).map (fun q => { known := entryImage s p q, version := q.gen })
  else if kind = 0x0011 then (findBlock s p n).map (fun e =>
    { known := if e.2.1 = 0 then rootImage e.1 else if e.2.1 < 1024 then layerImage e.1 (e.2.1 - 1) e.2.2.units else mapImage e.1 e.2.1
      version := e.1.gen })
  else if kind = 0x0012 then
    if isStub n && hCell n ∈ partCells s p then (lendOf s n).map (fun e =>
      { more := some [e.node, e.part, e.handle, e.uid, e.cls, e.conn, e.age, b2n e.lost, b2n e.recalling], version := u32 e.image.record 0x10 })
    else if isPage n && hCell n ∈ partCells s p && cellUp s (hCell n) then
      (pageOf s n).map (fun g => { known := recBytes g.r, more := some (pageNums s n g), version := g.r.gen })
    else none
  else if kind = 0x0013 then openObj v.configGen (poolNums s p)
  else if kind = 0x0014 then
    (if n ∈ partCells s p then openObj (cell s n).poisonCount (rows ((cell s n).poisonLog.map (fun e => [e.1, e.2]))) else none)
  else if kind = 0x0020 then (tget? v.cal n).map (fun c =>
    { more := some (calNums c), version := c.entries.foldl (fun m e => max m e.2.epoch) 0 })
  else if kind = 0x0021 then
    (if n < 4 then
      let t : TableSlot := tget {} v.tables n
      some { known := padTo 64 t.bytes, more := some [b2n t.loaded, t.loadCount, t.refs], version := t.loadCount }
    else none)
  else if kind = 0x0022 then (tget? v.scorers n).map (fun c => { more := some (scorerNums c), version := c.serial })
  else if kind = 0x0023 then
    ((partCells s p).findSome? (fun c => (cell s c).digests.find? (fun d => d.job == u32 sel 0 && d.seq == u48 sel 4 && d.layer == u16 sel 10 &&
      d.kv == u8 sel 12 && d.chunk == u8 sel 13))).map (fun d => { known := digestEntry d ++ digestImage d, version := d.gen })
  else if kind = 0x0024 then (tget? v.gsets n).map (fun g => { more := some (gsetNums g), version := g.done })
  else if kind = 0x0030 then
    if u8 sel 4 = 1 then (tget? v.cursors n).bind (fun k =>
      openObj (k.held.headD {}).gen (rows (k.held.map (fun h => [h.index, h.prio, h.gen, h.assoc])) ++ [b2n k.more, k.restart]))
    else
      match entryCell s p n with
      | some c =>
        let u := n % 1048576
        let w := bankWidth v.match_ (unitBank u)
        if u % w = 0 && entryValid (cell s c) u then
          some { known := (entryUnits u w).flatMap (fun i => shadowImage (shadowAt (cell s c) i)), version := (shadowAt (cell s c) u).gen }
        else none
      | none => none
  else if kind = 0x0031 then (v.placeRecs.find? (fun e => e.2.index == n)).map (fun e =>
    { known := placeImage e.2, more := some [e.2.key, e.2.mask, e.1], version := e.2.epoch })
  else if kind = 0x0040 then
    some { known := v.meters.flatMap (fun e => toLe 4 e.1 ++ zeros 4 ++ (meterVals e.2).flatMap (toLe 8)), version := s.node.reportSerial }
  else if kind = 0x0060 then openObj v.gen (keyNums s p)
  else if kind = 0x0050 || kind = 0x0053 then
    match connIdx s n with
    | some i =>
      let c := connOf s i
      if c.part ≠ p then none
      else if kind = 0x0050 then openObj c.reuse (connNums c)
      else if u8 sel 4 = 0 then openObj ((c.saOut.map (·.packets)).getD 0) (c.saOut.elim [] saNums)
      else openObj (sumBy c.saIn (·.packets)) (rows (c.saIn.map saNums))
    | none => none
  else if kind = 0x0051 then (v.regions.find? (fun r => r.2.rkey == n)).map (fun r =>
    { more := some [r.2.cell, r.2.off, r.2.len, b2n r.2.writable, b2n r.2.revoking, r.2.accepted], version := r.2.ever })
  else if kind = 0x0052 then (tget? v.pools n).map (fun q =>
    { more := some ([q.bufLen, q.bufs.length] ++ (let r : Ring := tget {} v.poolRings n; [r.head, r.tail])), version := q.posted })
  else none

/-- READ_STATE (R303: NOT_FOUND before INVALID_PARAM, so a partition the issuer cannot name comes before a KIND the node lacks). -/
def cmdReadState : Handler := fun _ c s =>
  let b := c.block
  let kind := u16 b 0
  let t := u16 b 2
  let p := if t = 0xFFFF then c.part else t
  let off := u32 b 4
  let n := u32 b 8
  let sel := slice b 16 16
  let bad := b.length ≠ 32 || !zeroIn b 12 16 || n = 0 || (if isMctp c.src then 4032 else 1048576) < n
  match kindRule kind with
  | none => (s, some (err (if p = c.part || (c.part = 0 && p ≤ 24 && (part s p).exists_) then stInvalid else stNotFound)))
  | some rule =>
    let seen := if rule = 0 then c.part == 0 && p == 0 else p == c.part || (c.part == 0 && rule == 1 && decide (p ≤ 24) && (part s p).exists_)
    match if seen then stateObj s p kind sel else none with
    | none => (s, some (err stNotFound))
    | some o =>
      if bad || !allZero (sel.drop (selectorLen kind sel)) then (s, some (err stInvalid))
      else
        let b := objImage kind o
        if b.length ≤ off then (s, some (err stInvalid))
        else if !fitsReply c n then (s, some (err stInvalid 0xFFF2))
        else (s, some (okPay (toLe 4 b.length ++ zeros 4 ++ toLe 8 o.version) (slice b off (min n (b.length - off)))))

/-- READ_STATE. -/
def execReadState (src : Source) (pkt : Packet) (s : State) : Host.Outcome State Fault Refusal :=
  .next (submitOp 0x0003 src pkt cmdReadState s)

/-! ### Partitions (R314, R471) -/

/-- The layout that PARTITION_CREATE asks for; a size of 0 selects the default. -/
def layoutArg (b : List Byte) : Layout :=
  let pick (v d : Nat) : Nat := if v = 0 then d else v
  { rawMib := pick (u32 b 8) 1024, pageMib := pick (u32 b 12) 69632, metaMib := pick (u32 b 16) 8704 }

/-- The limits of R36 and R37. -/
def layoutOk (l : Layout) : Bool :=
  decide (32 ≤ l.rawMib) && decide (l.rawMib ≤ 8192) && l.rawMib % 16 == 0 && decide (16384 ≤ l.pageMib) && decide (l.pageMib ≤ 77824) &&
    l.pageMib % 256 == 0 && decide (1024 ≤ l.metaMib) && decide (l.metaMib ≤ 16384) && l.metaMib % 256 == 0 &&
    decide (l.rawMib + l.pageMib + l.metaMib + 768 ≤ 81920)

/-- PARTITION_CREATE: the cells leave Cell-off, R57 runs on them, and the partition is there. -/
def cmdPartitionCreate : Handler := fun id c s =>
  let b := c.block
  let p := u16 b 0
  let mask := u32 b 4
  let l := layoutArg b
  let cells := bitList mask 24
  if !blockIs c 20 || !zeroIn b 2 4 || p = 0 || 24 < p || mask = 0 || 2 ^ 24 ≤ mask || !layoutOk l ||
      cells.any (fun k => !bitOf s.node.cellsPresent k) then (s, some (err stInvalid))
  else if (part s p).exists_ || cells.any (fun k => cellOwner s k != 0) then (s, some (err stConflict))
  else
    let old := part s p
    let fresh : Partn :=
      { exists_ := true, inReset := true, creating := true, resetCmd := some id, resetAt := now s, mask := mask, inc := old.inc, gen := old.gen
        layout := l, items := old.items, log := old.log, resets := old.resets, emerg := s.pwr.emerg }
    let s := setPart p fresh s
    let s := modPart p (fun v => { v with items := if thas v.items 0x0100 then v.items else tset v.items 0x0100 [quotaDefault s p] }) s
    let s := cells.foldl (fun s k => if cellUp s k then s else leaveCellOff k 0 0 none s) s
    (createReady p s, none)

/-- PARTITION_CREATE. -/
def execPartitionCreate (src : Source) (pkt : Packet) (s : State) : Host.Outcome State Fault Refusal :=
  .next (submitOp 0x0006 src pkt cmdPartitionCreate s)

/-- The end of a destruction: the last connections close, R57 runs, the partition's cells are unowned with their stacks off, its queue pairs
are disabled, and PARTITION_DESTROY completes (R314, R413, R471). -/
def finishDestroy (p : Nat) (s : State) : State :=
  let cells := partCells s p
  let cmd := (part s p).resetCmd
  let s := eraseP p (destroyConns p s)
  let s := cells.foldl (fun s c => modCellPwr c (fun _ => { st := 3 }) s) s
  let s := modFn p (fun f => { f with qps := f.qps.map (fun e => (e.1, if e.2.state = 1 || e.2.state = 2 then { e.2 with en := false, state := 3 } else e.2)) }) s
  let v := part s p
  let s := setPart p { inc := v.inc, gen := v.gen, log := v.log } s
  cmd.elim s (fun id => conclude id (okRet []) s)

/-- A destruction ends once no confirmation of a release is awaited (R95). -/
def destroyGo (p : Nat) (s : State) : State :=
  if (part s p).destroying && (releasesOut s p).isEmpty then finishDestroy p s else s

/-- LEND_RELEASE_WAIT_EXPIRY (R95): confirmations of releases are waited for no longer, and the last connections go; a destruction
ends. -/
def execLendReleaseWaitExpiry (p : Nat) (s : State) : Host.Outcome State Fault Refusal :=
  .next (if !nodeLive s then s else if (part s p).inReset && (part s p).resetAt + 10000 ≤ now s then
    let s := modPart p (fun v => { v with awaits := v.awaits.filter (fun w => w.kind != 4) }) s
    if (part s p).destroying then finishDestroy p s else destroyConns p s else s)

/-- A partition begins to end: commands of its VF complete with CELL_UNAVAILABLE, connections close, leases end; confirmations of the
release of its lent pages are waited for (R57, R95, R314, R471). -/
def destroyPart (p id : Nat) (s : State) : State :=
  let s := (s.cmds.filter (fun e => e.2.part == p && (match e.2.src with
    | .qp _ _ => true
    | _ => false))).foldl (fun s e => if thas s.cmds e.1 then endByReset e.1 (err stUnavail) s else s) s
  let s := match (part s p).resetCmd with
    | some id => conclude id (err stInternal 3) s
    | none => s
  let s := modPart p (fun v => { v with inReset := true, creating := false, destroying := true, resetAt := now s, resetCmd := some id }) s
  destroyGo p (fencePart p none s)

/-- PARTITION_DESTROY. -/
def cmdPartitionDestroy : Handler := fun id c s =>
  let p := u16 c.block 0
  if !blockIs c 2 || p = 0 then (s, some (err stInvalid))
  else if 24 < p || !(part s p).exists_ || (part s p).destroying then (s, some (err stNotFound))
  else (destroyPart p id s, none)

/-- PARTITION_DESTROY. -/
def execPartitionDestroy (src : Source) (pkt : Packet) (s : State) : Host.Outcome State Fault Refusal :=
  .next (submitOp 0x0007 src pkt cmdPartitionDestroy s)

/-! ### EVENT_SUBSCRIBE (R315) -/

/-- EVENT_SUBSCRIBE. -/
def cmdEventSubscribe : Handler := fun _ c s =>
  let b := c.block
  let p := c.part
  let mask := u64 b 0
  let conn := u32 b 12
  if !blockIs c 16 || 1 < u8 b 8 || !zeroIn b 9 12 || (u8 b 8 = 0 && conn ≠ 0) then (s, some (err stInvalid))
  else if p ≠ 0 && mask / 65536 ≠ 0 then (s, some (err stAuth))
  else
    let known := match connIdx s conn with
      | some i => (connOf s i).part == p && (connOf s i).kind == 1
      | none => false
    if u8 b 8 = 1 && !known then (s, some (err stNotFound))
    else
      let sub : Sub := { src := c.src, part := p, mask := mask, conn := if u8 b 8 = 1 then some conn else none }
      (modPart p (fun v => { v with
        subs := v.subs.filter (fun q => q.src != c.src) ++ if mask = 0 then [] else [sub] }) s, some (okRet []))

/-- EVENT_SUBSCRIBE. -/
def execEventSubscribe (src : Source) (pkt : Packet) (s : State) : Host.Outcome State Fault Refusal :=
  .next (submitOp 0x0009 src pkt cmdEventSubscribe s)

/-! ### Management bus and TAP (R507, R511) -/

/-- I3C_MODE_ENTRY (R507): holds until the next rise of PWR_GOOD. -/
def execI3cModeEntry (s : State) : Host.Outcome State Fault Refusal :=
  .next (if s.node.phase = .off || s.dbg.frozen then s else modNode (fun n => { n with i3c := true }) s)

/-- PLDM_REQUEST (R507): a sensor reading, which the always-on domain answers in Drizzle too, or a step of a firmware update. -/
def execPldmRequest (req : PldmReq) (s : State) : Host.Outcome State Fault Refusal :=
  .next (if !nodeLive s then s else
    match req with
    | .sensor id =>
      let (n, s) := draw s
      emit (.mctp 3 (toLe 2 id ++ toLe 4 n)) s
    | .fwData off len final chunk =>
      let s := latchWake s
      let r := if 2 ≤ s.sec.mstate then (s, err stInternal) else if s.node.restart.isSome then (s, err stRetry 1) else stageChunk off len final chunk s
      emit (.mctp 5 (toLe 2 r.2.status)) r.1
    | .fwActivate =>
      let s := latchWake s
      let r := if 2 ≤ s.sec.mstate then (s, some (err stInternal)) else activate none s
      emit (.mctp 5 (toLe 2 (r.2.elim 0 (·.status)))) r.1)

/-- Bits of a number, least significant first. -/
def bitsLsb (v n : Nat) : List Bool := (List.range n).map (bitOf v)
/-- The number that bits spell, least significant first. -/
def bitsVal (l : List Bool) : Nat := sumBy l.zipIdx (fun e => if e.1 then 2 ^ e.2 else 0)

/-- The data register that the current instruction puts between TDI and TDO, as it captures: IDCODE, the capture registers, the
aperture from the selected offset, the boundary cells, or one bit of BYPASS. Instruction codes are log 6's. -/
def tapCapture (s : State) (n : Nat) : List Bool :=
  let ir := s.dbg.tapIr
  if ir = 1 then bitsLsb 0x12480967 32
  else if ir = 8 then bitsLsb (capStat s) 64
  else if ir = 9 then bitsLsb (capCtl s) 64
  else if ir = 10 then
    (List.range ((n + 7) / 8)).flatMap (fun i => bitsLsb (captureByte s (s.dbg.tapAddr + i)).toNat 8)
  else if ir = 0 || ir = 2 then (List.range n).map (fun i => bitOf (Config.imageByte 0x10000 i).toNat 0)
  else [false]

/-- TAP_ACCESS (R460, R511): it works in Frost too, and reaches no key. -/
def execTapAccess (op : TapOp) (s : State) : Host.Outcome State Fault Refusal :=
  .next (if s.node.phase = .off then s else
    match op with
    | .reset => modDbg (fun d => { d with tapIr := 1, tapAddr := 0 }) s
    | .loadIr code => modDbg (fun d => { d with tapIr := code % 16, tapAddr := 0 }) s
    | .shiftDr din =>
      let cap := tapCapture s din.length
      let s' := emit (.tdo ((cap ++ din).take din.length)) s
      if s.dbg.tapIr = 9 && din.length = 64 then writeCapCtl .full (BitVec.ofNat 64 (bitsVal din)) s'
      else if s.dbg.tapIr = 10 then modDbg (fun d => { d with tapAddr := d.tapAddr + din.length / 8 }) s'
      else s')

end Sys2Proof.Machine
end

