-- ==== Sys2Proof/Machine/NetReceive.lean ====
section
/-! DEFINITION. Packets received on connections, the messages that they complete, and the ring entries that the node
accepts (R357 to R371, R476, R477). -/

namespace Sys2Proof.Machine

/-! ### Every opcode's meaning -/

/-- The meaning of every opcode (R303), for a command that begins by its record alone. -/
def runOp : Handler := fun id c s =>
  match c.opcode with
  | 0x0001 => cmdNop id c s
  | 0x0002 => cmdIdentify id c s
  | 0x0003 => cmdReadState id c s
  | 0x0004 => cmdConfigStage id c s
  | 0x0005 => cmdConfigCommit id c s
  | 0x0006 => cmdPartitionCreate id c s
  | 0x0007 => cmdPartitionDestroy id c s
  | 0x0008 => cmdMeterReport id c s
  | 0x0009 => cmdEventSubscribe id c s
  | 0x0101 => cmdSeqCreate id c s
  | 0x0102 => cmdSeqDestroy id c s
  | 0x0103 => cmdAppendAny id c s
  | 0x0104 => cmdPagePin id c s
  | 0x0105 => cmdPageShare id c s
  | 0x0106 => cmdPageMigrate id c s
  | 0x0107 => cmdPageLend id c s
  | 0x0108 => cmdPageRecall id c s
  | 0x0109 => cmdSeqMapEdit id c s
  | 0x010A => cmdPoolSet id c s
  | 0x010B => cmdFormatTableLoad id c s
  | 0x0201 => cmdAttendAny id c s
  | 0x0202 => cmdAttendBwd id c s
  | 0x0203 => cmdMerge id c s
  | 0x0204 => cmdDigestBuild id c s
  | 0x0205 => cmdScorerLoad id c s
  | 0x0206 => cmdCancel id c s
  | 0x0301 => cmdMatchInsert id c s
  | 0x0302 => cmdMatchDelete id c s
  | 0x0303 => cmdMatchSearch id c s
  | 0x0304 => cmdMatchStep id c s
  | 0x0305 => cmdMatchConfig id c s
  | 0x0401 => cmdBankOp id c s
  | 0x0402 => cmdBankOpstat id c s
  | 0x0501 => cmdConnCreate id c s
  | 0x0502 => cmdConnModify id c s
  | 0x0503 => cmdConnDestroy id c s
  | 0x0504 => cmdRegionRegister id c s
  | 0x0505 => cmdRegionRevoke id c s
  | 0x0506 => cmdSaInstall id c s
  | 0x0507 => cmdSrqPost id c s
  | 0x0601 => cmdLeaseAcquire id c s
  | 0x0602 => cmdLeaseRenew id c s
  | 0x0603 => cmdLeaseHandoff id c s
  | 0x0604 => cmdLeaseRelease id c s
  | 0x0605 => cmdPlaceSet id c s
  | 0x0701 => cmdAttestGet id c s
  | 0x0702 => cmdJobKeyInstall id c s
  | 0x0703 => cmdKeyRotate id c s
  | 0x0704 => cmdZeroise id c s
  | 0x0801 => cmdPowerState id c s
  | 0x0802 => cmdBudgetSet id c s
  | 0x0803 => cmdResetLevel id c s
  | 0x0804 => cmdDumpCollect id c s
  | 0x0805 => cmdDumpRead id c s
  | 0x0806 => cmdFrostArm id c s
  | 0x0807 => cmdFwStage id c s
  | 0x0808 => cmdFwActivate id c s
  | _ => (s, some (err stUnsupported 2))

/-! ### SQ_ENTRY_FETCH (R476, R477) -/

/-- The packet that a ring entry makes (R476): header, then as many parameter bytes as PARAM_LEN says. An entry that breaks a
rule of its form makes a packet whose length differs from 64 + PARAM_LEN, so check 2 of R280 refuses it. -/
def entryPacket (entry params : List Byte) : Packet :=
  let e := padTo 128 entry
  let head := e.take 64
  let n := u32 e 0x0C
  let addr := u64 e 0x40
  let good := zeroIn e 0x54 128 && addr % 4 == 0 && (n != 0 || addr == 0) && decide (n ≤ 16777152)
  { bytes := if good then head ++ padTo n params else head ++ (if n = 0 then [0] else []), replyLen := u32 e 0x50 }

/-- Ring entries are fetched: not while the node enters, is in or leaves Drizzle (R414, R415, R417). -/
def ringsFetched (s : State) : Bool :=
  nodeLive s && s.node.phase != .quiescing && s.node.phase != .drizzle && s.node.phase != .waking

/-- SQ_ENTRY_FETCH (R477). -/
def execSqEntryFetch (fn q : Nat) (entry params : List Byte) (fault : Bool) (s : State) : Host.Outcome State Fault Refusal :=
  let v := qpOf s fn q
  let size := 2 ^ (v.sqLog + 4)
  let src : Source := .qp fn q
  let pkt := entryPacket entry params
  let control := !isDataPath (u16 pkt.bytes 0)
  let waiting := (s.cmds.filter (fun e => e.2.src == src && !isDataPath e.2.opcode)).length
  .next (if !ringsFetched s || !srcLive s src || v.sqHead % size = v.sqTail % size then s
    else
      if fault then qpFault fn q 2 s
      else if control && (s.node.restart.isSome || 32 ≤ waiting) then s
      else submit src pkt runOp (modQp fn q (fun v => { v with sqHead := (v.sqHead + 1) % size }) s))

/-! ### Delivery (R363, R369) -/

/-- The message of a connection as one string. -/
def msgBytes (m : MsgIn) : List Byte := m.data.flatMap (·.2)

/-- An incarnation that is later than another: both wrap at 16 bits (R281). -/
def incLater (a b : Nat) : Bool := let d := (a + 65536 - b) % 65536
  decide (1 ≤ d && d < 32768)

/-- The INCARNATION of a reply that has come over a connection, noted as the latest of the peer's node and partition; none where a later
one of either has been seen, and the reply is discarded (R281). -/
def meetInc (ci inc : Nat) (s : State) : Option State :=
  let c := connOf s ci
  let key := c.peerNode * 65536 + c.peerPart
  let n := inc / 65536 % 65536
  let q := inc % 65536
  let old := tget (n, q) s.node.partIncs key
  if incLater (tget n s.node.nodeIncs c.peerNode) n || (old.1 == n && incLater old.2 q) then none
  else some (modNode (fun v => { v with nodeIncs := tset v.nodeIncs c.peerNode n, partIncs := tset v.partIncs key (n, q) }) s)

/-- A member's reply holds every row of its request (R209, R210). -/
def rowsWhole (x : Ctx) (status : Nat) (payload : List Byte) : Bool :=
  (status == stOk || status == stPartial || status == stPoisoned) && decide (16 + reqRows x.r * partSize (reqDim x.r) ≤ payload.length)

/-- The sub-request or the awaited answer that a reply's TAG names on a fabric connection. The answer to what a sub-request sent before its
re-issue counts where it is complete with rows (R210). -/
def replyFor (s : State) (id tag status : Nat) (payload : List Byte) : Option (Option (Nat × Nat × Nat)) :=
  match s.ctxs.findSome? (fun e => (e.2.subs.find? (fun k => k.2.state == 0 && ((k.2.conn == id && k.2.tag == tag) ||
      ((id, tag) ∈ k.2.was && rowsWhole e.2 status payload)))).map (fun k => (e.1, k.1, e.2.kind))) with
  | some x => some (some x)
  | none => if (part s (connOf s (id % 65536)).part).awaits.any (fun w => w.conn == id && w.tag == tag) then some none else none

/-- Bytes in the form of a command packet that carries FABRIC (R276, R277). -/
def fabricForm (b : List Byte) : Bool := 64 ≤ b.length && bitOf (u8 b 2) 7 && b.length == 64 + u32 b 0xC

/-- A reply that has come over a fabric connection and is awaited: to the sub-request, or to the question or command, that its TAG names. -/
def deliverReply (id : Nat) (b : List Byte) (x : Option (Nat × Nat × Nat)) (s : State) : State :=
  let ret := slice b 16 16
  let pay := b.drop 32
  match x with
  | some (ctx, sub, _) => memberReply ctx sub (u16 b 4) (u16 b 6) (ret ++ pay) s
  | none =>
    let p := (connOf s (id % 65536)).part
    let kind := ((part s p).awaits.find? (fun w => w.conn == id && w.tag == u32 b 0)).elim 0 (·.kind)
    fabricReply id (u32 b 0) (u16 b 4) (u16 b 6) (if kind ∈ [5, 11, 12, 14] then pay else ret) s

/-- A SEND on a control or fabric connection: one command packet, a reply to what the node sent (R351), or a question (log 90). On a fabric
connection a reply that nothing awaits any more is dropped (R210), and one of an earlier incarnation is discarded (R281). -/
def deliverSend (id : Nat) (b : List Byte) (s : State) : State :=
  let fabric := (connOf s (id % 65536)).kind = 2
  let reply := fabric && decide (32 ≤ b.length && b.length = 32 + u32 b 8)
  match if reply then replyFor s id (u32 b 0) (u16 b 4) (slice b 16 16 ++ b.drop 32) else none with
  | some x => (meetInc (id % 65536) (u32 b 0xC) s).elim s (deliverReply id b x)
  | none =>
    match if fabric && nodeLive s then questionOf b else none with
    | some (kind, tag, nums) => askedHere id kind tag nums s
    | none => if reply && !fabricForm b then s else submit (.conn id) { bytes := b, replyLen := 0 } runOp s

/-- The delivery of a complete message (R363, R369). -/
def deliverMsg (ci : Nat) (m : MsgIn) (s : State) : State :=
  let c := connOf s ci
  let id := connId s ci
  let leave (s : State) : State := match m.region with
    | some i => leaveRegion c.part i s
    | none => s
  if m.refused ≠ 0 then s
  else if c.kind ≠ 0 then deliverSend id (msgBytes m) s
  else if m.isSend then
    match m.buf with
    | some b => leave (postRecv c.part c.pool (recvRecord id m b false) s)
    | none => s
  else match m.imm with
  | none =>
    let s := match m.buf with
      | some b => returnBuf c.part c.pool b s
      | none => s
    leave s
  | some _ =>
    let got : Option (Buf × State) := match m.buf with
      | some b => some (b, s)
      | none => takeBuf c.part c.pool s
    match got with
    | some (b, s) =>
      let s := postRecv c.part c.pool (recvRecord id m b true) s
      leave (match regionOf s c.part b.rkey with
        | some (i, _) => leaveRegion c.part i s
        | none => s)
    | none => leave s

/-! ### Where a message goes (R362, R367, R368) -/

/-- The region of a WRITE, when the checks of R367 pass for its RETH. -/
def writeRegion (s : State) (p : Nat) (reth : Nat × Nat × Nat) : Option Nat :=
  match regionOf s p reth.1 with
  | some (i, r) => if r.writable && !r.revoking && reth.2.1 + reth.2.2 ≤ r.len then some i else none
  | none => none

/-- The bytes that a message may hold: its buffer, its DMA length, or the largest message (R353). -/
def msgRoom (c : Conn) (m : MsgIn) : Nat :=
  if !m.isSend then m.dma else if c.kind = 0 then (m.buf.map (·.len)).getD 0 else 16777216

/-- Placing a packet of a message (R362, R39), a WRITE's at a region and offset `to_`; BYTES_RX counts it (R230). -/
def placePacket (ci : Nat) (m : MsgIn) (to_ : Nat × Nat) (off : Nat) (b : List Byte) (s : State) : State × MsgIn :=
  let c := connOf s ci
  let s := meter c.part c.job (fun x => { x with bytesRx := sat64 x.bytesRx b.length }) s
  let m := { m with bytes := m.bytes + b.length }
  if c.kind ≠ 0 then (s, { m with data := tset m.data off b })
  else if !m.isSend then (placeBytes c.part to_.1 (to_.2 + off) b s, m)
  else match m.buf, m.region with
  | some q, some i => (placeBytes c.part i (q.off + off) b s, m)
  | _, _ => (s, m)

/-- A buffer assigned to a SEND (R368): its region counts the message. -/
def withBuf (s : State) (p : Nat) (b : Buf) (m : MsgIn) : MsgIn :=
  { m with buf := some b, region := (regionOf s p b.rkey).map (·.1) }

/-- The hub's command buffer has room for a command of a control connection (R358); commands that wait occupy it, and its depth the spec
leaves open (log 44). -/
def cmdRoom (s : State) : Bool :=
  placesLeft Config.commandBuffer (s.cmds.filter (fun e => e.2.held && match e.2.src with
    | .conn _ => true
    | _ => false)).length

/-! ### Standard mode (R358, R359) -/

/-- The timer code of an RNR NAK: the least whose time, in µs, is not below RNR_TIMER (PRESUMED, the table of the RoCEv2 standard;
log 36). -/
def rnrCode (us : Nat) : Nat :=
  ([10, 20, 30, 40, 60, 80, 120, 160, 240, 320, 480, 640, 960, 1280, 1920, 2560, 3840, 5120, 7680, 10240].filter (fun t => decide (t < us))).length + 1

/-- The AETH syndrome of a NAK: 1 sequence error, 2 remote access, 3 invalid request; 4 RNR with the partition's RNR_TIMER (R358). -/
def nakSyndrome (s : State) (p code : Nat) : Nat :=
  if code = 4 then 0x20 + rnrCode (netTimer s p 2) else if code = 1 then 0x60 else if code = 2 then 0x62 else 0x61

/-- A NAK of Standard mode. -/
def sendNak (ci code : Nat) (s : State) : State :=
  let c := connOf s ci
  let s := ackPkt ci c.rcvCum (nakSyndrome s c.part code) [] s
  modConn ci (fun c => { c with sinceAck := 0, ackDue := none }) s

/-- A NAK after which the connection enters ERROR (R359). -/
def nakFatal (ci code : Nat) (s : State) : State := failConn ci (sendNak ci code s)

/-- The first packet of a message in Standard mode: what R367 and R368 assign, or the code of the NAK. -/
def stdStart (ci : Nat) (p : NetPacket) (s : State) : State × Nat × MsgIn :=
  let c := connOf s ci
  let send := p.opcode < 6
  let m : MsgIn := { msn := c.msnIn, start := p.psn, isSend := send }
  if send then
    if c.kind ≠ 0 then (s, if c.kind = 1 && !cmdRoom s then 4 else 0, m)
    else match takeBuf c.part c.pool s with
    | some (b, s) => (s, 0, withBuf s c.part b m)
    | none => (s, 4, m)
  else match p.reth with
  | none => (s, 3, m)
  | some r =>
    match writeRegion s c.part r with
    | some i => (acceptInto c.part i s, 0, { m with region := some i, va := r.2.1, dma := r.2.2 })
    | none => (refusedAt c.part r.1 s, 2, m)

/-- A packet of the expected PSN (R359). -/
def stdAccept (ci : Nat) (p : NetPacket) (s : State) : State :=
  let c := connOf s ci
  let starts := decide (p.opcode ∈ [0, 4, 5, 6, 10, 11])
  let ends := decide (p.opcode ∈ [2, 3, 4, 5, 8, 9, 10, 11])
  let immed := decide (p.opcode ∈ [3, 5, 9, 11])
  let n := p.payload.length
  let s := modConn ci (fun c => { c with nakSent := false }) s
  let going := c.msgs.head?
  if starts != going.isNone || going.any (fun m => m.isSend != decide (p.opcode < 6)) || (6 ≤ p.opcode && c.kind != 0) ||
      (if ends then decide (4096 < n) || (n == 0 && !starts) else n != 4096) then nakFatal ci 3 s
  else
    let before := s
    let (s, code, m) := match going with
      | some m => (s, 0, m)
      | none => stdStart ci p s
    if code = 4 then sendNak ci 4 before
    else if code ≠ 0 then nakFatal ci code s
    else
      let off := 4096 * psnDist m.start p.psn
      let keep (m : MsgIn) (s : State) : State := modConn ci (fun c => { c with msgs := [m] }) s
      if msgRoom c m < off + n || (ends && !m.isSend && off + n ≠ m.dma) then nakFatal ci 3 (keep m s)
      else if ends && immed && !m.isSend && (tget {} (part s c.part).pools c.pool : Pool).bufs.isEmpty then sendNak ci 4 before
      else
        let (s, m) := placePacket ci m (m.region.getD 4096, m.va) off p.payload s
        let m := { m with imm := if ends && immed then some (p.imm.getD 0) else none, last := if ends then some p.psn else none }
        let s := modConn ci (fun c => { c with
          rcvCum := (p.psn + 1) % psnMod, msgs := if ends then [] else [m], msnIn := if ends then (c.msnIn + 1) % 2 ^ 32 else c.msnIn }) s
        let s := noteAck ci p.ackReq s
        if ends then deliverMsg ci m s else s

/-- An acknowledgement of Standard mode (R359): the AETH's syndrome says what it is. -/
def takeAck (ci : Nat) (p : NetPacket) (s : State) : State :=
  let syn := p.aeth / 2 ^ 24 % 256
  let s := modConn ci (fun c => { c with ackedAt := now s }) s
  if syn / 32 = 0 then ackedTo ci ((p.psn + 1) % psnMod) s
  else if syn / 32 = 3 && syn % 32 = 0 then goBack ci p.psn (ackedTo ci p.psn s)
  else if syn / 32 = 3 && syn % 32 ≤ 3 then failConn ci (ackedTo ci p.psn s)
  else if syn / 32 = 1 then rnrMet ci p.psn s
  else s

/-- A CE mark in Standard mode returns a CNP, at most once per CNP_INTERVAL (R374). -/
def stdCe (ci : Nat) (ce : Bool) (s : State) : State :=
  let x := (connOf s ci).cc
  if !ce || x.cnpSentAt.any (fun t => decide (now s < t + x.cnpInterval)) then s
  else sendPkt ci 0 (fun k => { k with opcode := 0x81 }) (modConn ci (fun c => { c with cc := { c.cc with cnpSentAt := some (now s) } }) s)

/-- A packet of Standard mode whose association has authenticated it (R358, R359). -/
def stdReceive (ci : Nat) (p : NetPacket) (s : State) : State :=
  let s := stdCe ci p.ce s
  let d := psnDist (connOf s ci).rcvCum p.psn
  if p.opcode = 0x11 then takeAck ci p s
  else if p.opcode = 0x81 then congest ci s
  else if 0x0B < p.opcode then nakFatal ci 3 s
  else if d = 0 then stdAccept ci p s
  else if psnMod / 2 ≤ d then sendAck ci 0 0 s
  else if (connOf s ci).nakSent then s
  else modConn ci (fun c => { c with nakSent := true }) (sendNak ci 1 s)

/-! ### Spray mode (R361 to R365) -/

/-- The Spray extension header of R361. -/
structure Seh where
  first : Bool
  last : Bool
  ask : Bool
  void : Bool
  entropy : Nat
  msn : Nat
  start : Nat
  bytes : Nat
  deriving DecidableEq, Repr

/-- The header's fields. -/
def sehOf (b : List Byte) : Seh :=
  let f := u8 b 1
  { first := bitOf f 0, last := bitOf f 1, ask := bitOf f 3, void := bitOf f 4, entropy := u8 b 2, msn := u32 b 4, start := u32 b 8, bytes := u32 b 0xC }

/-- A packet follows the rules of R361 by itself. -/
def sehOk (p : NetPacket) : Bool :=
  let h := sehOf p.seh
  let n := p.payload.length
  let off := 4096 * psnDist h.start p.psn
  p.seh.length == 16 && u8 p.seh 0 == 1 && u8 p.seh 1 / 32 == 0 && h.entropy ≤ 15 && u8 p.seh 3 == 0 && h.start < psnMod &&
  h.first == (h.start == p.psn) && (h.last || h.bytes == 0) &&
  (if h.void then n == 0 else if h.last then 1 ≤ n && n ≤ 4096 && h.bytes == off + n else n == 4096)

/-- A packet agrees with what its message has shown before: its start, its last PSN, its kind. -/
def sehAgrees (m : MsgIn) (p : NetPacket) : Bool :=
  let h := sehOf p.seh
  m.marked.isEmpty || (m.start == h.start && m.last.all (fun l => if h.last then l == p.psn else decide (psnDist h.start p.psn < psnDist h.start l)) &&
    (!h.last || m.marked.all (fun q => decide (psnDist h.start q ≤ psnDist h.start p.psn))))

/-- The place of an MSN after the next one to be delivered. -/
def msnDist (c : Conn) (msn : Nat) : Nat := (msn + 2 ^ 32 - c.msnIn) % 2 ^ 32

/-- A message put in its place among the connection's messages, in MSN order. -/
def putMsg (ci : Nat) (m : MsgIn) (s : State) : State :=
  modConn ci (fun c =>
    let d (x : MsgIn) : Nat := msnDist c x.msn
    { c with msgs := c.msgs.filter (fun x => decide (d x < d m)) ++ m :: c.msgs.filter (fun x => decide (d m < d x)) }) s

/-- The message of an MSN, or an empty record of it. -/
def msgAt (c : Conn) (msn : Nat) : MsgIn := (c.msgs.find? (fun m => m.msn == msn)).getD { msn := msn }

/-- Buffers for the earlier messages of a connection that lack one and for a SEND itself, in MSN order (R368). -/
def assignBufs (ci msn : Nat) (s : State) : State :=
  let c := connOf s ci
  (List.range (msnDist c msn + 1)).foldl (fun s k =>
    let m := msgAt (connOf s ci) ((c.msnIn + k) % 2 ^ 32)
    if m.buf.isSome || m.refused ≠ 0 || !m.isSend then s
    else match takeBuf c.part c.pool s with
    | some (b, s) => putMsg ci (withBuf s c.part b m) s
    | none => s) s

/-- A refusal (R365): the buffer returns to its pool's head, a region counts the message as gone, and the peer is told. -/
def refuseMsg (ci code : Nat) (m : MsgIn) (s : State) : State :=
  let c := connOf s ci
  let s := match m.buf with
    | some b => returnBuf c.part c.pool b s
    | none => s
  let s := match m.region with
    | some i => if m.isSend then s else leaveRegion c.part i s
    | none => s
  let s := putMsg ci { m with refused := code, buf := none, region := none, data := [] } s
  modConn ci (fun c => { c with refusals := c.refusals + 1 }) s

/-- The first packet of a message to arrive (R367, R368): where the message goes, or the code of its refusal. -/
def sprayStart (ci : Nat) (p : NetPacket) (m : MsgIn) (s : State) : State × Nat × MsgIn :=
  let c := connOf s ci
  if 0x0B < p.opcode || (6 ≤ p.opcode && c.kind != 0) then (s, 3, m)
  else if p.opcode < 6 then
    if c.kind ≠ 0 then (s, if c.kind = 1 && !cmdRoom s then 4 else 0, m)
    else
      let s := assignBufs ci m.msn s
      let got := msgAt (connOf s ci) m.msn
      (s, if got.buf.isSome then 0 else 4, { m with buf := got.buf, region := got.region })
  else
    let m := { m with isSend := false }
    match p.reth with
    | none => (s, 3, m)
    | some r =>
      match writeRegion s c.part r with
      | some i => (acceptInto c.part i s, 0, { m with region := some i, va := r.2.1, dma := r.2.2 })
      | none => (refusedAt c.part r.1 s, 1, m)

/-- Where a WRITE packet goes: the region and offset of the RETH that it carries (R362). The region that took the message's first packet
keeps it though it is revoked meanwhile (R371); another one is checked as R367 checks the first (log 40). -/
def writePlace (s : State) (p : Nat) (m : MsgIn) (reth : Option (Nat × Nat × Nat)) : Option (Nat × Nat) :=
  reth.bind (fun r => match regionOf s p r.1 with
    | some (i, g) =>
      if r.2.1 + r.2.2 ≤ g.len && (m.region == some i || (g.writable && !g.revoking)) then some (i, r.2.1) else none
    | none => none)

/-- CUM_PSN passes every marked PSN; what lies below it leaves the window. -/
def passCum : Nat → Conn → Conn
  | 0, c => c
  | n + 1, c => if c.rcvCum ∈ c.window then passCum n { c with rcvCum := (c.rcvCum + 1) % psnMod, window := c.window.filter (· != c.rcvCum) } else c

/-- Messages whose last PSN CUM_PSN has passed are delivered, in MSN order (R363). -/
def deliverPassed : Nat → Nat → State → State
  | 0, _, s => s
  | n + 1, ci, s =>
    let c := connOf s ci
    match c.msgs.head? with
    | none => s
    | some m =>
      if m.msn = c.msnIn && m.last.any (fun l => decide (1 ≤ psnDist l c.rcvCum) && decide (psnDist l c.rcvCum < psnMod / 2)) then
        deliverPassed n ci (deliverMsg ci m (modConn ci (fun c => { c with msgs := c.msgs.tail, msnIn := (c.msnIn + 1) % 2 ^ 32 }) s))
      else s

/-- Marking a PSN, acknowledging as R364 says, and delivering what is complete. -/
def markPsn (ci psn code msn : Nat) (ask : Bool) (s : State) : State :=
  let s := modConn ci (fun c => passCum 1025 { c with window := psn :: c.window }) s
  let s := if code = 0 then noteAck ci ask s else sendAck ci code msn s
  deliverPassed 1025 ci s

/-- The payload of a packet of a message that has begun, as `code` says that it may, goes to its place (R362); a message that its region or
buffer cannot take is refused (R365, R367). -/
def sprayStore (ci : Nat) (p : NetPacket) (code : Nat) (m : MsgIn) (s : State) : State :=
  let h := sehOf p.seh
  let c := connOf s ci
  let off := 4096 * psnDist h.start p.psn
  let to_ := writePlace s c.part m p.reth
  let room := if m.isSend then msgRoom c m else (p.reth.map (fun r => r.2.2)).getD 0
  let code := if code ≠ 0 then code else if !m.isSend && to_.isNone then 1
    else if room < off + p.payload.length || 16777216 < off + p.payload.length then 2 else 0
  if code ≠ 0 then markPsn ci p.psn code m.msn h.ask (refuseMsg ci code m s)
  else
    let (s, m) := placePacket ci m (to_.getD (4096, 0)) off p.payload s
    markPsn ci p.psn 0 0 h.ask (putMsg ci m s)

/-- A packet whose PSN the receiver accepts (R362, R365). -/
def sprayAccept (ci : Nat) (p : NetPacket) (s : State) : State :=
  let h := sehOf p.seh
  let c := connOf s ci
  let m := msgAt c h.msn
  if !sehAgrees m p || psnDist c.rcvCum p.psn < msnDist c h.msn then modConn ci (fun c => { c with malformed := c.malformed + 1 }) s
  else
    let fresh := m.marked.isEmpty
    let note (m : MsgIn) : MsgIn :=
      { m with start := h.start, last := if h.last then some p.psn else m.last, marked := p.psn :: m.marked
               imm := if h.last then p.imm else m.imm }
    if h.void then
      let s := if m.refused = 0 then
          refuseMsg ci 3 (note m) (modConn ci (fun c => { c with refusals := c.refusals - 1 }) s)
        else putMsg ci (note m) s
      markPsn ci p.psn 0 0 h.ask s
    else if m.refused ≠ 0 then markPsn ci p.psn 0 0 h.ask (putMsg ci (note m) s)
    else
      let (s, code, m) := if fresh then sprayStart ci p m s else (s, 0, m)
      sprayStore ci p code (note m) s

/-- A packet of Spray mode whose association has authenticated it (R361, R362). -/
def sprayReceive (ci : Nat) (p : NetPacket) (s : State) : State :=
  if !sehOk p then modConn ci (fun c => { c with malformed := c.malformed + 1 }) s
  else
    let h := sehOf p.seh
    let s := if p.ce then modConn ci (fun c => { c with ceEcho := setBit c.ceEcho h.entropy }) s else s
    let c := connOf s ci
    let d := psnDist c.rcvCum p.psn
    if psnMod / 2 ≤ d || p.psn ∈ c.window then noteAck ci h.ask s
    else if 1024 ≤ d then s
    else sprayAccept ci p s

/-! ### What every received packet meets -/

/-- Frost discards a packet (R459), and the MAC one that is too long (R339); fragments are dropped (R353); a node that sleeps wakes; a
packet to an unknown QPN, or to a connection that is not READY, is dropped and counted (R352), and so is one whose header or
association does not check (R357, R372). -/
def meetPacket (mode : Nat) (h : NetHead) (run : Nat → State → State) (s : State) : State :=
  if s.dbg.frozen then modDbg (fun d => { d with rxDrops := satAdd 0xFFFFFFFF d.rxDrops 1 }) s
  else if !netLive s || (h.port < 16 && 9216 < h.frame) then s
  else
    let s := finishWake (latchWake s)
    if h.fragment || !portUsable s h.port || !fromPartner s h.port h.src then s
    else match qpnConn s h.qpn with
    | none => modPort h.port (fun g => { g with dropQpn := g.dropQpn + 1 }) s
    | some ci =>
      if (connOf s ci).mode ≠ mode || h.pkey % 2 ^ 15 ≠ 2 ^ 15 - 1 || h.tver ≠ 0 then dropPacket ci s
      else match authPacket ci h.spi h.auth h.espSeq s with
      | none => dropPacket ci s
      | some s => run ci s

/-- SPRAY_ACK_RECEIVE (R366). -/
def execSprayAckReceive (qpn spi : Nat) (auth : Bool) (a : Sack) (s : State) : Host.Outcome State Fault Refusal :=
  .next (meetPacket 1 { port := a.port, src := a.src, qpn := qpn, spi := spi, espSeq := a.espSeq, auth := auth, pkey := a.pkey, tver := a.tver
                        fragment := a.fragment, frame := a.frame } (fun ci s => takeSack ci a s) s)

/-- CNP_RECEIVE (R374). -/
def execCnpReceive (h : NetHead) (s : State) : Host.Outcome State Fault Refusal := .next (meetPacket 0 h congest s)

/-- RNR_NAK_RECEIVE (R358, R359). -/
def execRnrNakReceive (h : NetHead) (psn : Nat) (s : State) : Host.Outcome State Fault Refusal :=
  .next (meetPacket 0 h (fun ci s => if (connOf s ci).unacked.any (fun u => u.psn == psn) then rnrMet ci psn s else s) s)

/-! ### Packets of messages -/

/-- A transport packet that meets its connection (R352, R357, R372). -/
def receive (mode : Nat) (p : NetPacket) (run : Nat → NetPacket → State → State) (s : State) : State :=
  meetPacket mode { port := p.port, src := p.src, qpn := p.qpn, spi := p.spi, espSeq := p.espSeq, auth := p.auth, pkey := p.pkey, tver := p.tver
                    fragment := p.fragment, frame := p.frame } (fun ci s => run ci { p with psn := p.psn % psnMod } s) s

/-- STD_PACKET_RECEIVE (R358, R359). -/
def execStdPacketReceive (p : NetPacket) (s : State) : Host.Outcome State Fault Refusal := .next (receive 0 p stdReceive s)

/-- SPRAY_PACKET_RECEIVE (R362). -/
def execSprayPacketReceive (p : NetPacket) (s : State) : Host.Outcome State Fault Refusal := .next (receive 1 p sprayReceive s)

end Sys2Proof.Machine
end

