-- ==== Sys2Proof/Machine/Dispatch.lean ====
section
/-! DEFINITION. The dispatch of a command to its meaning: one arm per constructor of Instr. -/

namespace Sys2Proof.Machine

def exec (i : Instr) (s : State) : Host.Outcome State Fault Refusal :=
  match i with
  | .nop src pkt => Sys2Proof.Machine.execNop src pkt s
  | .identify src pkt => Sys2Proof.Machine.execIdentify src pkt s
  | .readState src pkt => Sys2Proof.Machine.execReadState src pkt s
  | .configStage src pkt => Sys2Proof.Machine.execConfigStage src pkt s
  | .configCommit src pkt => Sys2Proof.Machine.execConfigCommit src pkt s
  | .partitionCreate src pkt => Sys2Proof.Machine.execPartitionCreate src pkt s
  | .partitionDestroy src pkt => Sys2Proof.Machine.execPartitionDestroy src pkt s
  | .meterReport src pkt => Sys2Proof.Machine.execMeterReport src pkt s
  | .eventSubscribe src pkt => Sys2Proof.Machine.execEventSubscribe src pkt s
  | .seqCreate src pkt => Sys2Proof.Machine.execSeqCreate src pkt s
  | .seqDestroy src pkt => Sys2Proof.Machine.execSeqDestroy src pkt s
  | .appendCmd src pkt => Sys2Proof.Machine.execAppendCmd src pkt s
  | .pagePin src pkt => Sys2Proof.Machine.execPagePin src pkt s
  | .pageShare src pkt => Sys2Proof.Machine.execPageShare src pkt s
  | .pageMigrate src pkt => Sys2Proof.Machine.execPageMigrate src pkt s
  | .pageLend src pkt => Sys2Proof.Machine.execPageLend src pkt s
  | .pageRecall src pkt => Sys2Proof.Machine.execPageRecall src pkt s
  | .seqMapEdit src pkt => Sys2Proof.Machine.execSeqMapEdit src pkt s
  | .poolSet src pkt => Sys2Proof.Machine.execPoolSet src pkt s
  | .formatTableLoad src pkt => Sys2Proof.Machine.execFormatTableLoad src pkt s
  | .attend src pkt => Sys2Proof.Machine.execAttend src pkt s
  | .attendBwd src pkt => Sys2Proof.Machine.execAttendBwd src pkt s
  | .mergeCmd src pkt => Sys2Proof.Machine.execMergeCmd src pkt s
  | .digestBuild src pkt => Sys2Proof.Machine.execDigestBuild src pkt s
  | .scorerLoad src pkt => Sys2Proof.Machine.execScorerLoad src pkt s
  | .cancel src pkt => Sys2Proof.Machine.execCancel src pkt s
  | .matchInsert src pkt => Sys2Proof.Machine.execMatchInsert src pkt s
  | .matchDelete src pkt => Sys2Proof.Machine.execMatchDelete src pkt s
  | .matchSearch src pkt => Sys2Proof.Machine.execMatchSearch src pkt s
  | .matchStep src pkt => Sys2Proof.Machine.execMatchStep src pkt s
  | .matchConfig src pkt => Sys2Proof.Machine.execMatchConfig src pkt s
  | .bankOp src pkt => Sys2Proof.Machine.execBankOp src pkt s
  | .bankOpstat src pkt => Sys2Proof.Machine.execBankOpstat src pkt s
  | .connCreate src pkt => Sys2Proof.Machine.execConnCreate src pkt s
  | .connModify src pkt => Sys2Proof.Machine.execConnModify src pkt s
  | .connDestroy src pkt => Sys2Proof.Machine.execConnDestroy src pkt s
  | .regionRegister src pkt => Sys2Proof.Machine.execRegionRegister src pkt s
  | .regionRevoke src pkt => Sys2Proof.Machine.execRegionRevoke src pkt s
  | .saInstall src pkt => Sys2Proof.Machine.execSaInstall src pkt s
  | .srqPost src pkt => Sys2Proof.Machine.execSrqPost src pkt s
  | .leaseAcquire src pkt => Sys2Proof.Machine.execLeaseAcquire src pkt s
  | .leaseRenew src pkt => Sys2Proof.Machine.execLeaseRenew src pkt s
  | .leaseHandoff src pkt => Sys2Proof.Machine.execLeaseHandoff src pkt s
  | .leaseHandoffAtHome src pkt => Sys2Proof.Machine.execLeaseHandoffAtHome src pkt s
  | .leasePrompt src pkt => Sys2Proof.Machine.execLeasePrompt src pkt s
  | .leaseRelease src pkt => Sys2Proof.Machine.execLeaseRelease src pkt s
  | .placeSet src pkt => Sys2Proof.Machine.execPlaceSet src pkt s
  | .attestGet src pkt => Sys2Proof.Machine.execAttestGet src pkt s
  | .jobKeyInstall src pkt => Sys2Proof.Machine.execJobKeyInstall src pkt s
  | .keyRotate src pkt => Sys2Proof.Machine.execKeyRotate src pkt s
  | .zeroise src pkt => Sys2Proof.Machine.execZeroise src pkt s
  | .powerState src pkt => Sys2Proof.Machine.execPowerState src pkt s
  | .budgetSet src pkt => Sys2Proof.Machine.execBudgetSet src pkt s
  | .resetLevel src pkt => Sys2Proof.Machine.execResetLevel src pkt s
  | .dumpCollect src pkt => Sys2Proof.Machine.execDumpCollect src pkt s
  | .dumpRead src pkt => Sys2Proof.Machine.execDumpRead src pkt s
  | .frostArm src pkt => Sys2Proof.Machine.execFrostArm src pkt s
  | .fwStage src pkt => Sys2Proof.Machine.execFwStage src pkt s
  | .fwActivate src pkt => Sys2Proof.Machine.execFwActivate src pkt s
  | .subRequest src pkt => Sys2Proof.Machine.execSubRequest src pkt s
  | .mirrorRead src pkt => Sys2Proof.Machine.execMirrorRead src pkt s
  | .reconstruction src pkt => Sys2Proof.Machine.execReconstruction src pkt s
  | .lendNeighbourAttend src pkt => Sys2Proof.Machine.execLendNeighbourAttend src pkt s
  | .writeThrough src pkt => Sys2Proof.Machine.execWriteThrough src pkt s
  | .lentPageReceive conn ownerGen page table => Sys2Proof.Machine.execLentPageReceive conn ownerGen page table s
  | .lendRelease conn ownerGen handle => Sys2Proof.Machine.execLendRelease conn ownerGen handle s
  | .lentLossReport conn handles => Sys2Proof.Machine.execLentLossReport conn handles s
  | .resyncPage conn part job seq span epoch page => Sys2Proof.Machine.execResyncPage conn part job seq span epoch page s
  | .parityStream conn part job group codePos pos page last => Sys2Proof.Machine.execParityStream conn part job group codePos pos page last s
  | .memberReply ctx sub status detail payload => Sys2Proof.Machine.execMemberReply ctx sub status detail payload s
  | .memberWaitExpiry ctx sub => Sys2Proof.Machine.execMemberWaitExpiry ctx sub s
  | .spanDeadlineExpiry ctx sub => Sys2Proof.Machine.execSpanDeadlineExpiry ctx sub s
  | .homeRecordExpiry part record => Sys2Proof.Machine.execHomeRecordExpiry part record s
  | .leaseExpiry part record => Sys2Proof.Machine.execLeaseExpiry part record s
  | .promptRepeat part record => Sys2Proof.Machine.execPromptRepeat part record s
  | .renewTimer part job seq span => Sys2Proof.Machine.execRenewTimer part job seq span s
  | .ownerLeaseEnd part job seq span => Sys2Proof.Machine.execOwnerLeaseEnd part job seq span s
  | .dispatchAdmit cell => Sys2Proof.Machine.execDispatchAdmit cell s
  | .tokenPull cell core => Sys2Proof.Machine.execTokenPull cell core s
  | .pageFetch cell => Sys2Proof.Machine.execPageFetch cell s
  | .pageFetchDone cell core place inc => Sys2Proof.Machine.execPageFetchDone cell core place inc s
  | .vTileConsumed cell core => Sys2Proof.Machine.execVTileConsumed cell core s
  | .tokenFinish cell core inc => Sys2Proof.Machine.execTokenFinish cell core inc s
  | .cellPartialReceive cell => Sys2Proof.Machine.execCellPartialReceive cell s
  | .deadlineExpiry ctx => Sys2Proof.Machine.execDeadlineExpiry ctx s
  | .selectionDone cell core inc => Sys2Proof.Machine.execSelectionDone cell core inc s
  | .gsetQueueResume part gset => Sys2Proof.Machine.execGsetQueueResume part gset s
  | .gradMessageDone ctx ok => Sys2Proof.Machine.execGradMessageDone ctx ok s
  | .editQueueResume part job seq => Sys2Proof.Machine.execEditQueueResume part job seq s
  | .epochAdvance part => Sys2Proof.Machine.execEpochAdvance part s
  | .clockSweep part => Sys2Proof.Machine.execClockSweep part s
  | .eviction part => Sys2Proof.Machine.execEviction part s
  | .poolStatUpdate part => Sys2Proof.Machine.execPoolStatUpdate part s
  | .scrubGranule cell raced => Sys2Proof.Machine.execScrubGranule cell raced s
  | .scrubRewrite cell => Sys2Proof.Machine.execScrubRewrite cell s
  | .stackTempReport cell temp => Sys2Proof.Machine.execStackTempReport cell temp s
  | .dieTempReport die temp => Sys2Proof.Machine.execDieTempReport die temp s
  | .throttleClear cause => Sys2Proof.Machine.execThrottleClear cause s
  | .avsPoll packageW peak rails => Sys2Proof.Machine.execAvsPoll packageW peak rails s
  | .avsVoltageReached cell mv => Sys2Proof.Machine.execAvsVoltageReached cell mv s
  | .avsTimeout cell => Sys2Proof.Machine.execAvsTimeout cell s
  | .envelopeTick draws => Sys2Proof.Machine.execEnvelopeTick draws s
  | .thermtrip => Sys2Proof.Machine.execThermtrip s
  | .cellOffDrained cell => Sys2Proof.Machine.execCellOffDrained cell s
  | .drizzleQuiesced => Sys2Proof.Machine.execDrizzleQuiesced s
  | .drizzleQuiesceExpiry => Sys2Proof.Machine.execDrizzleQuiesceExpiry s
  | .wake => Sys2Proof.Machine.execWake s
  | .drizzleTimerExpiry => Sys2Proof.Machine.execDrizzleTimerExpiry s
  | .wakeN low => Sys2Proof.Machine.execWakeN low s
  | .refLoss kind => Sys2Proof.Machine.execRefLoss kind s
  | .ctxWdTrip ctx => Sys2Proof.Machine.execCtxWdTrip ctx s
  | .coreWdTrip cell core => Sys2Proof.Machine.execCoreWdTrip cell core s
  | .cellWdTrip cell unit => Sys2Proof.Machine.execCellWdTrip cell unit s
  | .hubWdTrip unit => Sys2Proof.Machine.execHubWdTrip unit s
  | .heartbeatMiss side => Sys2Proof.Machine.execHeartbeatMiss side s
  | .coreSelfCheckDone cell core pass => Sys2Proof.Machine.execCoreSelfCheckDone cell core pass s
  | .coreResetTimeout cell core => Sys2Proof.Machine.execCoreResetTimeout cell core s
  | .partResetTimeout part => Sys2Proof.Machine.execPartResetTimeout part s
  | .nodeResetTimeout => Sys2Proof.Machine.execNodeResetTimeout s
  | .controlRestartTimeout => Sys2Proof.Machine.execControlRestartTimeout s
  | .partitionResetDone part => Sys2Proof.Machine.execPartitionResetDone part s
  | .nodeResetDone present => Sys2Proof.Machine.execNodeResetDone present s
  | .dumpHoldExpiry => Sys2Proof.Machine.execDumpHoldExpiry s
  | .dumpUnitWaitExpiry unit => Sys2Proof.Machine.execDumpUnitWaitExpiry unit s
  | .dumpTruncated => Sys2Proof.Machine.execDumpTruncated s
  | .fwReportRunning => Sys2Proof.Machine.execFwReportRunning s
  | .fwActivateTimeout => Sys2Proof.Machine.execFwActivateTimeout s
  | .pwrGood straps resetN tamperN selfTestOk => Sys2Proof.Machine.execPwrGood straps resetN tamperN selfTestOk s
  | .resetN => Sys2Proof.Machine.execResetN s
  | .perstN low => Sys2Proof.Machine.execPerstN low s
  | .powerLoss => Sys2Proof.Machine.execPowerLoss s
  | .tamperN => Sys2Proof.Machine.execTamperN s
  | .entropyTestFail test => Sys2Proof.Machine.execEntropyTestFail test s
  | .frostNFall => Sys2Proof.Machine.execFrostNFall s
  | .frostNRise => Sys2Proof.Machine.execFrostNRise s
  | .frostTrigger => Sys2Proof.Machine.execFrostTrigger s
  | .spdmRequest code param body => Sys2Proof.Machine.execSpdmRequest code param body s
  | .pldmRequest req => Sys2Proof.Machine.execPldmRequest req s
  | .batchClose part batch => Sys2Proof.Machine.execBatchClose part batch s
  | .sweepStart cell => Sys2Proof.Machine.execSweepStart cell s
  | .sweepDone cell => Sys2Proof.Machine.execSweepDone cell s
  | .patrolCompare cell => Sys2Proof.Machine.execPatrolCompare cell s
  | .cursorTimeout part cursor => Sys2Proof.Machine.execCursorTimeout part cursor s
  | .bankElementDone cell bank => Sys2Proof.Machine.execBankElementDone cell bank s
  | .elementWaitExpiry cell bank => Sys2Proof.Machine.execElementWaitExpiry cell bank s
  | .opRecordExpiry part opId => Sys2Proof.Machine.execOpRecordExpiry part opId s
  | .stdPacketReceive p => Sys2Proof.Machine.execStdPacketReceive p s
  | .sprayPacketReceive p => Sys2Proof.Machine.execSprayPacketReceive p s
  | .sprayAckReceive qpn spi auth a => Sys2Proof.Machine.execSprayAckReceive qpn spi auth a s
  | .ackDelayExpiry conn => Sys2Proof.Machine.execAckDelayExpiry conn s
  | .ackTimeout conn psn => Sys2Proof.Machine.execAckTimeout conn psn s
  | .capabilityDatagram port fromAddr d => Sys2Proof.Machine.execCapabilityDatagram port fromAddr d s
  | .capRetry conn => Sys2Proof.Machine.execCapRetry conn s
  | .cnpReceive qpn => Sys2Proof.Machine.execCnpReceive qpn s
  | .ccTimer conn => Sys2Proof.Machine.execCcTimer conn s
  | .rnrNakReceive qpn psn => Sys2Proof.Machine.execRnrNakReceive qpn psn s
  | .arpNdReceive port isNd isRequest target sender mac => Sys2Proof.Machine.execArpNdReceive port isNd isRequest target sender mac s
  | .autoneg port page speeds eee => Sys2Proof.Machine.execAutoneg port page speeds eee s
  | .linkTrainingDone port => Sys2Proof.Machine.execLinkTrainingDone port s
  | .linkLockTimeout port => Sys2Proof.Machine.execLinkLockTimeout port s
  | .capabilityBlock port block => Sys2Proof.Machine.execCapabilityBlock port block s
  | .weftTrainingDone port failed tag => Sys2Proof.Machine.execWeftTrainingDone port failed tag s
  | .linkLoss port => Sys2Proof.Machine.execLinkLoss port s
  | .lpiEntry port => Sys2Proof.Machine.execLpiEntry port s
  | .parkReq port => Sys2Proof.Machine.execParkReq port s
  | .parkAck port => Sys2Proof.Machine.execParkAck port s
  | .unpark port checkOk => Sys2Proof.Machine.execUnpark port checkOk s
  | .fastRetrainTimeout port => Sys2Proof.Machine.execFastRetrainTimeout port s
  | .sqDoorbell fn qp tail => Sys2Proof.Machine.execSqDoorbell fn qp tail s
  | .cqDoorbell fn qp head => Sys2Proof.Machine.execCqDoorbell fn qp head s
  | .sqEntryFetch fn qp entry params fault => Sys2Proof.Machine.execSqEntryFetch fn qp entry params fault s
  | .completionPost fn qp fault => Sys2Proof.Machine.execCompletionPost fn qp fault s
  | .coalUsExpiry fn qp => Sys2Proof.Machine.execCoalUsExpiry fn qp s
  | .qpEnable fn qp cfg => Sys2Proof.Machine.execQpEnable fn qp cfg s
  | .qpDisable fn qp cfg => Sys2Proof.Machine.execQpDisable fn qp cfg s
  | .qpQuiesceDone fn qp => Sys2Proof.Machine.execQpQuiesceDone fn qp s
  | .flr fn => Sys2Proof.Machine.execFlr fn s
  | .d3hot fn bmeOnly => Sys2Proof.Machine.execD3hot fn bmeOnly s
  | .ringEnable fn ring ctl => Sys2Proof.Machine.execRingEnable fn ring ctl s
  | .ringHeadWrite fn ring head => Sys2Proof.Machine.execRingHeadWrite fn ring head s
  | .rawApertureAccess fn part off len data => Sys2Proof.Machine.execRawApertureAccess fn part off len data s
  | .rwsWrite fn off half val => Sys2Proof.Machine.execRwsWrite fn off half val s
  | .commit fn off => Sys2Proof.Machine.execCommit fn off s
  | .discard fn off => Sys2Proof.Machine.execDiscard fn off s
  | .selftest fn => Sys2Proof.Machine.execSelftest fn s
  | .release => Sys2Proof.Machine.execRelease s
  | .mtrSel fn job => Sys2Proof.Machine.execMtrSel fn job s
  | .nodeIdWrite fn id => Sys2Proof.Machine.execNodeIdWrite fn id s
  | .registerWrite fn bar off half val => Sys2Proof.Machine.execRegisterWrite fn bar off half val s
  | .fabricReply conn tag status detail ret => Sys2Proof.Machine.execFabricReply conn tag status detail ret s
  | .handoffTimeout part job seq span => Sys2Proof.Machine.execHandoffTimeout part job seq span s
  | .recallRequest conn tag ownerGen handle => Sys2Proof.Machine.execRecallRequest conn tag ownerGen handle s
  | .lendReleaseWaitExpiry part => Sys2Proof.Machine.execLendReleaseWaitExpiry part s
  | .cellOffExitDone cell => Sys2Proof.Machine.execCellOffExitDone cell s
  | .pcieLinkDown => Sys2Proof.Machine.execPcieLinkDown s
  | .returnToD0 fn => Sys2Proof.Machine.execReturnToD0 fn s
  | .vfEnableClear numVfs => Sys2Proof.Machine.execVfEnableClear numVfs s
  | .resetNRelease => Sys2Proof.Machine.execResetNRelease s
  | .tapAccess op => Sys2Proof.Machine.execTapAccess op s
  | .i3cModeEntry => Sys2Proof.Machine.execI3cModeEntry s
  | .controlRestartDone => Sys2Proof.Machine.execControlRestartDone s
  | .contextResetTimeout ctx unit => Sys2Proof.Machine.execContextResetTimeout ctx unit s
  | .rnrTimerExpiry conn => Sys2Proof.Machine.execRnrTimerExpiry conn s
  | .packetSend conn => Sys2Proof.Machine.execPacketSend conn s
  | .selftestDone failed => Sys2Proof.Machine.execSelftestDone failed s
  | .meteringSecond part => Sys2Proof.Machine.execMeteringSecond part s
  | .bootDone present => Sys2Proof.Machine.execBootDone present s
  | .capabilityBlockRepeat port => Sys2Proof.Machine.execCapabilityBlockRepeat port s
  | .controlFrameReceive port => Sys2Proof.Machine.execControlFrameReceive port s

end Sys2Proof.Machine
end

