-- ==== Sys2Proof/Machine/Tick.lean ====
section
/-! DEFINITION. A microsecond passes with no command: what the node does of its own accord (log 1). -/

namespace Sys2Proof.Machine

/-- The jobs of a partition that have a token in a cell's ring or held by one of its cores (R230). -/
def tokenJobs (s : State) (c : Nat) : List (Nat × Nat) :=
  let l := (cell s c).ring.map (·.tok) ++ (cell s c).cores.flatMap (fun e => e.2.held.map (·.tok))
  (l.map (fun t => ((ctxOf s t.ctx).part, (ctxOf s t.ctx).r.job))).eraseDups

/-- CELL_NS of a microsecond (R230). -/
def countCells (s : State) : State :=
  s.cells.foldl (fun s e => (tokenJobs s e.1).foldl (fun s k => meter k.1 k.2 (fun m => { m with cellNs := sat64 m.cellNs 1000 }) s) s) s

/-- COMMIT bits that wait act, each when its turn has come (R293). -/
def commitTurns (s : State) : State := s.parts.foldl (fun s e => e.2.commitQ.foldl (fun s _ => commitTurn e.1 s) s) s

/-- The commands that wait begin, each when its turn has come (R277, R284, R293). -/
def resumeAll (s : State) : State := commitTurns (s.cmds.foldl (fun s _ => commitTurns (resumeOne runOp s)) s)

/-- A dump ends at a time that the spec leaves free, within DUMP_TRUNCATED's bound (R454; log 3). -/
def tickDump (s : State) : State :=
  if s.dbg.collect.isNone then s
  else
    let (n, s) := draw s
    if n % 2 = 1 then closeDump false s else s

/-- A wake ends (R417). -/
def tickWake (s : State) : State := if s.node.phase = .waking && s.node.drizzleAt + 1320 ≤ now s then finishWake s else s

/-- Destructions end whose last confirmation has come (R95). -/
def tickDestroy (s : State) : State := s.parts.foldl (fun s e => destroyGo e.1 s) s

/-- One microsecond (R493, log 1). HUB_TIME counts in Frost too; an unpowered node does nothing. -/
def tick (s : State) : State :=
  if s.node.phase = .off then s
  else
    let s := modNode (fun n => { n with time := (n.time + 1) % 2 ^ 64 }) s
    if s.dbg.frozen then s else resumeAll (tickDestroy (tickWake (tickDump (countCells s))))

end Sys2Proof.Machine
end

