-- ==== Sys2Proof/WellFormed.lean ====
section
/-! DEFINITION. Which commands are well formed: every operand within the range that the spec gives it. -/

namespace Sys2Proof

/-- A source: a queue pair that its function has (64 of the PF, 8 of a VF, R475), a CONN_ID of 32 bits (R352), MCTP. -/
def Source.wf : Source → Bool
  | .qp fn q => decide (fn ≤ 24) && decide (q < 8 || fn = 0 && q < 64)
  | .conn id => decide (id < 2 ^ 32)
  | .mctp _ => true

/-- A packet: at most 64 bytes of header and the longest parameter area of any path (R272); REPLY_LEN of 32 bits. -/
def Packet.wf (p : Packet) : Bool := decide (p.bytes.length ≤ 64 + 16777215) && decide (p.replyLen < 2 ^ 32)

/-- A page image: a record of 2,048 bytes and tiles of a whole number of slots (R62). -/
def PageImage.wf (p : PageImage) : Bool := decide (p.record.length = 2048) && decide (p.tiles.length % 8192 = 0)

/-- A transport packet: a port code of the node and the header fields within their widths (R357). -/
def NetPacket.wf (p : NetPacket) : Bool :=
  decide (p.port < 24) && decide (p.qpn < 2 ^ 24) && decide (p.spi < 2 ^ 32) && decide (p.opcode < 256) && decide (p.psn < 2 ^ 24) &&
    decide (p.payload.length ≤ 9216) && decide (p.pkey < 2 ^ 16) && decide (p.tver < 16)

/-- What a received packet shows first (R357). -/
def NetHead.wf (h : NetHead) : Bool :=
  decide (h.port < 24) && decide (h.qpn < 2 ^ 24) && decide (h.spi < 2 ^ 32) && decide (h.pkey < 2 ^ 16) && decide (h.tver < 16)

/-- A SACK block's fields (R364). -/
def Sack.wf (a : Sack) : Bool :=
  decide (a.cum < 2 ^ 24) && decide (a.ceEcho < 2 ^ 16) && decide (a.nakCode ≤ 4) && decide (a.nakMsn < 2 ^ 32) && decide (a.bitmap < 2 ^ 1024) &&
    decide (a.port < 24) && decide (a.pkey < 2 ^ 16) && decide (a.tver < 16)

/-- A unit of the node. -/
def StuckUnit.wf : StuckUnit → Bool
  | .core c k => decide (c < 24) && decide (k < 16)
  | .cellUnit c u => decide (c < 24) && decide (u < 6)
  | .hubBlock u => decide (u < 8)

/-- A ring of a function: its event ring or one of 64 pool rings (R484). -/
def RingId.wf : RingId → Bool
  | .event => true
  | .pool i => decide (i < 64)

/-- A command is well formed: its operands name things that the node has, within the fields that carry them. -/
def Instr.wf : Instr → Bool
  | .nop src pkt => src.wf && pkt.wf
  | .identify src pkt => src.wf && pkt.wf
  | .readState src pkt => src.wf && pkt.wf
  | .configStage src pkt => src.wf && pkt.wf
  | .configCommit src pkt => src.wf && pkt.wf
  | .partitionCreate src pkt => src.wf && pkt.wf
  | .partitionDestroy src pkt => src.wf && pkt.wf
  | .meterReport src pkt => src.wf && pkt.wf
  | .eventSubscribe src pkt => src.wf && pkt.wf
  | .seqCreate src pkt => src.wf && pkt.wf
  | .seqDestroy src pkt => src.wf && pkt.wf
  | .appendCmd src pkt => src.wf && pkt.wf
  | .pagePin src pkt => src.wf && pkt.wf
  | .pageShare src pkt => src.wf && pkt.wf
  | .pageMigrate src pkt => src.wf && pkt.wf
  | .pageLend src pkt => src.wf && pkt.wf
  | .pageRecall src pkt => src.wf && pkt.wf
  | .seqMapEdit src pkt => src.wf && pkt.wf
  | .poolSet src pkt => src.wf && pkt.wf
  | .formatTableLoad src pkt => src.wf && pkt.wf
  | .attend src pkt => src.wf && pkt.wf
  | .attendBwd src pkt => src.wf && pkt.wf
  | .mergeCmd src pkt => src.wf && pkt.wf
  | .digestBuild src pkt => src.wf && pkt.wf
  | .scorerLoad src pkt => src.wf && pkt.wf
  | .cancel src pkt => src.wf && pkt.wf
  | .matchInsert src pkt => src.wf && pkt.wf
  | .matchDelete src pkt => src.wf && pkt.wf
  | .matchSearch src pkt => src.wf && pkt.wf
  | .matchStep src pkt => src.wf && pkt.wf
  | .matchConfig src pkt => src.wf && pkt.wf
  | .bankOp src pkt => src.wf && pkt.wf
  | .bankOpstat src pkt => src.wf && pkt.wf
  | .connCreate src pkt => src.wf && pkt.wf
  | .connModify src pkt => src.wf && pkt.wf
  | .connDestroy src pkt => src.wf && pkt.wf
  | .regionRegister src pkt => src.wf && pkt.wf
  | .regionRevoke src pkt => src.wf && pkt.wf
  | .saInstall src pkt => src.wf && pkt.wf
  | .srqPost src pkt => src.wf && pkt.wf
  | .leaseAcquire src pkt => src.wf && pkt.wf
  | .leaseRenew src pkt => src.wf && pkt.wf
  | .leaseHandoff src pkt => src.wf && pkt.wf
  | .leaseHandoffAtHome src pkt => src.wf && pkt.wf
  | .leasePrompt src pkt => src.wf && pkt.wf
  | .leaseRelease src pkt => src.wf && pkt.wf
  | .placeSet src pkt => src.wf && pkt.wf
  | .attestGet src pkt => src.wf && pkt.wf
  | .jobKeyInstall src pkt => src.wf && pkt.wf
  | .keyRotate src pkt => src.wf && pkt.wf
  | .zeroise src pkt => src.wf && pkt.wf
  | .powerState src pkt => src.wf && pkt.wf
  | .budgetSet src pkt => src.wf && pkt.wf
  | .resetLevel src pkt => src.wf && pkt.wf
  | .dumpCollect src pkt => src.wf && pkt.wf
  | .dumpRead src pkt => src.wf && pkt.wf
  | .frostArm src pkt => src.wf && pkt.wf
  | .fwStage src pkt => src.wf && pkt.wf
  | .fwActivate src pkt => src.wf && pkt.wf
  | .subRequest src pkt => src.wf && pkt.wf
  | .mirrorRead src pkt => src.wf && pkt.wf
  | .reconstruction src pkt => src.wf && pkt.wf
  | .lendNeighbourAttend src pkt => src.wf && pkt.wf
  | .writeThrough src pkt => src.wf && pkt.wf
  | .lentPageReceive conn ownerGen page _ => decide (conn < 2 ^ 32) && decide (ownerGen < 2 ^ 64) && page.wf
  | .lendRelease conn ownerGen _ => decide (conn < 2 ^ 32) && decide (ownerGen < 2 ^ 64)
  | .lentLossReport conn _ => decide (conn < 2 ^ 32)
  | .resyncPage conn part job seq span epoch page => decide (conn < 2 ^ 32) && decide (part ≤ 24) && decide (job < 2 ^ 32) && decide (seq < 2 ^ 48) && decide (span < 256) && decide (epoch < 2 ^ 64) && page.wf
  | .parityStream conn part job _ _ _ page _ => decide (conn < 2 ^ 32) && decide (part ≤ 24) && decide (job < 2 ^ 32) && page.wf
  | .memberReply ctx _ status detail _ => decide (ctx < 65536) && decide (status < 65536) && decide (detail < 65536)
  | .memberWaitExpiry ctx _ => decide (ctx < 65536)
  | .spanDeadlineExpiry ctx _ => decide (ctx < 65536)
  | .homeRecordExpiry part _ => decide (part ≤ 24)
  | .leaseExpiry part _ => decide (part ≤ 24)
  | .promptRepeat part _ => decide (part ≤ 24)
  | .renewTimer part job seq span => decide (part ≤ 24) && decide (job < 2 ^ 32) && decide (seq < 2 ^ 48) && decide (span < 256)
  | .ownerLeaseEnd part job seq span => decide (part ≤ 24) && decide (job < 2 ^ 32) && decide (seq < 2 ^ 48) && decide (span < 256)
  | .dispatchAdmit cell => decide (cell < 24)
  | .tokenPull cell core => decide (cell < 24) && decide (core < 16)
  | .pageFetch cell => decide (cell < 24)
  | .pageFetchDone cell core _ inc => decide (cell < 24) && decide (core < 16) && decide (inc < 65536)
  | .vTileConsumed cell core => decide (cell < 24) && decide (core < 16)
  | .tokenFinish cell core inc => decide (cell < 24) && decide (core < 16) && decide (inc < 65536)
  | .cellPartialReceive cell => decide (cell < 24)
  | .deadlineExpiry ctx => decide (ctx < 65536)
  | .selectionDone cell core inc => decide (cell < 24) && decide (core < 16) && decide (inc < 65536)
  | .gsetQueueResume part gset => decide (part ≤ 24) && decide (gset < 256)
  | .gradMessageDone ctx _ => decide (ctx < 65536)
  | .editQueueResume part job seq => decide (part ≤ 24) && decide (job < 2 ^ 32) && decide (seq < 2 ^ 48)
  | .epochAdvance part => decide (part ≤ 24)
  | .clockSweep part => decide (part ≤ 24)
  | .eviction part => decide (part ≤ 24)
  | .poolStatUpdate part => decide (part ≤ 24)
  | .scrubGranule cell _ => decide (cell < 24)
  | .scrubRewrite cell => decide (cell < 24)
  | .stackTempReport cell _ => decide (cell < 24)
  | .dieTempReport _ _ => true
  | .throttleClear _ => true
  | .avsPoll _ _ rails => rails.all (fun r => decide (r.cell < 24))
  | .avsVoltageReached cell _ => decide (cell < 24)
  | .avsTimeout cell => decide (cell < 24)
  | .envelopeTick _ => true
  | .thermtrip => true
  | .cellOffDrained cell => decide (cell < 24)
  | .drizzleQuiesced => true
  | .drizzleQuiesceExpiry => true
  | .wake => true
  | .drizzleTimerExpiry => true
  | .wakeN _ => true
  | .refLoss _ => true
  | .ctxWdTrip ctx => decide (ctx < 65536)
  | .coreWdTrip cell core => decide (cell < 24) && decide (core < 16)
  | .cellWdTrip cell unit => decide (cell < 24) && decide (unit < 6)
  | .hubWdTrip unit => decide (unit < 8)
  | .heartbeatMiss _ => true
  | .coreSelfCheckDone cell core _ => decide (cell < 24) && decide (core < 16)
  | .coreResetTimeout cell core => decide (cell < 24) && decide (core < 16)
  | .partResetTimeout part => decide (part ≤ 24)
  | .nodeResetTimeout => true
  | .controlRestartTimeout => true
  | .partitionResetDone part => decide (part ≤ 24)
  | .nodeResetDone _ => true
  | .dumpHoldExpiry => true
  | .dumpUnitWaitExpiry unit => decide (unit < 65536)
  | .dumpTruncated => true
  | .fwReportRunning => true
  | .fwActivateTimeout => true
  | .pwrGood _ _ _ _ => true
  | .resetN => true
  | .perstN _ => true
  | .powerLoss => true
  | .tamperN => true
  | .entropyTestFail _ => true
  | .frostNFall => true
  | .frostNRise => true
  | .frostTrigger => true
  | .spdmRequest _ _ _ => true
  | .pldmRequest _ => true
  | .batchClose part _ => decide (part ≤ 24)
  | .sweepStart cell => decide (cell < 24)
  | .sweepDone cell => decide (cell < 24)
  | .patrolCompare cell => decide (cell < 24)
  | .cursorTimeout part _ => decide (part ≤ 24)
  | .bankElementDone cell bank => decide (cell < 24) && decide (bank < 2048)
  | .elementWaitExpiry cell bank => decide (cell < 24) && decide (bank < 2048)
  | .opRecordExpiry part _ => decide (part ≤ 24)
  | .stdPacketReceive p => p.wf
  | .sprayPacketReceive p => p.wf
  | .sprayAckReceive qpn spi _ a => decide (qpn < 2 ^ 24) && decide (spi < 2 ^ 32) && a.wf
  | .ackDelayExpiry conn => decide (conn < 65536)
  | .ackTimeout conn psn => decide (conn < 65536) && decide (psn < 2 ^ 24)
  | .capabilityDatagram port _ _ => decide (port < 24)
  | .capRetry conn => decide (conn < 65536)
  | .cnpReceive h => h.wf
  | .ccTimer conn => decide (conn < 65536)
  | .rnrNakReceive h psn => h.wf && decide (psn < 2 ^ 24)
  | .arpNdReceive port _ _ _ _ _ => decide (port < 24)
  | .autoneg port _ _ _ => decide (port < 24)
  | .linkTrainingDone port => decide (port < 24)
  | .linkLockTimeout port => decide (port < 24)
  | .capabilityBlock port _ => decide (port < 24)
  | .weftTrainingDone port _ tag => decide (port < 24) && decide (tag < 2 ^ 32)
  | .linkLoss port => decide (port < 24)
  | .lpiEntry port => decide (port < 24)
  | .parkReq port => decide (port < 24)
  | .parkAck port => decide (port < 24)
  | .unpark port _ => decide (port < 24)
  | .fastRetrainTimeout port => decide (port < 24)
  | .sqDoorbell fn qp tail => decide (fn ≤ 24) && decide (tail < 2 ^ 16) && decide (qp < 8 || fn = 0 && qp < 64)
  | .cqDoorbell fn qp head => decide (fn ≤ 24) && decide (head < 2 ^ 16) && decide (qp < 8 || fn = 0 && qp < 64)
  | .sqEntryFetch fn qp _ _ _ => decide (fn ≤ 24) && decide (qp < 8 || fn = 0 && qp < 64)
  | .completionPost fn qp _ => decide (fn ≤ 24) && decide (qp < 8 || fn = 0 && qp < 64)
  | .coalUsExpiry fn qp => decide (fn ≤ 24) && decide (qp < 8 || fn = 0 && qp < 64)
  | .qpEnable fn qp _ => decide (fn ≤ 24) && decide (qp < 8 || fn = 0 && qp < 64)
  | .qpDisable fn qp _ => decide (fn ≤ 24) && decide (qp < 8 || fn = 0 && qp < 64)
  | .qpQuiesceDone fn qp => decide (fn ≤ 24) && decide (qp < 8 || fn = 0 && qp < 64)
  | .flr fn => decide (fn ≤ 24)
  | .d3hot fn _ => decide (fn ≤ 24)
  | .ringEnable fn ring _ => decide (fn ≤ 24) && ring.wf
  | .ringHeadWrite fn ring head => decide (fn ≤ 24) && ring.wf && decide (head < 2 ^ 16)
  | .rawApertureAccess fn part _ _ _ => decide (fn ≤ 24) && decide (part ≤ 24)
  | .rwsWrite fn _ _ _ => decide (fn ≤ 24)
  | .commit fn _ => decide (fn ≤ 24)
  | .discard fn _ => decide (fn ≤ 24)
  | .selftest fn => decide (fn ≤ 24)
  | .release => true
  | .mtrSel fn job => decide (fn ≤ 24) && decide (job < 2 ^ 32)
  | .nodeIdWrite fn _ => decide (fn ≤ 24)
  | .registerWrite fn _ _ _ _ => decide (fn ≤ 24)
  | .fabricReply conn tag status detail _ => decide (conn < 2 ^ 32) && decide (tag < 2 ^ 32) && decide (status < 65536) && decide (detail < 65536)
  | .handoffTimeout part job seq span => decide (part ≤ 24) && decide (job < 2 ^ 32) && decide (seq < 2 ^ 48) && decide (span < 256)
  | .recallRequest conn tag ownerGen _ => decide (conn < 2 ^ 32) && decide (tag < 2 ^ 32) && decide (ownerGen < 2 ^ 64)
  | .lendReleaseWaitExpiry part => decide (part ≤ 24)
  | .cellOffExitDone cell => decide (cell < 24)
  | .pcieLinkDown => true
  | .returnToD0 fn => decide (fn ≤ 24)
  | .vfEnableClear _ => true
  | .resetNRelease => true
  | .tapAccess _ => true
  | .i3cModeEntry => true
  | .controlRestartDone => true
  | .contextResetTimeout ctx unit => decide (ctx < 65536) && unit.wf
  | .rnrTimerExpiry conn => decide (conn < 65536)
  | .packetSend conn => decide (conn < 65536)
  | .selftestDone _ => true
  | .meteringSecond part => decide (part ≤ 24)
  | .bootDone _ => true
  | .capabilityBlockRepeat port => decide (port < 24)
  | .controlFrameReceive port => decide (port < 24)

end Sys2Proof
end

