-- ==== Sys2Proof/Safety.lean ====
section
/-! DEFINITION. The terms in which statements speak of a run: where a command packet's command begins at once, the canonical
form that every state keeps, and what a step that leaves a part of the state alone means. -/

namespace Sys2Proof.Machine

/-- Where the packet passes every check of R280 and of its module and path, and its command begins at once: the command's
number, its record with what it holds from its acceptance on, and the state in which it begins. Its reply then follows as its
opcode's meaning says. -/
def begins (src : Source) (pkt : Packet) (s : State) : Option (Nat × Cmd × State) :=
  let t := latchWake s
  let c := parseCmd t src pkt
  if reaches src s && 64 ≤ pkt.bytes.length && (firstCheck c pkt.bytes t).isNone then
    match enrol c t with
    | some (id, c, u) =>
      let v := takeHolds id c u
      if mustHold v id c || classWaits v id c then none else (tget? v.cmds id).map (fun d => (id, d, v))
    | none => none
  else none

/-- The state after a meaning has answered: the command completes with the reply, or goes on. -/
def after (id : Nat) : State × Option Reply → State
  | (t, some r) => conclude id r t
  | (t, none) => t

/-- The packet's command begins at once in state `t`, under number `id`, with record `c`, and is of opcode `op`. -/
abbrev Begun (op : Nat) (src : Source) (pkt : Packet) (s : State) (id : Nat) (c : Cmd) (t : State) : Prop :=
  begins src pkt s = some (id, c, t) ∧ c.opcode = op

/-- The state keeps the canonical form of its addressed memory. -/
abbrev Inv (s : State) : Prop := Memory.wf s.raw = true

/-- The commands that may write the addressed memory: an element that runs on a bank, raw accesses, messages placed in a region, what
R57 clears, and the loss of a stack. -/
def writesMemory : Instr → Bool
  | .bankElementDone _ _ | .cellOffDrained _ | .cellOffExitDone _ | .cellWdTrip _ _ | .coreWdTrip _ _ | .ctxWdTrip _ | .frostNRise |
    .hubWdTrip _ | .nodeResetDone _ | .partitionCreate _ _ | .partitionDestroy _ _ | .partitionResetDone _ | .powerLoss |
    .pwrGood _ _ _ _ | .rawApertureAccess _ _ _ _ _ | .sprayPacketReceive _ | .sqEntryFetch _ _ _ _ _ | .stdPacketReceive _ |
    .tamperN | .vTileConsumed _ _ | .zeroise _ _ => true
  | _ => false

/-- Everything but the queue of commands, the outputs and the free values is as it was. -/
def sameMachine (s t : State) : Prop :=
  t.node = s.node ∧ t.sec = s.sec ∧ t.pwr = s.pwr ∧ t.ports = s.ports ∧ t.neigh = s.neigh ∧ t.dbg = s.dbg ∧ t.fns = s.fns ∧
    t.parts = s.parts ∧ t.cells = s.cells ∧ t.ctxs = s.ctxs ∧ t.cmds = s.cmds ∧ t.conns = s.conns ∧ t.reuse = s.reuse ∧
    t.raw = s.raw ∧ t.pmem = s.pmem

end Sys2Proof.Machine
end

