-- ==== Sys2Proof/Certificates/Slice0/Obligations.lean ====
section
/-! DEFINITION. The statements about the model. A clause of the form `exec (.x …) s = .next t` says that the row x completes in every
state that meets the clause's hypotheses, and what it leaves. `Begun op src pkt s id c t` says that the packet's command begins at once
under number `id`, with record `c`, in state `t`. -/

open Sys2Proof Sys2Proof.Machine

/-! ### The queue, reset and the whole machine -/

/-- A step runs the command at the front of the queue on the state with the queue's rest. -/
def Obligations.StepRunsFront : Prop :=
  ∀ (c : Instr) (rest : List Instr) (s : State), s.pending = c :: rest → step s = exec c { s with pending := rest }

/-- On an empty queue a microsecond passes (the model's choice, log 1): an unpowered node stays as it is; in Frost the always-on
domain alone counts (R462); otherwise the tick's effects follow. -/
def Obligations.IdleStepIsTick : Prop :=
  ∀ s : State, s.pending = [] → step s = .next (tick s) ∧ (s.node.phase = .off → tick s = s) ∧
    (s.node.phase ≠ .off → s.dbg.frozen = true → tick s = modNode (fun n => { n with time := (n.time + 1) % 2 ^ 64 }) s)

/-- The node before PWR_GOOD: unpowered, its queue and tables empty, HUB_TIME 0, no dump, not frozen, no partition, every port
down, its memory in canonical form. -/
def Obligations.ResetState : Prop :=
  State.reset.pending = [] ∧ State.reset.node.phase = .off ∧ State.reset.node.time = 0 ∧ State.reset.dbg.frozen = false ∧
    State.reset.dbg.dumps = [] ∧ State.reset.cmds = [] ∧ State.reset.conns = [] ∧ State.reset.raw = [] ∧
    (∀ p, (part State.reset p).exists_ = false) ∧ (∀ g, (portOf State.reset g).st = 1) ∧
    (∀ f q, (qpOf State.reset f q).state = 0 ∧ (qpOf State.reset f q).sqTail = 0 ∧ (qpOf State.reset f q).cqHead = 0)

/-- The canonical form of the addressed memory holds at reset. -/
def Obligations.InvAtReset : Prop := Inv State.reset

/-- Every step keeps the canonical form of the addressed memory. -/
def Obligations.StepKeepsInv : Prop := ∀ s t : State, Inv s → step s = .next t → Inv t

/-- No command's effect touches the queue of waiting commands. -/
def Obligations.ExecLeavesQueue : Prop := ∀ (c : Instr) (s t : State), exec c s = .next t → t.pending = s.pending

/-- Every command but those of `writesMemory` leaves every byte of the addressed memory as it was. -/
def Obligations.MemoryFrame : Prop :=
  ∀ (c : Instr) (s t : State) (a : Nat), writesMemory c = false → exec c s = .next t → rawGet t.raw a = rawGet s.raw a

/-- The fields of a page handle (R60) and of a block handle (R61): each lies in its bits, bit 0 is VALID, and each reads back; the
handle 0 is a hole. -/
def Obligations.Handles : Prop :=
  ∀ cell slot cls blk : Nat, cell < 32 → slot < 2 ^ 24 → cls < 4 → blk < 2 ^ 26 →
    let h := mkHandle cell slot cls
    let g := mkBlock cell blk
    h < 2 ^ 32 ∧ h / 2 ^ 27 = cell ∧ h / 8 % 2 ^ 24 = slot ∧ h / 2 % 4 = cls ∧ h % 2 = 1 ∧ hCell h = cell ∧ hSlot h = slot ∧
    hCls h = cls ∧ isStub h = decide (cls = 3) ∧
    g < 2 ^ 32 ∧ g / 2 ^ 27 = cell ∧ g / 2 % 2 ^ 26 = blk ∧ g % 2 = 1 ∧
    isPage 0 = false ∧ isStub 0 = false

/-- No command ends a run: every command answers a next state in every state. -/
def Obligations.NoCommandStops : Prop := ∀ (c : Instr) (s : State), ∃ t, exec c s = .next t

/-! ### Command packets -/

/-- A packet of fewer than 64 bytes is discarded without a reply and counted on its connection or ring (R280, order 1). -/
def Obligations.ShortPacketsAreDropped : Prop :=
  ∀ (f q : Nat) (pkt : Packet) (s : State), reaches (.qp f q) s = true → s.node.phase = .active → pkt.bytes.length < 64 →
    exec (.nop (.qp f q) pkt) s = .next (modQp f q (fun v => { v with malformed := v.malformed + 1 }) s)

/-- The first failing check of R280 decides the reply, in its order, and nothing else changes: the reply is handed over, and the
state is otherwise as it was. -/
def Obligations.FirstFailedCheckReplies : Prop :=
  ∀ (pcie : Bool) (pkt : Packet) (s : State), nodeLive s = true → s.node.phase = .active → s.sec.mstate = 1 → s.node.restart = none →
    64 ≤ pkt.bytes.length →
    let c := parseCmd s (.mctp pcie) pkt
    let b := pkt.bytes
    let fails (st detail : Nat) : Prop :=
      submit (.mctp pcie) pkt runOp s = emit (.reply (.mctp pcie) (replyBytes c.tag (part s 0).inc s.node.nodeInc (err st detail)) []) s
    (b.length ≠ 64 + u32 b 0x0C ∨ 4032 < u32 b 0x0C → fails stInvalid 0xFFF0) ∧
      (b.length = 64 + u32 b 0x0C → u32 b 0x0C ≤ 4032 →
        (u8 b 3 ≠ 1 → fails stUnsupported 1) ∧
        (u8 b 3 = 1 → c.opcode ∉ opcodes → fails stUnsupported 2) ∧
        (u8 b 3 = 1 → c.opcode ∈ opcodes → mctpAllowed c.opcode = false → fails stUnsupported 3) ∧
        (u8 b 3 = 1 → c.opcode ∈ opcodes → mctpAllowed c.opcode = true → bitsOf (u8 b 2) 2 5 ≠ 0 → fails stInvalid 0xFFF1) ∧
        (u8 b 3 = 1 → c.opcode ∈ opcodes → mctpAllowed c.opcode = true → bitsOf (u8 b 2) 2 5 = 0 → u16 b 0x0A / 4 = 0 →
          c.fabric = false → u16 b 8 ≠ 0 → fails stNotFound 0))

/-- A completed command leaves the table of commands, and its one status reply carries its TAG, the status and RETURN. -/
def Obligations.CompletionReplies : Prop :=
  ∀ (pcie : Bool) (id : Nat) (c : Cmd) (r : Reply) (s : State), tget? s.cmds id = some c → c.src = .mctp pcie →
    (complete id r s).out = .reply (.mctp pcie) (replyBytes c.tag (part s c.part).inc s.node.nodeInc r) r.payload :: s.out ∧
      tget? (complete id r s).cmds id = none ∧ (∀ j, j ≠ id → tget? (complete id r s).cmds j = tget? s.cmds j)

/-- The 32 bytes of a status reply and the places of their fields (R281's table). -/
def Obligations.ReplyLayout : Prop :=
  ∀ (tag pi ni : Nat) (r : Reply), tag < 2 ^ 32 → r.status < 2 ^ 16 → r.detail < 2 ^ 16 → r.payload.length < 2 ^ 32 → pi < 2 ^ 16 →
    ni < 2 ^ 16 →
    let b := replyBytes tag pi ni r
    b.length = 32 ∧ u32 b 0 = tag ∧ u16 b 4 = r.status ∧ u16 b 6 = r.detail ∧ u32 b 8 = r.payload.length ∧ u16 b 0x0C = pi ∧
      u16 b 0x0E = ni ∧ (r.ret.length = 16 → slice b 16 16 = r.ret)

/-! ### Node and configuration commands -/

/-- As sent by a source that may send them: NOP, IDENTIFY, READ_STATE of an object of the issuer's own partition (bytes whose layout the spec
does not give are free, log 3), METER_REPORT and EVENT_SUBSCRIBE reply with OK. -/
def Obligations.NodeCommands : Prop :=
  ∀ (src : Source) (pkt : Packet) (s t : State) (id : Nat) (c : Cmd),
    (Begun 0x0001 src pkt s id c t → blockIs c 0 = true →
      exec (.nop src pkt) s = .next (conclude id (okRet (toLe 8 t.node.time)) t)) ∧
    (Begun 0x0002 src pkt s id c t → blockIs c 0 = true → fitsReply c 256 = true →
      exec (.identify src pkt) s = .next (conclude id (okPay [] (identity t)) t)) ∧
    (∀ (rule : Nat) (o : StateObj), let kind := u16 c.block 0
      let sel := slice c.block 16 16
      let off := u32 c.block 4
      let n := u32 c.block 8
      let b := objImage kind o
      Begun 0x0003 src pkt s id c t → kindRule kind = some rule → (u16 c.block 2 = c.part ∨ u16 c.block 2 = 0xFFFF) →
      (rule = 0 → c.part = 0) → stateObj t c.part kind sel = some o → c.block.length = 32 → zeroIn c.block 12 16 = true → 0 < n →
      (if isMctp c.src = true then n ≤ 4032 else n ≤ 1048576) → allZero (sel.drop (selectorLen kind sel)) = true → off < b.length →
      fitsReply c n = true →
      exec (.readState src pkt) s = .next (conclude id (okPay (toLe 4 b.length ++ zeros 4 ++ toLe 8 o.version)
        (slice b off (min n (b.length - off)))) t)) ∧
    (Begun 0x0008 src pkt s id c t → c.block.length = 64 → zeroIn c.block 2 0x20 = true → u16 c.block 0 = c.part →
      (c.part = 0 ∨ (part t c.part).exists_ = true) →
      let serial := t.node.reportSerial + 1
      let body := meterBody t c.part serial (slice c.block 0x20 32)
      fitsReply c (body.length + 96) = true →
      exec (.meterReport src pkt) s = .next (conclude id (okPay [] (body ++ (signed body t).1))
        (modNode (fun n => { n with reportSerial := serial }) (signed body t).2))) ∧
    (∀ i, Begun 0x0009 src pkt s id c t → blockIs c 16 = true → u8 c.block 8 = 1 → zeroIn c.block 9 12 = true →
      u64 c.block 0 / 65536 = 0 → u64 c.block 0 ≠ 0 → connIdx t (u32 c.block 12) = some i → (connOf t i).part = c.part →
      (connOf t i).kind = 1 →
      exec (.eventSubscribe src pkt) s = .next (conclude id (okRet []) (modPart c.part (fun v => { v with
        subs := v.subs.filter (fun q => q.src != c.src) ++
          [{ src := c.src, part := c.part, mask := u64 c.block 0, conn := some (u32 c.block 12) }] }) t)))

/-- CONFIG_STAGE stages an item of a tenant or of the node and counts STAGE_SERIAL; CONFIG_COMMIT commits the staging set whole. -/
def Obligations.ConfigCommands : Prop :=
  ∀ (src : Source) (pkt : Packet) (s t : State) (id : Nat) (c : Cmd),
    (Begun 0x0004 src pkt s id c t → u8 c.block 2 = 2 → u8 c.block 3 = 0 → u16 c.block 10 = 0 → zeroIn c.block 16 32 = true →
      c.block.length = 32 → u32 c.block 12 = 0 → u32 c.block 4 = 0 → u16 c.block 8 = 0 →
      ∃ u, exec (.configStage src pkt) s = .next (conclude id (okRet (toLe 4 (part u c.part).stageSerial)) u) ∧
        (part u c.part).staged = [] ∧ (part u c.part).calStaged = [] ∧
        (part u c.part).stageSerial = ((part t c.part).stageSerial + 1) % 2 ^ 32 ∧ (part u c.part).items = (part t c.part).items) ∧
    (let item := u16 c.block 0
      let n := u32 c.block 12
      let vals := (List.range (n / 4)).map (fun i => u32 c.block (32 + 4 * i))
      let rest := (part t c.part).staged.filter (fun g => !sameItem item 0 g)
      Begun 0x0004 src pkt s id c t → u8 c.block 2 = 0 → u8 c.block 3 = 0 → u16 c.block 10 = 0 → zeroIn c.block 16 32 = true →
      c.block.length = 32 + n → u32 c.block 4 = 0 → u16 c.block 8 = 0 → item ∈ itemList → item ≠ 0x0011 → targeted item = false →
      n % 4 = 0 → itemRange t c.part item vals = true → (operatorOnlyItem item = true → c.part = 0) →
      rest.length + 1 + (part t c.part).calStaged.length ≤ 64 → sumBy rest (·.size) + n ≤ 16777216 →
      let u := stageItem c.part item 0 vals n t
      exec (.configStage src pkt) s = .next (conclude id (okRet (toLe 4 (part u c.part).stageSerial)) u)) ∧
    (Begun 0x0005 src pkt s id c t → blockIs c 0 = true → (c.epoch = 0 ∨ c.epoch = (part t c.part).stageSerial) →
      commitFail t c.part (part t c.part).staged (part t c.part).calStaged = none →
      let u := commitItems c.part (part t c.part).staged (part t c.part).calStaged t
      exec (.configCommit src pkt) s =
        .next (conclude id (okRet (toLe 4 (part u c.part).configGen ++ toLe 4 (part u c.part).stageSerial)) u))

/-- A write of an RWS field stages its item, one of reserved bits alone changes nothing; COMMIT and
DISCARD act on the items of their block, COMMIT behind the commits of the partition that wait (R290, R292, R293). -/
def Obligations.ConfigRegisters : Prop :=
  ∀ (fn off : Nat) (s : State), windowLive s fn = true → s.node.phase = .active →
    (∀ (half : Half) (val : BitVec 64) (glob : Bool) (o item : Nat) (fs : List (Nat × Nat × Nat × Nat)),
      regPlace fn off = some (glob, o) → rwsFields glob o = some (item, fs) →
      exec (.rwsWrite fn off half val) s = .next (if fieldHit fs half then
        stageItem fn item 0 (writeFields (seenVals s fn item) fs half val) (4 * (seenVals s fn item).length) s else s)) ∧
    (∀ (k : Nat) (items : List Nat), commitBlock fn off = some (k, items) →
      let gs := (part s fn).staged.filter (fun g => g.item ∈ items)
      let clear := (part s fn).commitQ = [] ∧ commitHeld s fn s.node.nextCmd = false
      (clear → commitFail s fn gs [] = none → exec (.commit fn off) s = .next (commitItems fn gs [] s)) ∧
      (¬clear → (∀ w ∈ (part s fn).commitQ, w.1 ≠ off) →
        exec (.commit fn off) s = .next (modPart fn (fun v => { v with commitQ := v.commitQ ++ [(off, s.node.nextCmd)] }) s)) ∧
      (clear → ∀ i o, commitFail s fn gs [] = some (i, o) →
        exec (.commit fn off) s = .next (modPart fn (fun v => { v with commits := tset v.commits k { err := true, errItem := i } }) s)) ∧
      exec (.discard fn off) s = .next (modPart fn (fun v => { v with staged := v.staged.filter (fun g => g.item ∉ items) }) s))

/-! ### Partitions and sequences -/

/-- PARTITION_CREATE sets the partition up in reset with its cells and layout and replies when it is ready; PARTITION_DESTROY fences
it, ends it once no confirmation of a release is awaited, and replies then, at a tick or 10 ms later; a partition reset that is done, its
releases answered or 10 ms old, leaves the partition out of reset and posts RECOVERY; one that lasts 800 ms climbs to level 4. -/
def Obligations.PartitionCommands : Prop :=
  ∀ (src : Source) (pkt : Packet) (s t : State) (id : Nat) (c : Cmd) (p : Nat),
    (∀ mask, Begun 0x0006 src pkt s id c t → blockIs c 20 = true → zeroIn c.block 2 4 = true → u16 c.block 0 = p → 1 ≤ p → p ≤ 24 →
      u32 c.block 4 = mask → mask ≠ 0 → mask < 2 ^ 24 → layoutOk (layoutArg c.block) = true →
      (∀ k ∈ bitList mask 24, bitOf t.node.cellsPresent k = true ∧ cellOwner t k = 0) → (part t p).exists_ = false →
      ∃ u, exec (.partitionCreate src pkt) s = .next (createReady p u) ∧ (part u p).exists_ = true ∧ (part u p).inReset = true ∧
        (part u p).mask = mask ∧ (part u p).layout = layoutArg c.block ∧ (part u p).resetCmd = some id ∧ (part u p).seqs = []) ∧
    (Begun 0x0007 src pkt s id c t → blockIs c 2 = true → u16 c.block 0 = p → 1 ≤ p → p ≤ 24 → (part t p).exists_ = true →
      (part t p).destroying = false →
      ∃ u, exec (.partitionDestroy src pkt) s = .next (destroyGo p (fencePart p none u)) ∧ (part u p).destroying = true ∧
        (part u p).resetCmd = some id ∧ (part u p).inReset = true) ∧
    ((part s p).destroying = true → (part s p).resetCmd = some id → releasesOut s p = [] →
      ∃ v, destroyGo p s = conclude id (okRet []) v ∧ (part v p).exists_ = false) ∧
    ((part s p).destroying = true → (part s p).resetCmd = some id → (part s p).inReset = true → nodeLive s = true →
      (part s p).resetAt + 10000 ≤ s.node.time →
      ∃ v, exec (.lendReleaseWaitExpiry p) s = .next (conclude id (okRet []) v) ∧ (part v p).exists_ = false) ∧
    ((part s p).exists_ = true → (part s p).inReset = true → (part s p).creating = false → (part s p).destroying = false →
      s.node.phase = .active → s.dbg.frozen = false → (part s p).resetCmd = none → (3, p) ∉ s.dbg.halted →
      (releasesOut s p = [] ∨ (part s p).resetAt + 10000 ≤ s.node.time) →
      let u := modPart p (fun v => { resetPartn v with inReset := false, resetCmd := none })
        (eraseP p (modFn p (fun f => { f with evt := {} }) (destroyConns p (closeDump false s))))
      exec (.partitionResetDone p) s = .next (postRecovery 3 0 (part s p).resetCause p (part u p).inc p u) ∧
        (part u p).inReset = false ∧ (part u p).resetCmd = none) ∧
    ((part s p).exists_ = true → (part s p).inReset = true → (part s p).creating = false → (part s p).destroying = false →
      s.node.phase = .active → s.dbg.frozen = false → (3, p) ∉ s.dbg.halted → (part s p).resetAt + 800000 ≤ s.node.time →
      exec (.partResetTimeout p) s = .next (climb4 3 p (part s p).inc p (some p) s))

/-- Striped placement (R75): the hash is the CRC-32C of JOB_ID and SEQ_ID; page k lies in cell (k + h) mod n of the partition's
cells in ascending order, whatever its layer and KV head; so do the root, the layer blocks and the map blocks at their offsets; and
over any range of pages the cells' counts differ by at most one, every cell being engaged from 24 pages on. -/
def Obligations.Striping : Prop :=
  (∀ b : List Byte, let q := createArgs b
    q.hash = crc32c (toLe 4 q.job ++ toLe 6 q.seq)) ∧
  (∀ (s : State) (p : Nat) (q : Seq), let cells := partCells s p
    let n := cells.length
    0 < n → (∀ k ∈ cells, cellUp s k = true) → q.placement = 0 →
    cells.Pairwise (· < ·) ∧
      (∀ layer kv page, (pageCells s p q layer kv page).head? = cells[(page + q.hash) % n]?) ∧
      (blockCells s p q 0).head? = cells[q.hash % n]? ∧
      (∀ l, l < 1023 → (blockCells s p q (1 + l)).head? = cells[(q.hash + l) % n]?) ∧
      (∀ l j k, j < 64 → k < 64 → (blockCells s p q (1024 + 64 * (64 * l + j) + k)).head? = cells[(q.hash + l + j + k) % n]?) ∧
      (∀ layer kv lo m, let count (c : Nat) := ((List.range m).filter (fun k => decide ((pageCells s p q layer kv (lo + k)).head? = some c))).length
        (∀ c ∈ cells, ∀ d ∈ cells, count c ≤ count d + 1) ∧ (24 ≤ m → ∀ c ∈ cells, 1 ≤ count c)))

/-- SEQ_CREATE: with room for the root block, and the level at the low watermark of its acceptance (R294) or above, the sequence exists with the fields of its parameter block and generation 1, and
RETURN holds its placement hash; a home makes the members that the placed spans name. -/
def Obligations.SequenceCreation : Prop :=
  ∀ (src : Source) (pkt : Packet) (s t : State) (id : Nat) (c : Cmd) (b : Blk) (u : State),
    let q := createArgs c.block
    let p := c.part
    Begun 0x0101 src pkt s id c t → c.fabric = false → blockIs c 0x14 = true → createOk t p q = true →
      (q.scaling = 2 → thas (part t p).cal q.job = true) → thas (part t p).seqs (seqKey q.job q.seq) = false →
      (poolCells t p).isEmpty = false →
      ((part t p).seqs.filter (fun e => e.2.hash % (partCells t p).length == q.hash % (partCells t p).length)).length < 131072 →
      c.pool.lowWm ≤ poolLevel t p → allocBlock p (blockCells t p q 0) 1 t = some (b, u) →
      let v := setSeq p (seqKey q.job q.seq) { q with blocks := [(0, b)], member := false } u
      exec (.seqCreate src pkt) s = .next (conclude id (okRet (toLe 4 (seqHash q.job q.seq) ++ toLe 4 1))
        (if isHome v p q.job q.seq then (spanRecs v p q.job q.seq).foldl (fun s e => createMembers p q e.2 (fun _ => true) s) v else v)) ∧
        seqOf v p (seqKey q.job q.seq) = some { q with blocks := [(0, b)], member := false } ∧ q.gen = 1 ∧ q.job = u32 c.block 0

/-- SEQ_DESTROY of a sequence with no edit before it runs the destruction; POOL_SET puts its settings into effect; a decode table
is loaded into the slot that R123 names; PAGE_PIN of a range that holds a page counts one pin, and with its T1 bit asks for room in T1. -/
def Obligations.SequenceCommands : Prop :=
  ∀ (src : Source) (pkt : Packet) (s t : State) (id : Nat) (c : Cmd),
    (∀ q, Begun 0x0102 src pkt s id c t → seqOf t c.part (blockSeq c.block) = some q → blockIs c 10 = true →
      codedHere t c.part q.job q.seq = false → mustQueue q c = false →
      exec (.seqDestroy src pkt) s = .next (conclude id (okRet []) (destroySeq c.part (blockSeq c.block) t))) ∧
    (Begun 0x010A src pkt s id c t → c.block.length = 0x50 → u16 c.block 6 = 0 → 2 ≤ u16 c.block 0 → u16 c.block 0 ≤ 500 →
      1 ≤ u16 c.block 2 → u16 c.block 2 < u16 c.block 0 → u16 c.block 4 < u16 c.block 2 → 10 ≤ u32 c.block 8 → u32 c.block 8 ≤ 60000 →
      u8 c.block 0xC ≠ 0 → u8 c.block 0xE ≤ 1 → u8 c.block 0xF = 0 → zeroIn c.block 0x10 0x50 = true →
      exec (.poolSet src pkt) s = .next (conclude id (okRet []) (modPart c.part (fun q => { q with pool :=
        { highWm := u16 c.block 0, lowWm := u16 c.block 2, hardFloor := u16 c.block 4, sweepMs := u32 c.block 8
          minEvictAge := u8 c.block 0xC, t1Promote := u8 c.block 0xD, lendAccept := u8 c.block 0xE == 1, lendJobs := [] } }) t))) ∧
    (∀ i, Begun 0x010B src pkt s id c t → tableOk c.block = true → loadSlot t c.part = some i →
      ∃ u r, exec (.formatTableLoad src pkt) s = .next (conclude id (okRet ([BitVec.ofNat 8 i, 0] ++ toLe 2 r)) u) ∧
        (tget {} (part u c.part).tables i).bytes = c.block ∧ (tget {} (part u c.part).tables i).loaded = true ∧
        r = ((tget {} (part t c.part).tables i).loadCount + 1) % 65536 ∧ (tget {} (part u c.part).tables i).loadCount = r) ∧
    (∀ q, Begun 0x0104 src pkt s id c t → seqOf t c.part (rangeArg c.block).key = some q → c.block.length = 0x21 →
      rangeOk q c.block false = true → u8 c.block 0x20 < 4 → bitOf (u8 c.block 0x20) 0 = false → q.pinCount < 0xFFFF →
      let t1 := bitOf (u8 c.block 0x20) 1
      (∀ k ∈ rangePos (rangeArg c.block), isPage (handleAt q k) = true → ∀ g, pageOf t (handleAt q k) = some g →
        g.pins ≠ 0xFFFF ∧ (t1 = true → g.t1Holds ≠ 0xFFFF)) →
      let pos := (rangePos (rangeArg c.block)).filter (fun k => isPage (handleAt q k))
      pos ≠ [] → (t1 = true → ∀ k ∈ partCells t c.part, t1Pinned t k (pos.map (handleAt q)) ≤ 4 * 2 ^ 20) →
      exec (.pagePin src pkt) s = .next (conclude id (okRet (toLe 4 pos.length ++ toLe 2 (q.pinCount + 1)))
        (modSeq c.part (rangeArg c.block).key (fun q => { q with pinCount := (seqOf t c.part (rangeArg c.block).key).elim 0 (·.pinCount) + 1
                                                                 pins := q.pins ++ [{ t1 := t1, pos := pos }] })
          ((pos.map (handleAt q)).foldl (fun s h => pinPage h t1 s) t))))

/-! ### Edits, appends, attention -/

/-- An edit that R71 lets begin: PAGE_SHARE gives the target the source's handles and lengths and counts a reference on each page;
PAGE_MIGRATE moves the pages that do not stay, swaps their handles and drops the old slots, or moves nothing where every page stays;
PAGE_LEND and PAGE_RECALL start their page-by-page work with the sequence's edit open; SEQ_MAP_EDIT goes to the owners of the spans that
it meets, or truncates where no other node holds a span beyond the cut, refills a page, or asks the mirror of the page's span for its
copy; the oldest waiting edit begins when its turn has come. The forms of the messages between nodes are the model's (log 90, log 111). -/
def Obligations.EditCommands : Prop :=
  ∀ (src : Source) (pkt : Packet) (s t : State) (id : Nat) (c : Cmd) (q : Seq),
    let a := rangeArg c.block
    let p := c.part
    (∀ tq tq' u, let tk := blockSeq c.block 0x20
      let pos := rangePos a
      let got := pos.filter (fun k => isPage (handleAt q k))
      let wanted : Seq := { tq with
        map := got.foldl (fun m k => tset m k (handleAt q k)) tq.map
        len := (List.range a.count).foldl (fun l i =>
          tset l (a.first + i) (max (seqLen tq (a.first + i)) (min (seqLen q (a.first + i)) (64 * (a.page + a.pages))))) tq.len
        age := if got.isEmpty then tq.age else 0 }
      Begun 0x0105 src pkt s id c t → seqOf t p a.key = some q → seqOf t p tk = some tq → c.block.length = 0x2A →
      rangeOk q c.block false = true → a.first + a.count ≤ tq.layers → a.kvs.all (· < tq.kvHeads) = true → q.format = tq.format →
      q.dim = tq.dim → q.cls = tq.cls → q.scaling = tq.scaling → (∀ k ∈ pos, handleAt tq k = 0 ∧ isStub (handleAt q k) = false) →
      mustQueue tq c = false → genConflict c tq 4 = none → codedIn t p tq.job tq.seq a.page (a.page + a.pages - 1) = false →
      (∀ k ∈ got, ∀ g, pageOf t (handleAt q k) = some g → g.refs ≠ 16777215) → reclFull t p (editItems t tq got []) = false →
      (poolCells t p).isEmpty = false → editSwap p wanted got t = some (tq', u) →
      let v := got.foldl (fun s k => modPage (handleAt q k) (fun g => { g with
        refs := g.refs + 1, age := 0
        r := { g.r with shared := true, gen := if g.r.shared then g.r.gen else (g.r.gen + 1) % 2 ^ 32 } }) s) u
      exec (.pageShare src pkt) s = .next (conclude id (okRet (toLe 4 got.length ++ toLe 4 tq'.gen))
        (reclaim p (modSeq p a.key (fun q => { q with prefixed := true, age := if got.isEmpty then q.age else 0 }) (setSeq p tk tq' v))))) ∧
    (let pos := (rangePos a).filter (fun k => handleAt q k ≠ 0)
      let cell := u8 c.block 0x20
      let todo := pos.filter (fun k => !(hCell (handleAt q k) == cell && (pageOf t (handleAt q k)).elim true (fun g => keepsModes g.r c.block)))
      Begun 0x0106 src pkt s id c t → seqOf t p a.key = some q → cell ∈ partCells t p → migrateOk q c = true →
      mustQueue q c = false → genConflict c q 4 = none → tableCheck t c q.format (u8 c.block 0x23) = none →
      codedIn t p q.job q.seq a.page (a.page + a.pages - 1) = false →
      ((List.range a.count).any (fun l => gradHolds t p q (a.first + l) a.kvs a.page (a.page + a.pages - 1))) = false →
      (∀ k ∈ pos, isStub (handleAt q k) = false ∧ ∀ g, pageOf t (handleAt q k) = some g → g.refs ≤ 1) →
      (todo = [] → exec (.pageMigrate src pkt) s = .next (conclude id (okRet (toLe 4 0 ++ toLe 4 q.gen)) t)) ∧
      (∀ l u v, todo ≠ [] → cellUp t cell = true → reclFull t p (editItems t q todo (todo.map (handleAt q))) = false →
        c.pool.hardFloor ≤ poolLevel t p → movePages c q todo t = some (l, u) → swapHandles p a.key l u = some v →
        let w := todo.foldl (fun s k => dropRef p (handleAt q k) s) v
        exec (.pageMigrate src pkt) s =
          .next (conclude id (okRet (toLe 4 todo.length ++ toLe 4 ((seqOf w p a.key).elim 0 (·.gen)))) (reclaim p w)))) ∧
    (∀ ci, Begun 0x0107 src pkt s id c t → seqOf t p a.key = some q → connIdx t (u32 c.block 0x24) = some ci → (connOf t ci).part = p →
      c.block.length = 0x28 → rangeOk q c.block false = true → (connOf t ci).kind = 2 → (connOf t ci).peerNode = u16 c.block 0x20 →
      (connOf t ci).peerPart = u16 c.block 0x22 →
      (∀ k ∈ rangePos a, isPage (handleAt q k) = true ∧
        ∃ g, pageOf t (handleAt q k) = some g ∧ g.r.tokens = 64 ∧ g.r.shared = false ∧ g.pins = 0) →
      mustQueue q c = false → genConflict c q 4 = none →
      codedIn t p q.job q.seq a.page (a.page + a.pages - 1) = false →
      ((List.range a.count).any (fun l => gradHolds t p q (a.first + l) a.kvs a.page (a.page + a.pages - 1))) = false →
      let u := modPart p (fun v => { v with jobs := v.jobs ++
        [{ cmd := id, kind := 0, seqKey := a.key, conn := u32 c.block 0x24, todo := rangePos a, eps := v.eps }] }) t
      exec (.pageLend src pkt) s = .next (after id (lendNext p id (modSeq p a.key (fun q => { q with editing := true }) u)))) ∧
    (Begun 0x0108 src pkt s id c t → seqOf t p a.key = some q → c.block.length = 32 → rangeOk q c.block false = true →
      mustQueue q c = false → genConflict c q 4 = none →
      codedIn t p q.job q.seq a.page (a.page + a.pages - 1) = false →
      (∀ k ∈ rangePos a, isStub (handleAt q k) = true ∧ ∃ e, lendOf t (handleAt q k) = some e ∧ e.lost = false) →
      ((List.range a.count).any (fun l => gradHolds t p q (a.first + l) a.kvs a.page (a.page + a.pages - 1))) = false →
      (poolCells t p).isEmpty = false →
      let u := modPart p (fun v => { v with jobs := v.jobs ++ [{ cmd := id, kind := 1, seqKey := a.key, todo := rangePos a }] }) t
      exec (.pageRecall src pkt) s = .next (after id (recallNext p id (modSeq p a.key (fun q => { q with editing := true }) u)))) ∧
    (∀ t' u, let key := blockSeq c.block
      let layer := u16 c.block 0xA
      let lo := ceilDiv (u32 c.block 0x10) 64
      let gone := q.map.filter (fun e => posLayer e.1 == layer && decide (lo ≤ posPage e.1))
      Begun 0x0109 src pkt s id c t → t' = meetCmd c (u32 c.block 0) (u48 c.block 4) t → seqOf t' p key = some q → u8 c.block 0xC = 0 →
      mapEditShape q c = true → editOwner t' c id q = none → mapEditOk q c = true → mustQueue q c = false → genConflict c q 0 = none →
      codedIn t' p q.job q.seq lo 65535 = false →
      gradHolds t' p q layer (List.range q.kvHeads) lo 65535 = false → (poolCells t' p).isEmpty = false →
      reclFull t' p (editItems t' q (gone.map (·.1)) (gone.map (·.2))) = false →
      (editRoutes t' q c = .ok [] → truncate p key layer (u32 c.block 0x10) t' = some u →
        exec (.seqMapEdit src pkt) s = .next (conclude id (editRet u p key) u)) ∧
      (∀ x rest, editRoutes t' q c = .ok (x :: rest) → exec (.seqMapEdit src pkt) s =
        .next ((x :: rest).foldl (fun s e => forwardEdit id p c q e.1 e.2 s) (holdEdit p key id t')))) ∧
    (∀ t', let key := blockSeq c.block
      let layer := u16 c.block 0xA
      let kv := u8 c.block 0xD
      let k := u32 c.block 0x14
      let op := u8 c.block 0xC
      Begun 0x0109 src pkt s id c t → t' = meetCmd c (u32 c.block 0) (u48 c.block 4) t → seqOf t' p key = some q → op ≠ 0 →
      mapEditShape q c = true → editOwner t' c id q = none → mapEditOk q c = true → mustQueue q c = false → genConflict c q 0 = none →
      (∀ x rest, editRoutes t' q c = .ok (x :: rest) → exec (.seqMapEdit src pkt) s =
        .next ((x :: rest).foldl (fun s e => forwardEdit id p c q e.1 e.2 s) (holdEdit p key id t'))) ∧
      (editRoutes t' q c = .ok [] → codedIn t' p q.job q.seq k k = false → gradHolds t' p q layer [kv] k k = false →
        (poolCells t' p).isEmpty = false →
        (op = 1 → exec (.seqMapEdit src pkt) s = .next (after id (refill p key q c t'))) ∧
        (∀ i r ci, let h := posKey layer kv k
          op = 2 → (spanRecs t' p q.job q.seq).find? (fun e => spanHas e.2 (posPage h)) = some (i, r) → spanSynced r = true →
          fabricConn t' p r.mirror = some ci →
          let n := newTag t'
          let w : Await := { conn := connId n.2 ci, tag := n.1, kind := 11, job := q.job, seq := q.seq, span := r.span
                             arg := h, cmd := some id, at_ := now n.2 }
          exec (.seqMapEdit src pkt) s = .next (askNode ci 11 [n.1, q.job, q.seq, posLayer h, posKv h, posPage h]
            (modPart p (fun v => { v with awaits := v.awaits ++ [w] }) (holdEdit p key id n.2)))))) ∧
    (∀ job seq n rest d, nodeLive s = true → seqOf s p (seqKey job seq) = some q → q.waiting = n :: rest → tget? s.cmds n = some d →
      q.editing = false →
      (let a := appendArg d.block
       d.opcode = 0x0103 → cutBlocks s p q a.layer (max a.first (seqLen q a.layer)) (a.first + a.n) = false) →
      exec (.editQueueResume p job seq) s = .next (handoffsGo p (begin_ (editHandler d.opcode) n
        (modSeq p (seqKey job seq) (fun q => { q with waiting := rest }) (modCmd n (fun c => { c with rerun := true }) s)))))

/-- APPEND to a sequence that one node holds, or of a part at the owner of its span without a mirror, writes its tokens page by page and
returns what APPEND returns; at an owner with a mirror it sends them on to the mirror and answers later; one to a sequence in spans runs
its parts; a write-through at a mirror, from the owner that the span's record names, appends the same and advances the mirror's stream
(R215, R216, R225). -/
def Obligations.Appends : Prop :=
  ∀ (src : Source) (pkt : Packet) (s t : State) (id : Nat) (c : Cmd) (q : Seq) (u v : State),
    let a := appendArg c.block
    let p := c.part
    let job := u32 c.block 0
    let sq := u48 c.block 4
    let hi := a.first + a.n
    Begun 0x0103 src pkt s id c t → (partCells t p).isEmpty = false → (poolCells t p).isEmpty = false →
    seqOf u p a.key = some q → appendOk q c = true → mustQueue q c = false →
    cutBlocks u p q a.layer (max a.first (seqLen q a.layer)) hi = false → a.first ≤ max (seqLen q a.layer) (spanFloor u c job sq) →
    (c.fabric = false → homeCheck p job sq t = (none, u) →
      (∀ w m, spanRecs u p job sq = [] → appendRun p q c a.first hi u = (.ok (w, m), v) →
        exec (.appendCmd src pkt) s = .next (conclude id (appendRet v p a.key a.layer w m) v)) ∧
      (spanRecs u p job sq ≠ [] → exec (.appendCmd src pkt) s = .next (after id (runParts id c 66 a.first 0 0 u)))) ∧
    (c.fabric = true → u = meetCmd c job sq t →
      (∀ w m k e, extRole c = 0 → memberCheck u c job sq (some id) = none → appendRun p q c a.first hi u = (.ok (w, m), v) →
        (spanRecs v p job sq).find? (fun e => e.2.span == extSpan c) = some (k, e) →
        (bitOf e.flags 0 = false ∨ e.mirror = 0xFFFF →
          exec (.appendCmd src pkt) s = .next (conclude id (appendRet v p a.key a.layer w m) v)) ∧
        (∀ ci, bitOf e.flags 0 = true → e.mirror ≠ 0xFFFF → e.mirror ≠ v.node.nodeId → fabricConn v p e.mirror = some ci →
          exec (.appendCmd src pkt) s = .next (after id (modCtx (c.ctx.getD 0) (fun x => { x with skipped := w, shipped := m })
            (askFabric p ci 0x0103 0 (myHomeEpoch v p q.job q.seq) (extEpoch c) v.node.nodeId e.span 1 0 (partBlock q c a.first hi)
              { kind := 6, job := q.job, seq := q.seq, span := e.span, cmd := some id } v), none)))) ∧
      (∀ n i x e w m, extRole c = 1 → c.src = .conn n → homeBehind u c job sq = none → spanSt u p job sq true = some (i, x) →
        spanRec u p job sq (extSpan c) = some e → e.2.owner = (connOf t (n % 65536)).peerNode → x.stream ≤ extEpoch c →
        appendRun p q c a.first hi u = (.ok (w, m), v) →
        exec (.writeThrough src pkt) s =
          .next (conclude id (appendRet v p a.key a.layer w m) (modSpan p i (fun x => { x with stream := extEpoch c }) v))))

/-- ATTEND and ATTEND_BWD that pass their checks are launched over the sequence's map, ATTEND_BWD on its gradient set, which START makes;
MERGE folds its sets row by row at once; DIGEST_BUILD rebuilds the records of the full pages that lack a digest and builds the group
objects; a scorer bundle that verifies is loaded into its slot; CANCEL ends the command that it names with CANCELLED; a deadline that
passes ends its request with TIMEOUT. -/
def Obligations.AttentionCommands : Prop :=
  ∀ (src : Source) (pkt : Packet) (s t : State) (id : Nat) (c : Cmd) (q : Seq) (i : Nat) (u : State),
    let r := attendReq c.block
    (Begun 0x0201 src pkt s id c t → c.fabric = false → requestCheck c (u32 c.block 0) (u48 c.block 4) t = (none, u) →
      seqOf u c.part (seqKey (u32 c.block 0) (u48 c.block 4)) = some q → c.ctx = some i → attendOk u c.part q r c.block = true →
      (r.distrib = 2 → q.placement = 1 ∧ r.dim ≤ 1 ∧ r.qTokens ≤ 16 ∧ r.sparse = 0) →
      fitsReply c (reqRows r * (16 + reqDim r * (if r.outFormat = 0 then 4 else 2))) = true →
      (r.reply = 1 → dataConn u c.part r.replyConn = none) → ownSpanCheck u c.part (u32 c.block 0) (u48 c.block 4) = none →
      exec (.attend src pkt) s = .next (launch i c r q u)) ∧
    (∀ b, b = bwdReq c.block → Begun 0x0202 src pkt s id c t → c.fabric = false → requestCheck c (u32 c.block 0) (u48 c.block 4) t = (none, u) →
      seqOf u c.part (seqKey (u32 c.block 0) (u48 c.block 4)) = some q → c.ctx = some i → bwdOk q b c.block = true → b.sparse = 0 →
      b.distrib ≠ 2 → fitsReply c (reqRows b * (16 + reqDim b * (if b.outFormat = 0 then 4 else 2))) = true →
      (bitOf (u8 c.block 0x3C) 1 = true → dataConn u c.part b.gradConn = none) →
      ownSpanCheck u c.part (u32 c.block 0) (u48 c.block 4) = none →
      let range := setRange u c b (seqLen q b.layer)
      (bitOf (u8 c.block 0x3C) 0 = false → thas (part u c.part).gsets b.gset = true →
        setConflict (tget {} (part u c.part).gsets b.gset) b (seqLen q b.layer) range.1 range.2 = false →
        exec (.attendBwd src pkt) s = .next (beginBwd id i c b q u)) ∧
      (let pos := (reqKvs b).flatMap (fun kv => (List.range (range.2 - range.1)).map (fun k =>
          (kv, range.1 + k, handleAt q (posKey b.layer kv (range.1 + k)))))
        ∀ pages v, bitOf (u8 c.block 0x3C) 0 = true → thas (part u c.part).gsets b.gset = false → (part u c.part).gsets.length < 256 →
        (∀ e ∈ pos, isPage e.2.2 = true) →
        placeSet c.part b.gset u.node.nextOp (reqDim b / 2) (rawRows u c.part - heldSetting c 0x30 0 [0] - 16)
          (pos.map (fun e => (e.1, e.2.1, hCell e.2.2))) [] u = some (pages, v) →
        let w := modPart c.part (fun x => { x with gsets := tset x.gsets b.gset {
          job := u32 c.block 0, seq := u48 c.block 4, layer := b.layer, kvSet := b.kvSet
          lo := if range.1 < range.2 then range.1 else 1, hi := if range.1 < range.2 then range.2 - 1 else 0, dim := b.dim
          pages := pages, adds := pages.length, serial := u.node.nextOp } }) v
        exec (.attendBwd src pkt) s = .next (beginBwd id i c b q w))) ∧
    (let b := c.block
      let sets := u8 b 0
      let d := dimOf (u8 b 1)
      let rows := u32 b 4
      let sz := partSize d
      Begun 0x0203 src pkt s id c t → 2 ≤ sets → sets ≤ 64 → u8 b 1 ≤ 2 → zeroIn b 2 4 = true → rows ≠ 0 → u32 b 8 ≤ 10000000 →
      zeroIn b 0xC 0x20 = true → b.length = 0x20 + sets * rows * sz →
      (∀ k < sets * rows, partBad d (slice b (0x20 + k * sz) sz) = false) → fitsReply c (rows * sz) = true →
      let out := (List.range rows).map (fun k => foldParts d ((List.range sets).map (fun j =>
        readPart d (slice b (0x20 + (j * rows + k) * sz) sz))))
      exec (.mergeCmd src pkt) s = .next (conclude id (okPay (toLe 4 rows) (out.flatMap (partBytes 0 0 0))) t)) ∧
    (let a := rangeArg c.block
      let what := u8 c.block 0x20
      let layers := (List.range a.count).map (· + a.first)
      let mine := q.map.filter (fun e => posLayer e.1 ∈ layers && posKv e.1 ∈ a.kvs && isPage e.2)
      let todo := mine.filter (fun e =>
        let r := walkRec t e.2
        r.tokens == 64 && !r.shared && !r.digestValid && cellUp t (hCell e.2))
      let v := if bitOf what 0 then todo.foldl (fun s e => rebuildDigest c.part e.2 s) t else t
      let w := if bitOf what 1 then buildGroups c.part q layers a.kvs v else ((0, 0, false), v)
      Begun 0x0204 src pkt s id c t → seqOf t c.part a.key = some q → blockIs c 0x21 = true → rangeOk q c.block true = true →
      1 ≤ what → what ≤ 3 → c.pool.hardFloor ≤ poolLevel t c.part →
      let short := w.1.2.2 || mine.any (fun e => !cellUp w.2 (hCell e.2))
      let done := if bitOf what 0 then todo.length else 0
      exec (.digestBuild src pkt) s = .next (conclude id
        { status := if short then stPartial else stOk, detail := if short then min 0xFFFF done else 0
          ret := toLe 4 done ++ toLe 4 w.1.1 ++ toLe 4 w.1.2.1 } w.2)) ∧
    (∀ k n pay, let b := c.block.drop 0x20
      let sc := bundleScorer b
      Begun 0x0205 src pkt s id c t → 1 ≤ u8 c.block 0 → u8 c.block 0 ≤ 4 → zeroIn c.block 1 0x20 = true → bundleOk b = true →
      tget? (part t c.part).keys sc.job = some k →
      (ecdsaVerify k.owner (b.take (b.length - 96)) (b.drop (b.length - 96)) = false →
        exec (.scorerLoad src pkt) s = .next (conclude id (err stAuth) t)) ∧
      (ecdsaVerify k.owner (b.take (b.length - 96)) (b.drop (b.length - 96)) = true →
        tget 0 (part t c.part).scorerSerials sc.job ≤ sc.serial →
        (List.range (u16 b 2)).find? (fun j => slice b (0xE0 + 48 * j) 48 == fingerprint) = some n → unwrapScorer n b = some pay →
        payloadOk sc pay = true → (tget {} (part t c.part).scorers (u8 c.block 0) : Scorer).refs = 0 →
        exec (.scorerLoad src pkt) s = .next (conclude id (okRet (toLe 8 sc.serial)) (modPart c.part (fun v => { v with
          scorers := tset v.scorers (u8 c.block 0) { sc with payload := pay }
          scorerSerials := tset v.scorerSerials sc.job sc.serial }) t)))) ∧
    (∀ n d, Begun 0x0206 src pkt s id c t → c.objectId < 2 ^ 32 → blockIs c 0 = true →
      t.cmds.find? (fun e => e.2.src == c.src && e.2.tag == c.objectId && e.2.opcode != 0x0206) = some (n, d) →
      (isDataPath d.opcode = true ∨ d.opcode = 0x0401) → appendWritten t d n = false →
      (d.opcode = 0x0303 → d.held = false → ∀ x, d.ctx = some x → searchSwept t x = false) →
      (d.opcode = 0x0201 → ∀ x, d.ctx = some x → (ctxOf t x).shipping = false) →
      exec (.cancel src pkt) s = .next (conclude id (okRet []) (abortCmd n (err stCancelled) t))) ∧
    (∀ x cm, nodeLive s = true → tget? s.ctxs i = some x → tget? s.cmds x.cmd = some cm → (deadlineField cm).isSome = true →
      x.deadline ≠ 0 → x.deadline ≤ s.node.time → x.finished = false → (x.kind = 0x0201 → x.shipping = false) →
      exec (.deadlineExpiry i) s = .next (abortCmd x.cmd (err stTimeout) s))

/-! ### Sub-requests and node to node messages -/

/-- A sub-request packet with FABRIC set begins the ATTEND of its role at this node: a member's share, a mirror's read, the
reconstruction of a lost span, which asks the members of its code group that it reaches, and a lend neighbour's partial over the
lent pages that the request names. -/
def Obligations.SubRequests : Prop :=
  ∀ (src : Source) (pkt : Packet) (s t : State) (id : Nat) (c : Cmd) (i : Nat) (u : State),
    let w := parseCmd s src pkt
    let r := attendReq c.block
    let rows := reqRows r * (16 + reqDim r * (if r.outFormat = 0 then 4 else 2))
    Begun 0x0201 src pkt s id c t → 80 ≤ pkt.bytes.length → w.fabric = true → w.opcode = 0x0201 → c.fabric = true → c.ctx = some i →
    (∀ q, requestCheck c (u32 c.block 0) (u48 c.block 4) t = (none, u) →
      seqOf u c.part (seqKey (u32 c.block 0) (u48 c.block 4)) = some q → attendOk u c.part q r c.block = true →
      (r.distrib = 2 → q.placement = 1 ∧ r.dim ≤ 1 ∧ r.qTokens ≤ 16 ∧ r.sparse = 0) →
      (r.reply = 1 → dataConn u c.part r.replyConn = none) → leaseCheck u c (u32 c.block 0) (u48 c.block 4) = none →
      fitsReply c rows = true →
      (extRole w = 0 → extRole c = 0 → exec (.subRequest src pkt) s = .next (memberShort i r q (launch i c r q u))) ∧
      (extRole w = 1 → extRole c = 1 → exec (.mirrorRead src pkt) s = .next (memberShort i r q (launch i c r q u)))) ∧
    (∀ lost, u = meetCmd c r.job r.seq t → extRole w = 2 → extRole c = 2 → (partCells u c.part).isEmpty = false →
      homeBehind u c r.job r.seq = none →
      attendOk u c.part { dim := r.dim, format := 1, layers := 504, kvHeads := (reqKvs r).foldl max 0 + 1 } r c.block = true →
      attendRefused r = false → lostRec u c = some lost → lost.parity0 = u.node.nodeId →
      let live := reconSources u c.part lost
      lost.codeK ≤ live.length + 1 →
      let v := live.foldl (fun s e => fetchFrom id i c lost e.1 e.2 s) (modCtx i (fun x => { x with r := r }) u)
      exec (.reconstruction src pkt) s = .next (if live.isEmpty then reconstruct i c lost [] v else v)) ∧
    (∀ n map, u = meetCmd c (u32 c.block 0) (u48 c.block 4) t → c.src = .conn n →
      lentMap u c.part (connOf t (n % 65536)).peerNode (connOf t (n % 65536)).peerPart (u32 c.block 0) (u48 c.block 4) (namedPages r c.block) = some map →
      map ≠ [] →
      let q := pagesSeq u r map
      extRole w = 3 → extRole c = 3 → (partCells u c.part).isEmpty = false → homeBehind u c (u32 c.block 0) (u48 c.block 4) = none →
      attendOk u c.part q r (c.block.take (attendLen r)) = true → attendRefused r = false →
      let r' := subReq c
      exec (.lendNeighbourAttend src pkt) s = .next (startRequest i c r' q (walkMap q r' r'.keyHi) (min r'.keyHi 4194304) [] [] [] 0
        (modCtx i (fun x => { x with named := namedPages r c.block }) u)))

/-- The pages of a lend: a page that arrives where its job may lend and a cell has room is kept and answered with its handle; a
release by its owner frees it; a recall reads it and returns its record, its tiles as the lend key shows them, and its poisoned words; a loss report marks its entries lost; a release not answered
within 10 ms of a partition's reset is waited for no longer and its connection goes. -/
def Obligations.LentPages : Prop :=
  ∀ (conn i : Nat) (s : State), nodeLive s = true → fabricIdx s conn = some i →
    let v := connOf s i
    (∀ (gen : Nat) (page : PageImage) (table : List Byte),
      let r := recOf page.record
      let cls := tileClass page.tiles.length
      (lendAllowed s v.part r.job = false → exec (.lentPageReceive conn gen page table) s = .next (answerFabric conn [stAuth] [] s)) ∧
      (∀ k ∈ partCells s v.part, lendAllowed s v.part r.job = true →
        (∀ j ∈ partCells s v.part, cellUp s j = true ∧
          sumBy (cell s j).lent (fun e => lentSize e.2) + (slotBytes cls + 2048) ≤ lendBytes (part s v.part).layout) →
        ∃ j slot x u, exec (.lentPageReceive conn gen page table) s = .next (answerFabric conn [stOk, mkHandle j slot cls] [] u) ∧
          tget? (cell u j).lent slot = some x ∧ x.ownerNode = v.peerNode ∧ x.ownerPart = v.peerPart ∧ x.ownerGen = gen ∧
          x.job = r.job ∧ x.table = table ∧ x.r.lent = true ∧ u.raw = s.raw)) ∧
    (∀ gen handle x, lentOf s handle = some x → x.ownerNode = v.peerNode → x.ownerPart = v.peerPart → x.ownerGen = gen →
      hCell handle ∈ partCells s v.part →
      exec (.lendRelease conn gen handle) s = .next (answerFabric conn [stOk, handle] [] (freeLent handle s)) ∧
      (∀ tag y, let u := (readLent handle (x.grans.map (·.1)) s).2
        lentOf u handle = some y →
        let tiles := y.grans.flatMap (fun e => lentData u (connOf u i).part handle y e.1)
        exec (.recallRequest conn tag gen handle) s = .next (answerFabric conn [stOk, tag]
          (recBytes { y.r with lent := false } ++ tiles ++ (lentPoison y).flatMap (toLe 4)) u))) ∧
    (∀ handles, exec (.lentLossReport conn handles) s = .next (loseLent v.part v.peerNode
      (fun e => e.node == v.peerNode && e.part == v.peerPart && e.handle ∈ handles) s)) ∧
    (∀ p, (part s p).inReset = true → (part s p).destroying = false → (part s p).resetAt + 10000 ≤ s.node.time →
      exec (.lendReleaseWaitExpiry p) s =
        .next (destroyConns p (modPart p (fun v => { v with awaits := v.awaits.filter (fun w => w.kind != 4) }) s)))

/-- The copies of a span: a resynchronisation page with more tokens than the mirror has lands in the mirror's sequence and advances its
stream; a page of a parity stream is added into its parity page, and the last one completes the stream; an answer ends the wait for it. -/
def Obligations.SpanCopies : Prop :=
  ∀ (conn i : Nat) (s : State), nodeLive s = true →
    (∀ job seq span epoch (page : PageImage) k x q u, fabricIdx s conn = some i →
      let p := (connOf s i).part
      let r := recOf page.record
      let pos := posKey r.layer r.kvHead r.pageIndex
      spanSt s p job seq true = some (k, x) → seqOf s p (seqKey job seq) = some q → x.span = span → x.stream ≤ epoch →
      (handleAt q pos = 0 ∨ ∃ g, pageOf s (handleAt q pos) = some g ∧ g.r.tokens < r.tokens ∧
        swapCheck s p q pos [handleAt q pos] = none) →
      landPage (part s p).pool.hardFloor p (seqKey job seq) pos (handleAt q pos != 0) none page (epochFence p job seq span epoch 0 s) = some u →
      exec (.resyncPage conn p job seq span epoch page) s = .next (modSpan p k (fun x => { x with stream := epoch })
        (modSeq p (seqKey job seq) (fun q => { q with len := tset q.len r.layer (max (seqLen q r.layer) (64 * r.pageIndex + r.tokens)) }) u))) ∧
    (∀ job group codePos pos (page : PageImage), fabricIdx s conn = some i →
      let p := (connOf s i).part
      let u := addParity p job group codePos pos page s
      exec (.parityStream conn p job group codePos pos page false) s = .next u ∧
      exec (.parityStream conn p job group codePos pos page true) s =
        .next (markCoded p group (answerCoded p group
          (modGroup p group (fun r => if codePos ∈ r.codedShort then r else { r with codedStreams := addOnce codePos r.codedStreams }) u))) ∧
      (∀ x, tget? (part s p).parity (parityKey group pos) = some x →
        (∀ e ∈ (part s p).placeRecs, e.2.codeGroup = group → e.2.parity1 ≠ s.node.nodeId) →
        ∃ y, tget? (part u p).parity (parityKey group pos) = some y ∧ y.bytes = xorBytes x.bytes (page.tiles ++ page.record) ∧
          y.handle = x.handle ∧ y.uid = x.uid)) ∧
    (∀ tag status detail ret w, (part s (connOf s (conn % 65536)).part).awaits.find? (fun w => w.conn == conn && w.tag == tag) = some w →
      let p := (connOf s (conn % 65536)).part
      let u := modPart p (fun v => { v with awaits := v.awaits.filter (fun x => !(x.conn == conn && x.tag == tag)) }) s
      let v := if status = stStale && detail = 1 && w.kind ∉ [1, 3, 4, 5] then movedReply p w ret u else u
      exec (.fabricReply conn tag status detail ret) s = .next (answered p w status detail ret v))

/-- The parts of a distributed request: a member's rows are folded in when they come; a member silent for its wait is asked for again
by re-issue; a part still open 50 µs before the deadline fails, a lend neighbour's counts as done without rows, with MEMBER_SUSPECT of a
node that has not answered what was sent to it last; a part of an APPEND that is silent for the wait posts MEMBER_SUSPECT and goes on
waiting (log 114). -/
def Obligations.DistributedParts : Prop :=
  ∀ (i k : Nat) (s : State) (x : Ctx) (q : SubReq), nodeLive s = true → tget? s.ctxs i = some x → tget? x.subs k = some q →
    (x.kind = 0x0103 → q.kind = 1 → q.asked = true → q.sentAt + memberWait s x ≤ s.node.time →
      exec (.memberWaitExpiry i k) s = .next (partSuspect i k x q s)) ∧
    (q.state = 0 → x.kind ≠ 0x0103 → q.kind ≠ 4 →
      (∀ status detail (payload : List Byte), status = stOk ∨ status = stPartial ∨ status = stPoisoned →
        16 + reqRows x.r * partSize (reqDim x.r) ≤ payload.length →
        exec (.memberReply i k status detail payload) s = .next (acceptRows i k status detail payload s)) ∧
      (q.kind ≤ 2 → q.again = false → q.sentAt + min (memberWait s x) ((x.deadline - q.sentAt) / 2) ≤ s.node.time →
        exec (.memberWaitExpiry i k) s = .next (reissue i k (postMember 17 i k s))) ∧
      (x.deadline ≤ s.node.time + 50 →
        let t := if q.asked then postMember 17 i k s else s
        exec (.spanDeadlineExpiry i k) s = .next (if q.kind = 3 then neighbourDone i k none t else spanFailed i k t)))

/-! ### The match index and bank-side operations -/

/-- The commands of the match index: an entry, given whole or as a token sequence to be fingerprinted, is placed at the index that it
names or at a free one, once the shadow records there have been read and where no sweep has the bank, and its index and generation are
returned; a valid entry is deleted; a search joins its batch with its keys; a cursor with good shadow records steps, and is freed at
its end; a configuration of the tenant sets the duty cap. -/
def Obligations.MatchCommands : Prop :=
  ∀ (src : Source) (pkt : Packet) (s t : State) (id : Nat) (c : Cmd),
    let b := c.block
    let p := c.part
    (∀ at_ ci, let w := u8 b 0
      let n := u32 b 0x14
      let vals := if u8 b 1 = 0 then (List.range w).map (fun i => u64 b (0x20 + 8 * i))
        else fpUnits t p (u32 b 0x10) ((List.range n).map (fun i => u32 b (0x20 + 4 * i))) n
      let masks := if u8 b 1 = 0 then (List.range w).map (fun i => u64 b (0x20 + 8 * w + 8 * i)) else [2 ^ 64 - 1, 2 ^ 64 - 1]
      Begun 0x0301 src pkt s id c t → w = 1 ∨ w = 2 ∨ w = 4 → u8 b 2 ≤ 1 → u8 b 3 = 0 → zeroIn b 0x18 0x20 = true →
      (u8 b 1 = 0 ∧ b.length = 0x20 + 16 * w ∧ zeroIn b 0x10 0x18 = true ∧
          (vals.zip masks).all (fun e => Nat.land e.1 (2 ^ 64 - 1 - e.2) == 0) = true ∨
        u8 b 1 = 1 ∧ w = 2 ∧ 1 ≤ n ∧ n ≤ 4194304 ∧ b.length = 0x20 + 4 * n) →
      (u32 b 4 ≠ 0xFFFFFFFF ∧ at_ = u32 b 4 ∧ indexCheck t p at_ w = none ∨
        u32 b 4 = 0xFFFFFFFF ∧ freeEntry t p w (fun k => k < placeBank0 (part t p).match_) = some at_) →
      entryCell t p at_ = some ci → cellUp t ci = true → bankSwept t ci (at_ % 1048576) = false →
      let r := readIndex p at_ t
      (entryValid (cell r ci) (at_ % 1048576) = false ∨ bitOf (u8 b 2) 0 = true) →
      let u := putEntry ci (at_ % 1048576) w vals masks (u64 b 8) r
      exec (.matchInsert src pkt) s =
        .next (conclude id (okRet (toLe 4 at_ ++ toLe 2 (shadowAt (cell u ci) (at_ % 1048576)).gen)) u)) ∧
    (∀ ci, let k := u32 b 0 % 1048576
      Begun 0x0302 src pkt s id c t → entryCell t p (u32 b 0) = some ci → blockIs c 6 = true →
      unitBank k < placeBank0 (part t p).match_ → bankSwept t ci k = false →
      let r := readIndex p (u32 b 0) t
      entryValid (cell r ci) k = true → (u16 b 4 = 0 ∨ u16 b 4 = (shadowAt (cell r ci) k).gen) →
      exec (.matchDelete src pkt) s = .next (conclude id (okRet []) (dropEntry ci k (shadowAt (cell r ci) k).width r))) ∧
    (∀ w keys st, Begun 0x0303 src pkt s id c t → (bitOf (u8 b 3) 0 = true → min (u8 b 0) 32 ≤ (cursorsFree t p).length) →
      (partCells t p).isEmpty = false → searchArgs t p b = some (w, keys, st) → (∀ k ∈ keys, afterPlaced t p k.2 = false) →
      (partCells t p).filter (cellUp t) ≠ [] → fitsReply c (32 * keys.length) = true →
      let cur := if st then (cursorsFree t p).take keys.length else []
      let u := modPart p (fun v => { v with cursors := cur.foldl (fun t i => tset t i { reserved := true }) v.cursors }) t
      let x := c.ctx.getD 0
      exec (.matchSearch src pkt) s = .next (joinBatch p w (keys.zipIdx.map (fun e => { ctx := x, key := e.2, parts := e.1.1, after := e.1.2 }))
        (modCtx x (fun v => { v with
          cmd := id, search := { width := w, step := st, keys := keys.length, cursors := cur }
          deadline := now u + heldSetting c 1 0 [10000] }) u))) ∧
    (∀ v recs sk left, let n := u8 b 2
      Begun 0x0304 src pkt s id c t → blockIs c 3 = true → 1 ≤ n → n ≤ 64 → tget? (part t p).cursors (u16 b 0) = some v →
      v.reserved = false → fitsReply c (24 * n) = true → stepCursor t p 65 n v.held = (recs, sk, left) →
      (∀ h ∈ v.held, ∀ ci, entryCell t p h.index = some ci → ∀ u, ∀ x ∈ (shadowAt (cell t ci) u).cls, x = 0) →
      (left ≠ [] → exec (.matchStep src pkt) s =
        .next (conclude id (okPay (toLe 2 recs.length ++ toLe 2 sk ++ toLe 2 0 ++ zeros 2 ++ toLe 8 0) recs.flatten)
          (modPart p (fun q => { q with cursors := tset q.cursors (u16 b 0) { v with held := left, used := now t } }) t))) ∧
      (left = [] → exec (.matchStep src pkt) s =
        .next (conclude id (okPay (toLe 2 recs.length ++ toLe 2 sk ++ toLe 2 (if v.more then 5 else 1) ++ zeros 2 ++ toLe 8 v.restart) recs.flatten)
          (modPart p (fun q => { q with cursors := tdel q.cursors (u16 b 0) }) t)))) ∧
    (Begun 0x0305 src pkt s id c t → u16 b 0 = 0xFFFF → u16 b 2 = 0xFFFF → u8 b 4 ≤ 50 → u8 b 5 = 0 → u8 b 6 = 0 →
      zeroIn b 7 0x20 = true → b.length = 0x20 →
      exec (.matchConfig src pkt) s = .next (conclude id (okRet []) (modPart p (fun v => { v with
        match_ := { (part t p).match_ with dutyCap := if u8 b 4 = 0 then (part t p).match_.dutyCap else u8 b 4 } })
        ((partCells t p).foldl (fun s k => modCell k (settleDuty s p) s) t))))

/-- The sweeps: the oldest open batch of its width closes when its cells are free; a cell takes its oldest batch within its duty and spends 360 ns of it; a
sweep that is done reports for its cell and lets the writes that waited for it go; the patrol compares the next unit, repairs one that
differs and gives up the entry of an uncorrectable shadow record; a cursor idle for 10 ms is freed. -/
def Obligations.MatchSweeps : Prop :=
  ∀ (p i k : Nat) (s : State), s.dbg.frozen = false →
    (∀ b, tget? (part s p).batches i = some b → b.closed = false →
      (∀ k ∈ (partCells s p).filter (cellUp s), (cell s k).sweeping = none ∧ (cell s k).sweeps = [] ∧ 360 ≤ sweepNs s k b) →
      (∀ e ∈ (part s p).batches, e.1 < i → e.2.closed = true ∨ e.2.width ≠ b.width ∨ e.2.placement ≠ b.placement) →
      exec (.batchClose p i) s = .next (closeBatch p i s)) ∧
    (∀ b, canSweep s k = true → headBatch s k = some (i, b) →
      ∃ u, exec (.sweepStart k) s = .next u ∧ (cell u k).sweeping = some i ∧
        (secondSweep b = false → b.placement = false → (cell u k).tenantDuty = { ns := sweepNs s k b - 360, at_ := now s }) ∧
        (secondSweep b = true → (cell u k).tenantDuty = (cell s k).tenantDuty ∧ (cell u k).placeDuty = (cell s k).placeDuty) ∧
        (cell u k).units = (cell s k).units ∧ (cell u k).shadow = (cell s k).shadow) ∧
    (∀ b, (cell s k).sweeping = some i → (cell s k).sweepAhead = [] →
      let u := modCell k (fun v => { v with sweeping := none, sweeps := v.sweeps.filter (· != i) }) s
      tget? (part u (cellOwner s k)).batches i = some b →
      let rs := b.keys.map (cellReport u k (((partCells u (cellOwner s k)).findIdx? (· == k)).getD 0) b)
      exec (.sweepDone k) s = .next (writesGo k (reportBatch (cellOwner s k) i k (some (rs.map (·.1)))
        (((rs.flatMap (·.2.1)).dedup).foldl (fun s u => repairEntry k u b.width s)
          ((rs.flatMap (·.2.2)).foldl (fun s u => readFixed k u b.width s) u))))) ∧
    (cellUp s k = true → (cell s k).sweeping = none → s.node.phase = .active →
      let pos := ((cell s k).units.map (·.1) ++ (cell s k).shadow.map (·.1)).filter (fun u => decide ((cell s k).patrolPos ≤ u))
      (minBy id pos = none →
        exec (.patrolCompare k) s = .next (modCell k (fun v => { v with patrolPos := 0, patrolLap := true }) s)) ∧
      (∀ u, minBy id pos = some u → (shadowAt (cell s k) u).cls.any (fun x => 3 ≤ x) = false →
        let sh := shadowAt (cell s k) u
        let want : MUnit := if sh.valid then { value := sh.value, mask := sh.mask } else {}
        let t := readFixed k u 1 (modCell k (fun v => { v with patrolPos := u + 1 }) s)
        exec (.patrolCompare k) s = .next (if unitAt (cell s k) u = want then t else repairEntry k u 1 t)) ∧
      (∀ u, minBy id pos = some u → (shadowAt (cell s k) u).cls.any (fun x => 3 ≤ x) = true →
        let w := max 1 (shadowAt (cell s k) u).width
        exec (.patrolCompare k) s = .next (loseEntry k (u / w * w) w
          (readFixed k u 1 (modCell k (fun v => { v with patrolPos := u + 1 }) s))))) ∧
    (∀ v, nodeLive s = true → tget? (part s p).cursors i = some v → v.reserved = false → v.used + 10000 ≤ s.node.time →
      exec (.cursorTimeout p i) s = .next (modPart p (fun q => { q with cursors := tdel q.cursors i }) s))

/-- Bank-side work: a BANK_OP that passes its checks queues its elements on their banks in order, and in mode 1 replies at once with
the operation's number; the element at the head of a bank's queue runs and is counted by its operation, or, of a gradient page's add,
gives back its increment rows with the last of the page; one that has waited 2 µs takes its bank; BANK_OPSTAT reads the
record, which goes when it is asked to or 10 s after its end. -/
def Obligations.BankOperations : Prop :=
  ∀ (src : Source) (pkt : Packet) (s t : State) (id : Nat) (c : Cmd) (p k bank : Nat),
    (let b := c.block
      let n := u16 b 0
      Begun 0x0401 src pkt s id c t → ((part t c.part).ops.filter (fun o => !o.2.finished)).length < 64 →
      (partCells t c.part).isEmpty = false → 1 ≤ n → n ≤ 4096 → u8 b 2 ≤ 1 → zeroIn b 3 8 = true → b.length = 0x60 + 16 * n →
      (u32 b 8 = 0 ∧ u32 b 0xC = 0 ∨ ∃ j < n, (elemAt b j).2.2.op = 0x13) →
      (∀ j < n, elemBad b j = false ∧ (elemAt b j).1 ∈ partCells t c.part ∧ (elemAt b j).2.2.op ≠ 8 ∧
        elemRegion t c (elemAt b j).2.2 = false ∧
        (3 ≤ (elemAt b j).2.2.op → rowRegion (part t c.part).layout (elemAt b j).2.2.rowD = 0)) →
      let u := modNode (fun v => { v with nextOp := v.nextOp + 1 }) t
      let v := modPart c.part (fun v => { v with
          ops := tset v.ops (nextOpId t) { mode := u8 b 2, cmd := some id, ctx := c.ctx.getD 0, total := n } })
        ((List.range n).foldl (fun s j => modCell (elemAt b j).1 (fun v => { v with
          banks := tset v.banks (elemAt b j).2.1 (tget [] v.banks (elemAt b j).2.1 ++
            [{ (elemAt b j).2.2 with opId := nextOpId t, queuedAt := now s }]) }) s) u)
      exec (.bankOp src pkt) s = .next ((((List.range n).map (fun j => (elemAt b j).1)).dedup).foldl (fun s k => meetCell k s)
        (if u8 b 2 = 1 then modPart c.part (fun v => { v with ops := tmod v.ops (nextOpId t) (fun o => { o with cmd := none }) })
          (complete id (okRet (toLe 4 (nextOpId t))) v) else v))) ∧
    (let fl := u8 c.block 4
      let op := u32 c.block 0
      Begun 0x0402 src pkt s id c t → blockIs c 5 = true → fl ≤ 1 →
      (op = 0 → exec (.bankOpstat src pkt) s = .next (conclude id
        (okRet (zeros 10 ++ toLe 2 ((part t c.part).ops.filter (fun o => !o.2.finished)).length)) t)) ∧
      (∀ o, op ≠ 0 → tget? (part t c.part).ops op = some o → o.mode ≠ 0 → o.released = false →
        let busy := sumBy (partCells t c.part) (fun k => ((cell t k).banks.filter (fun b => b.2.any (fun e => e.opId == op))).length)
        let runs := decide (0 < o.done) || (partCells t c.part).any (fun k => cellUp t k && (cell t k).banks.any (fun b =>
          (b.2.head?.map (·.opId)) == some op && bankFree t k b.1))
        exec (.bankOpstat src pkt) s = .next (conclude id (okRet (toLe 1 (if o.finished then 2 else if runs then 1 else 0) ++
            toLe 1 o.flags ++ toLe 2 (if o.finished then o.status else 0) ++ toLe 2 (if o.finished then o.detail else 0) ++
            toLe 2 o.done ++ toLe 2 busy))
          (if fl = 1 then modPart c.part (fun v => { v with
            ops := if o.finished then tdel v.ops op else tmod v.ops op (fun o => { o with released := true }) }) t else t)))) ∧
    (∀ e rest fl u, tget [] (cell s k).banks bank = e :: rest → s.dbg.frozen = false → (cellUp s k = true ∨ (cell s k).pwr.st = 5) →
      bankFree s k bank = true →
      e.add = none → runElement k bank e s = (u, fl) →
      exec (.bankElementDone k bank) s = .next (endOp (cellOwner s k) e.opId
        (modOp (cellOwner s k) e.opId (fun o => { o with done := o.done + 1, flags := Nat.lor o.flags fl })
          (modCell k (fun v => { v with
          banks :=
            if rest.isEmpty then tdel v.banks bank else tset v.banks bank (headAt (now u) rest)
          sweepAhead := stepAhead bank v.sweepAhead }) u)))) ∧
    (∀ e rest q gs serial fl u, tget [] (cell s k).banks bank = e :: rest → s.dbg.frozen = false →
      (cellUp s k = true ∨ (cell s k).pwr.st = 5) →
      bankFree s k bank = true → e.add = some (q, gs, serial) → runElement k bank e s = (u, fl) →
      let v := modCell k (fun v => { v with incDone := v.incDone ++ [(e.opId, bank, e.rowB)] }) (modCell k (fun v => { v with
        banks := if rest.isEmpty then tdel v.banks bank else tset v.banks bank (headAt (now u) rest)
        sweepAhead := stepAhead bank v.sweepAhead }) u)
      let left := (cell v k).banks.any (fun b => b.2.any (fun x => x.add.isSome && x.opId == e.opId))
      (left = true → exec (.bankElementDone k bank) s = .next v) ∧
      (left = false → exec (.bankElementDone k bank) s = .next (modGset q gs
        (fun g => if g.serial = serial then { g with adds := g.adds - 1, done := g.done + 1 } else g)
        (modCell k (fun v => { v with
          incRows := (v.incDone.filter (fun x => x.1 == e.opId)).foldl (fun t x => tset t x.2.1 ((tget [] t x.2.1).erase x.2.2)) v.incRows
          incDone := v.incDone.filter (fun x => x.1 != e.opId) }) v)))) ∧
    (∀ e rest, tget [] (cell s k).banks bank = e :: rest → s.dbg.frozen = false → cellUp s k = true → e.queuedAt + 2 ≤ s.node.time →
      exec (.elementWaitExpiry k bank) s =
        .next (modCell k (fun v => { v with banks := tset v.banks bank ({ e with first := true } :: rest) }) s)) ∧
    (∀ op o, nodeLive s = true → tget? (part s p).ops op = some o → o.finished = true → o.endAt + 10000000 ≤ s.node.time →
      exec (.opRecordExpiry p op) s = .next (modPart p (fun v => { v with ops := tdel v.ops op }) s))

/-! ### Connections -/

/-- Connection commands: a connection in Standard mode is created at once in INIT, its index a free one, and one in Spray mode or whose
mode is to be negotiated asks its partner first; a class is changed, and a state where R355 lets it; a connection is destroyed; an
association is installed in its direction and its KCV returned; a region gets a key whose low 12 bits are its entry; a region under
revocation loses its buffers; buffers are posted to their pool. -/
def Obligations.ConnectionCommands : Prop :=
  ∀ (src : Source) (pkt : Packet) (s t : State) (id : Nat) (c : Cmd),
    let b := c.block
    let p := c.part
    (∀ ci, let mode := u8 b 0
      let fab := bitOf (u8 b 1) 0
      Begun 0x0501 src pkt s id c t → blockIs c 0x30 = true → mode ≤ 2 → u8 b 1 < 4 → u32 b 8 < psnMod →
      (fab = true → mode = 1 ∧ u32 b 4 ≠ 0 ∧ u16 b 2 ≤ 0xFFF ∧ thas (part t p).keys (u32 b 4) = true) →
      (fab = false → u16 b 2 = 0 ∧ u16 b 0xE = 0) →
      u8 b 0xC ≤ 63 → u8 b 0xD ≤ 15 → (t.conns.filter (fun e => e.2.part == p)).length < connQuota t p → t.conns.length < 65536 →
      findFree (thas t.conns) 65536 (t.conns.length + 1) ((draw t).1 % 65536) = some ci →
      ∃ u, exec (.connCreate src pkt) s = .next (if mode = 0 then conclude id (connRet u ci) u else u) ∧ (connOf u ci).state = 0 ∧
        (connOf u ci).mode = (if mode = 0 then 0 else 1) ∧ (connOf u ci).asked = mode ∧
        (connOf u ci).capCmd = (if mode = 0 then none else some id) ∧
        (connOf u ci).part = p ∧ (connOf u ci).kind = (if fab then 2 else if bitOf (u8 b 1) 1 then 1 else 0) ∧
        (connOf u ci).job = u32 b 4 ∧ (connOf u ci).peerQpn = u32 b 8 ∧
        (connOf u ci).peerAddr = slice b 0x10 16 ∧ (connOf u ci).localAddr = slice b 0x20 16 ∧
        (connOf u ci).reuse = (tget 0 t.reuse ci + 1) % 65536) ∧
    (∀ ci, connNamed t c = some ci →
      (Begun 0x0502 src pkt s id c t → blockIs c 0x20 = true → zeroIn b 6 8 = true → zeroIn b 0xC 0x10 = true →
        (u32 b 0 = 2 → u8 b 5 ≤ 3 → let u := modConn ci (fun c => { c with cls := u8 b 5 }) t
          exec (.connModify src pkt) s = .next (conclude id (okRet [BitVec.ofNat 8 (connOf u ci).state]) u)) ∧
        (u32 b 0 = 1 → let x := connOf t ci
          (x.state = 0 → u8 b 4 = 1 → x.mode ≠ 0 ∨ x.startSet = true → x.kind = 2 ∨ x.saOut.isSome = true ∧ x.saIn ≠ [] →
            x.capCmd = none → let u := readyConn ci t
            exec (.connModify src pkt) s = .next (conclude id (okRet [BitVec.ofNat 8 (connOf u ci).state]) u)) ∧
          (x.state = 1 → u8 b 4 = 2 → let u := failConn ci t
            exec (.connModify src pkt) s = .next (conclude id (okRet [BitVec.ofNat 8 (connOf u ci).state]) u)) ∧
          (x.state = 2 → u8 b 4 = 0 → let u := initConn ci t
            exec (.connModify src pkt) s = .next (conclude id (okRet [BitVec.ofNat 8 (connOf u ci).state]) u)))) ∧
      (Begun 0x0503 src pkt s id c t → blockIs c 0 = true → exec (.connDestroy src pkt) s = .next (conclude id (okRet []) (destroyConn ci t))) ∧
      (Begun 0x0506 src pkt s id c t → blockIs c 0x40 = true → zeroIn b 1 4 = true → zeroIn b 0xC 0x20 = true →
        u32 b 4 < 2 ^ 31 → (connOf t ci).kind ≠ 2 →
        (u8 b 0 = 0 → exec (.saInstall src pkt) s = .next (conclude id (okRet (toLe 4 (kcvOf (slice b 0x20 32))))
          (modConn ci (fun c => { c with saOut := some { spi := u32 b 4, kcv := kcvOf (slice b 0x20 32) } }) t))) ∧
        (u8 b 0 = 1 → (connOf t ci).saIn.length < 2 →
          exec (.saInstall src pkt) s = .next (conclude id (okRet (toLe 4 (kcvOf (slice b 0x20 32))))
            (modConn ci (fun c => { c with saIn := c.saIn ++ [{ spi := u32 b 4, kcv := kcvOf (slice b 0x20 32) }] }) t))))) ∧
    (∀ i, let share := rawRows t p * 1024
      let off := u64 b 8
      Begun 0x0504 src pkt s id c t → blockIs c 0x14 = true → u8 b 1 ≤ 1 → zeroIn b 2 8 = true → 0 < u32 b 0x10 → off < 2048 * share →
      off % max 1 share + u32 b 0x10 ≤ share → rawRows t p - heldSetting c 0x30 0 [0] ≤ off % max 1 share / 1024 → u8 b 0 ∈ partCells t p →
      findFree (thas (part t p).regions) 4096 4096 0 = some i →
      ∃ u rkey, exec (.regionRegister src pkt) s = .next (conclude id (okRet (toLe 4 rkey)) u) ∧ rkey % 4096 = i % 4096 ∧
        (∃ r, tget? (part u p).regions i = some r ∧ r.rkey = rkey ∧ r.cell = u8 b 0 ∧ r.off = off ∧ r.len = u32 b 0x10 ∧
          r.writable = decide (u8 b 1 = 1))) ∧
    (∀ i r, Begun 0x0505 src pkt s id c t → regionOf t p c.objectId = some (i, r) → blockIs c 0 = true → r.revoking = false →
      exec (.regionRevoke src pkt) s = .next (after id (revokeCheck p i (modRegion p i (fun r => { r with
          revoking := true, refused := 0, revokeCmd := some id })
        (modPart p (fun v => { v with
          pools := v.pools.map (fun e => (e.1, { e.2 with bufs := e.2.bufs.filter (fun q => q.rkey != r.rkey) })) }) t)), none))) ∧
    (∀ bufs : List Buf, let n := u16 b 2
      let v : Pool := tget {} (part t p).pools (u8 b 0)
      let want := if v.posted = 0 then (bufs.headD {}).len else v.bufLen
      Begun 0x0507 src pkt s id c t →
      bufs = (List.range n).map (fun i => { rkey := u32 b (0x20 + 16 * i), len := u32 b (0x24 + 16 * i), off := u64 b (0x28 + 16 * i) }) →
      1 ≤ n → n ≤ 4096 → b.length = 0x20 + 16 * n → u8 b 1 = 0 → zeroIn b 4 0x20 = true → u8 b 0 ≤ 63 →
      (∀ q ∈ bufs, q.len = want ∧ 1 ≤ q.len ∧ ∃ e, regionOf t p q.rkey = some e ∧ e.2.revoking = false ∧ q.off + q.len ≤ e.2.len) →
      v.bufs.length + n ≤ 16384 →
      exec (.srqPost src pkt) s = .next (conclude id (okRet (toLe 4 n))
        (modPool p (u8 b 0) (fun v => { v with bufLen := want, bufs := v.bufs ++ bufs, posted := v.posted + n }) t)))

/-- The timers of a connection: capability datagrams repeat every millisecond until their count, after which a connection that asks for
Spray fails with TIMEOUT and one that may fall back is Standard, congestion control ticks, a lost packet is sent
again, a receiver that was not ready is tried again, the next packet goes, a delayed acknowledgement goes. -/
def Obligations.ConnectionTimers : Prop :=
  ∀ (ci : Nat) (s : State) (x : Conn), netLive s = true → tget? s.conns ci = some x →
    (x.capCmd.isSome = true → x.capDue ≤ s.node.time →
      let tries := heldSetting (tget {} s.cmds (x.capCmd.getD 0)) 0x0102 4 netTimerDflt
      let most := if x.asked = 2 then min tries 8 else tries
      (x.capTries < most → exec (.capRetry ci) s = .next (capSend ci 1 (peerIp s ci)
        (modConn ci (fun c => { c with capTries := c.capTries + 1, capDue := now s + 1000 }) s))) ∧
      (most ≤ x.capTries → x.asked = 1 → exec (.capRetry ci) s = .next (capEnd ci (some (err stTimeout)) s)) ∧
      (most ≤ x.capTries → x.asked ≠ 1 →
        exec (.capRetry ci) s = .next (capEnd ci none (modConn ci (fun c => { c with mode := 0, startSet := false }) s)))) ∧
    (x.state = 1 →
      (x.cc.nextTimer ≤ s.node.time → exec (.ccTimer ci) s = .next (ccTick ci s)) ∧
      (∀ psn u, x.unacked.find? (fun u => u.psn == psn && !u.marked) = some u →
        (if x.mode = 1 then u.sentAt else x.ackedAt) + netTimer s x.part 0 ≤ s.node.time →
        x.rnrUntil = none →
        exec (.ackTimeout ci psn) s =
          .next (if x.mode = 1 then resendPsn ci psn s
            else goBack ci ((x.unacked.head?.map (·.psn)).getD psn) (modConn ci (fun c => { c with ackedAt := now s }) s))) ∧
      (x.rnrUntil.isSome = true →
        exec (.rnrTimerExpiry ci) s = .next (x.unacked.foldl (fun s u => (msgOfPsn (connOf s ci) u.psn).elim s (fun m =>
          emitPacket ci m (psnDist m.start u.psn) 0 true (modConn ci (fun c => { c with
            unacked := c.unacked.map (fun x => if x.psn = u.psn then { x with sentAt := now s } else x) }) s)))
          (modConn ci (fun c => { c with rnrUntil := none }) s))) ∧
      (outranked s ci = false → exec (.packetSend ci) s = .next (sendNext ci s)) ∧
      (∀ t, x.ackDue = some t → t ≤ s.node.time → exec (.ackDelayExpiry ci) s = .next (sendAck ci 0 0 s)))

/-- What arrives from the network: a packet of a READY connection in its mode, from its partner, that authenticates is received; a CNP slows a Standard
connection; a receiver that is not ready is waited for, RNR_RETRY times for one message, and the connection then fails; a Spray acknowledgement
is taken; a packet to an unknown QPN is counted; a capability request is answered, and an
acknowledgement that agrees to Spray settles the mode; an address request for this port's address is answered and its sender learnt. -/
def Obligations.NetworkReceipt : Prop :=
  ∀ (s : State) (ci : Nat) (x : Conn), netLive s = true → s.dbg.frozen = false → s.node.phase = .active → tget? s.conns ci = some x →
    (x.state = 1 → ∀ (h : NetHead) (u : State), h.qpn = 0x800000 + ci → h.fragment = false → (h.port < 16 → h.frame ≤ 9216) →
      portUsable s h.port = true → fromPartner s h.port h.src = true → h.pkey % 2 ^ 15 = 2 ^ 15 - 1 → h.tver = 0 →
      authPacket ci h.spi h.auth h.espSeq s = some u →
      (∀ p : NetPacket, h = { port := p.port, src := p.src, qpn := p.qpn, spi := p.spi, espSeq := p.espSeq, auth := p.auth, pkey := p.pkey,
                              tver := p.tver, fragment := p.fragment, frame := p.frame } →
        (x.mode = 0 → exec (.stdPacketReceive p) s = .next (stdReceive ci { p with psn := p.psn % psnMod } u)) ∧
        (x.mode = 1 → exec (.sprayPacketReceive p) s = .next (sprayReceive ci { p with psn := p.psn % psnMod } u))) ∧
      (x.mode = 0 → exec (.cnpReceive h) s = .next (congest ci u)) ∧
      (∀ psn m, x.mode = 0 → (connOf u ci).unacked.any (fun e => e.psn == psn) = true →
        let v := modConn ci (fun c => { c with ackedAt := now u }) (ackedTo ci psn u)
        msgOfPsn (connOf v ci) psn = some m →
        (rnrTries (connOf v ci) m.msn < netTimer v (connOf v ci).part 3 → exec (.rnrNakReceive h psn) s =
          .next (modConn ci (fun c => { c with
            rnrCount := rnrTries c m.msn, rnrMsn := m.msn, rnrUntil := some (now v) }) v)) ∧
        (netTimer v (connOf v ci).part 3 ≤ rnrTries (connOf v ci) m.msn → exec (.rnrNakReceive h psn) s = .next (failConn ci v))) ∧
      (∀ a : Sack, x.mode = 1 → h = { port := a.port, src := a.src, qpn := h.qpn, spi := h.spi, espSeq := a.espSeq, auth := h.auth,
                                      pkey := a.pkey, tver := a.tver, fragment := a.fragment, frame := a.frame } →
        exec (.sprayAckReceive h.qpn h.spi h.auth a) s = .next (takeSack ci a u))) ∧
    (∀ h : NetHead, (h.port < 16 → h.frame ≤ 9216) → h.fragment = false → portUsable s h.port = true → fromPartner s h.port h.src = true →
      qpnConn s h.qpn = none →
      exec (.cnpReceive h) s = .next (modPort h.port (fun g => { g with dropQpn := g.dropQpn + 1 }) s)) ∧
    (∀ port addr d, portUsable s port = true → capOk d = true → fromPartner s port addr = true → capMatch s addr d = some (ci, x) →
      (x.capCmd = none → x.state = 1 → u8 d 2 = 1 →
        exec (.capabilityDatagram port addr d) s =
          .next (emit (.datagram (connId s ci) port addr (netSet s 0) (capDatagram s ci 2)) (useTx port s))) ∧
      (x.capCmd ≠ none → bitOf (u8 d 3) 0 = true → u8 d 2 ≠ 1 →
        exec (.capabilityDatagram port addr d) s = .next (capEnd ci none (modConn ci (fun c => { c with
          mode := 1, peerInit := u32 d 0xC, entropy := min 16 (u8 d 0x1A), peerQpn := if c.kind = 2 then u32 d 4 else c.peerQpn }) s)))) ∧
    (∀ port isNd target sender mac, port < 16 → portUsable s port = true → target = ownAddr s port isNd → allZero target = false →
      ∃ u, exec (.arpNdReceive port isNd true target sender mac) s = .next u ∧ u.out = .neighbour port (target ++ sender ++ mac) :: s.out ∧
        u.neigh.head? = some { addr := sender, mac := mac } ∧ u.neigh.length ≤ 4096)

/-! ### Ownership leases and placement -/

/-- The lease commands at the home, for the span that the sender's record names, after the epochs that the command carries have been
taken note of: the record's owner acquires at its epoch or above; the holder renews; an owner hands the span to its mirror; the holder
releases. The operator renews the home's own record, and has an owner hand its span over. The home's prompt at an owner is answered,
and the owner asks for its lease. -/
def Obligations.LeaseCommands : Prop :=
  ∀ (src : Source) (pkt : Packet) (s t : State) (id : Nat) (c : Cmd),
    let a := leaseArg c.block
    let p := c.part
    (∀ ri r, c.fabric = true → spanRec t p a.job a.seq a.span = some (ri, r) → homeFor t p a.job a.seq = none →
      homeBehind t c a.job a.seq = none →
      let u := meetCmd c a.job a.seq t
      let from_ := senderNode u c
      (leaseOk c false false = true →
        (Begun 0x0601 src pkt s id c t → r.owner = from_ → r.epoch ≤ c.epoch →
          exec (.leaseAcquire src pkt) s = .next (conclude id (leaseRet c.epoch (heldOwner c))
            (learnWhenHeld p r.job r.seq (grantRec p ri r.owner c.epoch (heldLease c) u)))) ∧
        (Begun 0x0602 src pkt s id c t → a.record = 0 → r.epoch = c.epoch → r.holder = from_ →
          exec (.leaseRenew src pkt) s = .next (conclude id (leaseRet r.epoch (heldOwner c)) (grantRec p ri r.holder r.epoch (heldLease c) u))) ∧
        (Begun 0x0604 src pkt s id c t → r.epoch = c.epoch →
          exec (.leaseRelease src pkt) s = .next (conclude id (leaseRet r.epoch 0) (dropLease p ri u)))) ∧
      (leaseOk c true false = true → Begun 0x0603 src pkt s id c t → r.epoch < c.epoch →
        exec (.leaseHandoffAtHome src pkt) s = .next (conclude id (leaseRet c.epoch 0) (handOver p ri a.target from_ c.epoch r u)))) ∧
    (∀ ri r, c.fabric = false → p = 0 → Begun 0x0602 src pkt s id c t → a.record = 1 → homeNamed t a = some (ri, r) →
      leaseOk c false true = true → c.epoch = r.epoch →
      let u := modRec a.part ri (fun r => { r with leaseEnd := now t + fabricSet t a.part 1, expired := false }) t
      exec (.leaseRenew src pkt) s =
        .next (conclude id (leaseRet r.epoch (fabricSet u a.part 1)) (if r.expired then promptAll a.part u else u))) ∧
    (∀ ri r i x, c.fabric = false → p = 0 → Begun 0x0603 src pkt s id c t → spanRec t a.part a.job a.seq a.span = some (ri, r) →
      leaseOk c true false = true → (c.epoch = 0 ∨ c.epoch = x.epoch) → r.mirror = a.target → spanSynced r = true →
      spanSt t a.part a.job a.seq false = some (i, x) → leaseValid t x = true → x.span = a.span → x.handoff = none →
      exec (.leaseHandoff src pkt) s =
        .next (handoffsGo a.part (modSpan a.part i (fun x => { x with handoff := some (id, a.target, c.at_ + fabricSet t a.part 1) }) t))) ∧
    (∀ q i x ci, c.fabric = true → Begun 0x0603 src pkt s id c t → seqOf t p (seqKey a.job a.seq) = some q → leaseOk c true false = true →
      a.target = t.node.nodeId → homeBehind t c a.job a.seq = none →
      let u := meetEpochs p a.job a.seq a.span c.epoch (extHome c) c.homeEpoch t
      spanSt u p a.job a.seq false = some (i, x) →
      let v := modSpan p i (fun x => { x with home := extHome c, homeEpoch := c.homeEpoch, span := a.span }) u
      let e := acquireEpoch v p a.job a.seq c.epoch
      fabricConn v p (extHome c) = some ci →
      exec (.leasePrompt src pkt) s = .next (conclude id (leaseRet c.epoch 0)
        (askFabric p ci 0x0601 e c.homeEpoch e (extHome c) a.span 0 0 (toLe 4 a.job ++ toLe 6 a.seq ++ [BitVec.ofNat 8 a.span, 0] ++ zeros 20)
          { kind := 2, job := a.job, seq := a.seq, span := a.span, arg := e, homeEpoch := c.homeEpoch, us := heldOwner c } v)))

/-- The timers of ownership: a home's own record and a lease run out, a prompt is repeated, an owner renews, its lease ends after
the drift allowance, and a handoff that lasts too long ends with TIMEOUT. -/
def Obligations.LeaseTimers : Prop :=
  ∀ (p ri job seq span : Nat) (s : State), nodeLive s = true → s.node.phase = .active →
    (∀ r, tget? (part s p).placeRecs ri = some r →
      (r.kind = 0x10 → bitOf r.flags 4 = true → r.owner = s.node.nodeId → r.expired = false → r.leaseEnd ≤ s.node.time →
        let ids := (part s p).seqs.map (fun e => (e.2.job, e.2.seq)) ++
          ((part s p).placeRecs.filter (fun e => e.2.kind == 0x11)).map (fun e => (e.2.job, e.2.seq))
        exec (.homeRecordExpiry p ri) s =
          .next ((ids.filter (fun e => (homeRec s p e.1 e.2).elim false (fun h => h.1 == ri))).foldl (fun s e => loseHome p e.1 e.2 0 0 s)
            (modRec p ri (fun r => { r with expired := true }) s))) ∧
      (r.kind = 0x11 →
        (r.holder ≠ 0xFFFF → r.leaseEnd ≤ s.node.time → exec (.leaseExpiry p ri) s = .next (dropLease p ri s)) ∧
        (r.holder = 0xFFFF → r.promptAt ≠ 0 → r.promptAt ≤ s.node.time → exec (.promptRepeat p ri) s = .next (prompt p ri s)))) ∧
    (∀ i x, spanSt s p job seq false = some (i, x) → x.span = span →
      (∀ ri r, let u := modSpan p i (fun x => { x with renewAt := now s + fabricSet s p 2 }) s
        leaseValid s x = true → x.renewAt ≤ s.node.time → isHome u p job seq = true → spanRec u p job seq span = some (ri, r) →
        r.holder = s.node.nodeId → r.epoch = x.epoch →
        exec (.renewTimer p job seq span) s = .next (holdLease p job seq span x.epoch (now u) (ownerTime u p) (myHomeEpoch u p job seq)
          (grantRec p ri r.holder r.epoch (fabricSet u p 1) u))) ∧
      (x.valid = true → x.endAt + fabricSet s p 4 ≤ s.node.time →
        exec (.ownerLeaseEnd p job seq span) s = .next (modSpan p i (fun x => { x with valid := false }) s))) ∧
    (∀ i x cmd node due, (part s p).spans.find? (fun e => e.2.job == job && e.2.seq == seq && e.2.span == span && e.2.handoff.isSome) =
        some (i, x) → x.handoff = some (cmd, node, due) → due ≤ s.node.time →
      exec (.handoffTimeout p job seq span) s =
        .next (conclude cmd (err stTimeout) (modSpan p i (fun x => { x with handoff := none }) s)))

/-- PLACE_SET of a key that has no record places it in the match index and the record table and returns both places; one of a key that
has an older record replaces that record where it stands; one that deletes a record clears its entry and takes the record out. -/
def Obligations.PlaceCommand : Prop :=
  ∀ (src : Source) (pkt : Packet) (s t : State) (id : Nat) (c : Cmd) (ri : Nat),
    let b := c.block
    let p := u16 b 0
    let r := placeRecOf b
    Begun 0x0605 src pkt s id c t → p ≠ 0 → (part t p).exists_ = true → blockIs c 0x70 = true → zeroIn b 3 0x10 = true →
    placeKeyOk r.key r.mask = true →
    (∀ index ci, u8 b 2 = 0 → placeRecOk r b = true →
      (part t p).placeRecs.find? (fun e => e.2.key == r.key && e.2.mask == r.mask) = none →
      freeEntry t p 2 (fun k => decide (placeBank0 (part t p).match_ ≤ k)) = some index →
      findFree (thas (part t p).placeRecs) 1048576 ((part t p).placeRecs.length + 1) 0 = some ri → entryCell t p index = some ci →
      let u := modPart p (fun v => { v with placeRecs := tset v.placeRecs ri { r with index := index } })
        (putEntry ci (index % 1048576) 2 [r.key % 2 ^ 64, r.key / 2 ^ 64] [r.mask % 2 ^ 64, r.mask / 2 ^ 64] (ri + r.owner * 2 ^ 20) t)
      exec (.placeSet src pkt) s = .next (conclude id (okRet (toLe 4 index ++ toLe 4 ri))
        (if r.kind = 0x11 then spanPlaced p ri none u else homesChanged p t u))) ∧
    (∀ j o0 o, (part t p).placeRecs.find? (fun e => e.2.key == r.key && e.2.mask == r.mask) = some (j, o0) →
      let v := readIndex p o0.index t
      (part v p).placeRecs.find? (fun e => e.2.key == r.key && e.2.mask == r.mask) = some (ri, o) →
      (u8 b 2 ≤ 1 → placeRecOk r b = true → o.epoch < r.epoch →
        let n := keepCoding o { r with index := o.index }
        exec (.placeSet src pkt) s = .next (conclude id (okRet (toLe 4 o.index ++ toLe 4 ri))
          (recPlaced p ri n (some o) v (modRec p ri (fun _ => n) (writeEntry p ri n v))))) ∧
      (∀ ci, u8 b 2 = 2 → zeroIn b 0x30 0x70 = true → entryCell v p o.index = some ci →
        let w := dropEntry ci (o.index % 1048576) 2 v
        let x := modPart p (fun v => { v with placeRecs := tdel v.placeRecs ri }) w
        exec (.placeSet src pkt) s = .next (conclude id (okRet (toLe 4 o.index ++ toLe 4 ri))
          (if o.kind = 0x10 then homesChanged p w x else x))))

/-! ### Security -/

/-- ATTEST_GET returns what it is asked for, with its signature over the nonce and it; JOB_KEY_INSTALL of a new job whose points lie on
the curve and whose secret unwraps keeps the secret and returns its KCV, one whose secret does not unwrap fails with AUTH_FAIL; its
removal erases the key and fails the job's connections; KEY_ROTATE opens the next generation (the key check value that it returns is
free, log 3); ZEROISE erases every partition. -/
def Obligations.SecurityCommands : Prop :=
  ∀ (src : Source) (pkt : Packet) (s t : State) (id : Nat) (c : Cmd),
    let b := c.block
    let p := c.part
    let job := u32 b 0
    (let pay := (if bitOf (u8 b 0) 0 then toLe 4 Config.certChain.length ++ Config.certChain else []) ++
        (if bitOf (u8 b 0) 1 then toLe 4 (measBlocks t (measIndices p)).length ++ (measBlocks t (measIndices p)).flatten else [])
      let out := signed (slice b 0x20 32 ++ pay) t
      Begun 0x0701 src pkt s id c t → b.length = 64 → u8 b 0 ≤ 3 → zeroIn b 1 32 = true → fitsReply c (pay.length + 96) = true →
      exec (.attestGet src pkt) s = .next (conclude id (okPay [] (pay ++ out.1)) out.2)) ∧
    (Begun 0x0702 src pkt s id c t → b.length = 0x130 → zeroIn b 5 0x20 = true → zeroIn b 0x81 0x90 = true → zeroIn b 0xF1 0xF4 = true →
      (∀ q e, let owner := slice b 0x20 97
        let eph := slice b 0x90 97
        u8 b 4 = 0 → ecPoint owner = some q → ecPoint eph = some e →
        (unwrapJob e job owner eph (slice b 0xF4 12) (slice b 0x100 32) (slice b 0x120 16) = none →
          exec (.jobKeyInstall src pkt) s = .next (conclude id (err stAuth) t)) ∧
        (∀ secret, unwrapJob e job owner eph (slice b 0xF4 12) (slice b 0x100 32) (slice b 0x120 16) = some secret →
          tget? (part t p).keys job = none → (part t p).keys.length < 1024 →
          exec (.jobKeyInstall src pkt) s = .next (conclude id (okRet (toLe 4 (kcvOf secret)))
            (modPart p (fun v => { v with keys := tset v.keys job { secret := secret, owner := owner, jkg := 1 } }) t)))) ∧
      (∀ k, u8 b 4 = 1 → zeroIn b 0x20 0x130 = true → tget? (part t p).keys job = some k → jobHeld t p job = false →
        exec (.jobKeyInstall src pkt) s = .next (conclude id (okRet (toLe 4 (kcvOf k.secret)))
          (failJob p job (modPart p (fun v => { v with keys := tdel v.keys job }) t))))) ∧
    (∀ k, Begun 0x0703 src pkt s id c t → tget? (part t p).keys job = some k → blockIs c 4 = true → rotationOpen t k = false →
      let ready := (jobConns t p job).filter (fun i => (connOf t i).state == 1)
      exec (.keyRotate src pkt) s = .next (conclude id (okRet (toLe 4 (k.jkg + 1) ++ toLe 4 (Config.rotateCheck k.secret (k.jkg + 1))))
        (modPart p (fun v => { v with
          keys := tset v.keys job { k with jkg := k.jkg + 1, rotating := ready.map (fun i => (i, (connOf t i).sndNext)) } }) t))) ∧
    (Begun 0x0704 src pkt s id c t → blockIs c 4 = true → u32 b 0 = 0x5A45524F →
      exec (.zeroise src pkt) s = .next (conclude id (okRet []) (modSec (fun x => { x with zeroised := true }) (zeroiseAll (some id) t))))

/-- TAMPER_N erases every partition, ends in module state 3 with FAULT_N low and posts one event whose code the spec leaves open; a
failed entropy test or self-test ends in the error state; a self-test begins and passes; an SPDM request for the version, the
capabilities, the algorithms or the digest is answered in its order, and one out of its order with an error. -/
def Obligations.SecurityEvents : Prop :=
  ∀ s : State, s.node.phase ≠ .off → s.node.phase ≠ .tripped →
    (s.sec.mstate ≠ 3 →
      let u := assertFault (modSec (fun x => { x with mstate := 3, tamperSeen := true }) (zeroiseAll none s))
      exec .tamperN s = .next (postEvent ((draw u).1 % 65536) 0 0 [] (draw u).2)) ∧
    (s.dbg.frozen = false →
      (∀ test, s.sec.mstate < 2 → exec (.entropyTestFail test) s = .next (errorState test s)) ∧
      (barsLive s = true → s.node.phase = .active → s.sec.mstate = 1 →
        exec (.selftest 0) s = .next (modSec (fun x => { x with selftest := true }) s)) ∧
      (s.sec.selftest = true →
        exec (.selftestDone 0) s = .next (modSec (fun x => { x with selftest := false }) s) ∧
        (∀ k, k ≠ 0 → exec (.selftestDone k) s = .next (errorState k s))) ∧
      (∀ param body,
        exec (.spdmRequest 0x84 param body) s = .next (emit (.mctp 2 (spdmMsg 0x04 0 0 (toLe 1 0 ++ toLe 1 2 ++ toLe 2 0x1200 ++ toLe 2 0x1300)))
          (modSec (fun y => { y with spdmVersion := true, spdmCaps := false, spdmAlgs := false }) s)) ∧
        (s.sec.spdmVersion = true → exec (.spdmRequest 0xE1 param body) s = .next (emit (.mctp 2 (spdmMsg 0x61 0 0 (zeros 4 ++ toLe 4 0x16)))
          (modSec (fun y => { y with spdmCaps := true, spdmAlgs := false }) s))) ∧
        (s.sec.spdmCaps = true → exec (.spdmRequest 0xE3 param body) s = .next (emit (.mctp 2 (spdmMsg 0x63 0 0 (toLe 4 0x80 ++ toLe 4 0x02)))
          (modSec (fun y => { y with spdmAlgs := true }) s))) ∧
        (s.sec.spdmAlgs = true → exec (.spdmRequest 0x81 param body) s = .next (emit (.mctp 2 (spdmMsg 0x01 0 1 (sha384 Config.certChain))) s)) ∧
        (s.sec.spdmAlgs = false → exec (.spdmRequest 0x81 param body) s = .next (emit (.mctp 2 (spdmMsg 0x7F 4 0 [])) s))))

/-! ### Power -/

/-- POWER_STATE of a cell already in Cell-off with the same state answers at once, of a running cell drops what BANK_OP has queued on it and begins its way into Cell-off, of a
cell in Cell-off its way out; of the node into Drizzle it begins the quiesce. BUDGET_SET clamps and sets the package budget. A cell
whose work has drained goes off, its stack lost where that goes too, and one that has come back is powered; the command that asked for
it is answered. -/
def Obligations.PowerCommands : Prop :=
  ∀ (src : Source) (pkt : Packet) (s t : State) (id : Nat) (c : Cmd),
    let b := c.block
    (Begun 0x0801 src pkt s id c t → blockIs c 6 = true → c.part = 0 → u8 b 0 = 0 → u8 b 1 = 0 → u8 b 2 = 4 → u8 b 3 = 0 → u16 b 4 = 0 →
      (∀ k < 24, cellMoving t k = false) → t.pwr.nodeCmd = none → t.node.drizzleCmd = none →
      exec (.powerState src pkt) s =
        .next (modNode (fun n => { n with phase := .quiescing, drizzleCmd := some id, drizzleAt := n.time }) t)) ∧
    (Begun 0x0801 src pkt s id c t → blockIs c 6 = true → c.part = 0 → u8 b 0 = 1 → u8 b 1 ≤ 23 → u8 b 3 = 0 → u16 b 4 = 0 →
      cellOwner t (u8 b 1) ≠ 0 → cellMoving t (u8 b 1) = false →
      (u8 b 2 = 2 → (cell t (u8 b 1)).pwr.st ≤ 1 → exec (.powerState src pkt) s = .next (enterCellOff (u8 b 1) 2 (some id) (loseOps (u8 b 1) t))) ∧
      (u8 b 2 = 2 → (cell t (u8 b 1)).pwr.st = 2 → exec (.powerState src pkt) s = .next (conclude id (okRet (toLe 1 2 ++ zeros 7)) t)) ∧
      (u8 b 2 = 0 → 2 ≤ (cell t (u8 b 1)).pwr.st →
        exec (.powerState src pkt) s = .next (leaveCellOff (u8 b 1) 0 0 (some id) t))) ∧
    (Begun 0x0802 src pkt s id c t → blockIs c 6 = true → zeroIn b 2 4 = true → u16 b 0 = 0xFFFF →
      let v := min 3000 (max 500 (u16 b 4))
      exec (.budgetSet src pkt) s = .next (conclude id (okRet (toLe 2 v)) (modPwr (fun q => { q with budget := v }) t))) ∧
    (∀ k, nodeLive s = true → (cell s k).pwr.st = 5 → cellIdle s k = true →
      let st := (cell s k).pwr.target.getD 2
      let u := modCellPwr k (fun w => { w with
        st := st, target := none, cmd := none, coreMhz := 0, vddMv := 0, wroteMv := 0
        wroteAt := none, pendMhz := none }) (powerDownUnits k s)
      let v := if st = 3 then loseStack k u else u
      exec (.cellOffDrained k) s = .next ((cell s k).pwr.cmd.elim v (fun n => powerReply n st v))) ∧
    (∀ k, s.dbg.frozen = false → (cell s k).pwr.st = 6 →
      let st := (cell s k).pwr.target.getD 0
      let u := powerUp k st (if (cell s k).pwr.prev = 3 then rejoinCell k s else s)
      let v := (cell s k).pwr.cmd.elim u (fun n => powerReply n st u)
      exec (.cellOffExitDone k) s = .next (createReady (cellOwner v k) v))

/-- A stack refreshes at double rate from 84 °C and at normal rate again below 82 °C, each stack by itself (R50). -/
def Obligations.RefreshRate : Prop :=
  ∀ (k temp : Nat) (s : State), sensing s = true → k < 24 →
    ∃ t, exec (.stackTempReport k temp) s = .next t ∧ (84 ≤ temp → (cell t k).dblRefresh = true) ∧
      (temp < 82 → (cell t k).dblRefresh = false) ∧
      (82 ≤ temp → temp < 84 → (cell t k).dblRefresh = (cell s k).dblRefresh) ∧
      (∀ j, j ≠ k → (cell t j).dblRefresh = (cell s j).dblRefresh)

/-- The node's sensors: a die reading below every threshold is stored alone, and one at or over 115 °C trips the node; a cause ends 10 ms
after its condition; a poll without readings of rails stores the package power, and over the budget, or at a peak, its cause stands; a
voltage that is reached is stored; a regulator that does not answer in 500 µs faults; a tick without draws applies the clocks, and a
partition's draw moves the ceilings of its cells under its envelope; a trip stops the node and latches. -/
def Obligations.Sensors : Prop :=
  ∀ s : State, sensing s = true →
    (∀ temp, temp < powerSet s 4 → temp < 97 → bitOf s.pwr.causes 3 = false →
      exec (.dieTempReport 24 temp) s = .next (modPwr (fun w => { w with hubTemp := temp }) s)) ∧
    (∀ k temp, k < 24 → temp < powerSet s 4 → temp < 97 → bitOf s.pwr.causes 2 = false →
      exec (.dieTempReport k temp) s = .next (modCellPwr k (fun w => { w with loomT := temp }) s)) ∧
    (∀ k temp, k ≤ 24 → 115 ≤ temp → ∃ u, exec (.dieTempReport k temp) s = .next (tripThermal u)) ∧
    (∀ k t0, k ≠ 5 → tget? s.pwr.clearing k = some t0 → bitOf s.pwr.causes k = true → t0 + 10000 ≤ s.node.time →
      clearBit s.pwr.causes k ≠ 0 →
      exec (.throttleClear k) s = .next (modPwr (fun w => { w with causes := clearBit w.causes k, clearing := tdel w.clearing k }) s)) ∧
    (∀ w peak, bitOf s.pwr.causes 1 = false → bitOf s.pwr.causes 5 = false →
      let u := modPwr (fun q => { q with pkgW := w }) s
      (peak = false → w ≤ s.pwr.budget → bitOf s.pwr.causes 0 = false → exec (.avsPoll w peak []) s = .next u) ∧
      (peak = true ∨ s.pwr.budget < w →
        exec (.avsPoll w peak []) s = .next (clearCond 5 (regClear (clearCond 1 true (setCause 0 u))) (clearCond 1 true (setCause 0 u))))) ∧
    (∀ k mv, k < 24 → (cell s k).pwr.pendMhz = none → bitOf s.pwr.causes 5 = false →
      exec (.avsVoltageReached k mv) s = .next (settlePower
        (modCellPwr k (fun w => { w with vddMv := mv, wroteAt := if w.wroteMv ≤ mv then none else w.wroteAt }) s))) ∧
    (∀ k t0, k < 24 → (cell s k).pwr.wroteAt = some t0 → t0 + 500 ≤ s.node.time →
      exec (.avsTimeout k) s = .next (settlePower (regFault k s))) ∧
    exec (.envelopeTick []) s = .next (applyClocks s) ∧
    (∀ p w lim, p ≠ 0 → (part s p).exists_ = true → (part s p).envelope = some lim →
      let move (v : Nat) : Nat := if lim < w then max 400 (min v (powerSet s 0) - 25)
        else if w * 100 < 95 * lim then min (powerSet s 0) (min v (powerSet s 0) + 25) else v
      let u := modPart p (fun v => { v with drawW := w }) s
      exec (.envelopeTick [(p, w)]) s =
        .next (applyClocks ((partCells u p).foldl (fun s c => modCellPwr c (fun q => { q with ceilMhz := move q.ceilMhz }) s) u))) ∧
    (∃ u, exec .thermtrip s = .next u ∧ u.node.phase = .tripped ∧ u.pwr.thermtrip = true ∧ u.dbg.frozen = false)

/-- Drizzle: a quiesce that is complete sleeps, one that lasts too long is abandoned; WAKE wakes the node whole; the timer and WAKE_N
begin its waking. -/
def Obligations.Drizzle : Prop :=
  ∀ s : State, s.dbg.frozen = false →
    (s.node.phase = .quiescing → quiet s = true →
      exec .drizzleQuiesced s = .next (sleepLinks (sleepRails (modNode (fun n => { n with
        phase := .drizzle, drizzleCmd := none, drizzleAt := n.time, drizzleWake := if powerSet s 3 = 0 then 0 else n.time + powerSet s 3 })
        (powerReply (s.node.drizzleCmd.getD 0) 4 s))))) ∧
    (s.node.phase = .quiescing → nodeLive s = true → s.node.drizzleAt + powerSet s 2 ≤ s.node.time →
      exec .drizzleQuiesceExpiry s = .next (abandonDrizzle s) ∧ exec (.wakeN true) s = .next (abandonDrizzle s)) ∧
    (s.node.phase = .drizzle →
      let u := modNode (fun n => { n with phase := .waking, drizzleAt := n.time }) s
      exec .wake s = .next (finishWake u) ∧ exec (.wakeN true) s = .next u ∧
        (s.node.drizzleWake ≠ 0 → s.node.drizzleWake ≤ s.node.time → exec .drizzleTimerExpiry s = .next u))

/-! ### Recovery -/

/-- RESET_LEVEL of each level: at level 1 a command of the issuer that has a context ends with CANCELLED and the reply is OK; at levels
2, 3 and 4 the core, the partition or the node begins its reset, which the reply waits for, and a unit that a held climb left out of
service is taken up again (level 3, which reaches any partition from partition 0 and otherwise the issuer's own, only from partition 0); level 5 is begun. -/
def Obligations.ResetLevels : Prop :=
  ∀ (src : Source) (pkt : Packet) (s t : State) (id : Nat) (c : Cmd), Begun 0x0803 src pkt s id c t →
    let b := c.block
    let core := u16 b 8
    blockIs c 10 = true → u8 b 1 = 0 →
    (∀ n q, u8 b 0 = 1 → u16 b 2 = 0 → core = 0 → t.cmds.find? (fun e => e.2.src == c.src && e.2.tag == u32 b 4 && e.1 != id) = some (n, q) →
      q.ctx.isSome = true → exec (.resetLevel src pkt) s =
        .next (conclude id (okRet [1]) (postRecovery 1 0 8 c.part (part t c.part).inc c.part (endByReset n (err stCancelled) t)))) ∧
    (u32 b 4 = 0 →
      (c.part = 0 → u16 b 2 = 0 →
        (u8 b 0 = 2 → core < 384 → bitOf t.node.cellsPresent (core / 16) = true → bitOf (cell t (core / 16)).retiredCores (core % 16) = false →
          exec (.resetLevel src pkt) s = .next (coreReset (core / 16) (core % 16) 8 false (some id) (unhalt 2 core t))) ∧
        (u8 b 0 = 4 → core = 0 →
          exec (.resetLevel src pkt) s = .next (nodeReset (if t.sec.mstate = 2 then 9 else 8) false false none (some id) t)) ∧
        (u8 b 0 = 5 → core = 0 → exec (.resetLevel src pkt) s = .next (level5 8 (some id) t))) ∧
      (∀ p, u8 b 0 = 3 → core = 0 → (u16 b 2 = p ∨ u16 b 2 = 0xFFFF ∧ p = c.part) → (c.part = 0 ∨ p = c.part) → p ≠ 0xFFFF →
        (part t p).exists_ = true → (part t p).creating = false → (part t p).destroying = false →
        exec (.resetLevel src pkt) s = .next (partReset p 8 (some id) (if c.part = 0 then unhalt 3 p t else t))))

/-- What the units' watchdogs start where Frost is not armed on a trip (a context's work ends or runs again, a core, a partition, the
node is reset), that a core's trip at or above the armed level freezes the node first, and what a missed heartbeat and the loss of each
reference do. -/
def Obligations.Watchdogs : Prop :=
  ∀ s : State, working_ s = true →
    (s.dbg.armTrigger ≠ 3 →
      (∀ i x cm, tget? s.ctxs i = some x → tget? s.cmds x.cmd = some cm → cm.held = false → exec (.ctxWdTrip i) s = .next (level1 i 1 s)) ∧
      (∀ k j, k < 24 → j < 16 → (coreOf (cell s k) j).st = 0 → exec (.coreWdTrip k j) s = .next (coreReset k j 2 true none s)) ∧
      (∀ k u, k < 24 → u < 6 → cellOwner s k ≠ 0 → (part s (cellOwner s k)).inReset = false →
        exec (.cellWdTrip k u) s = .next (partReset (cellOwner s k) 3 none s)) ∧
      (∀ u, u < 8 → exec (.hubWdTrip u) s = .next (nodeReset 4 false false none none s))) ∧
    (s.dbg.armTrigger = 3 → ∀ k j, k < 24 → j < 16 → (coreOf (cell s k) j).st = 0 → s.dbg.armLevel ≤ 2 →
      exec (.coreWdTrip k j) s = .next (modDbg (fun g => { g with tripped := some (2, k, j) }) (freeze 3 s))) ∧
    (s.node.restart = none → exec (.heartbeatMiss .securityMissed) s = .next (controlRestart s)) ∧
    exec (.heartbeatMiss .controlMissed) s = .next (nodeReset 6 true false none none s) ∧
    exec (.refLoss .system) s = .next (modNode (fun n => { n with refLoss := true }) (nodeReset 0x0A false false none none
      (assertFault ((s.parts.map (·.1)).foldl (fun s p => fenceAll p s) s)))) ∧
    (pcieOn s = true → exec (.refLoss .pcie) s = .next (flrAll s)) ∧
    (linkLive s = true → exec (.refLoss .serdes) s =
      .next ((List.range 24).foldl (fun s g => if portExists s g then downPort g s else s) s))

/-- Resets that end or climb: a core that passes its check runs again (and answers RESET_LEVEL); one that lasts 2 ms climbs to its
partition, unless a held climb left it out of service; the core, cell unit or hub block that keeps a stuck context's resources is reset at
its level; the control processor restarts, with which the replies that
BANK_OPs held back meanwhile are posted, or its restart climbs; a node reset ends, or climbs to level 5 after 6 s. -/
def Obligations.ResetEnds : Prop :=
  (∀ s : State, working_ s = true →
    (∀ k j, let v := coreOf (cell s k) j
      v.st = 1 → (2, 16 * k + j) ∉ s.dbg.halted →
      (let u := modCore k j (fun v => { v with st := 0, cmd := none }) s
        let w := postRecovery 2 0 v.cause (16 * k + j) v.inc (cellOwner u k) u
        (v.cmd = none → exec (.coreSelfCheckDone k j true) s = .next w) ∧
        (∀ id, v.cmd = some id → exec (.coreSelfCheckDone k j true) s = .next (conclude id (okRet [2]) w))) ∧
      (v.checkAt + 2000 ≤ s.node.time → cellOwner s k ≠ 0 → (part s (cellOwner s k)).inReset = false →
        exec (.coreResetTimeout k j) s = .next (climb3 2 (16 * k + j) v.inc (cellOwner s k) v.cmd s))) ∧
    (∀ i k j, let p := cellOwner s k
      k < 24 → j < 16 → (coreOf (cell s k) j).st = 0 → 2 ≤ recSet s 6 → exec (.contextResetTimeout i (.core k j)) s =
        .next (coreReset k j 7 false none (postRecovery 1 1 s.dbg.lastCause p (part s p).inc p s))) ∧
    (∀ i k u, let p := cellOwner s k
      k < 24 → p ≠ 0 → (part s p).inReset = false →
      exec (.contextResetTimeout i (.cellUnit k u)) s = .next (climb3 1 p (part s p).inc p none s)) ∧
    (∀ i b, exec (.contextResetTimeout i (.hubBlock b)) s = .next (climb4 1 0xFFFF s.node.nodeInc 0 none s)) ∧
    (∀ r, s.node.restart = some r → r.activate = false →
      exec .controlRestartDone s = .next (firmwareRuns
        (postRecovery 0 0 5 0xFFFF s.node.nodeInc 0 (modNode (fun n => { n with restart := none }) s))) ∧
      (r.at_ + 2000000 ≤ s.node.time → exec .controlRestartTimeout s = .next (climb4 0 0xFFFF s.node.nodeInc 0 none s)))) ∧
  (∀ s : State, s.node.phase = .level4 → s.node.resetHeld = false → s.dbg.frozen = false →
    (∀ present, exec (.nodeResetDone present) s = .next (nodeResetDone (present % 2 ^ 24) s)) ∧
    (s.node.level4At + 6000000 ≤ s.node.time → exec .nodeResetTimeout s = .next (climb5 s)))

/-! ### Dumps, Frost and debug -/

/-- DUMP_COLLECT starts a dump of the units it names; DUMP_READ returns a part of a stored dump and, where asked, discards it; a unit
that does not answer keeps an empty record with its no-response flag; a dump not done in 100 ms is closed as truncated; the hold of level
5 ends with PWRCYC_REQ_N. -/
def Obligations.Dumps : Prop :=
  ∀ (src : Source) (pkt : Packet) (s t : State) (id : Nat) (c : Cmd),
    (Begun 0x0804 src pkt s id c t → blockIs c 5 = true → u32 c.block 0 < 2 ^ 24 → u8 c.block 4 < 4 → t.dbg.dumps = [] → t.dbg.collect = none →
      exec (.dumpCollect src pkt) s = .next (startDump 0 0 0xFFFF false (bitOf (u8 c.block 4) 1)
        (cellsUnits (bitList (u32 c.block 0) 24) ++ if bitOf (u8 c.block 4) 0 then hubUnits else []) (some id) t)) ∧
    (∀ d, let off := u32 c.block 4
      let n := u32 c.block 8
      Begun 0x0805 src pkt s id c t → t.dbg.dumps.find? (fun d => d.id == u32 c.block 0) = some d → blockIs c 13 = true → u8 c.block 12 ≤ 1 →
      1 ≤ n → n ≤ (if isMctp c.src then 4032 else 1048576) → off < dumpLen d → fitsReply c (min n (dumpLen d - off)) = true →
      exec (.dumpRead src pkt) s = .next (conclude id (okPay (toLe 4 (dumpLen d)) (slice (dumpImage t d) off n))
        (if u8 c.block 12 = 1 then modDbg (fun g => { g with dumps := g.dumps.filter (fun x => x.id != u32 c.block 0) }) t else t))) ∧
    (∀ k x, s.dbg.collect = some x → ∃ u y, exec (.dumpUnitWaitExpiry k) s = .next u ∧ u.dbg.collect = some y ∧
      ∀ r ∈ y.dump.recs, r.unit = k → r.len = 0 ∧ bitOf r.flags 0 = true) ∧
    (∀ x, s.dbg.collect = some x → x.at_ + 100000 ≤ s.node.time → s.dbg.frozen = false →
      exec .dumpTruncated s = .next (closeDump true s)) ∧
    (s.node.phase = .held → s.node.pwrcyc = false → s.node.holdUntil ≤ s.node.time → s.dbg.frozen = false →
      exec .dumpHoldExpiry s = .next (drivePin 1 false (modNode (fun n => { n with pwrcyc := true }) (closeDump false s))))

/-- Frost: FROST_ARM arms its trigger; the pin or a trigger that is due freezes the node; RELEASE lets the pin go; the node runs on when
the pin has risen, and a watchdog's trip that froze it goes on then; the TAP is reset and takes an instruction. -/
def Obligations.Frost : Prop :=
  ∀ (src : Source) (pkt : Packet) (s t : State) (id : Nat) (c : Cmd),
    (Begun 0x0806 src pkt s id c t → blockIs c 8 = true → u8 c.block 0 ≤ 3 → u32 c.block 4 ≤ 1000000 →
      exec (.frostArm src pkt) s = .next (conclude id (okRet []) (modDbg (fun g => { g with
        armTrigger := u8 c.block 0, armLevel := u8 c.block 1, armCode := u16 c.block 2, armDelay := u32 c.block 4
        fired := if u8 c.block 0 = 1 then some (now t + (u32 c.block 4 + 999) / 1000 ) else none }) t))) ∧
    (canFreeze s = true → exec .frostNFall s = .next (freeze 1 s) ∧
      (∀ w, s.dbg.fired = some w → w ≤ s.node.time → s.dbg.armTrigger ≠ 0 →
        exec .frostTrigger s = .next (freeze (if s.dbg.armTrigger = 1 then 2 else 3) s))) ∧
    exec .release s = .next (releaseFrost s) ∧
    (s.dbg.frozen = true → s.dbg.driving = false →
      (s.dbg.tripped = none → exec .frostNRise s = .next (fenceExpired (thaw s))) ∧
      (∀ level a b, s.dbg.tripped = some (level, a, b) → exec .frostNRise s = .next (tripAction level a b (fenceExpired (thaw s))))) ∧
    (s.node.phase ≠ .off → exec (.tapAccess .reset) s = .next (modDbg (fun d => { d with tapIr := 1, tapAddr := 0 }) s) ∧
      (∀ code, exec (.tapAccess (.loadIr code)) s = .next (modDbg (fun d => { d with tapIr := code % 16, tapAddr := 0 }) s)))

/-! ### Firmware, boot and pins -/

/-- FW_STAGE takes a chunk, FW_ACTIVATE switches to the staged image, and the activation ends when the new image reports (the slot-select
record names it, and FW_ACTIVATE answers with its version and slot) or, after 2 s, with the old one active again and INTERNAL. -/
def Obligations.Firmware : Prop :=
  ∀ (src : Source) (pkt : Packet) (s t : State) (id : Nat) (c : Cmd),
    (Begun 0x0807 src pkt s id c t → c.block.length = 32 + u32 c.block 12 → u8 c.block 8 ≤ 1 → zeroIn c.block 9 12 = true →
      zeroIn c.block 16 32 = true →
      let r := stageChunk (u32 c.block 0) (u32 c.block 4) (u8 c.block 8 == 1) (c.block.drop 32) t
      exec (.fwStage src pkt) s = .next (conclude id r.2 r.1)) ∧
    (Begun 0x0808 src pkt s id c t → blockIs c 0 = true → exec (.fwActivate src pkt) s = .next (after id (activate (some id) t))) ∧
    (∀ r, s.node.restart = some r → r.activate = true → s.dbg.frozen = false →
      (let u := firmwareRuns (modNode (fun n => { n with slotSelect := n.activeSlot, activating := false, restart := none }) s)
       (r.cmd = none → exec .fwReportRunning s = .next u) ∧
       (∀ q, r.cmd = some q → exec .fwReportRunning s = .next (conclude q (fwReply u) u))) ∧
      (r.at_ + 2000000 ≤ s.node.time →
        let u := firmwareRuns (modNode (fun n => { n with
          activeSlot := 1 - n.activeSlot, activating := false, restart := none, ctrlInc := (n.ctrlInc + 1) % 65536 }) s)
        (r.cmd = none → exec .fwActivateTimeout s = .next u) ∧
        (∀ q, r.cmd = some q → exec .fwActivateTimeout s = .next (conclude q (err stInternal 0x0F01) u))))

/-- Power and reset: PWR_GOOD with good pins and self-test begins the boot (the straps, the next node incarnation, a fresh nonce); the boot
ends active with the cells present; RESET_N resets the node at level 4 and holds it there until it rises; power that is lost loses
everything but the flash and the node incarnation. -/
def Obligations.BootAndPins : Prop :=
  ∀ s : State,
    (s.node.phase = .off → ∀ straps, ∃ u, exec (.pwrGood straps true true true) s = .next (loadImage u) ∧ u.node.phase = .booting ∧
      u.node.trayPos = straps % 32 ∧ u.node.nodeInc = (s.node.nodeInc + 1) % 65536 ∧ u.node.resetHeld = false ∧ u.node.bootNonce = (draw (powerGone s)).1) ∧
    (s.node.phase = .booting → s.node.resetHeld = false → s.sec.mstate ≠ 3 → s.dbg.frozen = false → ∀ present,
      ∃ u, exec (.bootDone present) s = .next u ∧ u.node.phase = .active ∧ u.node.cellsPresent = present % 2 ^ 24 ∧
        (part u 0).exists_ = true ∧ u.sec.mstate = (if s.sec.mstate = 2 then 2 else 1)) ∧
    (s.node.phase = .active → exec .resetN s = .next (nodeReset 0x0B true true none none s)) ∧
    (s.node.resetHeld = true → exec .resetNRelease s = .next (modNode (fun n => { n with resetHeld := false, level4At := n.time }) s)) ∧
    exec .powerLoss s = .next (powerGone s)

/-! ### Links -/

/-- Ethernet ports: autonegotiation (of a port that carried traffic or trained, after it went down) chooses the highest common rate of its
kind of PHY type and trains, with the stored settings where the session is the same, or finds none; a trained port comes up, one that does
not lock starts again, a lost link goes down; a port with LPI agreed whose transmit queue has been empty for 2 µs enters it; a received
control frame is counted. -/
def Obligations.EthernetPorts : Prop :=
  ∀ (g : Nat) (s : State), linkLive s = true → g < 16 → portExists s g = true →
    let p := portOf s g
    (∀ page speeds eee, laneSet s g 2 ≠ 0 →
      let u := if portUp p || p.st = 2 then downPort g s else s
      let common := ((List.range 4).filter (fun k => bitOf (laneSet u g 1) k && bitOf speeds (4 * laneSet u g 5 + k))).getLast?
      let fast := p.coef && p.page == page
      (∀ k, common = some k → exec (.autoneg g page speeds eee) s = .next (modPort g (fun q => { (if fast then q else dropTaps q) with
        st := 2, rate := k + 1, fec := if k = 0 then 1 else 2, cable := laneSet u g 5 == 1, eeeOn := eee && laneSet u g 4 == 1, speed := k
        since := now u, fast := fast, fastAt := if fast then some (q.fastAt.getD (now u)) else none, page := page }) u)) ∧
      (common = none → exec (.autoneg g page speeds eee) s = .next (modPort g (fun q => { dropTaps q with st := 6, page := page }) u))) ∧
    (p.st = 2 → exec (.linkTrainingDone g) s = .next (upPort g s) ∧ exec (.linkLockTimeout g) s = .next (startPort g s)) ∧
    (portUp p = true →
      exec (.linkLoss g) s = .next (downPort g s) ∧
      exec (.controlFrameReceive g) s = .next (modPort g (fun p => { p with ctrlDrops := satAdd 0xFFFF p.ctrlDrops 1 }) s)) ∧
    (p.st = 3 → p.eeeOn = true → p.lastBusy + 2 ≤ s.node.time → exec (.lpiEntry g) s = .next (modPort g (fun p => { p with st := 5 }) s))

/-- Weftlink ports. In the exchange equal capability blocks are counted, and one whose CRC is wrong begins the count again; with the third the port
stops on a loop, trains fast where the stored session is the same, or at the best common mode of the two blocks, or has none; a port that
is not up repeats its own block every 10 µs, and in training takes the partner's repeat for what it is. A
port that trained without errors comes up with the tag of the side that leads, which sends it; one of 8 lanes of which one group failed
comes up degraded on the other where both sides allow 4 lanes, and one at 4 lanes with a failed lane starts again; parking and unparking,
whose failed check leads to the exchange; a fast retrain that lasts 200 ms drops what is stored and starts over. -/
def Obligations.WeftPorts : Prop :=
  ∀ (g : Nat) (s : State), linkLive s = true → 16 ≤ g → portExists s g = true →
    let p := portOf s g
    let v := checkStored s
    (∀ b, blockOk b = true → portUp p = false → p.st ≠ 2 →
      let run := if p.block = b then p.run + 1 else 1
      let u := modPort g (fun p => { p with block := b, run := run }) v
      let own := ownBlock u (g - 16)
      let feats := Nat.land (u16 own 4) (u16 b 4)
      let same := bitOf feats 1 && u16 b 6 == (portOf u g).partner && u8 b 8 == (portOf u g).page && u16 b 0xA == (portOf u g).tag &&
        (portOf u g).tag != 0
      let keep (p : Port) : Port :=
        { p with partner := u16 b 6, page := u8 b 8, park := bitOf feats 0, eeeOn := bitOf feats 2, since := now u }
      let lead (s : State) : State := if s.node.nodeId < u16 b 6 then emit (.link g 6 []) s else s
      (run < 3 → exec (.capabilityBlock g b) s = .next u) ∧
      (3 ≤ run → u16 b 6 = u.node.nodeId → exec (.capabilityBlock g b) s = .next (modPort g (fun p => { p with st := 7 }) u)) ∧
      (3 ≤ run → u16 b 6 ≠ u.node.nodeId → same = true → exec (.capabilityBlock g b) s = .next (lead (modPort g (fun p => { keep p with
        st := 2, fast := true, fastAt := some (p.fastAt.getD (now u)) }) u))) ∧
      (3 ≤ run → u16 b 6 ≠ u.node.nodeId → same = false →
        (commonMode own b = none → exec (.capabilityBlock g b) s = .next (modPort g (fun p => { keep p with st := 6 }) u)) ∧
        (∀ rate fec four, commonMode own b = some (rate, fec, four) →
          exec (.capabilityBlock g b) s = .next (lead (modPort g (fun p => { keep p with
            st := 2, rate := rate, fec := fec, width4 := four, degraded := false, goodGroup := none, fast := false, fastAt := none }) u))))) ∧
    (∀ b, blockKnown b = true → blockOk b = false → exec (.capabilityBlock g b) s = .next (modPort g (fun p => { p with run := 0 }) s)) ∧
    (∀ b, blockOk b = true → p.st = 2 → p.block = b → exec (.capabilityBlock g b) s = .next s) ∧
    (portUp p = false → p.blockAt.elim True (fun t => t + 10 ≤ s.node.time) → exec (.capabilityBlockRepeat g) s =
      .next (emit (.link g 1 (ownBlock v (g - 16))) (modPort g (fun p => { p with blockAt := some (now v) }) v))) ∧
    (p.st = 2 →
      (∀ tag, p.partner ≤ s.node.nodeId → exec (.weftTrainingDone g 0 tag) s =
        .next (upPort g (modPort g (fun p => { p with tag := tag % 65536 }) s))) ∧
      (∀ tag, s.node.nodeId < p.partner → let n := (draw s).1 % 65535 + 1
        exec (.weftTrainingDone g 0 tag) s =
          .next (upPort g (modPort g (fun p => { p with tag := n }) (emit (.link g 7 (toLe 2 n)) (draw s).2)))) ∧
      (∀ failed tag, let n := failed % 256
        n ≠ 0 → n % 16 = 0 ∨ n / 16 = 0 → p.width4 = false → weftSet s (g - 16) 1 = 1 → bitOf (u8 p.block 2) 1 = true →
        p.partner ≤ s.node.nodeId → exec (.weftTrainingDone g failed tag) s = .next (upPort g (modPort g (fun p => { p with
          tag := tag % 65536, degraded := true, width4 := true, goodGroup := some (if n % 16 = 0 then 0 else 1) }) s))) ∧
      (∀ failed tag, failed % 256 ≠ 0 → p.width4 = true → p.goodGroup = none →
        exec (.weftTrainingDone g failed tag) s = .next (startPort g s))) ∧
    (portUp p = true →
      (p.park = true → exec (.parkReq g) s = .next (emit (.link g 3 []) (modPort g (fun p => { p with st := 4, parkAsked := false }) s))) ∧
      (p.parkAsked = true → exec (.parkAck g) s = .next (modPort g (fun p => { p with st := 4, parkAsked := false }) s)) ∧
      (∀ ok, p.st ≠ 4 → exec (.unpark g ok) s = .next (modPort g (fun p => { p with parkAsked := false }) s)) ∧
      (p.st = 4 → exec (.unpark g true) s = .next (modPort g (fun p => { p with st := 3 }) s) ∧ exec (.unpark g false) s =
        .next (modPort g (fun p => { p with fastAt := some (now s) }) (downPort g s)))) ∧
    (∀ t, portUp p = false → p.fastAt = some t → t + 200000 ≤ s.node.time →
      exec (.fastRetrainTimeout g) s = .next (startPort g (modPort g dropTaps s)))

/-! ### The host interface -/

/-- Doorbells, and a queue pair's enabling, disabling and end: an index beyond either ring is error 1; enabling clears the indices and
sets the phase, or answers sizes or a vector out of range with error 4; disabling keeps what was accepted; a queue pair with nothing in
flight is disabled. -/
def Obligations.QueuePairs : Prop :=
  ∀ (f q : Nat) (s : State), barsLive s = true → s.node.phase = .active → qpExists f q = true →
    let v := qpOf s f q
    (∀ i, v.state = 1 → i < 65536 →
      (i < 2 ^ (v.sqLog + 4) → exec (.sqDoorbell f q i) s = .next (modQp f q (fun v => { v with sqTail := i }) s)) ∧
      (i < 2 ^ (v.cqLog + 4) → exec (.cqDoorbell f q i) s = .next (modQp f q (fun v => { v with cqHead := i }) s)) ∧
      (2 ^ (v.sqLog + 4) ≤ i → exec (.sqDoorbell f q i) s = .next (qpFault f q 1 (modQp f q (fun v => { v with sqTail := i }) s))) ∧
      (2 ^ (v.cqLog + 4) ≤ i → exec (.cqDoorbell f q i) s = .next (qpFault f q 1 (modQp f q (fun v => { v with cqHead := i }) s)))) ∧
    (∀ (cfg : BitVec 64), windowLive s f = true → v.state = 0 →
      let n := setBit cfg.toNat 15
      (12 < bitsOf n 0 4 ∨ 12 < bitsOf n 4 4 ∨ vecMax f < bitsOf n 8 7 → exec (.qpEnable f q cfg) s = .next (qpErr f q 4 (modQp f q
        (fun v => { v with coalCount := bitsOf n 16 8, coalUs := bitsOf n 24 8, sqLog := bitsOf n 0 4, cqLog := bitsOf n 4 4
                           vector := bitsOf n 8 7 }) s))) ∧
      (bitsOf n 0 4 ≤ 12 → bitsOf n 4 4 ≤ 12 → bitsOf n 8 7 ≤ vecMax f →
      ∃ u, exec (.qpEnable f q cfg) s = .next u ∧ (qpOf u f q).en = true ∧ (qpOf u f q).state = 1 ∧ (qpOf u f q).err = 0 ∧
        (qpOf u f q).sqHead = 0 ∧ (qpOf u f q).sqTail = 0 ∧ (qpOf u f q).cqHead = 0 ∧ (qpOf u f q).cqTail = 0 ∧
        (qpOf u f q).phase = true ∧ (qpOf u f q).sqLog = bitsOf n 0 4 ∧ (qpOf u f q).cqLog = bitsOf n 4 4 ∧
        (qpOf u f q).vector = bitsOf n 8 7)) ∧
    (∀ (cfg : BitVec 64), windowLive s f = true → v.state = 1 ∨ v.state = 2 →
      ∃ u, exec (.qpDisable f q cfg) s = .next u ∧ (qpOf u f q).en = false ∧ (qpOf u f q).state = 3 ∧ u.cmds = s.cmds) ∧
    (v.state = 3 → v.ready = [] → (∀ e ∈ s.cmds, e.2.src ≠ .qp f q) → s.dbg.frozen = false →
      exec (.qpQuiesceDone f q) s =
        .next (modQp f q (fun v => { v with state := 0, sqHead := 0, cqTail := 0, err := 0, coalesced := 0 }) s))

/-- Rings at work: an entry that is fetched moves the head on and its packet is submitted, and a failed fetch is error 2; a reply that is
ready is posted as an entry with the phase, with an interrupt where it asks for one, and a failed post is error 3; an entry that does not
ask is counted, and the one that reaches COAL_COUNT raises the vector, as does coalescing that waits too long. -/
def Obligations.RingTraffic : Prop :=
  ∀ (f q : Nat) (s : State),
    let v := qpOf s f q
    let size := 2 ^ (v.sqLog + 4)
    (ringsFetched s = true → srcLive s (.qp f q) = true → v.sqHead % size ≠ v.sqTail % size → ∀ entry params,
      (isDataPath (u16 (entryPacket entry params).bytes 0) = true ∨ (s.node.restart = none ∧
          (s.cmds.filter (fun e => e.2.src == .qp f q && !isDataPath e.2.opcode)).length < 32) →
        exec (.sqEntryFetch f q entry params false) s =
          .next (submit (.qp f q) (entryPacket entry params) runOp (modQp f q (fun v => { v with sqHead := (v.sqHead + 1) % size }) s))) ∧
      exec (.sqEntryFetch f q entry params true) s = .next (qpFault f q 2 s)) ∧
    (∀ c rest, v.ready = c :: rest → v.state ≠ 0 → v.err ≠ 3 → (fnOf s f).d0 = true → (fnOf s f).bme = true → barsLive s = true →
      let tail := (v.cqTail + 1) % 2 ^ (v.cqLog + 4)
      let posted (coalesced coalAt : Nat) : State := emit (.cqEntry f q v.cqTail (cqEntry v q c)) (modQp f q (fun w => { w with
        ready := rest, cqTail := tail, phase := if tail = 0 then !w.phase else w.phase, coalesced := coalesced, coalAt := coalAt }) s)
      (c.notify = true → exec (.completionPost f q false) s = .next (raiseMsi f v.vector (posted v.coalesced v.coalAt))) ∧
      (c.notify = false → v.coalCount = 0 → exec (.completionPost f q false) s =
        .next (posted v.coalesced (if v.coalesced = 0 then now s + v.coalUs else v.coalAt))) ∧
      (c.notify = false → v.coalCount ≠ 0 → v.coalesced + 1 < v.coalCount → exec (.completionPost f q false) s =
        .next (posted (v.coalesced + 1) (if v.coalesced = 0 then now s + v.coalUs else v.coalAt))) ∧
      (c.notify = false → v.coalCount ≠ 0 → v.coalCount ≤ v.coalesced + 1 → exec (.completionPost f q false) s =
        .next (raiseMsi f v.vector (posted 0 (if v.coalesced = 0 then now s + v.coalUs else v.coalAt)))) ∧
      exec (.completionPost f q true) s = .next (qpFault f q 3 s)) ∧
    (v.state ≠ 0 → v.coalCount ≠ 0 → 0 < v.coalesced → v.coalAt ≤ s.node.time → barsLive s = true →
      exec (.coalUsExpiry f q) s = .next (raiseMsi f v.vector (modQp f q (fun v => { v with coalesced := 0 }) s)))

/-- PCI Express: a function-level reset (of the PF, of every function), the reset of all by link down, PERST_N or a cleared VF Enable, that
of the VFs beyond a smaller NumVFs, and the power states of a function, which on its return to D0 posts what waited in its rings and
raises the vectors that waited; one that has nothing waiting emits nothing. -/
def Obligations.PcieEvents : Prop :=
  ∀ s : State, pcieOn s = true →
    (s.dbg.frozen = false → exec (.flr 0) s = .next (flrAll s) ∧ ∀ f, 1 ≤ f → f ≤ 24 → exec (.flr f) s = .next (flrFn f s)) ∧
    exec .pcieLinkDown s = .next (flrAll s) ∧ exec (.refLoss .pcie) s = .next (flrAll s) ∧
    (s.dbg.frozen = false → exec (.vfEnableClear 0) s = .next (flrAll s) ∧ ∀ n, n ≠ 0 → exec (.vfEnableClear n) s =
      .next (((List.range 25).filter (fun f => n < f)).foldl (fun s f => flrFn f s) s)) ∧
    exec (.perstN true) s = .next (modNode (fun n => { n with perstHeld := true }) (flrAll s)) ∧
    exec (.perstN false) s = .next (modNode (fun n => { n with perstHeld := false }) s) ∧
    (∀ f, f ≤ 24 → exec (.d3hot f false) s = .next (modFn f (fun v => { v with d0 := false }) s) ∧
      exec (.d3hot f true) s = .next (modFn f (fun v => { v with bme := false }) s) ∧
      (let u := drainRing f .event (modFn f (fun v => { v with d0 := true, bme := true, pending := [] }) s)
       exec (.returnToD0 f) s = .next ((fnOf s f).pending.foldl (fun s v => raiseMsi f v s)
         (((part u f).poolRings.map (·.1)).foldl (fun s i => drainRing f (.pool i) s) u))) ∧
      ((part s f).poolRings = [] → (fnOf s f).evt.waiting = [] → (fnOf s f).pending = [] →
        ∃ u, exec (.returnToD0 f) s = .next u ∧ (fnOf u f).d0 = true ∧ (fnOf u f).bme = true ∧ u.out = s.out))

/-- The registers: a ring's enabling and its head, the metering selector, NODE_ID and SELFTEST; a write in BAR0 acts on the register of the
window or of node-global space that its address names, and does nothing where it names none; one in BAR2 is the doorbell it names. -/
def Obligations.Registers : Prop :=
  ∀ (f : Nat) (s : State), windowLive s f = true → s.node.phase = .active →
    (∀ (ctl : BitVec 64), let n := setBit ctl.toNat 5
      (fnOf s f).evt.en = false → 6 ≤ bitsOf n 0 5 → bitsOf n 0 5 ≤ 16 → (fnOf s f).evt.waiting = [] →
      ∃ u, exec (.ringEnable f .event ctl) s = .next u ∧ (fnOf u f).evt.en = true ∧ (fnOf u f).evt.tail = 0 ∧
        (fnOf u f).evt.logSize = bitsOf n 0 5) ∧
    (∀ i h, exec (.ringHeadWrite f (.pool i) h) s =
      .next (drainRing f (.pool i) (modRing f (.pool i) (fun v => { v with head := h % 2 ^ v.logSize }) s))) ∧
    (∀ job, exec (.mtrSel f job) s = .next (writeMtrSel f (job % 2 ^ 32) s)) ∧
    (∀ n, barsLive s = true → exec (.nodeIdWrite 0 n) s = .next (writeNodeId n s) ∧ exec (.selftest 0) s = .next (startSelftest s)) ∧
    (f ≤ 24 → ∀ off half val, off % 8 = 0 →
      (regPlace f off = none → exec (.registerWrite f 0 off half val) s = .next s) ∧
      (∀ o, regPlace f off = some (true, o) → exec (.registerWrite f 0 off half val) s =
        .next (writeGlobal o (halfVal half val) (halfBits half).1 (halfBits half).2 half val s)) ∧
      (∀ o, regPlace f off = some (false, o) → exec (.registerWrite f 0 off half val) s =
        .next (writeWindow f o (halfVal half val) (halfBits half).1 (halfBits half).2 half val s))) ∧
    (f ≤ 24 → ∀ q half val, (halfBits half).1 = 0 →
      exec (.registerWrite f 2 (4096 * q) half val) s = .next (doorbell false f q (halfVal half val) s) ∧
      exec (.registerWrite f 2 (4096 * q + 8) half val) s = .next (doorbell true f q (halfVal half val) s))

/-- The raw aperture: a write stores its bytes where the steering register points, and no other byte of the addressed memory changes;
a read shows the bytes and changes nothing. -/
def Obligations.RawAperture : Prop :=
  ∀ (f off len : Nat) (s : State), barsLive s = true → s.node.phase = .active →
    let steer := apertureOf s f f
    (tget [] (cell s (bitsOf steer 0 5)).banks (bitsOf steer 8 11)).head?.map (·.first) ≠ some true →
    exec (.rawApertureAccess f f off len none) s = .next (emit (.apertureData f (apertureRead s f steer off len)) s) ∧
    (∀ data : List Byte, data.length ≤ len →
      ∃ u, exec (.rawApertureAccess f f off len (some data)) s = .next u ∧
        (∀ a, (∀ i, i < data.length → apertureByte s f steer (off + i) ≠ some a) → rawGet u.raw a = rawGet s.raw a) ∧
        (Inv s → ∀ i a, i < data.length → apertureByte s f steer (off + i) = some a → rawGet u.raw a = data.getD i 0) ∧
        u.parts = s.parts ∧ u.cells = s.cells ∧ u.node = s.node ∧ u.cmds = s.cmds ∧ u.pmem = s.pmem)

/-! ### The pool -/

/-- The pool's own work in a partition that runs: an epoch of 10 µs passes and what it kept back is reclaimed; a sweep that is due raises
every age by 1 (saturating), begins a new count of reads, and gives each sequence the least age of its pages; the sequence of the greatest
such age that may go is evicted with an event; the pool's state is published; a second of page use is metered to the jobs of pages and of
lent pages. The patrol scrub of a cell whose stack works reads the next granule of its pass, sets SCRUB_LAP at the end of the
pass, and rewrites the granule at the head of its queue (of a page slot, of the metadata region, of a lent page, of the shadow region or of a
lent page's record), after which the granule holds no corrected word. -/
def Obligations.PoolWork : Prop :=
  (∀ (p : Nat) (s : State), partRuns s p = true →
    ((part s p).epsAt + 10 ≤ s.node.time →
      exec (.epochAdvance p) s = .next (reclaim p (modPart p (fun v => { v with eps := (v.eps + 1) % 2 ^ 64, epsAt := now s }) s))) ∧
    ((part s p).sweepAt + 1000 * (part s p).pool.sweepMs ≤ s.node.time →
      let u := (partCells s p).foldl (fun s c => modCell c (fun v => { v with
        pages := v.pages.map (fun e => (e.1, { e.2 with age := satAdd 255 e.2.age 1, reads := 0 }))
        lends := v.lends.map (fun e => (e.1, { e.2 with age := satAdd 255 e.2.age 1 })) }) s) s
      let ages := (part u p).seqs.map (fun e => (e.1, if e.2.map.isEmpty then satAdd 255 e.2.age 1 else leastAge u e.2))
      exec (.clockSweep p) s = .next (modPart p (fun v => { v with
        seqs := v.seqs.map (fun e => (e.1, { e.2 with age := tget e.2.age ages e.1 })), sweepAt := now u }) u)) ∧
    (∀ key q, (poolCells s p).isEmpty = false → poolLevel s p < (part s p).pool.highWm → projectedLevel s p < (part s p).pool.highWm →
      maxBy (fun e => leastAge s e.2) ((part s p).seqs.filter (fun e => evictable s p e.2)) = some (key, q) →
      exec (.eviction p) s = .next (postEvent 0 p p (toLe 4 q.job ++ toLe 6 q.seq) (destroySeq p key s))) ∧
    (∃ u, exec (.poolStatUpdate p) s = .next u ∧ (part u p).stat.level = poolLevel s p ∧
      ((poolCells s p).isEmpty = false →
        ((part u p).stat.evicting = true ↔ poolLevel s p < (part s p).pool.highWm) ∧
        ((part u p).stat.admitStop = true ↔ poolLevel s p < (part s p).pool.lowWm) ∧
        ((part u p).stat.allocStop = true ↔ poolLevel s p < (part s p).pool.hardFloor))) ∧
    (let pages (c : Nat) (s : State) : State :=
       (cell s c).pages.foldl (fun s e => meter p e.2.r.job (fun m => { m with pageS := sat64 m.pageS (slotUnits e.2.cls) }) s) s
     let lent (c : Nat) (s : State) : State :=
       (cell s c).lent.foldl (fun s e => meter p e.2.job (fun m => { m with lendPageS := sat64 m.lendPageS (slotUnits e.2.cls) }) s) s
     let u := (partCells s p).foldl (fun s c => lent c (pages c s)) s
     exec (.meteringSecond p) s = .next u)) ∧
  (∀ (k : Nat) (s : State), scrubRuns s k = true →
    (∀ raced,
      (∀ g, scrubNext s k = some g → exec (.scrubGranule k raced) s =
        .next (scrubAt k g raced (modCell k (fun v => { v with scrubPos := g + 1 }) s))) ∧
      (scrubNext s k = none → exec (.scrubGranule k raced) s = .next (modCell k (fun v => { v with scrubPos := 0, scrubLap := true }) s))) ∧
    (∀ g rest, (cell s k).rewriteQ = g :: rest → ∃ u, exec (.scrubRewrite k) s = .next u ∧
      let t := modCell k (fun v => { v with rewriteQ := rest }) s
      let i := g - 2 ^ 41
      let j := 2 * (g - 2 ^ 42)
      let n := g - 2 ^ 43
      (g < 2 ^ 40 → u = setGran g { gran t g with cls := rewritten (gran t g).cls } t) ∧
      (2 ^ 40 ≤ g → g < 2 ^ 41 → u = setMeta k (g - 2 ^ 40) (rewritten (metaClsOf (cell t k) (g - 2 ^ 40))) t) ∧
      (2 ^ 41 ≤ g → g < 2 ^ 42 → u = modCell k (fun v => { v with lent := tmod v.lent (i / 512) (fun x => { x with
        grans := tmod x.grans (i % 512) (fun y => { y with cls := rewritten y.cls }) }) }) t) ∧
      (2 ^ 42 ≤ g → g < 2 ^ 43 → u = modCell k (fun v => { v with
        shadow := [j, j + 1].foldl (fun t e => tmod t e (fun x => { x with cls := rewritten x.cls })) v.shadow }) t) ∧
      (2 ^ 43 ≤ g → u = modCell k (fun v => { v with
        lent := tmod v.lent (n / 32) (fun x => { x with recCls := tmod x.recCls (n % 32) rewritten }) }) t)) ∧
    (∀ cls : List Nat, ∀ x ∈ rewritten cls, x ≠ 1 ∧ x ≠ 2))

/-! ### The cells at work -/

/-- A cell that works: the group at the head of its wait is admitted, the core whose turn it is pulls a token, the oldest credit of the
next core is fetched (or, where there is none, a run-ahead fetch goes), a page without bad words lands in its place and one with bad words
is left out, a tile is consumed, a token finishes, a selection ends, and a partial is merged; words of an earlier incarnation of the cell
or core are dropped and counted. An element that took a bank which a fetch reads runs before it. -/
def Obligations.CellWork : Prop :=
  ∀ (k j : Nat) (s : State), cellWorks s k = true →
    let turn := (List.range 16).map (fun i => ((cell s k).lastFetch + 1 + i) % 16)
    let stale := modCell k (fun v => { v with staleDrops := satAdd 0xFFFF v.staleDrops 1 }) s
    exec (.dispatchAdmit k) s = .next (admitTokens k s) ∧
    (nextCore (cell s k) = some j → exec (.tokenPull k j) s = .next (pull k j s)) ∧
    (∀ i pl, turn.find? (fun n => (nextCredit (coreOf (cell s k) n)).isSome) = some i → nextCredit (coreOf (cell s k) i) = some pl →
      exec (.pageFetch k) s = .next (modPlace k i pl.idx (fun p => if p.order = pl.order && p.st = 1 then { p with st := 2 } else p)
        (modCell k (fun v => { v with lastFetch := i }) s))) ∧
    (turn.find? (fun n => (nextCredit (coreOf (cell s k) n)).isSome) = none → exec (.pageFetch k) s = .next (runAhead k turn s)) ∧
    (∀ place inc, placeOwner (coreOf (cell s k) j) place = none →
      (inc ≠ (cell s k).inc → exec (.pageFetchDone k j place inc) s = .next stale) ∧
      (inc = (cell s k).inc → exec (.pageFetchDone k j place inc) s = .next (aheadLands k j place s))) ∧
    (∀ place n0 h0 p0 n ht pl, placeOwner (coreOf (cell s k) j) place = some (n0, h0, p0) →
      let a := fetchAccess k h0 p0 s
      cellWorks a k = true → placeOwner (coreOf (cell a k) j) place = some (n, ht, pl) →
      let x := ctxOf a ht.tok.ctx
      let grans := fetchGrans (walkRec a pl.handle) (walkCls a pl.handle) (min 64 (x.len - 64 * pl.page))
      let r := if isLent pl.handle then readLent pl.handle grans a else commitRead pl.handle grans a
      let at_ := (ht.places.takeWhile (fun p => p.idx != place || p.st != 2)).length
      (∀ inc, inc ≠ (cell a k).inc → exec (.pageFetchDone k j place inc) s =
        .next (modCell k (fun v => { v with staleDrops := satAdd 0xFFFF v.staleDrops 1 }) a)) ∧
      (r.1 = false → (walkRec a pl.handle).poisoned = false →
        let h' := { ht with places := ht.places.set at_ { pl with st := 3, promote := false, data := loadPlace r.2 x.part pl.handle } }
        let u := if pl.promote then t1Take pl.handle r.2 else r.2
        exec (.pageFetchDone k j place (cell a k).inc) s =
          .next (advanceHeld k j n (modCore k j (fun w => { w with held := w.held.set n h', progress := now u }) u))) ∧
      (r.1 = true ∨ (walkRec a pl.handle).poisoned = true →
        let h' := flagRows x (tget {} x.groups ht.tok.grp) pl.page { ht with places := ht.places.set at_ { pl with st := 6 } }
        let u := excludePage ht.tok.ctx ht.tok.grp pl.page pl.handle r.2
        exec (.pageFetchDone k j place (cell a k).inc) s =
          .next (advanceHeld k j n (modCore k j (fun w => { w with held := w.held.set n h', progress := now u }) u)))) ∧
    ((coreOf (cell s k) j).st = 0 →
      exec (.vTileConsumed k j) s = .next (consume k j s) ∧
      exec (.tokenFinish k j (coreOf (cell s k) j).inc) s = .next (finishToken k j s) ∧
      exec (.selectionDone k j (coreOf (cell s k) j).inc) s = .next (select k j s)) ∧
    (∀ inc, inc ≠ (coreOf (cell s k) j).inc → exec (.tokenFinish k j inc) s = .next stale ∧ exec (.selectionDone k j inc) s = .next stale) ∧
    (∀ r rest, (cell s k).reports = r :: rest →
      let u := modCell k takeWord s
      (r.inc = (cell s k).inc → exec (.cellPartialReceive k) s = .next (arrive r.ctx r.grp k r.lowPage r.rows u)) ∧
      (r.inc ≠ (cell s k).inc → exec (.cellPartialReceive k) s =
        .next (modCell k (fun v => { v with staleDrops := satAdd 0xFFFF v.staleDrops 1 }) u)))

/-- The queue of a gradient set: the oldest live request runs on when its turn has come; when a page of a flush has gone out it leaves the
set and the next one goes, and a connection that fails ends the request with INTERNAL. -/
def Obligations.GradientQueue : Prop :=
  ∀ (p g : Nat) (s : State), nodeLive s = true →
    (∀ id rest i cm, let u := modGset p g (fun w => { w with queue := w.queue.filter (fun id => thas s.cmds id) }) s
      (tget {} (part u p).gsets g : GSet).queue = id :: rest → tget? s.cmds id = some cm → cm.ctx = some i →
      exec (.gsetQueueResume p g) s = .next (pump (settle i (modCtx i (fun x => { x with waiting := false }) u)))) ∧
    (∀ i, (ctxOf s i).shipping = true → (ctxOf s i).r.bwd = true →
      exec (.gradMessageDone i false) s = .next (endCtx i (err stInternal) s) ∧
      (∀ q rest, gradOrder (tget {} (part s (ctxOf s i).part).gsets (ctxOf s i).r.gset) = q :: rest →
        exec (.gradMessageDone i true) s = .next (shipNext i (modCtx i (fun x => { x with shipped := x.shipped + 1 })
          (modGset (ctxOf s i).part (ctxOf s i).r.gset (fun w => { w with
            shipped := w.shipped + 1, pages := w.pages.filter (fun y => !(y.kv == q.kv && y.page == q.page)) }) s)))))

/-! ### Management outside the command set -/

/-- A PLDM sensor reads as a value the spec leaves open; a firmware chunk and an activation over PLDM act as FW_STAGE and FW_ACTIVATE do;
the I3C mode is entered. -/
def Obligations.SidebandManagement : Prop :=
  ∀ s : State, nodeLive s = true → s.node.phase = .active → s.dbg.frozen = false → s.node.restart = none → s.sec.mstate < 2 →
    (∀ k, exec (.pldmRequest (.sensor k)) s = .next (emit (.mctp 3 (toLe 2 k ++ toLe 4 (draw s).1)) (draw s).2)) ∧
    (∀ off len final chunk, let r := stageChunk off len final chunk s
      exec (.pldmRequest (.fwData off len final chunk)) s = .next (emit (.mctp 5 (toLe 2 r.2.status)) r.1)) ∧
    exec (.pldmRequest .fwActivate) s =
      .next (emit (.mctp 5 (toLe 2 ((activate none s).2.elim 0 (·.status)))) (activate none s).1) ∧
    exec .i3cModeEntry s = .next (modNode (fun n => { n with i3c := true }) s)
end

