-- ==== Sys2Proof/Laws/State.lean ====
section
/-! SUPPORT. One lemma per field per update of the state: what each named update leaves as it was, and what it sets. -/

set_option Elab.async false

namespace Sys2Proof.Laws

open Sys2Proof.Machine

@[simp] theorem setPart_pending (p : Nat) (v : Partn) (s : State) : (setPart p v s).pending = s.pending := rfl
@[simp] theorem setPart_oracle (p : Nat) (v : Partn) (s : State) : (setPart p v s).oracle = s.oracle := rfl
@[simp] theorem setPart_free (p : Nat) (v : Partn) (s : State) : (setPart p v s).free = s.free := rfl
@[simp] theorem setPart_out (p : Nat) (v : Partn) (s : State) : (setPart p v s).out = s.out := rfl
@[simp] theorem setPart_node (p : Nat) (v : Partn) (s : State) : (setPart p v s).node = s.node := rfl
@[simp] theorem setPart_sec (p : Nat) (v : Partn) (s : State) : (setPart p v s).sec = s.sec := rfl
@[simp] theorem setPart_pwr (p : Nat) (v : Partn) (s : State) : (setPart p v s).pwr = s.pwr := rfl
@[simp] theorem setPart_ports (p : Nat) (v : Partn) (s : State) : (setPart p v s).ports = s.ports := rfl
@[simp] theorem setPart_neigh (p : Nat) (v : Partn) (s : State) : (setPart p v s).neigh = s.neigh := rfl
@[simp] theorem setPart_dbg (p : Nat) (v : Partn) (s : State) : (setPart p v s).dbg = s.dbg := rfl
@[simp] theorem setPart_fns (p : Nat) (v : Partn) (s : State) : (setPart p v s).fns = s.fns := rfl
@[simp] theorem setPart_parts (p : Nat) (v : Partn) (s : State) : (setPart p v s).parts = tset s.parts p v := rfl
@[simp] theorem setPart_cells (p : Nat) (v : Partn) (s : State) : (setPart p v s).cells = s.cells := rfl
@[simp] theorem setPart_ctxs (p : Nat) (v : Partn) (s : State) : (setPart p v s).ctxs = s.ctxs := rfl
@[simp] theorem setPart_cmds (p : Nat) (v : Partn) (s : State) : (setPart p v s).cmds = s.cmds := rfl
@[simp] theorem setPart_conns (p : Nat) (v : Partn) (s : State) : (setPart p v s).conns = s.conns := rfl
@[simp] theorem setPart_reuse (p : Nat) (v : Partn) (s : State) : (setPart p v s).reuse = s.reuse := rfl
@[simp] theorem setPart_raw (p : Nat) (v : Partn) (s : State) : (setPart p v s).raw = s.raw := rfl
@[simp] theorem setPart_pmem (p : Nat) (v : Partn) (s : State) : (setPart p v s).pmem = s.pmem := rfl
@[simp] theorem modPart_pending (p : Nat) (f : Partn → Partn) (s : State) : (modPart p f s).pending = s.pending := rfl
@[simp] theorem modPart_oracle (p : Nat) (f : Partn → Partn) (s : State) : (modPart p f s).oracle = s.oracle := rfl
@[simp] theorem modPart_free (p : Nat) (f : Partn → Partn) (s : State) : (modPart p f s).free = s.free := rfl
@[simp] theorem modPart_out (p : Nat) (f : Partn → Partn) (s : State) : (modPart p f s).out = s.out := rfl
@[simp] theorem modPart_node (p : Nat) (f : Partn → Partn) (s : State) : (modPart p f s).node = s.node := rfl
@[simp] theorem modPart_sec (p : Nat) (f : Partn → Partn) (s : State) : (modPart p f s).sec = s.sec := rfl
@[simp] theorem modPart_pwr (p : Nat) (f : Partn → Partn) (s : State) : (modPart p f s).pwr = s.pwr := rfl
@[simp] theorem modPart_ports (p : Nat) (f : Partn → Partn) (s : State) : (modPart p f s).ports = s.ports := rfl
@[simp] theorem modPart_neigh (p : Nat) (f : Partn → Partn) (s : State) : (modPart p f s).neigh = s.neigh := rfl
@[simp] theorem modPart_dbg (p : Nat) (f : Partn → Partn) (s : State) : (modPart p f s).dbg = s.dbg := rfl
@[simp] theorem modPart_fns (p : Nat) (f : Partn → Partn) (s : State) : (modPart p f s).fns = s.fns := rfl
@[simp] theorem modPart_parts (p : Nat) (f : Partn → Partn) (s : State) : (modPart p f s).parts = tset s.parts p (f (part s p)) := rfl
@[simp] theorem modPart_cells (p : Nat) (f : Partn → Partn) (s : State) : (modPart p f s).cells = s.cells := rfl
@[simp] theorem modPart_ctxs (p : Nat) (f : Partn → Partn) (s : State) : (modPart p f s).ctxs = s.ctxs := rfl
@[simp] theorem modPart_cmds (p : Nat) (f : Partn → Partn) (s : State) : (modPart p f s).cmds = s.cmds := rfl
@[simp] theorem modPart_conns (p : Nat) (f : Partn → Partn) (s : State) : (modPart p f s).conns = s.conns := rfl
@[simp] theorem modPart_reuse (p : Nat) (f : Partn → Partn) (s : State) : (modPart p f s).reuse = s.reuse := rfl
@[simp] theorem modPart_raw (p : Nat) (f : Partn → Partn) (s : State) : (modPart p f s).raw = s.raw := rfl
@[simp] theorem modPart_pmem (p : Nat) (f : Partn → Partn) (s : State) : (modPart p f s).pmem = s.pmem := rfl
@[simp] theorem setCell_pending (c : Nat) (v : Cell) (s : State) : (setCell c v s).pending = s.pending := rfl
@[simp] theorem setCell_oracle (c : Nat) (v : Cell) (s : State) : (setCell c v s).oracle = s.oracle := rfl
@[simp] theorem setCell_free (c : Nat) (v : Cell) (s : State) : (setCell c v s).free = s.free := rfl
@[simp] theorem setCell_out (c : Nat) (v : Cell) (s : State) : (setCell c v s).out = s.out := rfl
@[simp] theorem setCell_node (c : Nat) (v : Cell) (s : State) : (setCell c v s).node = s.node := rfl
@[simp] theorem setCell_sec (c : Nat) (v : Cell) (s : State) : (setCell c v s).sec = s.sec := rfl
@[simp] theorem setCell_pwr (c : Nat) (v : Cell) (s : State) : (setCell c v s).pwr = s.pwr := rfl
@[simp] theorem setCell_ports (c : Nat) (v : Cell) (s : State) : (setCell c v s).ports = s.ports := rfl
@[simp] theorem setCell_neigh (c : Nat) (v : Cell) (s : State) : (setCell c v s).neigh = s.neigh := rfl
@[simp] theorem setCell_dbg (c : Nat) (v : Cell) (s : State) : (setCell c v s).dbg = s.dbg := rfl
@[simp] theorem setCell_fns (c : Nat) (v : Cell) (s : State) : (setCell c v s).fns = s.fns := rfl
@[simp] theorem setCell_parts (c : Nat) (v : Cell) (s : State) : (setCell c v s).parts = s.parts := rfl
@[simp] theorem setCell_cells (c : Nat) (v : Cell) (s : State) : (setCell c v s).cells = tset s.cells c v := rfl
@[simp] theorem setCell_ctxs (c : Nat) (v : Cell) (s : State) : (setCell c v s).ctxs = s.ctxs := rfl
@[simp] theorem setCell_cmds (c : Nat) (v : Cell) (s : State) : (setCell c v s).cmds = s.cmds := rfl
@[simp] theorem setCell_conns (c : Nat) (v : Cell) (s : State) : (setCell c v s).conns = s.conns := rfl
@[simp] theorem setCell_reuse (c : Nat) (v : Cell) (s : State) : (setCell c v s).reuse = s.reuse := rfl
@[simp] theorem setCell_raw (c : Nat) (v : Cell) (s : State) : (setCell c v s).raw = s.raw := rfl
@[simp] theorem setCell_pmem (c : Nat) (v : Cell) (s : State) : (setCell c v s).pmem = s.pmem := rfl
@[simp] theorem modCell_pending (c : Nat) (f : Cell → Cell) (s : State) : (modCell c f s).pending = s.pending := rfl
@[simp] theorem modCell_oracle (c : Nat) (f : Cell → Cell) (s : State) : (modCell c f s).oracle = s.oracle := rfl
@[simp] theorem modCell_free (c : Nat) (f : Cell → Cell) (s : State) : (modCell c f s).free = s.free := rfl
@[simp] theorem modCell_out (c : Nat) (f : Cell → Cell) (s : State) : (modCell c f s).out = s.out := rfl
@[simp] theorem modCell_node (c : Nat) (f : Cell → Cell) (s : State) : (modCell c f s).node = s.node := rfl
@[simp] theorem modCell_sec (c : Nat) (f : Cell → Cell) (s : State) : (modCell c f s).sec = s.sec := rfl
@[simp] theorem modCell_pwr (c : Nat) (f : Cell → Cell) (s : State) : (modCell c f s).pwr = s.pwr := rfl
@[simp] theorem modCell_ports (c : Nat) (f : Cell → Cell) (s : State) : (modCell c f s).ports = s.ports := rfl
@[simp] theorem modCell_neigh (c : Nat) (f : Cell → Cell) (s : State) : (modCell c f s).neigh = s.neigh := rfl
@[simp] theorem modCell_dbg (c : Nat) (f : Cell → Cell) (s : State) : (modCell c f s).dbg = s.dbg := rfl
@[simp] theorem modCell_fns (c : Nat) (f : Cell → Cell) (s : State) : (modCell c f s).fns = s.fns := rfl
@[simp] theorem modCell_parts (c : Nat) (f : Cell → Cell) (s : State) : (modCell c f s).parts = s.parts := rfl
@[simp] theorem modCell_cells (c : Nat) (f : Cell → Cell) (s : State) : (modCell c f s).cells = tset s.cells c (f (cell s c)) := rfl
@[simp] theorem modCell_ctxs (c : Nat) (f : Cell → Cell) (s : State) : (modCell c f s).ctxs = s.ctxs := rfl
@[simp] theorem modCell_cmds (c : Nat) (f : Cell → Cell) (s : State) : (modCell c f s).cmds = s.cmds := rfl
@[simp] theorem modCell_conns (c : Nat) (f : Cell → Cell) (s : State) : (modCell c f s).conns = s.conns := rfl
@[simp] theorem modCell_reuse (c : Nat) (f : Cell → Cell) (s : State) : (modCell c f s).reuse = s.reuse := rfl
@[simp] theorem modCell_raw (c : Nat) (f : Cell → Cell) (s : State) : (modCell c f s).raw = s.raw := rfl
@[simp] theorem modCell_pmem (c : Nat) (f : Cell → Cell) (s : State) : (modCell c f s).pmem = s.pmem := rfl
@[simp] theorem modCore_pending (c k : Nat) (f : Core → Core) (s : State) : (modCore c k f s).pending = s.pending := rfl
@[simp] theorem modCore_oracle (c k : Nat) (f : Core → Core) (s : State) : (modCore c k f s).oracle = s.oracle := rfl
@[simp] theorem modCore_free (c k : Nat) (f : Core → Core) (s : State) : (modCore c k f s).free = s.free := rfl
@[simp] theorem modCore_out (c k : Nat) (f : Core → Core) (s : State) : (modCore c k f s).out = s.out := rfl
@[simp] theorem modCore_node (c k : Nat) (f : Core → Core) (s : State) : (modCore c k f s).node = s.node := rfl
@[simp] theorem modCore_sec (c k : Nat) (f : Core → Core) (s : State) : (modCore c k f s).sec = s.sec := rfl
@[simp] theorem modCore_pwr (c k : Nat) (f : Core → Core) (s : State) : (modCore c k f s).pwr = s.pwr := rfl
@[simp] theorem modCore_ports (c k : Nat) (f : Core → Core) (s : State) : (modCore c k f s).ports = s.ports := rfl
@[simp] theorem modCore_neigh (c k : Nat) (f : Core → Core) (s : State) : (modCore c k f s).neigh = s.neigh := rfl
@[simp] theorem modCore_dbg (c k : Nat) (f : Core → Core) (s : State) : (modCore c k f s).dbg = s.dbg := rfl
@[simp] theorem modCore_fns (c k : Nat) (f : Core → Core) (s : State) : (modCore c k f s).fns = s.fns := rfl
@[simp] theorem modCore_parts (c k : Nat) (f : Core → Core) (s : State) : (modCore c k f s).parts = s.parts := rfl
@[simp] theorem modCore_ctxs (c k : Nat) (f : Core → Core) (s : State) : (modCore c k f s).ctxs = s.ctxs := rfl
@[simp] theorem modCore_cmds (c k : Nat) (f : Core → Core) (s : State) : (modCore c k f s).cmds = s.cmds := rfl
@[simp] theorem modCore_conns (c k : Nat) (f : Core → Core) (s : State) : (modCore c k f s).conns = s.conns := rfl
@[simp] theorem modCore_reuse (c k : Nat) (f : Core → Core) (s : State) : (modCore c k f s).reuse = s.reuse := rfl
@[simp] theorem modCore_raw (c k : Nat) (f : Core → Core) (s : State) : (modCore c k f s).raw = s.raw := rfl
@[simp] theorem modCore_pmem (c k : Nat) (f : Core → Core) (s : State) : (modCore c k f s).pmem = s.pmem := rfl
@[simp] theorem modFn_pending (n : Nat) (f : Fn → Fn) (s : State) : (modFn n f s).pending = s.pending := rfl
@[simp] theorem modFn_oracle (n : Nat) (f : Fn → Fn) (s : State) : (modFn n f s).oracle = s.oracle := rfl
@[simp] theorem modFn_free (n : Nat) (f : Fn → Fn) (s : State) : (modFn n f s).free = s.free := rfl
@[simp] theorem modFn_out (n : Nat) (f : Fn → Fn) (s : State) : (modFn n f s).out = s.out := rfl
@[simp] theorem modFn_node (n : Nat) (f : Fn → Fn) (s : State) : (modFn n f s).node = s.node := rfl
@[simp] theorem modFn_sec (n : Nat) (f : Fn → Fn) (s : State) : (modFn n f s).sec = s.sec := rfl
@[simp] theorem modFn_pwr (n : Nat) (f : Fn → Fn) (s : State) : (modFn n f s).pwr = s.pwr := rfl
@[simp] theorem modFn_ports (n : Nat) (f : Fn → Fn) (s : State) : (modFn n f s).ports = s.ports := rfl
@[simp] theorem modFn_neigh (n : Nat) (f : Fn → Fn) (s : State) : (modFn n f s).neigh = s.neigh := rfl
@[simp] theorem modFn_dbg (n : Nat) (f : Fn → Fn) (s : State) : (modFn n f s).dbg = s.dbg := rfl
@[simp] theorem modFn_fns (n : Nat) (f : Fn → Fn) (s : State) : (modFn n f s).fns = tset s.fns n (f (fnOf s n)) := rfl
@[simp] theorem modFn_parts (n : Nat) (f : Fn → Fn) (s : State) : (modFn n f s).parts = s.parts := rfl
@[simp] theorem modFn_cells (n : Nat) (f : Fn → Fn) (s : State) : (modFn n f s).cells = s.cells := rfl
@[simp] theorem modFn_ctxs (n : Nat) (f : Fn → Fn) (s : State) : (modFn n f s).ctxs = s.ctxs := rfl
@[simp] theorem modFn_cmds (n : Nat) (f : Fn → Fn) (s : State) : (modFn n f s).cmds = s.cmds := rfl
@[simp] theorem modFn_conns (n : Nat) (f : Fn → Fn) (s : State) : (modFn n f s).conns = s.conns := rfl
@[simp] theorem modFn_reuse (n : Nat) (f : Fn → Fn) (s : State) : (modFn n f s).reuse = s.reuse := rfl
@[simp] theorem modFn_raw (n : Nat) (f : Fn → Fn) (s : State) : (modFn n f s).raw = s.raw := rfl
@[simp] theorem modFn_pmem (n : Nat) (f : Fn → Fn) (s : State) : (modFn n f s).pmem = s.pmem := rfl
@[simp] theorem modQp_pending (n q : Nat) (f : Qp → Qp) (s : State) : (modQp n q f s).pending = s.pending := rfl
@[simp] theorem modQp_oracle (n q : Nat) (f : Qp → Qp) (s : State) : (modQp n q f s).oracle = s.oracle := rfl
@[simp] theorem modQp_free (n q : Nat) (f : Qp → Qp) (s : State) : (modQp n q f s).free = s.free := rfl
@[simp] theorem modQp_out (n q : Nat) (f : Qp → Qp) (s : State) : (modQp n q f s).out = s.out := rfl
@[simp] theorem modQp_node (n q : Nat) (f : Qp → Qp) (s : State) : (modQp n q f s).node = s.node := rfl
@[simp] theorem modQp_sec (n q : Nat) (f : Qp → Qp) (s : State) : (modQp n q f s).sec = s.sec := rfl
@[simp] theorem modQp_pwr (n q : Nat) (f : Qp → Qp) (s : State) : (modQp n q f s).pwr = s.pwr := rfl
@[simp] theorem modQp_ports (n q : Nat) (f : Qp → Qp) (s : State) : (modQp n q f s).ports = s.ports := rfl
@[simp] theorem modQp_neigh (n q : Nat) (f : Qp → Qp) (s : State) : (modQp n q f s).neigh = s.neigh := rfl
@[simp] theorem modQp_dbg (n q : Nat) (f : Qp → Qp) (s : State) : (modQp n q f s).dbg = s.dbg := rfl
@[simp] theorem modQp_parts (n q : Nat) (f : Qp → Qp) (s : State) : (modQp n q f s).parts = s.parts := rfl
@[simp] theorem modQp_cells (n q : Nat) (f : Qp → Qp) (s : State) : (modQp n q f s).cells = s.cells := rfl
@[simp] theorem modQp_ctxs (n q : Nat) (f : Qp → Qp) (s : State) : (modQp n q f s).ctxs = s.ctxs := rfl
@[simp] theorem modQp_cmds (n q : Nat) (f : Qp → Qp) (s : State) : (modQp n q f s).cmds = s.cmds := rfl
@[simp] theorem modQp_conns (n q : Nat) (f : Qp → Qp) (s : State) : (modQp n q f s).conns = s.conns := rfl
@[simp] theorem modQp_reuse (n q : Nat) (f : Qp → Qp) (s : State) : (modQp n q f s).reuse = s.reuse := rfl
@[simp] theorem modQp_raw (n q : Nat) (f : Qp → Qp) (s : State) : (modQp n q f s).raw = s.raw := rfl
@[simp] theorem modQp_pmem (n q : Nat) (f : Qp → Qp) (s : State) : (modQp n q f s).pmem = s.pmem := rfl
@[simp] theorem modCtx_pending (i : Nat) (f : Ctx → Ctx) (s : State) : (modCtx i f s).pending = s.pending := rfl
@[simp] theorem modCtx_oracle (i : Nat) (f : Ctx → Ctx) (s : State) : (modCtx i f s).oracle = s.oracle := rfl
@[simp] theorem modCtx_free (i : Nat) (f : Ctx → Ctx) (s : State) : (modCtx i f s).free = s.free := rfl
@[simp] theorem modCtx_out (i : Nat) (f : Ctx → Ctx) (s : State) : (modCtx i f s).out = s.out := rfl
@[simp] theorem modCtx_node (i : Nat) (f : Ctx → Ctx) (s : State) : (modCtx i f s).node = s.node := rfl
@[simp] theorem modCtx_sec (i : Nat) (f : Ctx → Ctx) (s : State) : (modCtx i f s).sec = s.sec := rfl
@[simp] theorem modCtx_pwr (i : Nat) (f : Ctx → Ctx) (s : State) : (modCtx i f s).pwr = s.pwr := rfl
@[simp] theorem modCtx_ports (i : Nat) (f : Ctx → Ctx) (s : State) : (modCtx i f s).ports = s.ports := rfl
@[simp] theorem modCtx_neigh (i : Nat) (f : Ctx → Ctx) (s : State) : (modCtx i f s).neigh = s.neigh := rfl
@[simp] theorem modCtx_dbg (i : Nat) (f : Ctx → Ctx) (s : State) : (modCtx i f s).dbg = s.dbg := rfl
@[simp] theorem modCtx_fns (i : Nat) (f : Ctx → Ctx) (s : State) : (modCtx i f s).fns = s.fns := rfl
@[simp] theorem modCtx_parts (i : Nat) (f : Ctx → Ctx) (s : State) : (modCtx i f s).parts = s.parts := rfl
@[simp] theorem modCtx_cells (i : Nat) (f : Ctx → Ctx) (s : State) : (modCtx i f s).cells = s.cells := rfl
@[simp] theorem modCtx_ctxs (i : Nat) (f : Ctx → Ctx) (s : State) : (modCtx i f s).ctxs = tmod s.ctxs i f := rfl
@[simp] theorem modCtx_cmds (i : Nat) (f : Ctx → Ctx) (s : State) : (modCtx i f s).cmds = s.cmds := rfl
@[simp] theorem modCtx_conns (i : Nat) (f : Ctx → Ctx) (s : State) : (modCtx i f s).conns = s.conns := rfl
@[simp] theorem modCtx_reuse (i : Nat) (f : Ctx → Ctx) (s : State) : (modCtx i f s).reuse = s.reuse := rfl
@[simp] theorem modCtx_raw (i : Nat) (f : Ctx → Ctx) (s : State) : (modCtx i f s).raw = s.raw := rfl
@[simp] theorem modCtx_pmem (i : Nat) (f : Ctx → Ctx) (s : State) : (modCtx i f s).pmem = s.pmem := rfl
@[simp] theorem modCmd_pending (i : Nat) (f : Cmd → Cmd) (s : State) : (modCmd i f s).pending = s.pending := rfl
@[simp] theorem modCmd_oracle (i : Nat) (f : Cmd → Cmd) (s : State) : (modCmd i f s).oracle = s.oracle := rfl
@[simp] theorem modCmd_free (i : Nat) (f : Cmd → Cmd) (s : State) : (modCmd i f s).free = s.free := rfl
@[simp] theorem modCmd_out (i : Nat) (f : Cmd → Cmd) (s : State) : (modCmd i f s).out = s.out := rfl
@[simp] theorem modCmd_node (i : Nat) (f : Cmd → Cmd) (s : State) : (modCmd i f s).node = s.node := rfl
@[simp] theorem modCmd_sec (i : Nat) (f : Cmd → Cmd) (s : State) : (modCmd i f s).sec = s.sec := rfl
@[simp] theorem modCmd_pwr (i : Nat) (f : Cmd → Cmd) (s : State) : (modCmd i f s).pwr = s.pwr := rfl
@[simp] theorem modCmd_ports (i : Nat) (f : Cmd → Cmd) (s : State) : (modCmd i f s).ports = s.ports := rfl
@[simp] theorem modCmd_neigh (i : Nat) (f : Cmd → Cmd) (s : State) : (modCmd i f s).neigh = s.neigh := rfl
@[simp] theorem modCmd_dbg (i : Nat) (f : Cmd → Cmd) (s : State) : (modCmd i f s).dbg = s.dbg := rfl
@[simp] theorem modCmd_fns (i : Nat) (f : Cmd → Cmd) (s : State) : (modCmd i f s).fns = s.fns := rfl
@[simp] theorem modCmd_parts (i : Nat) (f : Cmd → Cmd) (s : State) : (modCmd i f s).parts = s.parts := rfl
@[simp] theorem modCmd_cells (i : Nat) (f : Cmd → Cmd) (s : State) : (modCmd i f s).cells = s.cells := rfl
@[simp] theorem modCmd_ctxs (i : Nat) (f : Cmd → Cmd) (s : State) : (modCmd i f s).ctxs = s.ctxs := rfl
@[simp] theorem modCmd_cmds (i : Nat) (f : Cmd → Cmd) (s : State) : (modCmd i f s).cmds = tmod s.cmds i f := rfl
@[simp] theorem modCmd_conns (i : Nat) (f : Cmd → Cmd) (s : State) : (modCmd i f s).conns = s.conns := rfl
@[simp] theorem modCmd_reuse (i : Nat) (f : Cmd → Cmd) (s : State) : (modCmd i f s).reuse = s.reuse := rfl
@[simp] theorem modCmd_raw (i : Nat) (f : Cmd → Cmd) (s : State) : (modCmd i f s).raw = s.raw := rfl
@[simp] theorem modCmd_pmem (i : Nat) (f : Cmd → Cmd) (s : State) : (modCmd i f s).pmem = s.pmem := rfl
@[simp] theorem modConn_pending (i : Nat) (f : Conn → Conn) (s : State) : (modConn i f s).pending = s.pending := rfl
@[simp] theorem modConn_oracle (i : Nat) (f : Conn → Conn) (s : State) : (modConn i f s).oracle = s.oracle := rfl
@[simp] theorem modConn_free (i : Nat) (f : Conn → Conn) (s : State) : (modConn i f s).free = s.free := rfl
@[simp] theorem modConn_out (i : Nat) (f : Conn → Conn) (s : State) : (modConn i f s).out = s.out := rfl
@[simp] theorem modConn_node (i : Nat) (f : Conn → Conn) (s : State) : (modConn i f s).node = s.node := rfl
@[simp] theorem modConn_sec (i : Nat) (f : Conn → Conn) (s : State) : (modConn i f s).sec = s.sec := rfl
@[simp] theorem modConn_pwr (i : Nat) (f : Conn → Conn) (s : State) : (modConn i f s).pwr = s.pwr := rfl
@[simp] theorem modConn_ports (i : Nat) (f : Conn → Conn) (s : State) : (modConn i f s).ports = s.ports := rfl
@[simp] theorem modConn_neigh (i : Nat) (f : Conn → Conn) (s : State) : (modConn i f s).neigh = s.neigh := rfl
@[simp] theorem modConn_dbg (i : Nat) (f : Conn → Conn) (s : State) : (modConn i f s).dbg = s.dbg := rfl
@[simp] theorem modConn_fns (i : Nat) (f : Conn → Conn) (s : State) : (modConn i f s).fns = s.fns := rfl
@[simp] theorem modConn_parts (i : Nat) (f : Conn → Conn) (s : State) : (modConn i f s).parts = s.parts := rfl
@[simp] theorem modConn_cells (i : Nat) (f : Conn → Conn) (s : State) : (modConn i f s).cells = s.cells := rfl
@[simp] theorem modConn_ctxs (i : Nat) (f : Conn → Conn) (s : State) : (modConn i f s).ctxs = s.ctxs := rfl
@[simp] theorem modConn_cmds (i : Nat) (f : Conn → Conn) (s : State) : (modConn i f s).cmds = s.cmds := rfl
@[simp] theorem modConn_conns (i : Nat) (f : Conn → Conn) (s : State) : (modConn i f s).conns = tmod s.conns i f := rfl
@[simp] theorem modConn_reuse (i : Nat) (f : Conn → Conn) (s : State) : (modConn i f s).reuse = s.reuse := rfl
@[simp] theorem modConn_raw (i : Nat) (f : Conn → Conn) (s : State) : (modConn i f s).raw = s.raw := rfl
@[simp] theorem modConn_pmem (i : Nat) (f : Conn → Conn) (s : State) : (modConn i f s).pmem = s.pmem := rfl
@[simp] theorem modPort_pending (g : Nat) (f : Port → Port) (s : State) : (modPort g f s).pending = s.pending := rfl
@[simp] theorem modPort_oracle (g : Nat) (f : Port → Port) (s : State) : (modPort g f s).oracle = s.oracle := rfl
@[simp] theorem modPort_free (g : Nat) (f : Port → Port) (s : State) : (modPort g f s).free = s.free := rfl
@[simp] theorem modPort_out (g : Nat) (f : Port → Port) (s : State) : (modPort g f s).out = s.out := rfl
@[simp] theorem modPort_node (g : Nat) (f : Port → Port) (s : State) : (modPort g f s).node = s.node := rfl
@[simp] theorem modPort_sec (g : Nat) (f : Port → Port) (s : State) : (modPort g f s).sec = s.sec := rfl
@[simp] theorem modPort_pwr (g : Nat) (f : Port → Port) (s : State) : (modPort g f s).pwr = s.pwr := rfl
@[simp] theorem modPort_ports (g : Nat) (f : Port → Port) (s : State) : (modPort g f s).ports = tset s.ports g (f (portOf s g)) := rfl
@[simp] theorem modPort_neigh (g : Nat) (f : Port → Port) (s : State) : (modPort g f s).neigh = s.neigh := rfl
@[simp] theorem modPort_dbg (g : Nat) (f : Port → Port) (s : State) : (modPort g f s).dbg = s.dbg := rfl
@[simp] theorem modPort_fns (g : Nat) (f : Port → Port) (s : State) : (modPort g f s).fns = s.fns := rfl
@[simp] theorem modPort_parts (g : Nat) (f : Port → Port) (s : State) : (modPort g f s).parts = s.parts := rfl
@[simp] theorem modPort_cells (g : Nat) (f : Port → Port) (s : State) : (modPort g f s).cells = s.cells := rfl
@[simp] theorem modPort_ctxs (g : Nat) (f : Port → Port) (s : State) : (modPort g f s).ctxs = s.ctxs := rfl
@[simp] theorem modPort_cmds (g : Nat) (f : Port → Port) (s : State) : (modPort g f s).cmds = s.cmds := rfl
@[simp] theorem modPort_conns (g : Nat) (f : Port → Port) (s : State) : (modPort g f s).conns = s.conns := rfl
@[simp] theorem modPort_reuse (g : Nat) (f : Port → Port) (s : State) : (modPort g f s).reuse = s.reuse := rfl
@[simp] theorem modPort_raw (g : Nat) (f : Port → Port) (s : State) : (modPort g f s).raw = s.raw := rfl
@[simp] theorem modPort_pmem (g : Nat) (f : Port → Port) (s : State) : (modPort g f s).pmem = s.pmem := rfl
@[simp] theorem setSeq_pending (p k : Nat) (q : Seq) (s : State) : (setSeq p k q s).pending = s.pending := rfl
@[simp] theorem setSeq_oracle (p k : Nat) (q : Seq) (s : State) : (setSeq p k q s).oracle = s.oracle := rfl
@[simp] theorem setSeq_free (p k : Nat) (q : Seq) (s : State) : (setSeq p k q s).free = s.free := rfl
@[simp] theorem setSeq_out (p k : Nat) (q : Seq) (s : State) : (setSeq p k q s).out = s.out := rfl
@[simp] theorem setSeq_node (p k : Nat) (q : Seq) (s : State) : (setSeq p k q s).node = s.node := rfl
@[simp] theorem setSeq_sec (p k : Nat) (q : Seq) (s : State) : (setSeq p k q s).sec = s.sec := rfl
@[simp] theorem setSeq_pwr (p k : Nat) (q : Seq) (s : State) : (setSeq p k q s).pwr = s.pwr := rfl
@[simp] theorem setSeq_ports (p k : Nat) (q : Seq) (s : State) : (setSeq p k q s).ports = s.ports := rfl
@[simp] theorem setSeq_neigh (p k : Nat) (q : Seq) (s : State) : (setSeq p k q s).neigh = s.neigh := rfl
@[simp] theorem setSeq_dbg (p k : Nat) (q : Seq) (s : State) : (setSeq p k q s).dbg = s.dbg := rfl
@[simp] theorem setSeq_fns (p k : Nat) (q : Seq) (s : State) : (setSeq p k q s).fns = s.fns := rfl
@[simp] theorem setSeq_cells (p k : Nat) (q : Seq) (s : State) : (setSeq p k q s).cells = s.cells := rfl
@[simp] theorem setSeq_ctxs (p k : Nat) (q : Seq) (s : State) : (setSeq p k q s).ctxs = s.ctxs := rfl
@[simp] theorem setSeq_cmds (p k : Nat) (q : Seq) (s : State) : (setSeq p k q s).cmds = s.cmds := rfl
@[simp] theorem setSeq_conns (p k : Nat) (q : Seq) (s : State) : (setSeq p k q s).conns = s.conns := rfl
@[simp] theorem setSeq_reuse (p k : Nat) (q : Seq) (s : State) : (setSeq p k q s).reuse = s.reuse := rfl
@[simp] theorem setSeq_raw (p k : Nat) (q : Seq) (s : State) : (setSeq p k q s).raw = s.raw := rfl
@[simp] theorem setSeq_pmem (p k : Nat) (q : Seq) (s : State) : (setSeq p k q s).pmem = s.pmem := rfl
@[simp] theorem modSeq_pending (p k : Nat) (f : Seq → Seq) (s : State) : (modSeq p k f s).pending = s.pending := rfl
@[simp] theorem modSeq_oracle (p k : Nat) (f : Seq → Seq) (s : State) : (modSeq p k f s).oracle = s.oracle := rfl
@[simp] theorem modSeq_free (p k : Nat) (f : Seq → Seq) (s : State) : (modSeq p k f s).free = s.free := rfl
@[simp] theorem modSeq_out (p k : Nat) (f : Seq → Seq) (s : State) : (modSeq p k f s).out = s.out := rfl
@[simp] theorem modSeq_node (p k : Nat) (f : Seq → Seq) (s : State) : (modSeq p k f s).node = s.node := rfl
@[simp] theorem modSeq_sec (p k : Nat) (f : Seq → Seq) (s : State) : (modSeq p k f s).sec = s.sec := rfl
@[simp] theorem modSeq_pwr (p k : Nat) (f : Seq → Seq) (s : State) : (modSeq p k f s).pwr = s.pwr := rfl
@[simp] theorem modSeq_ports (p k : Nat) (f : Seq → Seq) (s : State) : (modSeq p k f s).ports = s.ports := rfl
@[simp] theorem modSeq_neigh (p k : Nat) (f : Seq → Seq) (s : State) : (modSeq p k f s).neigh = s.neigh := rfl
@[simp] theorem modSeq_dbg (p k : Nat) (f : Seq → Seq) (s : State) : (modSeq p k f s).dbg = s.dbg := rfl
@[simp] theorem modSeq_fns (p k : Nat) (f : Seq → Seq) (s : State) : (modSeq p k f s).fns = s.fns := rfl
@[simp] theorem modSeq_cells (p k : Nat) (f : Seq → Seq) (s : State) : (modSeq p k f s).cells = s.cells := rfl
@[simp] theorem modSeq_ctxs (p k : Nat) (f : Seq → Seq) (s : State) : (modSeq p k f s).ctxs = s.ctxs := rfl
@[simp] theorem modSeq_cmds (p k : Nat) (f : Seq → Seq) (s : State) : (modSeq p k f s).cmds = s.cmds := rfl
@[simp] theorem modSeq_conns (p k : Nat) (f : Seq → Seq) (s : State) : (modSeq p k f s).conns = s.conns := rfl
@[simp] theorem modSeq_reuse (p k : Nat) (f : Seq → Seq) (s : State) : (modSeq p k f s).reuse = s.reuse := rfl
@[simp] theorem modSeq_raw (p k : Nat) (f : Seq → Seq) (s : State) : (modSeq p k f s).raw = s.raw := rfl
@[simp] theorem modSeq_pmem (p k : Nat) (f : Seq → Seq) (s : State) : (modSeq p k f s).pmem = s.pmem := rfl
@[simp] theorem emit_pending (o : Output) (s : State) : (emit o s).pending = s.pending := rfl
@[simp] theorem emit_oracle (o : Output) (s : State) : (emit o s).oracle = s.oracle := rfl
@[simp] theorem emit_free (o : Output) (s : State) : (emit o s).free = s.free := rfl
@[simp] theorem emit_out (o : Output) (s : State) : (emit o s).out = o :: s.out := rfl
@[simp] theorem emit_node (o : Output) (s : State) : (emit o s).node = s.node := rfl
@[simp] theorem emit_sec (o : Output) (s : State) : (emit o s).sec = s.sec := rfl
@[simp] theorem emit_pwr (o : Output) (s : State) : (emit o s).pwr = s.pwr := rfl
@[simp] theorem emit_ports (o : Output) (s : State) : (emit o s).ports = s.ports := rfl
@[simp] theorem emit_neigh (o : Output) (s : State) : (emit o s).neigh = s.neigh := rfl
@[simp] theorem emit_dbg (o : Output) (s : State) : (emit o s).dbg = s.dbg := rfl
@[simp] theorem emit_fns (o : Output) (s : State) : (emit o s).fns = s.fns := rfl
@[simp] theorem emit_parts (o : Output) (s : State) : (emit o s).parts = s.parts := rfl
@[simp] theorem emit_cells (o : Output) (s : State) : (emit o s).cells = s.cells := rfl
@[simp] theorem emit_ctxs (o : Output) (s : State) : (emit o s).ctxs = s.ctxs := rfl
@[simp] theorem emit_cmds (o : Output) (s : State) : (emit o s).cmds = s.cmds := rfl
@[simp] theorem emit_conns (o : Output) (s : State) : (emit o s).conns = s.conns := rfl
@[simp] theorem emit_reuse (o : Output) (s : State) : (emit o s).reuse = s.reuse := rfl
@[simp] theorem emit_raw (o : Output) (s : State) : (emit o s).raw = s.raw := rfl
@[simp] theorem emit_pmem (o : Output) (s : State) : (emit o s).pmem = s.pmem := rfl
@[simp] theorem modNode_pending (f : Node → Node) (s : State) : (modNode f s).pending = s.pending := rfl
@[simp] theorem modNode_oracle (f : Node → Node) (s : State) : (modNode f s).oracle = s.oracle := rfl
@[simp] theorem modNode_free (f : Node → Node) (s : State) : (modNode f s).free = s.free := rfl
@[simp] theorem modNode_out (f : Node → Node) (s : State) : (modNode f s).out = s.out := rfl
@[simp] theorem modNode_node (f : Node → Node) (s : State) : (modNode f s).node = f s.node := rfl
@[simp] theorem modNode_sec (f : Node → Node) (s : State) : (modNode f s).sec = s.sec := rfl
@[simp] theorem modNode_pwr (f : Node → Node) (s : State) : (modNode f s).pwr = s.pwr := rfl
@[simp] theorem modNode_ports (f : Node → Node) (s : State) : (modNode f s).ports = s.ports := rfl
@[simp] theorem modNode_neigh (f : Node → Node) (s : State) : (modNode f s).neigh = s.neigh := rfl
@[simp] theorem modNode_dbg (f : Node → Node) (s : State) : (modNode f s).dbg = s.dbg := rfl
@[simp] theorem modNode_fns (f : Node → Node) (s : State) : (modNode f s).fns = s.fns := rfl
@[simp] theorem modNode_parts (f : Node → Node) (s : State) : (modNode f s).parts = s.parts := rfl
@[simp] theorem modNode_cells (f : Node → Node) (s : State) : (modNode f s).cells = s.cells := rfl
@[simp] theorem modNode_ctxs (f : Node → Node) (s : State) : (modNode f s).ctxs = s.ctxs := rfl
@[simp] theorem modNode_cmds (f : Node → Node) (s : State) : (modNode f s).cmds = s.cmds := rfl
@[simp] theorem modNode_conns (f : Node → Node) (s : State) : (modNode f s).conns = s.conns := rfl
@[simp] theorem modNode_reuse (f : Node → Node) (s : State) : (modNode f s).reuse = s.reuse := rfl
@[simp] theorem modNode_raw (f : Node → Node) (s : State) : (modNode f s).raw = s.raw := rfl
@[simp] theorem modNode_pmem (f : Node → Node) (s : State) : (modNode f s).pmem = s.pmem := rfl
@[simp] theorem modDbg_pending (f : Dbg → Dbg) (s : State) : (modDbg f s).pending = s.pending := rfl
@[simp] theorem modDbg_oracle (f : Dbg → Dbg) (s : State) : (modDbg f s).oracle = s.oracle := rfl
@[simp] theorem modDbg_free (f : Dbg → Dbg) (s : State) : (modDbg f s).free = s.free := rfl
@[simp] theorem modDbg_out (f : Dbg → Dbg) (s : State) : (modDbg f s).out = s.out := rfl
@[simp] theorem modDbg_node (f : Dbg → Dbg) (s : State) : (modDbg f s).node = s.node := rfl
@[simp] theorem modDbg_sec (f : Dbg → Dbg) (s : State) : (modDbg f s).sec = s.sec := rfl
@[simp] theorem modDbg_pwr (f : Dbg → Dbg) (s : State) : (modDbg f s).pwr = s.pwr := rfl
@[simp] theorem modDbg_ports (f : Dbg → Dbg) (s : State) : (modDbg f s).ports = s.ports := rfl
@[simp] theorem modDbg_neigh (f : Dbg → Dbg) (s : State) : (modDbg f s).neigh = s.neigh := rfl
@[simp] theorem modDbg_dbg (f : Dbg → Dbg) (s : State) : (modDbg f s).dbg = f s.dbg := rfl
@[simp] theorem modDbg_fns (f : Dbg → Dbg) (s : State) : (modDbg f s).fns = s.fns := rfl
@[simp] theorem modDbg_parts (f : Dbg → Dbg) (s : State) : (modDbg f s).parts = s.parts := rfl
@[simp] theorem modDbg_cells (f : Dbg → Dbg) (s : State) : (modDbg f s).cells = s.cells := rfl
@[simp] theorem modDbg_ctxs (f : Dbg → Dbg) (s : State) : (modDbg f s).ctxs = s.ctxs := rfl
@[simp] theorem modDbg_cmds (f : Dbg → Dbg) (s : State) : (modDbg f s).cmds = s.cmds := rfl
@[simp] theorem modDbg_conns (f : Dbg → Dbg) (s : State) : (modDbg f s).conns = s.conns := rfl
@[simp] theorem modDbg_reuse (f : Dbg → Dbg) (s : State) : (modDbg f s).reuse = s.reuse := rfl
@[simp] theorem modDbg_raw (f : Dbg → Dbg) (s : State) : (modDbg f s).raw = s.raw := rfl
@[simp] theorem modDbg_pmem (f : Dbg → Dbg) (s : State) : (modDbg f s).pmem = s.pmem := rfl
@[simp] theorem modSec_pending (f : Sec → Sec) (s : State) : (modSec f s).pending = s.pending := rfl
@[simp] theorem modSec_oracle (f : Sec → Sec) (s : State) : (modSec f s).oracle = s.oracle := rfl
@[simp] theorem modSec_free (f : Sec → Sec) (s : State) : (modSec f s).free = s.free := rfl
@[simp] theorem modSec_out (f : Sec → Sec) (s : State) : (modSec f s).out = s.out := rfl
@[simp] theorem modSec_node (f : Sec → Sec) (s : State) : (modSec f s).node = s.node := rfl
@[simp] theorem modSec_sec (f : Sec → Sec) (s : State) : (modSec f s).sec = f s.sec := rfl
@[simp] theorem modSec_pwr (f : Sec → Sec) (s : State) : (modSec f s).pwr = s.pwr := rfl
@[simp] theorem modSec_ports (f : Sec → Sec) (s : State) : (modSec f s).ports = s.ports := rfl
@[simp] theorem modSec_neigh (f : Sec → Sec) (s : State) : (modSec f s).neigh = s.neigh := rfl
@[simp] theorem modSec_dbg (f : Sec → Sec) (s : State) : (modSec f s).dbg = s.dbg := rfl
@[simp] theorem modSec_fns (f : Sec → Sec) (s : State) : (modSec f s).fns = s.fns := rfl
@[simp] theorem modSec_parts (f : Sec → Sec) (s : State) : (modSec f s).parts = s.parts := rfl
@[simp] theorem modSec_cells (f : Sec → Sec) (s : State) : (modSec f s).cells = s.cells := rfl
@[simp] theorem modSec_ctxs (f : Sec → Sec) (s : State) : (modSec f s).ctxs = s.ctxs := rfl
@[simp] theorem modSec_cmds (f : Sec → Sec) (s : State) : (modSec f s).cmds = s.cmds := rfl
@[simp] theorem modSec_conns (f : Sec → Sec) (s : State) : (modSec f s).conns = s.conns := rfl
@[simp] theorem modSec_reuse (f : Sec → Sec) (s : State) : (modSec f s).reuse = s.reuse := rfl
@[simp] theorem modSec_raw (f : Sec → Sec) (s : State) : (modSec f s).raw = s.raw := rfl
@[simp] theorem modSec_pmem (f : Sec → Sec) (s : State) : (modSec f s).pmem = s.pmem := rfl
@[simp] theorem modPwr_pending (f : Pwr → Pwr) (s : State) : (modPwr f s).pending = s.pending := rfl
@[simp] theorem modPwr_oracle (f : Pwr → Pwr) (s : State) : (modPwr f s).oracle = s.oracle := rfl
@[simp] theorem modPwr_free (f : Pwr → Pwr) (s : State) : (modPwr f s).free = s.free := rfl
@[simp] theorem modPwr_out (f : Pwr → Pwr) (s : State) : (modPwr f s).out = s.out := rfl
@[simp] theorem modPwr_node (f : Pwr → Pwr) (s : State) : (modPwr f s).node = s.node := rfl
@[simp] theorem modPwr_sec (f : Pwr → Pwr) (s : State) : (modPwr f s).sec = s.sec := rfl
@[simp] theorem modPwr_pwr (f : Pwr → Pwr) (s : State) : (modPwr f s).pwr = f s.pwr := rfl
@[simp] theorem modPwr_ports (f : Pwr → Pwr) (s : State) : (modPwr f s).ports = s.ports := rfl
@[simp] theorem modPwr_neigh (f : Pwr → Pwr) (s : State) : (modPwr f s).neigh = s.neigh := rfl
@[simp] theorem modPwr_dbg (f : Pwr → Pwr) (s : State) : (modPwr f s).dbg = s.dbg := rfl
@[simp] theorem modPwr_fns (f : Pwr → Pwr) (s : State) : (modPwr f s).fns = s.fns := rfl
@[simp] theorem modPwr_parts (f : Pwr → Pwr) (s : State) : (modPwr f s).parts = s.parts := rfl
@[simp] theorem modPwr_cells (f : Pwr → Pwr) (s : State) : (modPwr f s).cells = s.cells := rfl
@[simp] theorem modPwr_ctxs (f : Pwr → Pwr) (s : State) : (modPwr f s).ctxs = s.ctxs := rfl
@[simp] theorem modPwr_cmds (f : Pwr → Pwr) (s : State) : (modPwr f s).cmds = s.cmds := rfl
@[simp] theorem modPwr_conns (f : Pwr → Pwr) (s : State) : (modPwr f s).conns = s.conns := rfl
@[simp] theorem modPwr_reuse (f : Pwr → Pwr) (s : State) : (modPwr f s).reuse = s.reuse := rfl
@[simp] theorem modPwr_raw (f : Pwr → Pwr) (s : State) : (modPwr f s).raw = s.raw := rfl
@[simp] theorem modPwr_pmem (f : Pwr → Pwr) (s : State) : (modPwr f s).pmem = s.pmem := rfl
@[simp] theorem putRaw_pending (a : Nat) (b : List Byte) (s : State) : (putRaw a b s).pending = s.pending := rfl
@[simp] theorem putRaw_oracle (a : Nat) (b : List Byte) (s : State) : (putRaw a b s).oracle = s.oracle := rfl
@[simp] theorem putRaw_free (a : Nat) (b : List Byte) (s : State) : (putRaw a b s).free = s.free := rfl
@[simp] theorem putRaw_out (a : Nat) (b : List Byte) (s : State) : (putRaw a b s).out = s.out := rfl
@[simp] theorem putRaw_node (a : Nat) (b : List Byte) (s : State) : (putRaw a b s).node = s.node := rfl
@[simp] theorem putRaw_sec (a : Nat) (b : List Byte) (s : State) : (putRaw a b s).sec = s.sec := rfl
@[simp] theorem putRaw_pwr (a : Nat) (b : List Byte) (s : State) : (putRaw a b s).pwr = s.pwr := rfl
@[simp] theorem putRaw_ports (a : Nat) (b : List Byte) (s : State) : (putRaw a b s).ports = s.ports := rfl
@[simp] theorem putRaw_neigh (a : Nat) (b : List Byte) (s : State) : (putRaw a b s).neigh = s.neigh := rfl
@[simp] theorem putRaw_dbg (a : Nat) (b : List Byte) (s : State) : (putRaw a b s).dbg = s.dbg := rfl
@[simp] theorem putRaw_fns (a : Nat) (b : List Byte) (s : State) : (putRaw a b s).fns = s.fns := rfl
@[simp] theorem putRaw_parts (a : Nat) (b : List Byte) (s : State) : (putRaw a b s).parts = s.parts := rfl
@[simp] theorem putRaw_cells (a : Nat) (b : List Byte) (s : State) : (putRaw a b s).cells = s.cells := rfl
@[simp] theorem putRaw_ctxs (a : Nat) (b : List Byte) (s : State) : (putRaw a b s).ctxs = s.ctxs := rfl
@[simp] theorem putRaw_cmds (a : Nat) (b : List Byte) (s : State) : (putRaw a b s).cmds = s.cmds := rfl
@[simp] theorem putRaw_conns (a : Nat) (b : List Byte) (s : State) : (putRaw a b s).conns = s.conns := rfl
@[simp] theorem putRaw_reuse (a : Nat) (b : List Byte) (s : State) : (putRaw a b s).reuse = s.reuse := rfl
@[simp] theorem putRaw_raw (a : Nat) (b : List Byte) (s : State) : (putRaw a b s).raw = rawWrite s.raw a b := rfl
@[simp] theorem putRaw_pmem (a : Nat) (b : List Byte) (s : State) : (putRaw a b s).pmem = s.pmem := rfl
@[simp] theorem draw_pending (s : State) : (draw s).2.pending = s.pending := by unfold draw; split <;> rfl
@[simp] theorem draw_out (s : State) : (draw s).2.out = s.out := by unfold draw; split <;> rfl
@[simp] theorem draw_node (s : State) : (draw s).2.node = s.node := by unfold draw; split <;> rfl
@[simp] theorem draw_sec (s : State) : (draw s).2.sec = s.sec := by unfold draw; split <;> rfl
@[simp] theorem draw_pwr (s : State) : (draw s).2.pwr = s.pwr := by unfold draw; split <;> rfl
@[simp] theorem draw_ports (s : State) : (draw s).2.ports = s.ports := by unfold draw; split <;> rfl
@[simp] theorem draw_neigh (s : State) : (draw s).2.neigh = s.neigh := by unfold draw; split <;> rfl
@[simp] theorem draw_dbg (s : State) : (draw s).2.dbg = s.dbg := by unfold draw; split <;> rfl
@[simp] theorem draw_fns (s : State) : (draw s).2.fns = s.fns := by unfold draw; split <;> rfl
@[simp] theorem draw_parts (s : State) : (draw s).2.parts = s.parts := by unfold draw; split <;> rfl
@[simp] theorem draw_cells (s : State) : (draw s).2.cells = s.cells := by unfold draw; split <;> rfl
@[simp] theorem draw_ctxs (s : State) : (draw s).2.ctxs = s.ctxs := by unfold draw; split <;> rfl
@[simp] theorem draw_cmds (s : State) : (draw s).2.cmds = s.cmds := by unfold draw; split <;> rfl
@[simp] theorem draw_conns (s : State) : (draw s).2.conns = s.conns := by unfold draw; split <;> rfl
@[simp] theorem draw_reuse (s : State) : (draw s).2.reuse = s.reuse := by unfold draw; split <;> rfl
@[simp] theorem draw_raw (s : State) : (draw s).2.raw = s.raw := by unfold draw; split <;> rfl
@[simp] theorem draw_pmem (s : State) : (draw s).2.pmem = s.pmem := by unfold draw; split <;> rfl

end Sys2Proof.Laws
end

