-- ==== Sys2Proof/Laws/Table.lean ====
section
/-! SUPPORT. Sparse tables: what a lookup answers after a change. -/

namespace Sys2Proof.Laws

open Sys2Proof.Machine

variable {α : Type}

/-- The key just set answers its value. -/
@[simp] theorem tget?_tset_self (t : Tab α) (k : Nat) (v : α) : tget? (tset t k v) k = some v := by
  induction t with
  | nil => simp [tset, tget?]
  | cons e t ih =>
    obtain ⟨j, w⟩ := e
    unfold tset
    split
    · simp [tget?]
    · split
      · simp [tget?]
      · rename_i h; simp [tget?, ih, Ne.symm h]

/-- Another key answers what it answered. -/
theorem tget?_tset_ne (t : Tab α) {k j : Nat} (v : α) (h : j ≠ k) : tget? (tset t k v) j = tget? t j := by
  induction t with
  | nil => simp [tset, tget?, Ne.symm h]
  | cons e t ih =>
    obtain ⟨i, w⟩ := e
    unfold tset
    split
    · simp [tget?, Ne.symm h]
    · split
      · rename_i h2; subst h2; simp [tget?, Ne.symm h]
      · simp [tget?, ih]

/-- The lookup with a default, after a set. -/
@[simp] theorem tget_tset_self (d : α) (t : Tab α) (k : Nat) (v : α) : tget d (tset t k v) k = v := by simp [tget]

/-- Another key's value with a default. -/
theorem tget_tset_ne (d : α) (t : Tab α) {k j : Nat} (v : α) (h : j ≠ k) : tget d (tset t k v) j = tget d t j := by
  simp [tget, tget?_tset_ne t v h]

/-- A deleted key is absent. -/
@[simp] theorem tget?_tdel_self (t : Tab α) (k : Nat) : tget? (tdel t k) k = none := by
  induction t with
  | nil => rfl
  | cons e t ih =>
    obtain ⟨j, w⟩ := e
    unfold tdel at *
    by_cases h : j = k <;> simp [tget?, h, ih]

/-- Deleting one key leaves the others. -/
theorem tget?_tdel_ne (t : Tab α) {k j : Nat} (h : j ≠ k) : tget? (tdel t k) j = tget? t j := by
  induction t with
  | nil => rfl
  | cons e t ih =>
    obtain ⟨i, w⟩ := e
    unfold tdel at *
    by_cases h2 : i = k
    · subst h2; simp [tget?, Ne.symm h, ih]
    · simp [tget?, h2, ih]

/-- A change at a key. -/
@[simp] theorem tget?_tmod_self (t : Tab α) (k : Nat) (f : α → α) : tget? (tmod t k f) k = (tget? t k).map f := by
  unfold tmod
  cases h : tget? t k with
  | none => simp [h]
  | some v => simp

/-- A change at a key leaves the others. -/
theorem tget?_tmod_ne (t : Tab α) {k j : Nat} (f : α → α) (h : j ≠ k) : tget? (tmod t k f) j = tget? t j := by
  unfold tmod
  cases tget? t k with
  | none => rfl
  | some v => exact tget?_tset_ne t _ h

/-- A partition just changed. -/
@[simp] theorem part_modPart (p : Nat) (f : Partn → Partn) (s : State) : part (modPart p f s) p = f (part s p) := by
  simp [part, modPart, setPart]

/-- Another partition. -/
theorem part_modPart_ne {p q : Nat} (f : Partn → Partn) (s : State) (h : q ≠ p) : part (modPart p f s) q = part s q := by
  simp [part, modPart, setPart, tget_tset_ne _ _ _ h]

/-- A cell just changed. -/
@[simp] theorem cell_modCell (c : Nat) (f : Cell → Cell) (s : State) : cell (modCell c f s) c = f (cell s c) := by
  simp [cell, modCell, setCell]

/-- Another cell. -/
theorem cell_modCell_ne {c d : Nat} (f : Cell → Cell) (s : State) (h : d ≠ c) : cell (modCell c f s) d = cell s d := by
  simp [cell, modCell, setCell, tget_tset_ne _ _ _ h]

/-- A port just changed. -/
@[simp] theorem portOf_modPort (g : Nat) (f : Port → Port) (s : State) : portOf (modPort g f s) g = f (portOf s g) := by
  simp [portOf, modPort]

/-- Another port. -/
theorem portOf_modPort_ne {g h : Nat} (f : Port → Port) (s : State) (n : h ≠ g) : portOf (modPort g f s) h = portOf s h := by
  simp [portOf, modPort, tget_tset_ne _ _ _ n]

/-- A function just changed. -/
@[simp] theorem fnOf_modFn (n : Nat) (f : Fn → Fn) (s : State) : fnOf (modFn n f s) n = f (fnOf s n) := by
  simp [fnOf, modFn]

/-- A queue pair just changed. -/
@[simp] theorem qpOf_modQp (n q : Nat) (f : Qp → Qp) (s : State) : qpOf (modQp n q f s) n q = f (qpOf s n q) := by
  simp [qpOf, modQp]

/-- A connection just changed, where it is. -/
theorem connOf_modConn (i : Nat) (f : Conn → Conn) (s : State) (h : thas s.conns i = true) : connOf (modConn i f s) i = f (connOf s i) := by
  unfold thas at h
  obtain ⟨c, hc⟩ := Option.isSome_iff_exists.mp h
  simp [connOf, tget, hc]

end Sys2Proof.Laws
end

