-- ==== Sys2Proof/Laws/Raw.lean ====
section
/-! SUPPORT. The raw region: a write is read back, leaves every other byte, and keeps the canonical form. -/

namespace Sys2Proof.Laws

open Sys2Proof.Machine

/-- A lower bound may be lowered. -/
theorem wfFrom_mono {lo hi : Nat} (h : lo ≤ hi) : ∀ {m : List Host.Cell}, Memory.wfFrom hi m = true → Memory.wfFrom lo m = true
  | [], _ => rfl
  | (a, b) :: t, w => by
    simp only [Memory.wfFrom, Bool.and_eq_true, decide_eq_true_eq] at w ⊢
    exact ⟨⟨Nat.le_trans h w.1.1, w.1.2⟩, w.2⟩

/-- Removing an entry keeps the form. -/
theorem wfFrom_rawErase (a : Nat) : ∀ {lo : Nat} {m : List Host.Cell}, Memory.wfFrom lo m = true → Memory.wfFrom lo (rawErase m a) = true
  | _, [], _ => rfl
  | lo, (j, v) :: t, w => by
    simp only [Memory.wfFrom, Bool.and_eq_true, decide_eq_true_eq] at w
    unfold rawErase
    split
    · exact wfFrom_mono (Nat.le_succ_of_le w.1.1) w.2
    · simp only [Memory.wfFrom, Bool.and_eq_true, decide_eq_true_eq]
      exact ⟨w.1, wfFrom_rawErase a w.2⟩

/-- Placing a byte that is not the empty one keeps the form. -/
theorem wfFrom_rawPlace (a : Nat) (b : Byte) (hb : b ≠ rawEmpty) :
    ∀ {lo : Nat} {m : List Host.Cell}, lo ≤ a → Memory.wfFrom lo m = true → Memory.wfFrom lo (rawPlace m a b) = true
  | lo, [], h, _ => by simp [rawPlace, Memory.wfFrom, h, hb]
  | lo, (j, v) :: t, h, w => by
    simp only [Memory.wfFrom, Bool.and_eq_true, decide_eq_true_eq] at w
    unfold rawPlace
    split
    · rename_i hj
      simp only [Memory.wfFrom, Bool.and_eq_true, decide_eq_true_eq]
      exact ⟨⟨h, by simpa using hb⟩, ⟨hj, w.1.2⟩, w.2⟩
    · split
      · rename_i hj
        subst hj
        simp only [Memory.wfFrom, Bool.and_eq_true, decide_eq_true_eq]
        exact ⟨⟨h, by simpa using hb⟩, w.2⟩
      · rename_i h1 h2
        simp only [Memory.wfFrom, Bool.and_eq_true, decide_eq_true_eq]
        exact ⟨w.1, wfFrom_rawPlace a b hb (by omega) w.2⟩

/-- Every write of a byte keeps the canonical form. -/
theorem wf_rawSet {m : List Host.Cell} (a : Nat) (b : Byte) (h : Memory.wf m = true) : Memory.wf (rawSet m a b) = true := by
  unfold rawSet
  split
  · exact wfFrom_rawErase a h
  · rename_i hb; exact wfFrom_rawPlace a b hb (Nat.zero_le a) h

/-- Every write of a string keeps the canonical form. -/
theorem wf_rawWrite : ∀ (b : List Byte) {m : List Host.Cell} (a : Nat), Memory.wf m = true → Memory.wf (rawWrite m a b) = true
  | [], _, _, h => h
  | x :: xs, _, a, h => wf_rawWrite xs (a + 1) (wf_rawSet a x h)

/-- Below the lower bound nothing is listed. -/
theorem rawGet_below : ∀ {lo : Nat} {m : List Host.Cell} {a : Nat}, a < lo → Memory.wfFrom lo m = true → rawGet m a = rawEmpty
  | _, [], _, _, _ => rfl
  | lo, (j, v) :: t, a, h, w => by
    simp only [Memory.wfFrom, Bool.and_eq_true, decide_eq_true_eq] at w
    unfold rawGet
    rw [if_neg (by omega)]
    exact rawGet_below (lo := j + 1) (by omega) w.2

theorem rawGet_rawErase_self (a : Nat) : ∀ {lo : Nat} {m : List Host.Cell}, Memory.wfFrom lo m = true → rawGet (rawErase m a) a = rawEmpty
  | _, [], _ => rfl
  | lo, (j, v) :: t, w => by
    simp only [Memory.wfFrom, Bool.and_eq_true, decide_eq_true_eq] at w
    unfold rawErase
    split
    · rename_i h; subst h; exact rawGet_below (lo := j + 1) (by omega) w.2
    · rename_i h; simp only [rawGet, if_neg h]; exact rawGet_rawErase_self a w.2

theorem rawGet_rawErase_ne {a c : Nat} (h : c ≠ a) : ∀ (m : List Host.Cell), rawGet (rawErase m a) c = rawGet m c
  | [] => rfl
  | (j, v) :: t => by
    unfold rawErase
    split
    · rename_i hj; subst hj; simp [rawGet, Ne.symm h]
    · simp only [rawGet]; split
      · rfl
      · exact rawGet_rawErase_ne h t

theorem rawGet_rawPlace_self (a : Nat) (b : Byte) : ∀ (m : List Host.Cell), rawGet (rawPlace m a b) a = b
  | [] => by simp [rawPlace, rawGet]
  | (j, v) :: t => by
    unfold rawPlace
    split
    · simp [rawGet]
    · split
      · simp [rawGet]
      · rename_i h; simp only [rawGet, if_neg (Ne.symm h)]; exact rawGet_rawPlace_self a b t

theorem rawGet_rawPlace_ne {a c : Nat} (b : Byte) (h : c ≠ a) : ∀ (m : List Host.Cell), rawGet (rawPlace m a b) c = rawGet m c
  | [] => by simp [rawPlace, rawGet, Ne.symm h]
  | (j, v) :: t => by
    unfold rawPlace
    split
    · simp [rawGet, Ne.symm h]
    · split
      · rename_i h2; subst h2; simp [rawGet, Ne.symm h]
      · simp only [rawGet]; split
        · rfl
        · exact rawGet_rawPlace_ne b h t

/-- A byte written is read back. -/
theorem rawGet_rawSet_self {m : List Host.Cell} (a : Nat) (b : Byte) (h : Memory.wf m = true) : rawGet (rawSet m a b) a = b := by
  unfold rawSet
  split
  · rename_i hb; rw [hb]; exact rawGet_rawErase_self a h
  · exact rawGet_rawPlace_self a b m

/-- Every other byte reads as before. -/
theorem rawGet_rawSet_ne {m : List Host.Cell} {a c : Nat} (b : Byte) (h : c ≠ a) : rawGet (rawSet m a b) c = rawGet m c := by
  unfold rawSet
  split
  · exact rawGet_rawErase_ne h m
  · exact rawGet_rawPlace_ne b h m

/-- Outside the bytes of a string written, every byte reads as before. -/
theorem rawGet_rawWrite_out : ∀ (b : List Byte) {m : List Host.Cell} {a c : Nat}, c < a ∨ a + b.length ≤ c →
    rawGet (rawWrite m a b) c = rawGet m c
  | [], _, _, _, _ => rfl
  | x :: xs, m, a, c, h => by
    simp only [rawWrite, List.length_cons] at *
    rw [rawGet_rawWrite_out xs (by omega), rawGet_rawSet_ne x (by omega)]

/-- Inside, every byte reads as written. -/
theorem rawGet_rawWrite_in : ∀ (b : List Byte) {m : List Host.Cell} (a i : Nat), Memory.wf m = true → (h : i < b.length) →
    rawGet (rawWrite m a b) (a + i) = b[i]
  | x :: xs, m, a, 0, w, h => by
    simp only [rawWrite, Nat.add_zero, List.getElem_cons_zero]
    rw [rawGet_rawWrite_out xs (by omega), rawGet_rawSet_self a x w]
  | x :: xs, m, a, i + 1, w, h => by
    simp only [rawWrite, List.getElem_cons_succ] at *
    have h' : i < xs.length := by simpa using h
    have := rawGet_rawWrite_in xs (m := rawSet m a x) (a + 1) i (wf_rawSet a x w) h'
    rw [← this]; congr 1; omega

end Sys2Proof.Laws
end

