-- ==== Sys2Proof/Laws/Keep.lean ====
section
/-! SUPPORT. What a function of the machine keeps: a property of the state that depends on the queue and the addressed memory
alone passes through every function that touches neither. -/

set_option Elab.async false

namespace Sys2Proof.Laws

open Sys2Proof.Machine

/-- The property depends on the queue and the addressed memory alone. -/
def Stable (P : State → Prop) : Prop := ∀ s t : State, t.pending = s.pending → t.raw = s.raw → P s → P t

/-- The queue is `p`, the addressed memory is `r`. -/
def Keep (p : List Instr) (r : List Host.Cell) (s : State) : Prop := s.pending = p ∧ s.raw = r

/-- The queue is `p`, the addressed memory has its canonical form. -/
def Canon (p : List Instr) (s : State) : Prop := s.pending = p ∧ Memory.wf s.raw = true

theorem stable_keep (p : List Instr) (r : List Host.Cell) : Stable (Keep p r) := fun _ _ h1 h2 h => ⟨h1.trans h.1, h2.trans h.2⟩

theorem stable_canon (p : List Instr) : Stable (Canon p) := fun s t h1 h2 h => ⟨h1.trans h.1, by rw [h2]; exact h.2⟩

/-- The property passes through what rewrites the addressed memory as well: a write, the loss of a stack, the loss of power. -/
structure Wide (P : State → Prop) : Prop where
  /-- It depends on the queue and the addressed memory alone. -/
  stable : Stable P
  /-- A write keeps it. -/
  write : ∀ a b s, P s → P (putRaw a b s)
  /-- The loss of a stack keeps it. -/
  stack : ∀ c s, P s → P (loseStack c s)
  /-- The loss of power keeps it. -/
  power : ∀ s, P s → P (powerGone s)

/-- The property holds of a pair's first part. -/
def Fst (P : State → Prop) (x : State × α) : Prop := P x.1

/-- The property holds of a pair's second part. -/
def Snd {β : Type} (Q : β → Prop) (x : α × β) : Prop := Q x.2

/-- The property holds of every state that an optional answer holds. -/
def All {β : Type} (Q : β → Prop) (o : Option β) : Prop := ∀ x, o = some x → Q x

/-- The property holds of the next state of an outcome. -/
def Next (P : State → Prop) (o : Host.Outcome State Fault Refusal) : Prop := ∀ t, o = .next t → P t

theorem fst_mk {P : State → Prop} {s : State} {x : α} (h : P s) : Fst P (s, x) := h
theorem snd_mk {β : Type} {Q : β → Prop} {s : β} {x : α} (h : Q s) : Snd Q (x, s) := h
theorem all_none {β : Type} {Q : β → Prop} : All Q none := fun _ h => nomatch h
theorem all_some {β : Type} {Q : β → Prop} {x : β} (h : Q x) : All Q (some x) := fun _ e => by cases e; exact h
theorem next_next {P : State → Prop} {s : State} (h : P s) : Next P (.next s) := fun _ e => by cases e; exact h

theorem fst_get {P : State → Prop} {x : State × α} (h : Fst P x) {t : State} {y : α} (e : x = (t, y)) : P t := by
  rw [e] at h; exact h
theorem snd_get {β : Type} {Q : β → Prop} {x : α × β} (h : Snd Q x) {t : β} {y : α} (e : x = (y, t)) : Q t := by
  rw [e] at h; exact h
theorem snd_get2 {β : Type} {Q : β → Prop} {x : α × γ × β} (h : Snd (Snd Q) x) {t : β} {y : α} {z : γ} (e : x = (y, z, t)) : Q t := by
  rw [e] at h; exact h
theorem all_get {β : Type} {Q : β → Prop} {o : Option β} (h : All Q o) {x : β} (e : o = some x) : Q x := h x e
theorem next_get {P : State → Prop} {o : Host.Outcome State Fault Refusal} (h : Next P o) {t : State} (e : o = .next t) : P t := h t e

theorem fst_one {P : State → Prop} {x : State × α} (h : Fst P x) : P x.1 := h
theorem snd_one {β : Type} {Q : β → Prop} {x : α × β} (h : Snd Q x) : Q x.2 := h
theorem cut {β : Type} {Q : β → Prop} {G : Prop} (x : β) (h : Q x) (k : Q x → G) : G := k h

theorem orElse_keep {β : Type} {Q : β → Prop} {o o' : Option β} (h : All Q o) (h' : All Q o') : All Q (o.orElse fun _ => o') := by
  cases o
  · exact h'
  · exact h

theorem map_snd_keep {P : State → Prop} {s : State} {o : Option α} (hs : P s) : All (Snd P) (o.map fun x => (x, s)) := by
  cases o
  · exact all_none
  · exact all_some hs

theorem mk_keep {P : State → Prop} (hP : Stable P) {s : State} {x_oracle x_free x_out x_node x_sec x_pwr x_ports x_neigh x_dbg x_fns x_parts x_cells x_ctxs x_cmds x_conns x_reuse x_pmem} (h : P s) :
    P (State.mk s.pending x_oracle x_free x_out x_node x_sec x_pwr x_ports x_neigh x_dbg x_fns x_parts x_cells x_ctxs x_cmds x_conns x_reuse s.raw x_pmem) := hP s _ rfl rfl h

theorem foldl_keep {α β : Type} {Q : β → Prop} {f : β → α → β} {l : List α} {b : β} (h : ∀ b x, Q b → Q (f b x)) (hb : Q b) :
    Q (l.foldl f b) := by
  induction l generalizing b with
  | nil => exact hb
  | cons x l ih => exact ih (h b x hb)

theorem ite_keep {β : Type} {Q : β → Prop} {c : Prop} [Decidable c] {x y : β} (hx : c → Q x) (hy : ¬c → Q y) : Q (if c then x else y) := by
  split
  · exact hx ‹_›
  · exact hy ‹_›

theorem elim_keep {α β : Type} {Q : β → Prop} {o : Option α} {b : β} {f : α → β} (hb : Q b) (hf : ∀ x, o = some x → Q (f x)) : Q (o.elim b f) := by
  cases o with
  | none => exact hb
  | some x => exact hf x rfl

theorem map_keep {α β : Type} {Q : β → Prop} {o : Option α} {f : α → β} (hf : ∀ x, o = some x → Q (f x)) : All Q (o.map f) := by
  cases o with
  | none => exact all_none
  | some x => exact all_some (hf x rfl)

theorem getD_keep {β : Type} {Q : β → Prop} {o : Option β} {b : β} (ho : All Q o) (hb : Q b) : Q (o.getD b) := by
  cases o with
  | none => exact hb
  | some x => exact ho x rfl

theorem fst_mk_eq {P : State → Prop} {s : State} {x : α} : Fst P (s, x) = P s := rfl
theorem snd_mk_eq {β : Type} {Q : β → Prop} {s : β} {x : α} : Snd Q (x, s) = Q s := rfl

theorem id_keep {β : Type} {Q : β → Prop} {x : β} (h : Q x) : Q (id x) := h

theorem wfFrom_filter (f : Host.Cell → Bool) : ∀ {lo : Nat} {m : List Host.Cell}, Memory.wfFrom lo m = true → Memory.wfFrom lo (m.filter f) = true
  | _, [], _ => rfl
  | lo, (a, b) :: m, h => by
    simp only [Memory.wfFrom, Bool.and_eq_true, decide_eq_true_eq] at h
    have hm := wfFrom_filter f h.2
    rw [List.filter_cons]
    split
    · simp only [Memory.wfFrom, Bool.and_eq_true, decide_eq_true_eq]
      exact ⟨h.1, hm⟩
    · exact wfFrom_mono (by omega) hm

theorem wf_filter (f : Host.Cell → Bool) {m : List Host.Cell} (h : Memory.wf m = true) : Memory.wf (m.filter f) = true := wfFrom_filter f h

theorem wide_canon (p : List Instr) : Wide (Canon p) :=
  ⟨stable_canon p, fun _ _ _ h => ⟨h.1, wf_rawWrite _ _ h.2⟩, fun _ _ h => ⟨h.1, wf_filter _ h.2⟩, fun _ h => ⟨h.1, rfl⟩⟩

theorem wide_queue (p : List Instr) : Wide (fun s => s.pending = p) :=
  ⟨fun _ _ h1 _ h => h1.trans h, fun _ _ _ h => h, fun _ _ h => h, fun _ h => h⟩

end Sys2Proof.Laws
end

