-- ==== Sys2Proof/Laws/Keep1.lean ====
section
/-! SUPPORT. What the functions of the machine keep, part 1 of 6, callees first. A function that leaves the queue and the addressed
memory alone keeps every property that depends on those two only; one that writes the addressed memory keeps its form and the queue. -/

namespace Sys2Proof.Laws

open Sys2Proof.Machine

theorem keep_dropRecon {P : State → Prop} (hP : Stable P) (a0 : Cmd) (a1 : Nat) (s : State) (hs : P s) :
    P (dropRecon a0 a1 s) := by
  unfold dropRecon
  dsimp -failIfUnchanged only
  repeat' first
    | with_reducible exact hs
    | with_reducible refine ite_keep ?_ ?_
    | intro _
    | fail_if_no_progress (with_reducible refine mk_keep hP ?_)

theorem keep_setPart {P : State → Prop} (hP : Stable P) (a0 : Nat) (a1 : Partn) (s : State) (hs : P s) :
    P (setPart a0 a1 s) := by
  unfold setPart
  repeat' first
    | with_reducible exact hs
    | fail_if_no_progress (with_reducible refine mk_keep hP ?_)

theorem keep_modPart {P : State → Prop} (hP : Stable P) (a0 : Nat) (a1 : Partn → Partn) (s : State) (hs : P s) :
    P (modPart a0 a1 s) := by
  unfold modPart
  repeat' first
    | with_reducible exact hs
    | with_reducible refine keep_setPart hP _ _ _ ?_

theorem keep_modSeq {P : State → Prop} (hP : Stable P) (a0 : Nat) (a1 : Nat) (a2 : Seq → Seq) (s : State) (hs : P s) :
    P (modSeq a0 a1 a2 s) := by
  unfold modSeq
  repeat' first
    | with_reducible exact hs
    | with_reducible refine keep_modPart hP _ _ _ ?_

theorem keep_endEdit {P : State → Prop} (hP : Stable P) (a0 : Cmd) (s : State) (hs : P s) :
    P (endEdit a0 s) := by
  unfold endEdit
  repeat' first
    | with_reducible exact hs
    | with_reducible refine ite_keep ?_ ?_
    | with_reducible refine keep_modSeq hP _ _ _ _ ?_
    | intro _

theorem keep_setCell {P : State → Prop} (hP : Stable P) (a0 : Nat) (a1 : Cell) (s : State) (hs : P s) :
    P (setCell a0 a1 s) := by
  unfold setCell
  repeat' first
    | with_reducible exact hs
    | fail_if_no_progress (with_reducible refine mk_keep hP ?_)

theorem keep_modCell {P : State → Prop} (hP : Stable P) (a0 : Nat) (a1 : Cell → Cell) (s : State) (hs : P s) :
    P (modCell a0 a1 s) := by
  unfold modCell
  repeat' first
    | with_reducible exact hs
    | with_reducible refine keep_setCell hP _ _ _ ?_

theorem keep_dropT1 {P : State → Prop} (hP : Stable P) (a0 : Nat) (s : State) (hs : P s) :
    P (dropT1 a0 s) := by
  unfold dropT1
  repeat' first
    | with_reducible exact hs
    | with_reducible refine keep_modCell hP _ _ _ ?_

theorem keep_draw {P : State → Prop} (hP : Stable P) (s : State) (hs : P s) :
    Snd P (draw s) := by
  unfold draw
  repeat' first
    | with_reducible exact hs
    | dsimp only [fst_mk_eq, snd_mk_eq]
    | split
    | fail_if_no_progress (with_reducible refine mk_keep hP ?_)

theorem keep_modTable {P : State → Prop} (hP : Stable P) (a0 : Nat) (a1 : Nat) (a2 : TableSlot → TableSlot) (s : State) (hs : P s) :
    P (modTable a0 a1 a2 s) := by
  unfold modTable
  repeat' first
    | with_reducible exact hs
    | with_reducible refine keep_modPart hP _ _ _ ?_

theorem keep_dropTable {P : State → Prop} (hP : Stable P) (a0 : Nat) (a1 : Nat) (s : State) (hs : P s) :
    P (dropTable a0 a1 s) := by
  unfold dropTable
  dsimp -failIfUnchanged only
  repeat' first
    | with_reducible exact hs
    | with_reducible refine keep_modTable hP _ _ _ _ ?_
    | fail_if_no_progress (with_reducible refine mk_keep hP ?_)

theorem keep_zeroSlot {P : State → Prop} (hP : Stable P) (a0 : Nat) (a1 : Nat) (s : State) (hs : P s) :
    P (zeroSlot a0 a1 s) := by
  unfold zeroSlot
  repeat' first
    | with_reducible exact hs
    | fail_if_no_progress (with_reducible refine mk_keep hP ?_)

theorem keep_freePage {P : State → Prop} (hP : Stable P) (a0 : Nat) (a1 : Nat) (s : State) (hs : P s) :
    P (freePage a0 a1 s) := by
  unfold freePage
  dsimp -failIfUnchanged only
  repeat' first
    | with_reducible exact hs
    | with_reducible refine ite_keep ?_ ?_
    | with_reducible refine keep_dropT1 hP _ _ ?_
    | with_reducible refine snd_one (keep_draw hP _ ?_)
    | with_reducible refine keep_dropTable hP _ _ _ ?_
    | with_reducible refine keep_zeroSlot hP _ _ _ ?_
    | with_reducible refine keep_modCell hP _ _ _ ?_
    | split
    | intro _

theorem keep_freeBlock {P : State → Prop} (hP : Stable P) (a0 : Nat) (s : State) (hs : P s) :
    P (freeBlock a0 s) := by
  unfold freeBlock
  repeat' first
    | with_reducible exact hs
    | with_reducible refine keep_modCell hP _ _ _ ?_

theorem keep_reclaim {P : State → Prop} (hP : Stable P) (a0 : Nat) (s : State) (hs : P s) :
    P (reclaim a0 s) := by
  unfold reclaim
  dsimp -failIfUnchanged only
  repeat' first
    | with_reducible exact hs
    | with_reducible assumption
    | with_reducible refine keep_modPart hP _ _ _ ?_
    | with_reducible refine keep_freePage hP _ _ _ ?_
    | with_reducible refine keep_freeBlock hP _ _ ?_
    | with_reducible refine foldl_keep ?_ ?_
    | split
    | intro _

theorem keep_widenEntry {P : State → Prop} (hP : Stable P) (a0 : Cmd) (a1 : Nat) (a2 : Nat) (a3 : Nat) (a4 : Clips) (s : State) (hs : P s) :
    P (widenEntry a0 a1 a2 a3 a4 s) := by
  unfold widenEntry
  dsimp -failIfUnchanged only
  repeat' first
    | with_reducible exact hs
    | with_reducible refine keep_modPart hP _ _ _ ?_
    | split

theorem keep_widenAll {P : State → Prop} (hP : Stable P) (a0 : Cmd) (s : State) (hs : P s) :
    P (widenAll a0 s) := by
  unfold widenAll
  repeat' first
    | with_reducible exact hs
    | with_reducible assumption
    | with_reducible refine ite_keep ?_ ?_
    | with_reducible refine keep_widenEntry hP _ _ _ _ _ _ ?_
    | with_reducible refine foldl_keep ?_ ?_
    | intro _

theorem keep_modConn {P : State → Prop} (hP : Stable P) (a0 : Nat) (a1 : Conn → Conn) (s : State) (hs : P s) :
    P (modConn a0 a1 s) := by
  unfold modConn
  repeat' first
    | with_reducible exact hs
    | fail_if_no_progress (with_reducible refine mk_keep hP ?_)

theorem keep_sendMsg {P : State → Prop} (hP : Stable P) (a0 : Nat) (a1 : MsgOut) (s : State) (hs : P s) :
    P (sendMsg a0 a1 s) := by
  unfold sendMsg
  repeat' first
    | with_reducible exact hs
    | with_reducible refine keep_modConn hP _ _ _ ?_

theorem keep_emit {P : State → Prop} (hP : Stable P) (a0 : Output) (s : State) (hs : P s) :
    P (emit a0 s) := by
  unfold emit
  repeat' first
    | with_reducible exact hs
    | fail_if_no_progress (with_reducible refine mk_keep hP ?_)

theorem keep_modFn {P : State → Prop} (hP : Stable P) (a0 : Nat) (a1 : Fn → Fn) (s : State) (hs : P s) :
    P (modFn a0 a1 s) := by
  unfold modFn
  repeat' first
    | with_reducible exact hs
    | fail_if_no_progress (with_reducible refine mk_keep hP ?_)

theorem keep_modQp {P : State → Prop} (hP : Stable P) (a0 : Nat) (a1 : Nat) (a2 : Qp → Qp) (s : State) (hs : P s) :
    P (modQp a0 a1 a2 s) := by
  unfold modQp
  repeat' first
    | with_reducible exact hs
    | with_reducible refine keep_modFn hP _ _ _ ?_

theorem keep_handReply {P : State → Prop} (hP : Stable P) (a0 : Source) (a1 : Nat) (a2 : Nat) (a3 : Nat) (a4 : Bool) (a5 : Bool) (a6 : Reply) (s : State) (hs : P s) :
    P (handReply a0 a1 a2 a3 a4 a5 a6 s) := by
  unfold handReply
  dsimp -failIfUnchanged only
  repeat' first
    | with_reducible exact hs
    | with_reducible refine ite_keep ?_ ?_
    | with_reducible refine keep_sendMsg hP _ _ _ ?_
    | with_reducible refine keep_modConn hP _ _ _ ?_
    | with_reducible refine keep_emit hP _ _ ?_
    | with_reducible refine keep_modQp hP _ _ _ _ ?_
    | split
    | intro _

theorem keep_complete {P : State → Prop} (hP : Stable P) (a0 : Nat) (a1 : Reply) (s : State) (hs : P s) :
    P (complete a0 a1 s) := by
  unfold complete
  repeat' first
    | with_reducible exact hs
    | with_reducible refine keep_handReply hP _ _ _ _ _ _ _ _ ?_
    | split
    | fail_if_no_progress (with_reducible refine mk_keep hP ?_)

theorem keep_modScorer {P : State → Prop} (hP : Stable P) (a0 : Nat) (a1 : Nat) (a2 : Scorer → Scorer) (s : State) (hs : P s) :
    P (modScorer a0 a1 a2 s) := by
  unfold modScorer
  repeat' first
    | with_reducible exact hs
    | with_reducible refine keep_modPart hP _ _ _ ?_

theorem keep_dropHolds {P : State → Prop} (hP : Stable P) (a0 : Cmd) (s : State) (hs : P s) :
    P (dropHolds a0 s) := by
  unfold dropHolds
  dsimp -failIfUnchanged only
  repeat' first
    | with_reducible exact hs
    | with_reducible refine keep_modScorer hP _ _ _ _ ?_
    | with_reducible refine keep_dropTable hP _ _ _ ?_
    | split

theorem keep_meter {P : State → Prop} (hP : Stable P) (a0 : Nat) (a1 : Nat) (a2 : Meter → Meter) (s : State) (hs : P s) :
    P (meter a0 a1 a2 s) := by
  unfold meter
  repeat' first
    | with_reducible exact hs
    | with_reducible refine keep_modPart hP _ _ _ ?_

theorem keep_countRequest {P : State → Prop} (hP : Stable P) (a0 : Cmd) (a1 : Reply) (s : State) (hs : P s) :
    P (countRequest a0 a1 s) := by
  unfold countRequest
  repeat' first
    | with_reducible exact hs
    | with_reducible refine ite_keep ?_ ?_
    | with_reducible refine keep_meter hP _ _ _ _ ?_
    | split
    | intro _

theorem keep_conclude {P : State → Prop} (hP : Stable P) (a0 : Nat) (a1 : Reply) (s : State) (hs : P s) :
    P (conclude a0 a1 s) := by
  unfold conclude
  dsimp -failIfUnchanged only
  repeat' first
    | with_reducible exact hs
    | with_reducible refine keep_dropRecon hP _ _ _ ?_
    | with_reducible refine keep_endEdit hP _ _ ?_
    | with_reducible refine keep_reclaim hP _ _ ?_
    | with_reducible refine keep_widenAll hP _ _ ?_
    | with_reducible refine keep_complete hP _ _ _ ?_
    | with_reducible refine keep_dropHolds hP _ _ ?_
    | with_reducible refine keep_countRequest hP _ _ _ ?_
    | split
    | fail_if_no_progress (with_reducible refine mk_keep hP ?_)

theorem keep_modNode {P : State → Prop} (hP : Stable P) (a0 : Node → Node) (s : State) (hs : P s) :
    P (modNode a0 s) := by
  unfold modNode
  repeat' first
    | with_reducible exact hs
    | fail_if_no_progress (with_reducible refine mk_keep hP ?_)

theorem keep_abandonDrizzle {P : State → Prop} (hP : Stable P) (s : State) (hs : P s) :
    P (abandonDrizzle s) := by
  unfold abandonDrizzle
  dsimp -failIfUnchanged only
  repeat' first
    | with_reducible exact hs
    | with_reducible refine keep_conclude hP _ _ _ ?_
    | with_reducible refine keep_modNode hP _ _ ?_

theorem keep_modLend {P : State → Prop} (hP : Stable P) (a0 : Nat) (a1 : LendEntry → LendEntry) (s : State) (hs : P s) :
    P (modLend a0 a1 s) := by
  unfold modLend
  repeat' first
    | with_reducible exact hs
    | with_reducible refine keep_modCell hP _ _ _ ?_

theorem keep_endJob {P : State → Prop} (hP : Stable P) (a0 : Nat) (a1 : Nat) (s : State) (hs : P s) :
    P (endJob a0 a1 s) := by
  unfold endJob
  dsimp -failIfUnchanged only
  repeat' first
    | with_reducible exact hs
    | with_reducible refine elim_keep ?_ ?_
    | with_reducible refine keep_modSeq hP _ _ _ _ ?_
    | with_reducible refine keep_reclaim hP _ _ ?_
    | with_reducible refine keep_modPart hP _ _ _ ?_
    | with_reducible refine keep_freePage hP _ _ _ ?_
    | split
    | intro _

theorem keep_abandonEdit {P : State → Prop} (hP : Stable P) (a0 : Nat) (a1 : Nat) (s : State) (hs : P s) :
    P (abandonEdit a0 a1 s) := by
  unfold abandonEdit
  dsimp -failIfUnchanged only
  repeat' first
    | with_reducible exact hs
    | with_reducible refine ite_keep ?_ ?_
    | with_reducible refine map_keep ?_
    | with_reducible refine getD_keep ?_ ?_
    | with_reducible refine keep_modLend hP _ _ _ ?_
    | with_reducible refine keep_endEdit hP _ _ ?_
    | with_reducible refine keep_endJob hP _ _ _ ?_
    | split
    | intro _

theorem keep_modOp {P : State → Prop} (hP : Stable P) (a0 : Nat) (a1 : Nat) (a2 : BankOp → BankOp) (s : State) (hs : P s) :
    P (modOp a0 a1 a2 s) := by
  unfold modOp
  repeat' first
    | with_reducible exact hs
    | with_reducible refine keep_modPart hP _ _ _ ?_

theorem keep_postOp {P : State → Prop} (hP : Stable P) (a0 : Nat) (a1 : Nat) (s : State) (hs : P s) :
    P (postOp a0 a1 s) := by
  unfold postOp
  dsimp -failIfUnchanged only
  repeat' first
    | with_reducible exact hs
    | with_reducible refine ite_keep ?_ ?_
    | with_reducible refine keep_modPart hP _ _ _ ?_
    | with_reducible refine keep_conclude hP _ _ _ ?_
    | with_reducible refine keep_modOp hP _ _ _ _ ?_
    | split
    | intro _
    | fail_if_no_progress (with_reducible refine mk_keep hP ?_)

theorem keep_endOp {P : State → Prop} (hP : Stable P) (a0 : Nat) (a1 : Nat) (s : State) (hs : P s) :
    P (endOp a0 a1 s) := by
  unfold endOp
  repeat' first
    | with_reducible exact hs
    | with_reducible refine ite_keep ?_ ?_
    | with_reducible refine keep_postOp hP _ _ _ ?_
    | with_reducible refine keep_modOp hP _ _ _ _ ?_
    | intro _

theorem keep_cancelOp {P : State → Prop} (hP : Stable P) (a0 : Nat) (a1 : Nat) (s : State) (hs : P s) :
    P (cancelOp a0 a1 s) := by
  unfold cancelOp
  dsimp -failIfUnchanged only
  repeat' first
    | with_reducible exact hs
    | with_reducible assumption
    | with_reducible refine keep_endOp hP _ _ _ ?_
    | with_reducible refine keep_modOp hP _ _ _ _ ?_
    | with_reducible refine keep_modCell hP _ _ _ ?_
    | with_reducible refine foldl_keep ?_ ?_
    | intro _

theorem keep_releaseSearch {P : State → Prop} (hP : Stable P) (a0 : Nat) (s : State) (hs : P s) :
    P (releaseSearch a0 s) := by
  unfold releaseSearch
  dsimp -failIfUnchanged only
  repeat' first
    | with_reducible exact hs
    | with_reducible refine keep_modPart hP _ _ _ ?_

theorem keep_untieSends {P : State → Prop} (hP : Stable P) (a0 : Nat) (s : State) (hs : P s) :
    P (untieSends a0 s) := by
  unfold untieSends
  dsimp -failIfUnchanged only
  repeat' first
    | with_reducible exact hs
    | fail_if_no_progress (with_reducible refine mk_keep hP ?_)

theorem keep_modCtx {P : State → Prop} (hP : Stable P) (a0 : Nat) (a1 : Ctx → Ctx) (s : State) (hs : P s) :
    P (modCtx a0 a1 s) := by
  unfold modCtx
  repeat' first
    | with_reducible exact hs
    | fail_if_no_progress (with_reducible refine mk_keep hP ?_)

theorem keep_releaseCell {P : State → Prop} (hP : Stable P) (a0 : Nat) (a1 : Nat) (s : State) (hs : P s) :
    P (releaseCell a0 a1 s) := by
  unfold releaseCell
  dsimp -failIfUnchanged only
  repeat' first
    | with_reducible exact hs
    | with_reducible refine keep_modCtx hP _ _ _ ?_
    | with_reducible refine keep_modCell hP _ _ _ ?_
    | split

theorem keep_modGset {P : State → Prop} (hP : Stable P) (a0 : Nat) (a1 : Nat) (a2 : GSet → GSet) (s : State) (hs : P s) :
    P (modGset a0 a1 a2 s) := by
  unfold modGset
  repeat' first
    | with_reducible exact hs
    | with_reducible refine keep_modPart hP _ _ _ ?_

theorem keep_modGpage {P : State → Prop} (hP : Stable P) (a0 : Nat) (a1 : Nat) (a2 : Nat) (a3 : Nat) (a4 : GPage → GPage) (s : State) (hs : P s) :
    P (modGpage a0 a1 a2 a3 a4 s) := by
  unfold modGpage
  repeat' first
    | with_reducible exact hs
    | with_reducible refine keep_modGset hP _ _ _ _ ?_

theorem keep_releaseCtx {P : State → Prop} (hP : Stable P) (a0 : Nat) (s : State) (hs : P s) :
    P (releaseCtx a0 s) := by
  unfold releaseCtx
  dsimp -failIfUnchanged only
  repeat' first
    | with_reducible exact hs
    | with_reducible assumption
    | with_reducible refine ite_keep ?_ ?_
    | with_reducible refine keep_untieSends hP _ _ ?_
    | with_reducible refine keep_releaseCell hP _ _ _ ?_
    | with_reducible refine keep_modCtx hP _ _ _ ?_
    | with_reducible refine keep_modGpage hP _ _ _ _ _ _ ?_
    | with_reducible refine keep_modGset hP _ _ _ _ ?_
    | with_reducible refine foldl_keep ?_ ?_
    | intro _

theorem keep_dispatchOne {P : State → Prop} (hP : Stable P) (a0 : Nat) (a1 : Nat) (a2 : Nat) (s : State) (hs : P s) :
    P (dispatchOne a0 a1 a2 s) := by
  unfold dispatchOne
  dsimp -failIfUnchanged only
  repeat' first
    | with_reducible exact hs
    | with_reducible refine ite_keep ?_ ?_
    | with_reducible refine keep_modCtx hP _ _ _ ?_
    | with_reducible refine keep_modCell hP _ _ _ ?_
    | split
    | intro _

theorem keep_startGroups {P : State → Prop} (hP : Stable P) (a0 : Nat) (s : State) (hs : P s) :
    P (startGroups a0 s) := by
  unfold startGroups
  dsimp -failIfUnchanged only
  repeat' first
    | with_reducible exact hs
    | with_reducible assumption
    | with_reducible refine keep_modCtx hP _ _ _ ?_
    | with_reducible refine keep_dispatchOne hP _ _ _ _ ?_
    | with_reducible refine foldl_keep ?_ ?_
    | split
    | intro _

theorem keep_pump {P : State → Prop} (hP : Stable P) (s : State) (hs : P s) :
    P (pump s) := by
  unfold pump
  repeat' first
    | with_reducible exact hs
    | with_reducible assumption
    | with_reducible refine keep_startGroups hP _ _ ?_
    | with_reducible refine foldl_keep ?_ ?_
    | split
    | intro _

theorem keep_endCtx {P : State → Prop} (hP : Stable P) (a0 : Nat) (a1 : Reply) (s : State) (hs : P s) :
    P (endCtx a0 a1 s) := by
  unfold endCtx
  dsimp -failIfUnchanged only
  repeat' first
    | with_reducible exact hs
    | with_reducible refine keep_releaseCtx hP _ _ ?_
    | with_reducible refine keep_conclude hP _ _ _ ?_
    | with_reducible refine keep_pump hP _ ?_

theorem keep_abortCmd {P : State → Prop} (hP : Stable P) (a0 : Nat) (a1 : Reply) (s : State) (hs : P s) :
    P (abortCmd a0 a1 s) := by
  unfold abortCmd
  dsimp -failIfUnchanged only
  repeat' first
    | with_reducible exact hs
    | with_reducible assumption
    | with_reducible refine ite_keep ?_ ?_
    | with_reducible refine keep_cancelOp hP _ _ _ ?_
    | with_reducible refine keep_modSeq hP _ _ _ _ ?_
    | with_reducible refine keep_conclude hP _ _ _ ?_
    | with_reducible refine keep_releaseSearch hP _ _ ?_
    | with_reducible refine keep_endCtx hP _ _ _ ?_
    | with_reducible refine foldl_keep ?_ ?_
    | split
    | intro _

theorem keep_modRegion {P : State → Prop} (hP : Stable P) (a0 : Nat) (a1 : Nat) (a2 : Region → Region) (s : State) (hs : P s) :
    P (modRegion a0 a1 a2 s) := by
  unfold modRegion
  repeat' first
    | with_reducible exact hs
    | with_reducible refine keep_modPart hP _ _ _ ?_

theorem keep_acceptInto {P : State → Prop} (hP : Stable P) (a0 : Nat) (a1 : Nat) (s : State) (hs : P s) :
    P (acceptInto a0 a1 s) := by
  unfold acceptInto
  repeat' first
    | with_reducible exact hs
    | with_reducible refine keep_modRegion hP _ _ _ _ ?_

theorem keep_writeImm {P : State → Prop} (hP : Stable P) (a0 : Nat) (a1 : Nat) (a2 : Nat) (a3 : Nat) (a4 : Nat) (a5 : List Byte) (a6 : Purpose) (s : State) (hs : P s) :
    P (writeImm a0 a1 a2 a3 a4 a5 a6 s) := by
  unfold writeImm
  repeat' first
    | with_reducible exact hs
    | with_reducible refine keep_sendMsg hP _ _ _ ?_

theorem keep_sendReply {P : State → Prop} (hP : Stable P) (a0 : Nat) (a1 : Bool) (s : State) (hs : P s) :
    P (sendReply a0 a1 s) := by
  unfold sendReply
  dsimp -failIfUnchanged only
  repeat' first
    | with_reducible exact hs
    | with_reducible refine ite_keep ?_ ?_
    | with_reducible refine keep_modCtx hP _ _ _ ?_
    | with_reducible refine keep_conclude hP _ _ _ ?_
    | with_reducible refine keep_writeImm hP _ _ _ _ _ _ _ _ ?_
    | with_reducible refine keep_pump hP _ ?_
    | with_reducible refine keep_endCtx hP _ _ _ ?_
    | split
    | intro _

theorem keep_freeGset {P : State → Prop} (hP : Stable P) (a0 : Nat) (a1 : Nat) (s : State) (hs : P s) :
    P (freeGset a0 a1 s) := by
  unfold freeGset
  repeat' first
    | with_reducible exact hs
    | with_reducible refine keep_modPart hP _ _ _ ?_

theorem keep_shipNext {P : State → Prop} (hP : Stable P) (a0 : Nat) (s : State) (hs : P s) :
    P (shipNext a0 s) := by
  unfold shipNext
  dsimp -failIfUnchanged only
  repeat' first
    | with_reducible exact hs
    | with_reducible refine ite_keep ?_ ?_
    | with_reducible refine keep_modCtx hP _ _ _ ?_
    | with_reducible refine keep_writeImm hP _ _ _ _ _ _ _ _ ?_
    | with_reducible refine keep_sendReply hP _ _ _ ?_
    | with_reducible refine keep_endCtx hP _ _ _ ?_
    | with_reducible refine keep_freeGset hP _ _ _ ?_
    | split
    | intro _

theorem keep_settle {P : State → Prop} (hP : Stable P) (a0 : Nat) (s : State) (hs : P s) :
    P (settle a0 s) := by
  unfold settle
  repeat' first
    | with_reducible exact hs
    | with_reducible refine ite_keep ?_ ?_
    | with_reducible refine keep_modCtx hP _ _ _ ?_
    | with_reducible refine keep_sendReply hP _ _ _ ?_
    | with_reducible refine keep_freeGset hP _ _ _ ?_
    | with_reducible refine keep_shipNext hP _ _ ?_
    | split
    | intro _

theorem keep_arrive {P : State → Prop} (hP : Stable P) (a0 : Nat) (a1 : Nat) (a2 : Nat) (a3 : Nat) (a4 : List RowOut) (s : State) (hs : P s) :
    P (arrive a0 a1 a2 a3 a4 s) := by
  unfold arrive
  dsimp -failIfUnchanged only
  repeat' first
    | with_reducible exact hs
    | with_reducible refine ite_keep ?_ ?_
    | dsimp only [fst_mk_eq, snd_mk_eq]
    | with_reducible refine keep_modCtx hP _ _ _ ?_
    | with_reducible refine keep_settle hP _ _ ?_
    | with_reducible refine keep_pump hP _ ?_
    | split
    | intro _

theorem keep_neighbourDone {P : State → Prop} (hP : Stable P) (a0 : Nat) (a1 : Nat) (a2 : Option (List RowOut)) (s : State) (hs : P s) :
    P (neighbourDone a0 a1 a2 s) := by
  unfold neighbourDone
  dsimp -failIfUnchanged only
  repeat' first
    | with_reducible exact hs
    | with_reducible assumption
    | with_reducible refine keep_modCtx hP _ _ _ ?_
    | with_reducible refine keep_arrive hP _ _ _ _ _ _ ?_
    | with_reducible refine foldl_keep ?_ ?_
    | split
    | intro _

theorem keep_markUsed {P : State → Prop} (hP : Stable P) (a0 : List Nat) (a1 : List Byte) (s : State) (hs : P s) :
    P (markUsed a0 a1 s) := by
  unfold markUsed
  repeat' first
    | with_reducible exact hs
    | with_reducible assumption
    | with_reducible refine keep_modCell hP _ _ _ ?_
    | with_reducible refine foldl_keep ?_ ?_
    | split
    | intro _

theorem keep_acceptRows {P : State → Prop} (hP : Stable P) (a0 : Nat) (a1 : Nat) (a2 : Nat) (a3 : Nat) (a4 : List Byte) (s : State) (hs : P s) :
    P (acceptRows a0 a1 a2 a3 a4 s) := by
  unfold acceptRows
  dsimp -failIfUnchanged only
  repeat' first
    | with_reducible exact hs
    | with_reducible refine ite_keep ?_ ?_
    | with_reducible refine keep_neighbourDone hP _ _ _ _ ?_
    | with_reducible refine keep_modCtx hP _ _ _ ?_
    | with_reducible refine keep_settle hP _ _ ?_
    | with_reducible refine keep_pump hP _ ?_
    | with_reducible refine keep_markUsed hP _ _ _ ?_
    | split
    | intro _

theorem keep_modPort {P : State → Prop} (hP : Stable P) (a0 : Nat) (a1 : Port → Port) (s : State) (hs : P s) :
    P (modPort a0 a1 s) := by
  unfold modPort
  repeat' first
    | with_reducible exact hs
    | fail_if_no_progress (with_reducible refine mk_keep hP ?_)

theorem keep_useTx {P : State → Prop} (hP : Stable P) (a0 : Nat) (s : State) (hs : P s) :
    P (useTx a0 s) := by
  unfold useTx
  repeat' first
    | with_reducible exact hs
    | with_reducible refine keep_modPort hP _ _ _ ?_

theorem keep_sendPkt {P : State → Prop} (hP : Stable P) (a0 : Nat) (a1 : Nat) (a2 : PktOut → PktOut) (s : State) (hs : P s) :
    P (sendPkt a0 a1 a2 s) := by
  unfold sendPkt
  dsimp -failIfUnchanged only
  repeat' first
    | with_reducible exact hs
    | with_reducible refine keep_modConn hP _ _ _ ?_
    | with_reducible refine keep_emit hP _ _ ?_
    | with_reducible refine keep_useTx hP _ _ ?_
    | split

theorem keep_ackPkt {P : State → Prop} (hP : Stable P) (a0 : Nat) (a1 : Nat) (a2 : Nat) (a3 : List Byte) (s : State) (hs : P s) :
    P (ackPkt a0 a1 a2 a3 s) := by
  unfold ackPkt
  dsimp -failIfUnchanged only
  repeat' first
    | with_reducible exact hs
    | with_reducible refine keep_sendPkt hP _ _ _ _ ?_

theorem keep_gradSent {P : State → Prop} (hP : Stable P) (a0 : Nat) (a1 : Bool) (s : State) (hs : P s) :
    P (gradSent a0 a1 s) := by
  unfold gradSent
  dsimp -failIfUnchanged only
  repeat' first
    | with_reducible exact hs
    | with_reducible refine ite_keep ?_ ?_
    | with_reducible refine keep_modCtx hP _ _ _ ?_
    | with_reducible refine keep_modGset hP _ _ _ _ ?_
    | with_reducible refine keep_endCtx hP _ _ _ ?_
    | with_reducible refine keep_shipNext hP _ _ ?_
    | split
    | intro _

theorem keep_attendWritten {P : State → Prop} (hP : Stable P) (a0 : Nat) (a1 : Bool) (s : State) (hs : P s) :
    P (attendWritten a0 a1 s) := by
  unfold attendWritten
  dsimp -failIfUnchanged only
  repeat' first
    | with_reducible exact hs
    | with_reducible refine ite_keep ?_ ?_
    | with_reducible refine keep_modCtx hP _ _ _ ?_
    | with_reducible refine keep_conclude hP _ _ _ ?_
    | with_reducible refine keep_pump hP _ ?_
    | with_reducible refine keep_endCtx hP _ _ _ ?_
    | split
    | intro _

theorem keep_msgFailed {P : State → Prop} (hP : Stable P) (a0 : Nat) (a1 : MsgOut) (s : State) (hs : P s) :
    P (msgFailed a0 a1 s) := by
  unfold msgFailed
  repeat' first
    | with_reducible exact hs
    | with_reducible refine keep_modConn hP _ _ _ ?_
    | with_reducible refine keep_gradSent hP _ _ _ ?_
    | with_reducible refine keep_attendWritten hP _ _ _ ?_
    | split

theorem keep_msgDone {P : State → Prop} (hP : Stable P) (a0 : Nat) (a1 : MsgOut) (s : State) (hs : P s) :
    P (msgDone a0 a1 s) := by
  unfold msgDone
  repeat' first
    | with_reducible exact hs
    | with_reducible refine ite_keep ?_ ?_
    | with_reducible refine keep_gradSent hP _ _ _ ?_
    | with_reducible refine keep_msgFailed hP _ _ _ ?_
    | with_reducible refine keep_attendWritten hP _ _ _ ?_
    | split
    | intro _

theorem keep_ackedTo {P : State → Prop} (hP : Stable P) (a0 : Nat) (a1 : Nat) (s : State) (hs : P s) :
    P (ackedTo a0 a1 s) := by
  unfold ackedTo
  dsimp -failIfUnchanged only
  repeat' first
    | with_reducible exact hs
    | with_reducible assumption
    | with_reducible refine ite_keep ?_ ?_
    | with_reducible refine keep_modConn hP _ _ _ ?_
    | with_reducible refine keep_msgDone hP _ _ _ ?_
    | with_reducible refine foldl_keep ?_ ?_
    | intro _

theorem keep_startPort {P : State → Prop} (hP : Stable P) (a0 : Nat) (s : State) (hs : P s) :
    P (startPort a0 s) := by
  unfold startPort
  dsimp -failIfUnchanged only
  repeat' first
    | with_reducible exact hs
    | with_reducible refine ite_keep ?_ ?_
    | with_reducible refine keep_modPort hP _ _ _ ?_
    | with_reducible refine keep_emit hP _ _ ?_
    | split
    | intro _

theorem keep_drivePin {P : State → Prop} (hP : Stable P) (a0 : Nat) (a1 : Bool) (s : State) (hs : P s) :
    P (drivePin a0 a1 s) := by
  unfold drivePin
  repeat' first
    | with_reducible exact hs
    | with_reducible refine keep_emit hP _ _ ?_

theorem keep_assertFault {P : State → Prop} (hP : Stable P) (s : State) (hs : P s) :
    P (assertFault s) := by
  unfold assertFault
  repeat' first
    | with_reducible exact hs
    | with_reducible refine ite_keep ?_ ?_
    | with_reducible refine keep_drivePin hP _ _ _ ?_
    | with_reducible refine keep_modNode hP _ _ ?_
    | intro _

theorem keep_loadImage {P : State → Prop} (hP : Stable P) (s : State) (hs : P s) :
    P (loadImage s) := by
  unfold loadImage
  dsimp -failIfUnchanged only
  repeat' first
    | with_reducible exact hs
    | with_reducible assumption
    | with_reducible refine keep_modPart hP _ _ _ ?_
    | with_reducible refine keep_startPort hP _ _ ?_
    | with_reducible refine keep_assertFault hP _ ?_
    | with_reducible refine keep_modNode hP _ _ ?_
    | with_reducible refine foldl_keep ?_ ?_
    | split
    | intro _

theorem keep_activate {P : State → Prop} (hP : Stable P) (a0 : Option Nat) (s : State) (hs : P s) :
    Fst P (activate a0 s) := by
  unfold activate
  dsimp -failIfUnchanged only
  repeat' first
    | with_reducible exact hs
    | with_reducible refine ite_keep ?_ ?_
    | dsimp only [fst_mk_eq, snd_mk_eq]
    | with_reducible refine keep_loadImage hP _ ?_
    | with_reducible refine keep_modNode hP _ _ ?_
    | split
    | intro _

theorem keep_putRaw {P : State → Prop} (hP : Wide P) (a0 : Nat) (a1 : List Byte) (s : State) (hs : P s) :
    P (putRaw a0 a1 s) := by
  exact hP.write _ _ _ hs

theorem keep_addIncrements {P : State → Prop} (hP : Wide P) (a0 : Nat) (a1 : MRec) (a2 : Nat) (a3 : Nat) (a4 : PlaceData) (s : State) (hs : P s) :
    All P (addIncrements a0 a1 a2 a3 a4 s) := by
  unfold addIncrements
  dsimp -failIfUnchanged only
  repeat' first
    | with_reducible exact hs
    | with_reducible assumption
    | with_reducible exact all_none
    | with_reducible refine all_some ?_
    | with_reducible refine ite_keep ?_ ?_
    | with_reducible refine keep_modCtx hP.1 _ _ _ ?_
    | with_reducible refine keep_modGset hP.1 _ _ _ _ ?_
    | with_reducible refine keep_modNode hP.1 _ _ ?_
    | with_reducible refine keep_putRaw hP _ _ _ ?_
    | with_reducible refine keep_modCell hP.1 _ _ _ ?_
    | with_reducible refine foldl_keep ?_ ?_
    | split
    | intro _

theorem keep_modPage {P : State → Prop} (hP : Stable P) (a0 : Nat) (a1 : Page → Page) (s : State) (hs : P s) :
    P (modPage a0 a1 s) := by
  unfold modPage
  repeat' first
    | with_reducible exact hs
    | with_reducible refine keep_modCell hP _ _ _ ?_

theorem keep_modGroup {P : State → Prop} (hP : Stable P) (a0 : Nat) (a1 : Nat) (a2 : PlaceRec → PlaceRec) (s : State) (hs : P s) :
    P (modGroup a0 a1 a2 s) := by
  unfold modGroup
  repeat' first
    | with_reducible exact hs
    | with_reducible refine keep_modPart hP _ _ _ ?_

theorem keep_newUid {P : State → Prop} (hP : Stable P) (a0 : Nat) (a1 : Nat) (s : State) (hs : P s) :
    Snd P (newUid a0 a1 s) := by
  unfold newUid
  repeat' first
    | with_reducible exact hs
    | dsimp only [fst_mk_eq, snd_mk_eq]
    | with_reducible refine keep_modPart hP _ _ _ ?_

theorem keep_allocPage {P : State → Prop} (hP : Stable P) (a0 : Nat) (a1 : List Nat) (a2 : Nat) (a3 : Option Nat) (s : State) (hs : P s) :
    All (Snd P) (allocPage a0 a1 a2 a3 s) := by
  induction a1 generalizing s with
  | nil =>
    unfold allocPage
    dsimp -failIfUnchanged only
    repeat' first
      | with_reducible exact all_none
  | cons x l ih =>
    unfold allocPage
    dsimp -failIfUnchanged only
    repeat' first
      | with_reducible refine ih _ ?_
      | with_reducible exact hs
      | with_reducible refine all_some ?_
      | dsimp only [fst_mk_eq, snd_mk_eq]
      | with_reducible refine snd_one (keep_draw hP _ ?_)
      | with_reducible refine keep_modCell hP _ _ _ ?_
      | split

theorem keep_addParity {P : State → Prop} (hP : Stable P) (a0 : Nat) (a1 : Nat) (a2 : Nat) (a3 : Nat) (a4 : Nat) (a5 : PageImage) (s : State) (hs : P s) :
    P (addParity a0 a1 a2 a3 a4 a5 s) := by
  unfold addParity
  dsimp -failIfUnchanged only
  repeat' first
    | with_reducible exact hs
    | with_reducible exact all_none
    | with_reducible refine ite_keep ?_ ?_
    | with_reducible refine keep_modPage hP _ _ _ ?_
    | with_reducible refine keep_modGroup hP _ _ _ _ ?_
    | with_reducible refine keep_modPart hP _ _ _ ?_
    | with_reducible refine snd_one (keep_newUid hP _ _ _ ?_)
    | with_reducible refine keep_allocPage hP _ _ _ _ _ ?_
    | split
    | intro _
    | with_reducible refine snd_get (all_get (Q := Snd P) ?_ (by with_reducible assumption)) rfl

theorem keep_addSpan {P : State → Prop} (hP : Stable P) (a0 : Nat) (a1 : SpanSt) (s : State) (hs : P s) :
    P (addSpan a0 a1 s) := by
  unfold addSpan
  repeat' first
    | with_reducible exact hs
    | with_reducible refine keep_modPart hP _ _ _ ?_

theorem keep_returnCredits {P : State → Prop} (hP : Stable P) (a0 : Nat) (a1 : Nat) (s : State) (hs : P s) :
    P (returnCredits a0 a1 s) := by
  unfold returnCredits
  dsimp -failIfUnchanged only
  repeat' first
    | with_reducible exact hs
    | with_reducible refine ite_keep ?_ ?_
    | with_reducible refine keep_modCtx hP _ _ _ ?_
    | with_reducible refine keep_modCell hP _ _ _ ?_
    | split
    | intro _

theorem keep_pushReport {P : State → Prop} (hP : Stable P) (a0 : Nat) (a1 : Nat) (a2 : Nat) (a3 : Nat) (a4 : List RowOut) (s : State) (hs : P s) :
    P (pushReport a0 a1 a2 a3 a4 s) := by
  unfold pushReport
  repeat' first
    | with_reducible exact hs
    | with_reducible refine keep_modCell hP _ _ _ ?_

theorem keep_admitTokens {P : State → Prop} (hP : Stable P) (a0 : Nat) (s : State) (hs : P s) :
    P (admitTokens a0 s) := by
  unfold admitTokens
  dsimp -failIfUnchanged only
  repeat' first
    | with_reducible exact hs
    | with_reducible refine ite_keep ?_ ?_
    | with_reducible refine keep_returnCredits hP _ _ _ ?_
    | with_reducible refine keep_pushReport hP _ _ _ _ _ _ ?_
    | with_reducible refine keep_modCell hP _ _ _ ?_
    | split
    | intro _

theorem keep_excludePage {P : State → Prop} (hP : Stable P) (a0 : Nat) (a1 : Nat) (a2 : Nat) (a3 : Nat) (s : State) (hs : P s) :
    P (excludePage a0 a1 a2 a3 s) := by
  unfold excludePage
  dsimp -failIfUnchanged only
  repeat' first
    | with_reducible exact hs
    | with_reducible refine ite_keep ?_ ?_
    | with_reducible refine keep_modCtx hP _ _ _ ?_
    | with_reducible refine keep_modGpage hP _ _ _ _ _ _ ?_
    | intro _

theorem keep_commitUse {P : State → Prop} (hP : Stable P) (a0 : Nat) (a1 : Nat) (a2 : Nat) (s : State) (hs : P s) :
    P (commitUse a0 a1 a2 s) := by
  unfold commitUse
  repeat' first
    | with_reducible exact hs
    | with_reducible refine keep_modPage hP _ _ _ ?_
    | with_reducible refine keep_modSeq hP _ _ _ _ ?_

theorem keep_countRead {P : State → Prop} (hP : Stable P) (a0 : Nat) (s : State) (hs : P s) :
    P (countRead a0 s) := by
  unfold countRead
  repeat' first
    | with_reducible exact hs
    | with_reducible refine keep_modPage hP _ _ _ ?_

theorem keep_commitPage {P : State → Prop} (hP : Stable P) (a0 : Nat) (a1 : Nat) (s : State) (hs : P s) :
    P (commitPage a0 a1 s) := by
  unfold commitPage
  dsimp -failIfUnchanged only
  repeat' first
    | with_reducible exact hs
    | with_reducible refine ite_keep ?_ ?_
    | with_reducible refine keep_modCtx hP _ _ _ ?_
    | with_reducible refine keep_commitUse hP _ _ _ _ ?_
    | with_reducible refine keep_countRead hP _ _ ?_
    | with_reducible refine keep_meter hP _ _ _ _ ?_
    | intro _

theorem keep_t1Take {P : State → Prop} (hP : Stable P) (a0 : Nat) (s : State) (hs : P s) :
    P (t1Take a0 s) := by
  unfold t1Take
  dsimp -failIfUnchanged only
  repeat' first
    | with_reducible exact hs
    | with_reducible refine keep_modCell hP _ _ _ ?_

theorem keep_modCore {P : State → Prop} (hP : Stable P) (a0 : Nat) (a1 : Nat) (a2 : Core → Core) (s : State) (hs : P s) :
    P (modCore a0 a1 a2 s) := by
  unfold modCore
  repeat' first
    | with_reducible exact hs
    | with_reducible refine keep_modCell hP _ _ _ ?_

theorem keep_grantPlace {P : State → Prop} (hP : Stable P) (a0 : Nat) (a1 : Nat) (a2 : Nat) (a3 : Place) (s : State) (hs : P s) :
    Snd P (grantPlace a0 a1 a2 a3 s) := by
  unfold grantPlace
  dsimp -failIfUnchanged only
  repeat' first
    | with_reducible exact hs
    | with_reducible refine ite_keep ?_ ?_
    | dsimp only [fst_mk_eq, snd_mk_eq]
    | with_reducible refine keep_commitPage hP _ _ _ ?_
    | with_reducible refine keep_t1Take hP _ _ ?_
    | with_reducible refine keep_modCore hP _ _ _ _ ?_
    | split
    | intro _

theorem keep_advance {P : State → Prop} (hP : Stable P) (a0 : Nat) (a1 : Nat) (a2 : Nat) (a3 : Nat) (a4 : HTok) (s : State) (hs : P s) :
    Snd P (advance a0 a1 a2 a3 a4 s) := by
  induction a2 generalizing a3 a4 s with
  | zero =>
    unfold advance
    repeat' first
      | with_reducible exact hs
      | dsimp only [fst_mk_eq, snd_mk_eq]
  | succ n ih =>
    unfold advance
    dsimp -failIfUnchanged only
    repeat' first
      | with_reducible refine ih _ _ _ ?_
      | with_reducible exact hs
      | with_reducible refine ite_keep ?_ ?_
      | dsimp only [fst_mk_eq, snd_mk_eq]
      | with_reducible refine keep_excludePage hP _ _ _ _ _ ?_
      | with_reducible refine keep_modCtx hP _ _ _ ?_
      | with_reducible refine snd_one (keep_grantPlace hP _ _ _ _ _ ?_)
      | split
      | intro _

theorem keep_advanceHeld {P : State → Prop} (hP : Stable P) (a0 : Nat) (a1 : Nat) (a2 : Nat) (s : State) (hs : P s) :
    P (advanceHeld a0 a1 a2 s) := by
  unfold advanceHeld
  dsimp -failIfUnchanged only
  repeat' first
    | with_reducible exact hs
    | with_reducible refine snd_one (keep_advance hP _ _ _ _ _ _ ?_)
    | with_reducible refine keep_modCore hP _ _ _ _ ?_
    | split

theorem keep_raiseMsi {P : State → Prop} (hP : Stable P) (a0 : Nat) (a1 : Nat) (s : State) (hs : P s) :
    P (raiseMsi a0 a1 s) := by
  unfold raiseMsi
  repeat' first
    | with_reducible exact hs
    | with_reducible refine ite_keep ?_ ?_
    | with_reducible refine keep_modFn hP _ _ _ ?_
    | with_reducible refine keep_emit hP _ _ ?_
    | intro _

theorem keep_linkEvent {P : State → Prop} (hP : Stable P) (a0 : Nat) (s : State) (hs : P s) :
    P (linkEvent a0 s) := by
  unfold linkEvent
  dsimp -failIfUnchanged only
  repeat' first
    | with_reducible exact hs
    | with_reducible refine ite_keep ?_ ?_
    | with_reducible refine keep_modPort hP _ _ _ ?_
    | with_reducible refine keep_raiseMsi hP _ _ _ ?_
    | intro _

theorem keep_downPort {P : State → Prop} (hP : Stable P) (a0 : Nat) (s : State) (hs : P s) :
    P (downPort a0 s) := by
  unfold downPort
  dsimp -failIfUnchanged only
  repeat' first
    | with_reducible exact hs
    | with_reducible refine ite_keep ?_ ?_
    | with_reducible refine keep_modPort hP _ _ _ ?_
    | with_reducible refine keep_startPort hP _ _ ?_
    | with_reducible refine keep_linkEvent hP _ _ ?_
    | intro _

theorem keep_linksCommitted {P : State → Prop} (hP : Stable P) (a0 : State) (s : State) (hs : P s) :
    P (linksCommitted a0 s) := by
  unfold linksCommitted
  dsimp -failIfUnchanged only
  repeat' first
    | with_reducible exact hs
    | with_reducible assumption
    | with_reducible refine keep_modPort hP _ _ _ ?_
    | with_reducible refine keep_downPort hP _ _ ?_
    | with_reducible refine foldl_keep ?_ ?_
    | split
    | intro _

theorem keep_modCellPwr {P : State → Prop} (hP : Stable P) (a0 : Nat) (a1 : CellPwr → CellPwr) (s : State) (hs : P s) :
    P (modCellPwr a0 a1 s) := by
  unfold modCellPwr
  repeat' first
    | with_reducible exact hs
    | with_reducible refine keep_modCell hP _ _ _ ?_

theorem keep_writeVdd {P : State → Prop} (hP : Stable P) (a0 : Nat) (a1 : Nat) (s : State) (hs : P s) :
    P (writeVdd a0 a1 s) := by
  unfold writeVdd
  repeat' first
    | with_reducible exact hs
    | with_reducible refine ite_keep ?_ ?_
    | with_reducible refine keep_emit hP _ _ ?_
    | with_reducible refine keep_modCellPwr hP _ _ _ ?_
    | intro _

theorem keep_applyClock {P : State → Prop} (hP : Stable P) (a0 : Nat) (s : State) (hs : P s) :
    P (applyClock a0 s) := by
  unfold applyClock
  dsimp -failIfUnchanged only
  repeat' first
    | with_reducible exact hs
    | with_reducible refine ite_keep ?_ ?_
    | with_reducible refine keep_writeVdd hP _ _ _ ?_
    | with_reducible refine keep_modCellPwr hP _ _ _ ?_
    | split
    | intro _

theorem keep_applyClocks {P : State → Prop} (hP : Stable P) (s : State) (hs : P s) :
    P (applyClocks s) := by
  unfold applyClocks
  repeat' first
    | with_reducible exact hs
    | with_reducible assumption
    | with_reducible refine keep_applyClock hP _ _ ?_
    | with_reducible refine foldl_keep ?_ ?_
    | intro _

theorem keep_afterCommit {P : State → Prop} (hP : Stable P) (a0 : State) (a1 : List Nat) (s : State) (hs : P s) :
    P (afterCommit a0 a1 s) := by
  unfold afterCommit
  dsimp -failIfUnchanged only
  repeat' first
    | with_reducible exact hs
    | with_reducible refine ite_keep ?_ ?_
    | with_reducible refine keep_linksCommitted hP _ _ ?_
    | with_reducible refine keep_applyClocks hP _ ?_
    | with_reducible refine keep_modNode hP _ _ ?_
    | split
    | intro _

theorem keep_aheadLands {P : State → Prop} (hP : Stable P) (a0 : Nat) (a1 : Nat) (a2 : Nat) (s : State) (hs : P s) :
    P (aheadLands a0 a1 a2 s) := by
  unfold aheadLands
  dsimp -failIfUnchanged only
  repeat' first
    | with_reducible exact hs
    | with_reducible refine keep_modCore hP _ _ _ _ ?_

theorem keep_allocBlock {P : State → Prop} (hP : Stable P) (a0 : Nat) (a1 : List Nat) (a2 : Nat) (s : State) (hs : P s) :
    All (Snd P) (allocBlock a0 a1 a2 s) := by
  induction a1 generalizing s with
  | nil =>
    unfold allocBlock
    repeat' first
      | with_reducible exact all_none
  | cons x l ih =>
    unfold allocBlock
    dsimp -failIfUnchanged only
    repeat' first
      | with_reducible refine ih _ ?_
      | with_reducible exact hs
      | with_reducible refine all_some ?_
      | dsimp only [fst_mk_eq, snd_mk_eq]
      | with_reducible refine snd_one (keep_newUid hP _ _ _ ?_)
      | with_reducible refine snd_one (keep_draw hP _ ?_)
      | with_reducible refine keep_modCell hP _ _ _ ?_
      | split

theorem keep_allocBlocks {P : State → Prop} (hP : Stable P) (a0 : Nat) (a1 : Seq) (a2 : List Nat) (s : State) (hs : P s) :
    All (Snd P) (allocBlocks a0 a1 a2 s) := by
  induction a2 generalizing s with
  | nil =>
    unfold allocBlocks
    repeat' first
      | with_reducible exact hs
      | with_reducible refine all_some ?_
      | dsimp only [fst_mk_eq, snd_mk_eq]
  | cons x l ih =>
    unfold allocBlocks
    repeat' first
      | with_reducible refine snd_get (all_get (ih _ ?_) (by with_reducible assumption)) rfl
      | with_reducible exact hs
      | with_reducible exact all_none
      | with_reducible refine all_some ?_
      | dsimp only [fst_mk_eq, snd_mk_eq]
      | with_reducible refine snd_get (all_get (keep_allocBlock hP _ _ _ _ ?_) (by with_reducible assumption)) rfl
      | split

theorem keep_modDbg {P : State → Prop} (hP : Stable P) (a0 : Dbg → Dbg) (s : State) (hs : P s) :
    P (modDbg a0 s) := by
  unfold modDbg
  repeat' first
    | with_reducible exact hs
    | fail_if_no_progress (with_reducible refine mk_keep hP ?_)

theorem keep_raiseOf {P : State → Prop} (hP : Stable P) (a0 : Nat) (a1 : Nat) (a2 : Nat) (s : State) (hs : P s) :
    P (raiseOf a0 a1 a2 s) := by
  unfold raiseOf
  repeat' first
    | with_reducible exact hs
    | with_reducible refine keep_raiseMsi hP _ _ _ ?_

theorem keep_postEventRing {P : State → Prop} (hP : Stable P) (a0 : Nat) (a1 : List Byte) (s : State) (hs : P s) :
    P (postEventRing a0 a1 s) := by
  unfold postEventRing
  dsimp -failIfUnchanged only
  repeat' first
    | with_reducible exact hs
    | with_reducible refine ite_keep ?_ ?_
    | with_reducible refine keep_modFn hP _ _ _ ?_
    | with_reducible refine keep_emit hP _ _ ?_
    | with_reducible refine keep_raiseOf hP _ _ _ _ ?_
    | split
    | intro _

theorem keep_deliverEvent {P : State → Prop} (hP : Stable P) (a0 : Nat) (a1 : Nat) (a2 : List Byte) (s : State) (hs : P s) :
    P (deliverEvent a0 a1 a2 s) := by
  unfold deliverEvent
  repeat' first
    | with_reducible exact hs
    | with_reducible assumption
    | with_reducible refine keep_sendMsg hP _ _ _ ?_
    | with_reducible refine keep_emit hP _ _ ?_
    | with_reducible refine keep_postEventRing hP _ _ _ ?_
    | with_reducible refine foldl_keep ?_ ?_
    | split
    | intro _

theorem keep_postEvent {P : State → Prop} (hP : Stable P) (a0 : Nat) (a1 : Nat) (a2 : Nat) (a3 : List Byte) (s : State) (hs : P s) :
    P (postEvent a0 a1 a2 a3 s) := by
  unfold postEvent
  dsimp -failIfUnchanged only
  repeat' first
    | with_reducible exact hs
    | with_reducible refine ite_keep ?_ ?_
    | with_reducible refine keep_modDbg hP _ _ ?_
    | with_reducible refine keep_modPart hP _ _ _ ?_
    | with_reducible refine keep_deliverEvent hP _ _ _ _ ?_
    | intro _

theorem keep_announceThrottle {P : State → Prop} (hP : Stable P) (a0 : Bool) (s : State) (hs : P s) :
    P (announceThrottle a0 s) := by
  unfold announceThrottle
  dsimp -failIfUnchanged only
  repeat' first
    | with_reducible exact hs
    | with_reducible assumption
    | with_reducible refine keep_modPart hP _ _ _ ?_
    | with_reducible refine keep_postEvent hP _ _ _ _ _ ?_
    | with_reducible refine keep_raiseOf hP _ _ _ _ ?_
    | with_reducible refine foldl_keep ?_ ?_
    | split
    | intro _

theorem keep_sendFabric {P : State → Prop} (hP : Stable P) (a0 : Nat) (a1 : Nat) (a2 : List Nat) (a3 : List Byte) (s : State) (hs : P s) :
    P (sendFabric a0 a1 a2 a3 s) := by
  unfold sendFabric
  repeat' first
    | with_reducible exact hs
    | with_reducible refine keep_sendMsg hP _ _ _ ?_
    | with_reducible refine keep_emit hP _ _ ?_

theorem keep_answerFabric {P : State → Prop} (hP : Stable P) (a0 : Nat) (a1 : List Nat) (a2 : List Byte) (s : State) (hs : P s) :
    P (answerFabric a0 a1 a2 s) := by
  unfold answerFabric
  repeat' first
    | with_reducible exact hs
    | with_reducible refine ite_keep ?_ ?_
    | with_reducible refine keep_sendFabric hP _ _ _ _ _ ?_
    | intro _

theorem keep_answerNode {P : State → Prop} (hP : Stable P) (a0 : Nat) (a1 : Nat) (a2 : Reply) (s : State) (hs : P s) :
    P (answerNode a0 a1 a2 s) := by
  unfold answerNode
  repeat' first
    | with_reducible exact hs
    | with_reducible refine keep_answerFabric hP _ _ _ _ ?_

theorem keep_answerCoded {P : State → Prop} (hP : Stable P) (a0 : Nat) (a1 : Nat) (s : State) (hs : P s) :
    P (answerCoded a0 a1 s) := by
  unfold answerCoded
  dsimp -failIfUnchanged only
  repeat' first
    | with_reducible exact hs
    | with_reducible assumption
    | with_reducible refine ite_keep ?_ ?_
    | with_reducible refine keep_answerNode hP _ _ _ _ ?_
    | with_reducible refine keep_modPart hP _ _ _ ?_
    | with_reducible refine foldl_keep ?_ ?_
    | intro _

theorem keep_modRec {P : State → Prop} (hP : Stable P) (a0 : Nat) (a1 : Nat) (a2 : PlaceRec → PlaceRec) (s : State) (hs : P s) :
    P (modRec a0 a1 a2 s) := by
  unfold modRec
  repeat' first
    | with_reducible exact hs
    | with_reducible refine keep_modPart hP _ _ _ ?_

theorem keep_newTag {P : State → Prop} (hP : Stable P) (s : State) (hs : P s) :
    Snd P (newTag s) := by
  unfold newTag
  repeat' first
    | with_reducible exact hs
    | dsimp only [fst_mk_eq, snd_mk_eq]
    | with_reducible refine keep_modNode hP _ _ ?_

theorem keep_askNode {P : State → Prop} (hP : Stable P) (a0 : Nat) (a1 : Nat) (a2 : List Nat) (s : State) (hs : P s) :
    P (askNode a0 a1 a2 s) := by
  unfold askNode
  repeat' first
    | with_reducible exact hs
    | with_reducible refine keep_sendFabric hP _ _ _ _ _ ?_

theorem keep_learn {P : State → Prop} (hP : Stable P) (a0 : Nat) (a1 : Nat) (a2 : Nat) (s : State) (hs : P s) :
    P (learn a0 a1 a2 s) := by
  unfold learn
  repeat' first
    | with_reducible exact hs
    | with_reducible refine keep_modSeq hP _ _ _ _ ?_

theorem keep_askOwners {P : State → Prop} (hP : Stable P) (a0 : Nat) (a1 : Nat) (a2 : Nat) (a3 : List PlaceRec) (a4 : Nat) (s : State) (hs : P s) :
    P (askOwners a0 a1 a2 a3 a4 s) := by
  induction a3 generalizing a4 s with
  | nil =>
    unfold askOwners
    repeat' first
      | with_reducible exact hs
      | with_reducible refine keep_learn hP _ _ _ _ ?_
  | cons x l ih =>
    unfold askOwners
    dsimp -failIfUnchanged only
    repeat' first
      | with_reducible refine ih _ _ ?_
      | with_reducible exact hs
      | with_reducible refine ite_keep ?_ ?_
      | with_reducible refine snd_one (keep_newTag hP _ ?_)
      | with_reducible refine keep_modPart hP _ _ _ ?_
      | with_reducible refine keep_askNode hP _ _ _ _ ?_
      | with_reducible refine keep_learn hP _ _ _ _ ?_
      | split
      | intro _

theorem keep_askLengths {P : State → Prop} (hP : Stable P) (a0 : Nat) (a1 : Nat) (a2 : Nat) (a3 : Nat) (a4 : Nat) (s : State) (hs : P s) :
    P (askLengths a0 a1 a2 a3 a4 s) := by
  unfold askLengths
  repeat' first
    | with_reducible exact hs
    | with_reducible refine keep_askOwners hP _ _ _ _ _ _ ?_

theorem keep_learnWhenHeld {P : State → Prop} (hP : Stable P) (a0 : Nat) (a1 : Nat) (a2 : Nat) (s : State) (hs : P s) :
    P (learnWhenHeld a0 a1 a2 s) := by
  unfold learnWhenHeld
  repeat' first
    | with_reducible exact hs
    | with_reducible refine ite_keep ?_ ?_
    | with_reducible refine keep_askLengths hP _ _ _ _ _ _ ?_
    | intro _

theorem keep_askFabric {P : State → Prop} (hP : Stable P) (a0 : Nat) (a1 : Nat) (a2 : Nat) (a3 : Nat) (a4 : Nat) (a5 : Nat) (a6 : Nat) (a7 : Nat) (a8 : Nat) (a9 : Nat) (a10 : List Byte) (a11 : Await) (s : State) (hs : P s) :
    P (askFabric a0 a1 a2 a3 a4 a5 a6 a7 a8 a9 a10 a11 s) := by
  unfold askFabric
  dsimp -failIfUnchanged only
  repeat' first
    | with_reducible exact hs
    | with_reducible refine snd_one (keep_newTag hP _ ?_)
    | with_reducible refine keep_modPart hP _ _ _ ?_
    | with_reducible refine keep_sendFabric hP _ _ _ _ _ ?_

theorem keep_grantRec {P : State → Prop} (hP : Stable P) (a0 : Nat) (a1 : Nat) (a2 : Nat) (a3 : Nat) (a4 : Nat) (s : State) (hs : P s) :
    P (grantRec a0 a1 a2 a3 a4 s) := by
  unfold grantRec
  repeat' first
    | with_reducible exact hs
    | with_reducible refine keep_modRec hP _ _ _ _ ?_

theorem keep_modSpan {P : State → Prop} (hP : Stable P) (a0 : Nat) (a1 : Nat) (a2 : SpanSt → SpanSt) (s : State) (hs : P s) :
    P (modSpan a0 a1 a2 s) := by
  unfold modSpan
  repeat' first
    | with_reducible exact hs
    | with_reducible refine keep_modPart hP _ _ _ ?_

theorem keep_holdLease {P : State → Prop} (hP : Stable P) (a0 : Nat) (a1 : Nat) (a2 : Nat) (a3 : Nat) (a4 : Nat) (a5 : Nat) (a6 : Nat) (a7 : Nat) (s : State) (hs : P s) :
    P (holdLease a0 a1 a2 a3 a4 a5 a6 a7 s) := by
  unfold holdLease
  dsimp -failIfUnchanged only
  repeat' first
    | with_reducible exact hs
    | with_reducible refine ite_keep ?_ ?_
    | with_reducible refine elim_keep ?_ ?_
    | with_reducible refine keep_modPart hP _ _ _ ?_
    | with_reducible refine keep_addSpan hP _ _ _ ?_
    | with_reducible refine keep_modSpan hP _ _ _ _ ?_
    | with_reducible refine keep_modRec hP _ _ _ _ ?_
    | split
    | intro _

theorem keep_prompt {P : State → Prop} (hP : Stable P) (a0 : Nat) (a1 : Nat) (s : State) (hs : P s) :
    P (prompt a0 a1 s) := by
  unfold prompt
  dsimp -failIfUnchanged only
  repeat' first
    | with_reducible exact hs
    | with_reducible refine ite_keep ?_ ?_
    | with_reducible refine keep_learnWhenHeld hP _ _ _ _ ?_
    | with_reducible refine keep_askFabric hP _ _ _ _ _ _ _ _ _ _ _ _ _ ?_
    | with_reducible refine keep_modRec hP _ _ _ _ ?_
    | with_reducible refine keep_grantRec hP _ _ _ _ _ _ ?_
    | with_reducible refine keep_holdLease hP _ _ _ _ _ _ _ _ _ ?_
    | split
    | intro _

theorem keep_handOver {P : State → Prop} (hP : Stable P) (a0 : Nat) (a1 : Nat) (a2 : Nat) (a3 : Nat) (a4 : Nat) (a5 : PlaceRec) (s : State) (hs : P s) :
    P (handOver a0 a1 a2 a3 a4 a5 s) := by
  unfold handOver
  dsimp -failIfUnchanged only
  repeat' first
    | with_reducible exact hs
    | with_reducible refine keep_modRec hP _ _ _ _ ?_
    | with_reducible refine keep_prompt hP _ _ _ ?_

theorem keep_sendHandoff {P : State → Prop} (hP : Stable P) (a0 : Nat) (a1 : Nat) (s : State) (hs : P s) :
    P (sendHandoff a0 a1 s) := by
  unfold sendHandoff
  dsimp -failIfUnchanged only
  repeat' first
    | with_reducible exact hs
    | with_reducible refine ite_keep ?_ ?_
    | with_reducible refine keep_conclude hP _ _ _ ?_
    | with_reducible refine keep_handOver hP _ _ _ _ _ _ _ ?_
    | with_reducible refine keep_askFabric hP _ _ _ _ _ _ _ _ _ _ _ _ _ ?_
    | with_reducible refine keep_modSpan hP _ _ _ _ ?_
    | split
    | intro _

theorem keep_handoffsGo {P : State → Prop} (hP : Stable P) (a0 : Nat) (s : State) (hs : P s) :
    P (handoffsGo a0 s) := by
  unfold handoffsGo
  repeat' first
    | with_reducible exact hs
    | with_reducible assumption
    | with_reducible refine keep_sendHandoff hP _ _ _ ?_
    | with_reducible refine foldl_keep ?_ ?_
    | split
    | intro _

theorem keep_partEnds {P : State → Prop} (hP : Stable P) (a0 : Nat) (a1 : Option Reply) (s : State) (hs : P s) :
    P (partEnds a0 a1 s) := by
  unfold partEnds
  repeat' first
    | with_reducible exact hs
    | with_reducible refine keep_conclude hP _ _ _ ?_
    | split

end Sys2Proof.Laws
end

