-- ==== Sys2Proof/Laws/Keep2.lean ====
section
/-! SUPPORT. What the functions of the machine keep, part 2 of 6, callees first. A function that leaves the queue and the addressed
memory alone keeps every property that depends on those two only; one that writes the addressed memory keeps its form and the queue. -/

namespace Sys2Proof.Laws

open Sys2Proof.Machine

theorem keep_spanLow {P : State → Prop} (hP : Stable P) (a0 : Cmd) (a1 : Seq) (a2 : Nat) (a3 : Nat) (a4 : Nat) (s : State) (hs : P s) :
    P (spanLow a0 a1 a2 a3 a4 s) := by
  unfold spanLow
  dsimp -failIfUnchanged only
  repeat' first
    | with_reducible exact hs
    | with_reducible refine ite_keep ?_ ?_
    | with_reducible refine keep_postEvent hP _ _ _ _ _ ?_
    | split
    | intro _

theorem keep_writeThroughSend {P : State → Prop} (hP : Stable P) (a0 : Nat) (a1 : Seq) (a2 : Cmd) (a3 : PlaceRec) (a4 : Nat) (a5 : Nat) (a6 : Nat) (a7 : Nat) (s : State) (hs : P s) :
    Snd P (writeThroughSend a0 a1 a2 a3 a4 a5 a6 a7 s) := by
  unfold writeThroughSend
  repeat' first
    | with_reducible exact hs
    | with_reducible refine ite_keep ?_ ?_
    | dsimp only [fst_mk_eq, snd_mk_eq]
    | with_reducible refine keep_askFabric hP _ _ _ _ _ _ _ _ _ _ _ _ _ ?_
    | split
    | intro _

theorem keep_bumpGen {P : State → Prop} (hP : Stable P) (a0 : Nat) (a1 : Nat) (s : State) (hs : P s) :
    P (bumpGen a0 a1 s) := by
  unfold bumpGen
  dsimp -failIfUnchanged only
  repeat' first
    | with_reducible exact hs
    | with_reducible refine ite_keep ?_ ?_
    | with_reducible refine keep_modPage hP _ _ _ ?_
    | intro _

theorem keep_setGran {P : State → Prop} (hP : Stable P) (a0 : Nat) (a1 : Granule) (s : State) (hs : P s) :
    P (setGran a0 a1 s) := by
  unfold setGran
  repeat' first
    | with_reducible exact hs
    | split
    | fail_if_no_progress (with_reducible refine mk_keep hP ?_)

theorem keep_countPoison {P : State → Prop} (hP : Stable P) (a0 : Nat) (s : State) (hs : P s) :
    P (countPoison a0 s) := by
  unfold countPoison
  dsimp -failIfUnchanged only
  repeat' first
    | with_reducible exact hs
    | with_reducible refine ite_keep ?_ ?_
    | with_reducible refine keep_postEvent hP _ _ _ _ _ ?_
    | with_reducible refine keep_raiseOf hP _ _ _ _ ?_
    | with_reducible refine keep_modCell hP _ _ _ ?_
    | intro _

theorem keep_logPoison {P : State → Prop} (hP : Stable P) (a0 : Nat) (a1 : Nat) (s : State) (hs : P s) :
    P (logPoison a0 a1 s) := by
  unfold logPoison
  repeat' first
    | with_reducible exact hs
    | with_reducible refine keep_modCell hP _ _ _ ?_

theorem keep_discoverPoison {P : State → Prop} (hP : Stable P) (a0 : Nat) (a1 : Nat) (s : State) (hs : P s) :
    P (discoverPoison a0 a1 s) := by
  unfold discoverPoison
  repeat' first
    | with_reducible exact hs
    | with_reducible refine keep_countPoison hP _ _ ?_
    | with_reducible refine keep_logPoison hP _ _ _ ?_

theorem keep_meetWords {P : State → Prop} (hP : Stable P) (a0 : Nat) (a1 : Nat) (a2 : Nat) (a3 : List Nat) (s : State) (hs : P s) :
    P (meetWords a0 a1 a2 a3 s) := by
  unfold meetWords
  dsimp -failIfUnchanged only
  repeat' first
    | with_reducible exact hs
    | with_reducible assumption
    | with_reducible refine ite_keep ?_ ?_
    | with_reducible refine keep_discoverPoison hP _ _ _ ?_
    | with_reducible refine keep_modCell hP _ _ _ ?_
    | with_reducible refine foldl_keep ?_ ?_
    | intro _

theorem keep_readGran {P : State → Prop} (hP : Stable P) (a0 : Nat) (a1 : Nat) (a2 : Nat) (s : State) (hs : P s) :
    Snd P (readGran a0 a1 a2 s) := by
  unfold readGran
  dsimp -failIfUnchanged only
  repeat' first
    | with_reducible exact hs
    | with_reducible refine ite_keep ?_ ?_
    | dsimp only [fst_mk_eq, snd_mk_eq]
    | with_reducible refine keep_setGran hP _ _ _ ?_
    | with_reducible refine keep_meetWords hP _ _ _ _ _ ?_
    | intro _

theorem keep_poisonPage {P : State → Prop} (hP : Stable P) (a0 : Nat) (s : State) (hs : P s) :
    P (poisonPage a0 s) := by
  unfold poisonPage
  dsimp -failIfUnchanged only
  repeat' first
    | with_reducible exact hs
    | with_reducible refine keep_modPage hP _ _ _ ?_

theorem keep_setMeta {P : State → Prop} (hP : Stable P) (a0 : Nat) (a1 : Nat) (a2 : List Nat) (s : State) (hs : P s) :
    P (setMeta a0 a1 a2 s) := by
  unfold setMeta
  repeat' first
    | with_reducible exact hs
    | with_reducible refine keep_modCell hP _ _ _ ?_

theorem keep_readMeta {P : State → Prop} (hP : Stable P) (a0 : Nat) (a1 : Nat) (a2 : Nat) (s : State) (hs : P s) :
    Snd P (readMeta a0 a1 a2 s) := by
  unfold readMeta
  dsimp -failIfUnchanged only
  repeat' first
    | with_reducible exact hs
    | with_reducible refine ite_keep ?_ ?_
    | dsimp only [fst_mk_eq, snd_mk_eq]
    | with_reducible refine keep_setMeta hP _ _ _ _ ?_
    | with_reducible refine keep_meetWords hP _ _ _ _ _ ?_
    | intro _

theorem keep_readRec {P : State → Prop} (hP : Stable P) (a0 : Nat) (s : State) (hs : P s) :
    Snd P (readRec a0 s) := by
  unfold readRec
  dsimp -failIfUnchanged only
  repeat' first
    | with_reducible exact hs
    | dsimp only [fst_mk_eq, snd_mk_eq]
    | with_reducible exact snd_one (by with_reducible assumption)
    | with_reducible refine snd_one (keep_readMeta hP _ _ _ _ ?_)
    | with_reducible refine foldl_keep ?_ ?_
    | intro _

theorem keep_commitRead {P : State → Prop} (hP : Stable P) (a0 : Nat) (a1 : List Nat) (s : State) (hs : P s) :
    Snd P (commitRead a0 a1 s) := by
  unfold commitRead
  dsimp -failIfUnchanged only
  repeat' first
    | with_reducible exact hs
    | with_reducible refine ite_keep ?_ ?_
    | dsimp only [fst_mk_eq, snd_mk_eq]
    | with_reducible exact snd_one (by with_reducible assumption)
    | with_reducible refine keep_bumpGen hP _ _ _ ?_
    | with_reducible refine snd_one (keep_readGran hP _ _ _ _ ?_)
    | with_reducible refine keep_poisonPage hP _ _ ?_
    | with_reducible refine snd_one (keep_readRec hP _ _ ?_)
    | with_reducible refine snd_one (foldl_keep (Q := Snd P) ?_ ?_)
    | intro _

theorem keep_copyReads {P : State → Prop} (hP : Stable P) (a0 : Seq) (a1 : Nat) (a2 : Nat) (a3 : Nat) (s : State) (hs : P s) :
    P (copyReads a0 a1 a2 a3 s) := by
  unfold copyReads
  dsimp -failIfUnchanged only
  repeat' first
    | with_reducible exact hs
    | with_reducible assumption
    | with_reducible refine snd_one (keep_commitRead hP _ _ _ ?_)
    | with_reducible refine foldl_keep ?_ ?_
    | split
    | intro _

theorem keep_extendBlocks {P : State → Prop} (hP : Stable P) (a0 : Nat) (a1 : Seq) (a2 : List Nat) (s : State) (hs : P s) :
    All (Snd P) (extendBlocks a0 a1 a2 s) := by
  unfold extendBlocks
  dsimp -failIfUnchanged only
  repeat' first
    | with_reducible exact hs
    | with_reducible refine keep_allocBlocks hP _ _ _ _ ?_

theorem keep_setSeq {P : State → Prop} (hP : Stable P) (a0 : Nat) (a1 : Nat) (a2 : Seq) (s : State) (hs : P s) :
    P (setSeq a0 a1 a2 s) := by
  unfold setSeq
  repeat' first
    | with_reducible exact hs
    | with_reducible refine keep_modPart hP _ _ _ ?_

theorem keep_unpinPage {P : State → Prop} (hP : Stable P) (a0 : Nat) (a1 : Bool) (s : State) (hs : P s) :
    P (unpinPage a0 a1 s) := by
  unfold unpinPage
  dsimp -failIfUnchanged only
  repeat' first
    | with_reducible exact hs
    | with_reducible refine keep_modPage hP _ _ _ ?_

theorem keep_releasePos {P : State → Prop} (hP : Stable P) (a0 : Nat) (a1 : Nat) (a2 : Nat) (s : State) (hs : P s) :
    P (releasePos a0 a1 a2 s) := by
  unfold releasePos
  dsimp -failIfUnchanged only
  repeat' first
    | with_reducible exact hs
    | with_reducible assumption
    | with_reducible refine keep_unpinPage hP _ _ _ ?_
    | with_reducible refine keep_modSeq hP _ _ _ _ ?_
    | with_reducible refine foldl_keep ?_ ?_
    | split
    | intro _

theorem keep_writeBytes {P : State → Prop} (hP : Stable P) (a0 : Nat) (a1 : Nat) (a2 : Nat) (a3 : Nat) (a4 : List Byte) (s : State) (hs : P s) :
    P (writeBytes a0 a1 a2 a3 a4 s) := by
  unfold writeBytes
  dsimp -failIfUnchanged only
  repeat' first
    | with_reducible exact hs
    | with_reducible assumption
    | with_reducible refine keep_setGran hP _ _ _ ?_
    | with_reducible refine foldl_keep ?_ ?_
    | intro _

theorem keep_storePage {P : State → Prop} (hP : Stable P) (a0 : Nat) (a1 : Nat) (a2 : WorkPage) (a3 : Nat) (a4 : Nat) (s : State) (hs : P s) :
    P (storePage a0 a1 a2 a3 a4 s) := by
  unfold storePage
  dsimp -failIfUnchanged only
  repeat' first
    | with_reducible exact hs
    | with_reducible assumption
    | with_reducible refine keep_modPage hP _ _ _ ?_
    | with_reducible refine keep_writeBytes hP _ _ _ _ _ _ ?_
    | with_reducible refine foldl_keep ?_ ?_
    | split
    | intro _

theorem keep_writeTokens {P : State → Prop} (hP : Stable P) (a0 : Cmd) (a1 : Nat) (a2 : Nat) (a3 : Nat) (a4 : Nat) (a5 : Bool → Nat → List Nat) (s : State) (hs : P s) :
    Snd P (writeTokens a0 a1 a2 a3 a4 a5 s) := by
  unfold writeTokens
  dsimp -failIfUnchanged only
  repeat' first
    | with_reducible exact hs
    | with_reducible refine ite_keep ?_ ?_
    | dsimp only [fst_mk_eq, snd_mk_eq]
    | with_reducible refine keep_storePage hP _ _ _ _ _ _ ?_
    | with_reducible refine keep_dropT1 hP _ _ ?_
    | with_reducible refine keep_t1Take hP _ _ ?_
    | intro _

theorem keep_carryBlock {P : State → Prop} (hP : Stable P) (a0 : Nat) (a1 : List Nat) (a2 : List Nat) (a3 : Blk) (a4 : Blk) (s : State) (hs : P s) :
    P (carryBlock a0 a1 a2 a3 a4 s) := by
  unfold carryBlock
  dsimp -failIfUnchanged only
  repeat' first
    | with_reducible exact hs
    | with_reducible assumption
    | with_reducible refine keep_setMeta hP _ _ _ _ ?_
    | with_reducible refine snd_one (keep_readMeta hP _ _ _ _ ?_)
    | with_reducible refine foldl_keep ?_ ?_
    | intro _

theorem keep_retire {P : State → Prop} (hP : Stable P) (a0 : Nat) (a1 : Bool) (a2 : Nat) (a3 : Nat) (s : State) (hs : P s) :
    P (retire a0 a1 a2 a3 s) := by
  unfold retire
  repeat' first
    | with_reducible exact hs
    | with_reducible refine keep_modPart hP _ _ _ ?_

theorem keep_editSwap {P : State → Prop} (hP : Stable P) (a0 : Nat) (a1 : Seq) (a2 : List Nat) (s : State) (hs : P s) :
    All (Snd P) (editSwap a0 a1 a2 s) := by
  unfold editSwap
  dsimp -failIfUnchanged only
  repeat' first
    | with_reducible exact hs
    | with_reducible assumption
    | with_reducible exact all_none
    | with_reducible refine all_some ?_
    | dsimp only [fst_mk_eq, snd_mk_eq]
    | with_reducible refine snd_get (all_get (keep_allocBlocks hP _ _ _ _ ?_) (by with_reducible assumption)) rfl
    | with_reducible refine keep_carryBlock hP _ _ _ _ _ _ ?_
    | with_reducible refine keep_retire hP _ _ _ _ _ ?_
    | with_reducible refine foldl_keep ?_ ?_
    | split
    | intro _

theorem keep_takeTable {P : State → Prop} (hP : Stable P) (a0 : Nat) (a1 : Nat) (s : State) (hs : P s) :
    P (takeTable a0 a1 s) := by
  unfold takeTable
  repeat' first
    | with_reducible exact hs
    | with_reducible refine keep_modTable hP _ _ _ _ ?_

theorem keep_freshPage {P : State → Prop} (hP : Stable P) (a0 : Nat) (a1 : Seq) (a2 : Nat) (a3 : Nat) (s : State) (hs : P s) :
    All (Snd P) (freshPage a0 a1 a2 a3 s) := by
  unfold freshPage
  dsimp -failIfUnchanged only
  repeat' first
    | with_reducible exact hs
    | with_reducible exact all_none
    | with_reducible refine all_some ?_
    | with_reducible refine ite_keep ?_ ?_
    | dsimp only [fst_mk_eq, snd_mk_eq]
    | with_reducible refine keep_modPage hP _ _ _ ?_
    | with_reducible refine snd_one (keep_newUid hP _ _ _ ?_)
    | with_reducible refine keep_takeTable hP _ _ _ ?_
    | with_reducible refine snd_get (all_get (keep_allocPage hP _ _ _ _ _ ?_) (by with_reducible assumption)) rfl
    | with_reducible refine keep_zeroSlot hP _ _ _ ?_
    | split
    | intro _

theorem keep_copySlot {P : State → Prop} (hP : Stable P) (a0 : Nat) (a1 : Nat) (a2 : Nat) (s : State) (hs : P s) :
    P (copySlot a0 a1 a2 s) := by
  unfold copySlot
  repeat' first
    | with_reducible exact hs
    | with_reducible assumption
    | with_reducible refine keep_setGran hP _ _ _ ?_
    | with_reducible refine foldl_keep ?_ ?_
    | intro _

theorem keep_carryRec {P : State → Prop} (hP : Stable P) (a0 : Nat) (a1 : Nat) (s : State) (hs : P s) :
    P (carryRec a0 a1 s) := by
  unfold carryRec
  repeat' first
    | with_reducible exact hs
    | with_reducible assumption
    | with_reducible refine keep_setMeta hP _ _ _ _ ?_
    | with_reducible refine foldl_keep ?_ ?_
    | split
    | intro _

theorem keep_copySlotClean {P : State → Prop} (hP : Stable P) (a0 : Nat) (a1 : Nat) (a2 : Nat) (s : State) (hs : P s) :
    P (copySlotClean a0 a1 a2 s) := by
  unfold copySlotClean
  repeat' first
    | with_reducible exact hs
    | with_reducible assumption
    | with_reducible refine keep_setGran hP _ _ _ ?_
    | with_reducible refine foldl_keep ?_ ?_
    | intro _

theorem keep_copyPage {P : State → Prop} (hP : Stable P) (a0 : Nat) (a1 : Seq) (a2 : Nat) (s : State) (hs : P s) :
    All (Snd (Snd P)) (copyPage a0 a1 a2 s) := by
  unfold copyPage
  dsimp -failIfUnchanged only
  repeat' first
    | with_reducible exact hs
    | with_reducible exact all_none
    | with_reducible refine all_some ?_
    | with_reducible refine ite_keep ?_ ?_
    | dsimp only [fst_mk_eq, snd_mk_eq]
    | with_reducible refine keep_modPage hP _ _ _ ?_
    | with_reducible refine keep_copySlot hP _ _ _ _ ?_
    | with_reducible refine keep_carryRec hP _ _ _ ?_
    | with_reducible refine keep_copySlotClean hP _ _ _ _ ?_
    | with_reducible refine snd_one (keep_commitRead hP _ _ _ ?_)
    | with_reducible refine keep_takeTable hP _ _ _ ?_
    | with_reducible refine snd_get (all_get (keep_allocPage hP _ _ _ _ _ ?_) (by with_reducible assumption)) rfl
    | split
    | intro _

theorem keep_makeReady {P : State → Prop} (hP : Stable P) (a0 : Nat) (a1 : Nat) (a2 : Nat) (a3 : Nat) (a4 : Nat) (a5 : Ready) (s : State) (hs : P s) :
    All (Snd (Snd P)) (makeReady a0 a1 a2 a3 a4 a5 s) := by
  unfold makeReady
  dsimp -failIfUnchanged only
  repeat' first
    | with_reducible exact hs
    | with_reducible assumption
    | with_reducible exact all_none
    | with_reducible refine all_some ?_
    | dsimp only [fst_mk_eq, snd_mk_eq]
    | with_reducible refine snd_get (all_get (keep_freshPage hP _ _ _ _ _ ?_) (by with_reducible assumption)) rfl
    | with_reducible refine snd_one (snd_one (all_get (keep_copyPage hP _ _ _ _ ?_) (by with_reducible assumption)))
    | with_reducible refine foldl_keep ?_ ?_
    | split
    | intro _
    | with_reducible exact snd_get2 (all_get (by with_reducible assumption) rfl) rfl

theorem keep_walkReads {P : State → Prop} (hP : Stable P) (a0 : Nat) (a1 : Seq) (a2 : List Nat) (s : State) (hs : P s) :
    P (walkReads a0 a1 a2 s) := by
  unfold walkReads
  repeat' first
    | with_reducible exact hs
    | with_reducible assumption
    | with_reducible refine snd_one (keep_readMeta hP _ _ _ _ ?_)
    | with_reducible refine foldl_keep ?_ ?_
    | intro _

theorem keep_readRuns {P : State → Prop} (hP : Stable P) (a0 : Nat) (a1 : Seq) (a2 : Nat) (a3 : Nat) (a4 : Nat) (s : State) (hs : P s) :
    Snd P (readRuns a0 a1 a2 a3 a4 s) := by
  unfold readRuns
  dsimp -failIfUnchanged only
  repeat' first
    | with_reducible exact hs
    | with_reducible assumption
    | dsimp only [fst_mk_eq, snd_mk_eq]
    | with_reducible exact snd_one (by with_reducible assumption)
    | with_reducible refine snd_one (keep_commitRead hP _ _ _ ?_)
    | with_reducible refine keep_walkReads hP _ _ _ _ ?_
    | with_reducible refine foldl_keep ?_ ?_
    | split
    | intro _

theorem keep_dropRef {P : State → Prop} (hP : Stable P) (a0 : Nat) (a1 : Nat) (s : State) (hs : P s) :
    P (dropRef a0 a1 s) := by
  unfold dropRef
  dsimp -failIfUnchanged only
  repeat' first
    | with_reducible exact hs
    | with_reducible refine ite_keep ?_ ?_
    | with_reducible refine keep_modPage hP _ _ _ ?_
    | with_reducible refine keep_retire hP _ _ _ _ _ ?_
    | split
    | intro _

theorem keep_appendRun {P : State → Prop} (hP : Stable P) (a0 : Nat) (a1 : Seq) (a2 : Cmd) (a3 : Nat) (a4 : Nat) (s : State) (hs : P s) :
    Snd P (appendRun a0 a1 a2 a3 a4 s) := by
  unfold appendRun
  dsimp -failIfUnchanged only
  repeat' first
    | with_reducible exact hs
    | with_reducible assumption
    | with_reducible refine ite_keep ?_ ?_
    | with_reducible refine map_keep ?_
    | dsimp only [fst_mk_eq, snd_mk_eq]
    | with_reducible exact snd_one (by with_reducible assumption)
    | with_reducible refine keep_copyReads hP _ _ _ _ _ ?_
    | with_reducible refine keep_modCtx hP _ _ _ ?_
    | with_reducible refine keep_modSeq hP _ _ _ _ ?_
    | with_reducible refine snd_get (all_get (keep_extendBlocks hP _ _ _ _ ?_) (by with_reducible assumption)) rfl
    | with_reducible refine keep_reclaim hP _ _ ?_
    | with_reducible refine keep_setSeq hP _ _ _ _ ?_
    | with_reducible refine keep_releasePos hP _ _ _ _ ?_
    | with_reducible refine snd_one (keep_writeTokens hP _ _ _ _ _ _ _ ?_)
    | with_reducible refine keep_editSwap hP _ _ _ _ ?_
    | with_reducible refine snd_one (snd_one (all_get (keep_makeReady hP _ _ _ _ _ _ _ ?_) (by with_reducible assumption)))
    | with_reducible refine snd_one (keep_readRuns hP _ _ _ _ _ _ ?_)
    | with_reducible refine keep_dropRef hP _ _ _ ?_
    | with_reducible refine foldl_keep ?_ ?_
    | with_reducible refine snd_one (foldl_keep (Q := Snd P) ?_ ?_)
    | split
    | intro _
    | with_reducible refine snd_get (all_get (Q := Snd P) ?_ (by with_reducible assumption)) rfl

theorem keep_mirrorLost {P : State → Prop} (hP : Stable P) (a0 : Nat) (a1 : Nat) (a2 : PlaceRec) (s : State) (hs : P s) :
    P (mirrorLost a0 a1 a2 s) := by
  unfold mirrorLost
  repeat' first
    | with_reducible exact hs
    | with_reducible refine keep_postEvent hP _ _ _ _ _ ?_
    | with_reducible refine keep_modRec hP _ _ _ _ ?_

theorem keep_modCmd {P : State → Prop} (hP : Stable P) (a0 : Nat) (a1 : Cmd → Cmd) (s : State) (hs : P s) :
    P (modCmd a0 a1 s) := by
  unfold modCmd
  repeat' first
    | with_reducible exact hs
    | fail_if_no_progress (with_reducible refine mk_keep hP ?_)

theorem keep_holdEdit {P : State → Prop} (hP : Stable P) (a0 : Nat) (a1 : Nat) (a2 : Nat) (s : State) (hs : P s) :
    P (holdEdit a0 a1 a2 s) := by
  unfold holdEdit
  repeat' first
    | with_reducible exact hs
    | with_reducible refine keep_modSeq hP _ _ _ _ ?_
    | with_reducible refine keep_modCmd hP _ _ _ ?_

theorem keep_runParts {P : State → Prop} (hP : Stable P) (a0 : Nat) (a1 : Cmd) (a2 : Nat) (a3 : Nat) (a4 : Nat) (a5 : Nat) (s : State) (hs : P s) :
    Fst P (runParts a0 a1 a2 a3 a4 a5 s) := by
  induction a2 generalizing a3 a4 a5 s with
  | zero =>
    unfold runParts
    repeat' first
      | with_reducible exact hs
      | dsimp only [fst_mk_eq, snd_mk_eq]
  | succ n ih =>
    unfold runParts
    dsimp -failIfUnchanged only
    repeat' first
      | with_reducible refine ih _ _ _ _ ?_
      | with_reducible exact hs
      | with_reducible refine ite_keep ?_ ?_
      | dsimp only [fst_mk_eq, snd_mk_eq]
      | with_reducible refine keep_spanLow hP _ _ _ _ _ _ ?_
      | with_reducible refine keep_modCtx hP _ _ _ ?_
      | with_reducible refine snd_one (keep_writeThroughSend hP _ _ _ _ _ _ _ _ _ ?_)
      | with_reducible refine snd_get (keep_appendRun hP _ _ _ _ _ _ ?_) (by with_reducible assumption)
      | with_reducible refine keep_postEvent hP _ _ _ _ _ ?_
      | with_reducible refine keep_mirrorLost hP _ _ _ _ ?_
      | with_reducible refine keep_askFabric hP _ _ _ _ _ _ _ _ _ _ _ _ _ ?_
      | with_reducible refine keep_holdEdit hP _ _ _ _ ?_
      | split
      | intro _

theorem keep_partDone {P : State → Prop} (hP : Stable P) (a0 : Nat) (a1 : Nat) (a2 : Option (Nat × Nat)) (s : State) (hs : P s) :
    Fst P (partDone a0 a1 a2 s) := by
  unfold partDone
  dsimp -failIfUnchanged only
  repeat' first
    | with_reducible exact hs
    | with_reducible refine ite_keep ?_ ?_
    | dsimp only [fst_mk_eq, snd_mk_eq]
    | with_reducible refine keep_spanLow hP _ _ _ _ _ _ ?_
    | with_reducible refine keep_modCtx hP _ _ _ ?_
    | with_reducible refine keep_modSeq hP _ _ _ _ ?_
    | with_reducible refine keep_runParts hP _ _ _ _ _ _ _ ?_
    | split
    | intro _

theorem keep_mirrorGone {P : State → Prop} (hP : Stable P) (a0 : Nat) (a1 : Nat) (a2 : Nat) (a3 : Nat) (s : State) (hs : P s) :
    P (mirrorGone a0 a1 a2 a3 s) := by
  unfold mirrorGone
  repeat' first
    | with_reducible exact hs
    | with_reducible refine elim_keep ?_ ?_
    | with_reducible refine keep_modRec hP _ _ _ _ ?_
    | intro _

theorem keep_writeAnswered {P : State → Prop} (hP : Stable P) (a0 : Nat) (a1 : Await) (a2 : Bool) (s : State) (hs : P s) :
    P (writeAnswered a0 a1 a2 s) := by
  unfold writeAnswered
  dsimp -failIfUnchanged only
  repeat' first
    | with_reducible exact hs
    | with_reducible refine ite_keep ?_ ?_
    | with_reducible refine elim_keep ?_ ?_
    | with_reducible refine keep_handoffsGo hP _ _ ?_
    | with_reducible refine keep_partEnds hP _ _ _ ?_
    | with_reducible refine fst_one (keep_partDone hP _ _ _ _ ?_)
    | with_reducible refine keep_conclude hP _ _ _ ?_
    | with_reducible refine keep_mirrorLost hP _ _ _ _ ?_
    | with_reducible refine keep_mirrorGone hP _ _ _ _ _ ?_
    | split
    | intro _

theorem keep_mirrorReport {P : State → Prop} (hP : Stable P) (a0 : Nat) (a1 : Nat) (a2 : Nat) (a3 : Nat) (a4 : Nat) (a5 : Nat) (s : State) (hs : P s) :
    P (mirrorReport a0 a1 a2 a3 a4 a5 s) := by
  unfold mirrorReport
  repeat' first
    | with_reducible exact hs
    | with_reducible refine ite_keep ?_ ?_
    | with_reducible refine elim_keep ?_ ?_
    | with_reducible refine keep_mirrorLost hP _ _ _ _ ?_
    | intro _

theorem keep_unawait {P : State → Prop} (hP : Stable P) (a0 : Nat) (a1 : Nat) (a2 : Nat) (a3 : Nat) (s : State) (hs : P s) :
    P (unawait a0 a1 a2 a3 s) := by
  unfold unawait
  repeat' first
    | with_reducible exact hs
    | with_reducible refine keep_modPart hP _ _ _ ?_

theorem keep_loseHome {P : State → Prop} (hP : Stable P) (a0 : Nat) (a1 : Nat) (a2 : Nat) (a3 : Nat) (a4 : Nat) (s : State) (hs : P s) :
    P (loseHome a0 a1 a2 a3 a4 s) := by
  unfold loseHome
  dsimp -failIfUnchanged only
  repeat' first
    | with_reducible exact hs
    | with_reducible assumption
    | with_reducible refine keep_modPart hP _ _ _ ?_
    | with_reducible refine keep_abortCmd hP _ _ _ ?_
    | with_reducible refine foldl_keep ?_ ?_
    | intro _

theorem keep_depose {P : State → Prop} (hP : Stable P) (a0 : Nat) (a1 : Nat) (a2 : Nat) (a3 : Nat) (a4 : Nat) (s : State) (hs : P s) :
    P (depose a0 a1 a2 a3 a4 s) := by
  unfold depose
  repeat' first
    | with_reducible exact hs
    | with_reducible refine keep_loseHome hP _ _ _ _ _ _ ?_
    | with_reducible refine keep_modPart hP _ _ _ ?_

theorem keep_partReply {P : State → Prop} (hP : Stable P) (a0 : Nat) (a1 : Nat) (a2 : Nat) (a3 : Nat) (a4 : List Byte) (s : State) (hs : P s) :
    P (partReply a0 a1 a2 a3 a4 s) := by
  unfold partReply
  dsimp -failIfUnchanged only
  repeat' first
    | with_reducible exact hs
    | with_reducible refine ite_keep ?_ ?_
    | with_reducible refine elim_keep ?_ ?_
    | with_reducible refine keep_partEnds hP _ _ _ ?_
    | with_reducible refine keep_mirrorReport hP _ _ _ _ _ _ _ ?_
    | with_reducible refine fst_get (keep_partDone hP _ _ _ _ ?_) (by with_reducible assumption)
    | with_reducible refine keep_conclude hP _ _ _ ?_
    | with_reducible refine keep_unawait hP _ _ _ _ _ ?_
    | with_reducible refine keep_postEvent hP _ _ _ _ _ ?_
    | with_reducible refine fst_one (keep_runParts hP _ _ _ _ _ _ _ ?_)
    | with_reducible refine keep_depose hP _ _ _ _ _ _ ?_
    | split
    | intro _

theorem keep_stopJob {P : State → Prop} (hP : Stable P) (a0 : Nat) (a1 : Nat) (a2 : Reply) (s : State) (hs : P s) :
    Fst P (stopJob a0 a1 a2 s) := by
  unfold stopJob
  repeat' first
    | with_reducible exact hs
    | dsimp only [fst_mk_eq, snd_mk_eq]
    | with_reducible refine keep_endJob hP _ _ _ ?_
    | split

theorem keep_handoffAnswered {P : State → Prop} (hP : Stable P) (a0 : Nat) (a1 : Await) (a2 : Reply) (s : State) (hs : P s) :
    P (handoffAnswered a0 a1 a2 s) := by
  unfold handoffAnswered
  dsimp -failIfUnchanged only
  repeat' first
    | with_reducible exact hs
    | with_reducible refine ite_keep ?_ ?_
    | with_reducible refine elim_keep ?_ ?_
    | with_reducible refine keep_conclude hP _ _ _ ?_
    | with_reducible refine keep_modSpan hP _ _ _ _ ?_
    | with_reducible refine keep_modRec hP _ _ _ _ ?_
    | split
    | intro _

theorem keep_missCell {P : State → Prop} (hP : Stable P) (a0 : Nat) (a1 : Nat) (s : State) (hs : P s) :
    P (missCell a0 a1 s) := by
  unfold missCell
  dsimp -failIfUnchanged only
  repeat' first
    | with_reducible exact hs
    | with_reducible assumption
    | with_reducible refine keep_modCtx hP _ _ _ ?_
    | with_reducible refine keep_modGpage hP _ _ _ _ _ _ ?_
    | with_reducible refine foldl_keep ?_ ?_
    | intro _

theorem keep_markCell {P : State → Prop} (hP : Stable P) (a0 : Nat) (a1 : Nat) (s : State) (hs : P s) :
    P (markCell a0 a1 s) := by
  unfold markCell
  dsimp -failIfUnchanged only
  repeat' first
    | with_reducible exact hs
    | with_reducible assumption
    | with_reducible refine ite_keep ?_ ?_
    | with_reducible refine keep_modCtx hP _ _ _ ?_
    | with_reducible refine keep_arrive hP _ _ _ _ _ _ ?_
    | with_reducible refine keep_missCell hP _ _ _ ?_
    | with_reducible refine foldl_keep ?_ ?_
    | split
    | intro _

theorem keep_putSub {P : State → Prop} (hP : Stable P) (a0 : Nat) (a1 : Nat) (a2 : Nat) (a3 : SubReq) (a4 : Nat) (s : State) (hs : P s) :
    P (putSub a0 a1 a2 a3 a4 s) := by
  unfold putSub
  dsimp -failIfUnchanged only
  repeat' first
    | with_reducible exact hs
    | with_reducible refine keep_modCtx hP _ _ _ ?_
    | with_reducible refine snd_one (keep_newTag hP _ ?_)
    | with_reducible refine keep_sendFabric hP _ _ _ _ _ ?_

theorem keep_markSpan {P : State → Prop} (hP : Stable P) (a0 : Nat) (a1 : Nat) (s : State) (hs : P s) :
    P (markSpan a0 a1 s) := by
  unfold markSpan
  repeat' first
    | with_reducible exact hs
    | with_reducible refine keep_modCtx hP _ _ _ ?_

theorem keep_spanFailed {P : State → Prop} (hP : Stable P) (a0 : Nat) (a1 : Nat) (s : State) (hs : P s) :
    P (spanFailed a0 a1 s) := by
  unfold spanFailed
  repeat' first
    | with_reducible exact hs
    | with_reducible refine keep_settle hP _ _ ?_
    | with_reducible refine keep_markSpan hP _ _ _ ?_
    | with_reducible refine keep_pump hP _ ?_

theorem keep_reissue {P : State → Prop} (hP : Stable P) (a0 : Nat) (a1 : Nat) (s : State) (hs : P s) :
    P (reissue a0 a1 s) := by
  unfold reissue
  dsimp -failIfUnchanged only
  repeat' first
    | with_reducible exact hs
    | with_reducible refine ite_keep ?_ ?_
    | with_reducible refine elim_keep ?_ ?_
    | with_reducible refine keep_putSub hP _ _ _ _ _ _ ?_
    | with_reducible refine keep_neighbourDone hP _ _ _ _ ?_
    | with_reducible refine keep_modCtx hP _ _ _ ?_
    | with_reducible refine keep_spanFailed hP _ _ _ ?_
    | split
    | intro _

theorem keep_postMember {P : State → Prop} (hP : Stable P) (a0 : Nat) (a1 : Nat) (a2 : Nat) (s : State) (hs : P s) :
    P (postMember a0 a1 a2 s) := by
  unfold postMember
  dsimp -failIfUnchanged only
  repeat' first
    | with_reducible exact hs
    | with_reducible refine keep_postEvent hP _ _ _ _ _ ?_

theorem keep_sendSub {P : State → Prop} (hP : Stable P) (a0 : Nat) (a1 : Nat) (a2 : SubReq) (a3 : Nat) (s : State) (hs : P s) :
    P (sendSub a0 a1 a2 a3 s) := by
  unfold sendSub
  dsimp -failIfUnchanged only
  repeat' first
    | with_reducible exact hs
    | with_reducible refine ite_keep ?_ ?_
    | with_reducible refine keep_putSub hP _ _ _ _ _ _ ?_
    | with_reducible refine keep_reissue hP _ _ _ ?_
    | with_reducible refine keep_modCtx hP _ _ _ ?_
    | with_reducible refine keep_postMember hP _ _ _ _ ?_
    | split
    | intro _

theorem keep_startRequest {P : State → Prop} (hP : Stable P) (a0 : Nat) (a1 : Cmd) (a2 : Req) (a3 : Seq) (a4 : Tab Nat) (a5 : Nat) (a6 : List Nat) (a7 : List Nat) (a8 : List SubReq) (a9 : Nat) (s : State) (hs : P s) :
    P (startRequest a0 a1 a2 a3 a4 a5 a6 a7 a8 a9 s) := by
  unfold startRequest
  dsimp -failIfUnchanged only
  repeat' first
    | with_reducible exact hs
    | with_reducible assumption
    | with_reducible refine ite_keep ?_ ?_
    | with_reducible refine keep_modCtx hP _ _ _ ?_
    | with_reducible refine keep_settle hP _ _ ?_
    | with_reducible refine keep_modGpage hP _ _ _ _ _ _ ?_
    | with_reducible refine keep_markCell hP _ _ _ ?_
    | with_reducible refine keep_pump hP _ ?_
    | with_reducible refine keep_sendSub hP _ _ _ _ _ ?_
    | with_reducible refine foldl_keep ?_ ?_
    | split
    | intro _

theorem keep_reconstruct {P : State → Prop} (hP : Stable P) (a0 : Nat) (a1 : Cmd) (a2 : PlaceRec) (a3 : List (Nat × List Byte)) (s : State) (hs : P s) :
    P (reconstruct a0 a1 a2 a3 s) := by
  unfold reconstruct
  dsimp -failIfUnchanged only
  repeat' first
    | with_reducible exact hs
    | with_reducible assumption
    | with_reducible refine all_some ?_
    | with_reducible refine ite_keep ?_ ?_
    | with_reducible refine map_keep ?_
    | dsimp only [fst_mk_eq, snd_mk_eq]
    | with_reducible refine keep_startRequest hP _ _ _ _ _ _ _ _ _ _ _ ?_
    | with_reducible refine keep_conclude hP _ _ _ ?_
    | with_reducible refine keep_modCell hP _ _ _ ?_
    | with_reducible refine foldl_keep ?_ ?_
    | split
    | intro _
    | with_reducible exact snd_get (all_get (by with_reducible assumption) rfl) rfl
    | with_reducible refine snd_get (all_get (Q := Snd P) ?_ (by with_reducible assumption)) rfl

theorem keep_fetchFrom {P : State → Prop} (hP : Stable P) (a0 : Nat) (a1 : Nat) (a2 : Cmd) (a3 : PlaceRec) (a4 : Nat) (a5 : Nat) (s : State) (hs : P s) :
    P (fetchFrom a0 a1 a2 a3 a4 a5 s) := by
  unfold fetchFrom
  dsimp -failIfUnchanged only
  repeat' first
    | with_reducible exact hs
    | with_reducible refine keep_modCtx hP _ _ _ ?_
    | with_reducible refine snd_one (keep_newTag hP _ ?_)
    | with_reducible refine keep_modPart hP _ _ _ ?_
    | with_reducible refine keep_askNode hP _ _ _ _ ?_

theorem keep_reconGot {P : State → Prop} (hP : Stable P) (a0 : Nat) (a1 : Nat) (a2 : Nat) (a3 : List Byte) (s : State) (hs : P s) :
    P (reconGot a0 a1 a2 a3 s) := by
  unfold reconGot
  dsimp -failIfUnchanged only
  repeat' first
    | with_reducible exact hs
    | with_reducible refine ite_keep ?_ ?_
    | with_reducible refine keep_modCtx hP _ _ _ ?_
    | with_reducible refine keep_conclude hP _ _ _ ?_
    | with_reducible refine keep_reconstruct hP _ _ _ _ _ ?_
    | with_reducible refine keep_fetchFrom hP _ _ _ _ _ _ _ ?_
    | split
    | intro _

theorem keep_fence {P : State → Prop} (hP : Stable P) (a0 : Nat) (a1 : Nat) (s : State) (hs : P s) :
    P (fence a0 a1 s) := by
  unfold fence
  repeat' first
    | with_reducible exact hs
    | with_reducible refine keep_modSpan hP _ _ _ _ ?_

theorem keep_releaseLent {P : State → Prop} (hP : Stable P) (a0 : Nat) (a1 : Nat) (s : State) (hs : P s) :
    P (releaseLent a0 a1 s) := by
  unfold releaseLent
  dsimp -failIfUnchanged only
  repeat' first
    | with_reducible exact hs
    | with_reducible refine snd_one (keep_newTag hP _ ?_)
    | with_reducible refine keep_modPart hP _ _ _ ?_
    | with_reducible refine keep_sendFabric hP _ _ _ _ _ ?_
    | with_reducible refine keep_modCell hP _ _ _ ?_
    | split

theorem keep_dropHandle {P : State → Prop} (hP : Stable P) (a0 : Nat) (a1 : Nat) (s : State) (hs : P s) :
    P (dropHandle a0 a1 s) := by
  unfold dropHandle
  repeat' first
    | with_reducible exact hs
    | with_reducible refine ite_keep ?_ ?_
    | with_reducible refine keep_dropRef hP _ _ _ ?_
    | with_reducible refine keep_releaseLent hP _ _ _ ?_
    | split
    | intro _

theorem keep_truncate {P : State → Prop} (hP : Stable P) (a0 : Nat) (a1 : Nat) (a2 : Nat) (a3 : Nat) (s : State) (hs : P s) :
    All P (truncate a0 a1 a2 a3 s) := by
  unfold truncate
  dsimp -failIfUnchanged only
  repeat' first
    | with_reducible exact hs
    | with_reducible assumption
    | with_reducible exact all_none
    | with_reducible refine all_some ?_
    | with_reducible refine keep_dropHandle hP _ _ _ ?_
    | with_reducible refine keep_reclaim hP _ _ ?_
    | with_reducible refine keep_setSeq hP _ _ _ _ ?_
    | with_reducible refine keep_releasePos hP _ _ _ _ ?_
    | with_reducible refine snd_get (all_get (keep_editSwap hP _ _ _ _ ?_) (by with_reducible assumption)) rfl
    | with_reducible refine foldl_keep ?_ ?_
    | split
    | intro _

theorem keep_truncateHere {P : State → Prop} (hP : Stable P) (a0 : Nat) (a1 : Nat) (a2 : Cmd) (s : State) (hs : P s) :
    Fst P (truncateHere a0 a1 a2 s) := by
  unfold truncateHere
  repeat' first
    | with_reducible exact hs
    | dsimp only [fst_mk_eq, snd_mk_eq]
    | with_reducible refine all_get (keep_truncate hP _ _ _ _ _ ?_) (by with_reducible assumption)
    | split

theorem keep_editAnswered {P : State → Prop} (hP : Stable P) (a0 : Nat) (a1 : Await) (a2 : Reply) (s : State) (hs : P s) :
    P (editAnswered a0 a1 a2 s) := by
  unfold editAnswered
  dsimp -failIfUnchanged only
  repeat' first
    | with_reducible exact hs
    | with_reducible refine ite_keep ?_ ?_
    | with_reducible refine fst_one (keep_truncateHere hP _ _ _ _ ?_)
    | with_reducible refine keep_conclude hP _ _ _ ?_
    | split
    | intro _

theorem keep_syncMirror {P : State → Prop} (hP : Stable P) (a0 : Nat) (a1 : Nat) (a2 : Nat) (a3 : Nat) (a4 : Nat) (s : State) (hs : P s) :
    P (syncMirror a0 a1 a2 a3 a4 s) := by
  unfold syncMirror
  repeat' first
    | with_reducible exact hs
    | with_reducible refine elim_keep ?_ ?_
    | with_reducible refine keep_modRec hP _ _ _ _ ?_
    | split
    | intro _

theorem keep_loseLent {P : State → Prop} (hP : Stable P) (a0 : Nat) (a1 : Nat) (a2 : LendEntry → Bool) (s : State) (hs : P s) :
    P (loseLent a0 a1 a2 s) := by
  unfold loseLent
  dsimp -failIfUnchanged only
  repeat' first
    | with_reducible exact hs
    | with_reducible assumption
    | with_reducible refine ite_keep ?_ ?_
    | with_reducible refine keep_postEvent hP _ _ _ _ _ ?_
    | with_reducible refine keep_modCell hP _ _ _ ?_
    | with_reducible refine foldl_keep ?_ ?_
    | intro _

theorem keep_modJob {P : State → Prop} (hP : Stable P) (a0 : Nat) (a1 : Nat) (a2 : Job → Job) (s : State) (hs : P s) :
    P (modJob a0 a1 a2 s) := by
  unfold modJob
  repeat' first
    | with_reducible exact hs
    | with_reducible refine keep_modPart hP _ _ _ ?_

theorem keep_roomFor {P : State → Prop} (hP : Stable P) (a0 : Nat) (a1 : Nat) (a2 : Seq) (a3 : Nat) (s : State) (hs : P s) :
    All (Snd P) (roomFor a0 a1 a2 a3 s) := by
  unfold roomFor
  repeat' first
    | with_reducible exact hs
    | with_reducible exact all_none
    | with_reducible refine ite_keep ?_ ?_
    | with_reducible refine keep_allocPage hP _ _ _ _ _ ?_
    | intro _

theorem keep_recallNext {P : State → Prop} (hP : Stable P) (a0 : Nat) (a1 : Nat) (s : State) (hs : P s) :
    Fst P (recallNext a0 a1 s) := by
  unfold recallNext
  dsimp -failIfUnchanged only
  repeat' first
    | with_reducible exact hs
    | with_reducible refine ite_keep ?_ ?_
    | dsimp only [fst_mk_eq, snd_mk_eq]
    | with_reducible refine snd_get (all_get (keep_roomFor hP _ _ _ _ _ ?_) (by with_reducible assumption)) rfl
    | with_reducible refine keep_modLend hP _ _ _ ?_
    | with_reducible refine keep_modJob hP _ _ _ _ ?_
    | with_reducible refine snd_one (keep_newTag hP _ ?_)
    | with_reducible refine keep_endJob hP _ _ _ ?_
    | with_reducible refine keep_stopJob hP _ _ _ _ ?_
    | with_reducible refine keep_modPart hP _ _ _ ?_
    | with_reducible refine keep_sendFabric hP _ _ _ _ _ ?_
    | split
    | intro _

theorem keep_swapHandles {P : State → Prop} (hP : Stable P) (a0 : Nat) (a1 : Nat) (a2 : List (Nat × Nat)) (s : State) (hs : P s) :
    All P (swapHandles a0 a1 a2 s) := by
  unfold swapHandles
  dsimp -failIfUnchanged only
  repeat' first
    | with_reducible exact hs
    | with_reducible exact all_none
    | with_reducible refine all_some ?_
    | with_reducible refine keep_setSeq hP _ _ _ _ ?_
    | with_reducible refine snd_get (all_get (keep_editSwap hP _ _ _ _ ?_) (by with_reducible assumption)) rfl
    | split

theorem keep_extendHandle {P : State → Prop} (hP : Stable P) (a0 : Nat) (a1 : Nat) (a2 : Nat) (a3 : Nat) (s : State) (hs : P s) :
    All P (extendHandle a0 a1 a2 a3 s) := by
  unfold extendHandle
  repeat' first
    | with_reducible exact hs
    | with_reducible exact all_none
    | with_reducible refine map_keep ?_
    | with_reducible refine snd_get (all_get (keep_extendBlocks hP _ _ _ _ ?_) (by with_reducible assumption)) rfl
    | with_reducible refine keep_setSeq hP _ _ _ _ ?_
    | split
    | intro _

theorem keep_poisonRec {P : State → Prop} (hP : Stable P) (a0 : Nat) (a1 : List Nat) (s : State) (hs : P s) :
    P (poisonRec a0 a1 s) := by
  unfold poisonRec
  repeat' first
    | with_reducible exact hs
    | with_reducible assumption
    | with_reducible refine keep_setMeta hP _ _ _ _ ?_
    | with_reducible refine foldl_keep ?_ ?_
    | split
    | intro _

theorem keep_storeImage {P : State → Prop} (hP : Stable P) (a0 : Nat) (a1 : Nat) (a2 : PageImage) (s : State) (hs : P s) :
    P (storeImage a0 a1 a2 s) := by
  unfold storeImage
  dsimp -failIfUnchanged only
  repeat' first
    | with_reducible exact hs
    | with_reducible assumption
    | with_reducible refine ite_keep ?_ ?_
    | with_reducible refine keep_modPage hP _ _ _ ?_
    | with_reducible refine keep_setGran hP _ _ _ ?_
    | with_reducible refine keep_takeTable hP _ _ _ ?_
    | with_reducible refine keep_poisonRec hP _ _ _ ?_
    | with_reducible refine keep_writeBytes hP _ _ _ _ _ _ ?_
    | with_reducible refine foldl_keep ?_ ?_
    | split
    | intro _

theorem keep_landPage {P : State → Prop} (hP : Stable P) (a0 : Nat) (a1 : Nat) (a2 : Nat) (a3 : Nat) (a4 : Bool) (a5 : Option Nat) (a6 : PageImage) (s : State) (hs : P s) :
    All P (landPage a0 a1 a2 a3 a4 a5 a6 s) := by
  unfold landPage
  split
  · exact all_none
  · split
    · exact all_none
    · rename_i _ q _ _ h t e
      have ht : P t := snd_get (all_get (orElse_keep (map_snd_keep hs) (keep_roomFor hP _ _ _ _ _ hs)) e) rfl
      have hm := keep_modPage hP h (fun g => { g with age := keptAge t q (handleAt q a3) }) _ (keep_storeImage hP a1 h a6 _ ht)
      dsimp only
      split
      · exact all_none
      · rename_i w
        refine all_some (keep_dropHandle hP _ _ _ (keep_releasePos hP _ _ _ _ (all_get (Q := P) ?_ w)))
        split
        · exact keep_swapHandles hP _ _ _ _ hm
        · exact keep_extendHandle hP _ _ _ _ _ hm

theorem keep_recallLanded {P : State → Prop} (hP : Stable P) (a0 : Nat) (a1 : Nat) (a2 : Nat) (a3 : PageImage) (s : State) (hs : P s) :
    Fst P (recallLanded a0 a1 a2 a3 s) := by
  unfold recallLanded
  dsimp -failIfUnchanged only
  repeat' first
    | with_reducible exact hs
    | dsimp only [fst_mk_eq, snd_mk_eq]
    | with_reducible refine keep_modLend hP _ _ _ ?_
    | with_reducible refine keep_modJob hP _ _ _ _ ?_
    | with_reducible refine keep_stopJob hP _ _ _ _ ?_
    | with_reducible refine keep_reclaim hP _ _ ?_
    | with_reducible refine keep_recallNext hP _ _ _ ?_
    | with_reducible refine all_get (keep_landPage hP _ _ _ _ _ _ _ _ ?_) (by with_reducible assumption)
    | split

theorem keep_recallAnswered {P : State → Prop} (hP : Stable P) (a0 : Nat) (a1 : Await) (a2 : Reply) (s : State) (hs : P s) :
    P (recallAnswered a0 a1 a2 s) := by
  unfold recallAnswered
  dsimp -failIfUnchanged only
  repeat' first
    | with_reducible exact hs
    | with_reducible refine ite_keep ?_ ?_
    | with_reducible refine keep_partEnds hP _ _ _ ?_
    | with_reducible refine keep_modLend hP _ _ _ ?_
    | with_reducible refine fst_one (keep_stopJob hP _ _ _ _ ?_)
    | with_reducible refine keep_loseLent hP _ _ _ _ ?_
    | with_reducible refine fst_one (keep_recallLanded hP _ _ _ _ _ ?_)
    | split
    | intro _

theorem keep_lengthsCame {P : State → Prop} (hP : Stable P) (a0 : Nat) (a1 : Await) (a2 : List Byte) (s : State) (hs : P s) :
    P (lengthsCame a0 a1 a2 s) := by
  unfold lengthsCame
  dsimp -failIfUnchanged only
  repeat' first
    | with_reducible exact hs
    | with_reducible refine ite_keep ?_ ?_
    | with_reducible refine keep_modSeq hP _ _ _ _ ?_
    | with_reducible refine keep_setSeq hP _ _ _ _ ?_
    | with_reducible refine keep_askLengths hP _ _ _ _ _ _ ?_
    | with_reducible refine snd_get (all_get (keep_allocBlock hP _ _ _ _ ?_) (by with_reducible assumption)) rfl
    | split
    | intro _

theorem keep_recopyLanded {P : State → Prop} (hP : Stable P) (a0 : Nat) (a1 : Nat) (a2 : Nat) (a3 : Nat) (a4 : PageImage) (s : State) (hs : P s) :
    Fst P (recopyLanded a0 a1 a2 a3 a4 s) := by
  unfold recopyLanded
  dsimp -failIfUnchanged only
  repeat' first
    | with_reducible exact hs
    | with_reducible refine ite_keep ?_ ?_
    | dsimp only [fst_mk_eq, snd_mk_eq]
    | with_reducible refine keep_reclaim hP _ _ ?_
    | with_reducible refine all_get (keep_landPage hP _ _ _ _ _ _ _ _ ?_) (by with_reducible assumption)
    | split
    | intro _

theorem keep_lendStopped {P : State → Prop} (hP : Stable P) (a0 : Nat) (a1 : Nat) (a2 : Nat) (a3 : Nat) (a4 : Reply) (s : State) (hs : P s) :
    Fst P (lendStopped a0 a1 a2 a3 a4 s) := by
  unfold lendStopped
  dsimp -failIfUnchanged only
  repeat' first
    | with_reducible exact hs
    | with_reducible refine snd_one (keep_newTag hP _ ?_)
    | with_reducible refine keep_stopJob hP _ _ _ _ ?_
    | with_reducible refine keep_sendFabric hP _ _ _ _ _ ?_

theorem keep_lendNext {P : State → Prop} (hP : Stable P) (a0 : Nat) (a1 : Nat) (s : State) (hs : P s) :
    Fst P (lendNext a0 a1 s) := by
  unfold lendNext
  dsimp -failIfUnchanged only
  repeat' first
    | with_reducible exact hs
    | with_reducible refine ite_keep ?_ ?_
    | dsimp only [fst_mk_eq, snd_mk_eq]
    | with_reducible refine snd_one (keep_newTag hP _ ?_)
    | with_reducible refine keep_endJob hP _ _ _ ?_
    | with_reducible refine keep_stopJob hP _ _ _ _ ?_
    | with_reducible refine keep_modPart hP _ _ _ ?_
    | with_reducible refine snd_one (keep_commitRead hP _ _ _ ?_)
    | with_reducible refine keep_sendFabric hP _ _ _ _ _ ?_
    | split
    | intro _

theorem keep_lendTaken {P : State → Prop} (hP : Stable P) (a0 : Nat) (a1 : Nat) (a2 : Nat) (a3 : Nat) (s : State) (hs : P s) :
    Fst P (lendTaken a0 a1 a2 a3 s) := by
  unfold lendTaken
  dsimp -failIfUnchanged only
  repeat' first
    | with_reducible exact hs
    | dsimp only [fst_mk_eq, snd_mk_eq]
    | with_reducible refine keep_modJob hP _ _ _ _ ?_
    | with_reducible refine keep_endJob hP _ _ _ ?_
    | with_reducible refine keep_lendStopped hP _ _ _ _ _ _ ?_
    | with_reducible refine keep_reclaim hP _ _ ?_
    | with_reducible refine all_get (keep_swapHandles hP _ _ _ _ ?_) (by with_reducible assumption)
    | with_reducible refine keep_lendNext hP _ _ _ ?_
    | with_reducible refine keep_dropRef hP _ _ _ ?_
    | with_reducible refine keep_modCell hP _ _ _ ?_
    | split

theorem keep_setCoded {P : State → Prop} (hP : Stable P) (a0 : Nat) (a1 : PlaceRec → Bool) (s : State) (hs : P s) :
    P (setCoded a0 a1 s) := by
  unfold setCoded
  dsimp -failIfUnchanged only
  repeat' first
    | with_reducible exact hs
    | with_reducible refine keep_modPart hP _ _ _ ?_

theorem keep_markCoded {P : State → Prop} (hP : Stable P) (a0 : Nat) (a1 : Nat) (s : State) (hs : P s) :
    P (markCoded a0 a1 s) := by
  unfold markCoded
  dsimp -failIfUnchanged only
  repeat' first
    | with_reducible exact hs
    | with_reducible assumption
    | with_reducible refine snd_one (keep_newTag hP _ ?_)
    | with_reducible refine keep_askNode hP _ _ _ _ ?_
    | with_reducible refine keep_setCoded hP _ _ _ ?_
    | with_reducible refine foldl_keep ?_ ?_
    | intro _

set_option maxHeartbeats 2000000 in
theorem keep_answered {P : State → Prop} (hP : Stable P) (a0 : Nat) (a1 : Await) (a2 : Nat) (a3 : Nat) (a4 : List Byte) (s : State) (hs : P s) :
    P (answered a0 a1 a2 a3 a4 s) := by
  unfold answered
  dsimp -failIfUnchanged only
  repeat' first
    | with_reducible exact hs
    | with_reducible refine ite_keep ?_ ?_
    | with_reducible refine elim_keep ?_ ?_
    | dsimp only [fst_mk_eq, snd_mk_eq]
    | with_reducible refine keep_writeAnswered hP _ _ _ _ ?_
    | with_reducible refine keep_partReply hP _ _ _ _ _ _ ?_
    | with_reducible refine keep_modGroup hP _ _ _ _ ?_
    | with_reducible refine keep_partEnds hP _ _ _ ?_
    | with_reducible refine fst_one (keep_stopJob hP _ _ _ _ ?_)
    | with_reducible refine keep_conclude hP _ _ _ ?_
    | with_reducible refine keep_handoffAnswered hP _ _ _ _ ?_
    | with_reducible refine keep_reconGot hP _ _ _ _ _ ?_
    | with_reducible refine keep_fence hP _ _ _ ?_
    | with_reducible refine keep_editAnswered hP _ _ _ _ ?_
    | with_reducible refine keep_syncMirror hP _ _ _ _ _ _ ?_
    | with_reducible refine keep_recallAnswered hP _ _ _ _ ?_
    | with_reducible refine keep_lengthsCame hP _ _ _ _ ?_
    | with_reducible refine fst_one (keep_recopyLanded hP _ _ _ _ _ _ ?_)
    | with_reducible refine keep_modSpan hP _ _ _ _ ?_
    | with_reducible refine fst_one (keep_lendTaken hP _ _ _ _ _ ?_)
    | with_reducible refine keep_markCoded hP _ _ _ ?_
    | with_reducible refine keep_holdLease hP _ _ _ _ _ _ _ _ _ ?_
    | with_reducible refine keep_modCell hP _ _ _ ?_
    | split
    | intro _

theorem keep_apertureWrite {P : State → Prop} (hP : Wide P) (a0 : Nat) (a1 : Nat) (a2 : Nat) (a3 : List Byte) (s : State) (hs : P s) :
    P (apertureWrite a0 a1 a2 a3 s) := by
  induction a3 generalizing a2 s with
  | nil =>
    unfold apertureWrite
    repeat' first
      | with_reducible exact hs
  | cons x l ih =>
    unfold apertureWrite
    repeat' first
      | with_reducible refine ih _ _ ?_
      | with_reducible exact hs
      | with_reducible refine keep_putRaw hP _ _ _ ?_
      | split

theorem keep_askCoded {P : State → Prop} (hP : Stable P) (a0 : Nat) (a1 : PlaceRec) (s : State) (hs : P s) :
    P (askCoded a0 a1 s) := by
  unfold askCoded
  dsimp -failIfUnchanged only
  repeat' first
    | with_reducible exact hs
    | with_reducible assumption
    | with_reducible refine snd_one (keep_newTag hP _ ?_)
    | with_reducible refine keep_modPart hP _ _ _ ?_
    | with_reducible refine keep_askNode hP _ _ _ _ ?_
    | with_reducible refine foldl_keep ?_ ?_
    | split
    | intro _

theorem keep_askPark {P : State → Prop} (hP : Stable P) (a0 : Nat) (s : State) (hs : P s) :
    P (askPark a0 s) := by
  unfold askPark
  repeat' first
    | with_reducible exact hs
    | with_reducible refine keep_modPort hP _ _ _ ?_
    | with_reducible refine keep_emit hP _ _ ?_

theorem keep_askResync {P : State → Prop} (hP : Stable P) (a0 : Nat) (a1 : PlaceRec) (s : State) (hs : P s) :
    P (askResync a0 a1 s) := by
  unfold askResync
  dsimp -failIfUnchanged only
  repeat' first
    | with_reducible exact hs
    | with_reducible refine snd_one (keep_newTag hP _ ?_)
    | with_reducible refine keep_modPart hP _ _ _ ?_
    | with_reducible refine keep_askNode hP _ _ _ _ ?_
    | split

theorem keep_sentImage {P : State → Prop} (hP : Stable P) (a0 : Nat) (a1 : Nat) (s : State) (hs : P s) :
    Snd P (sentImage a0 a1 s) := by
  unfold sentImage
  dsimp -failIfUnchanged only
  repeat' first
    | with_reducible exact hs
    | with_reducible refine ite_keep ?_ ?_
    | dsimp only [fst_mk_eq, snd_mk_eq]
    | with_reducible refine snd_one (keep_commitRead hP _ _ _ ?_)
    | intro _

theorem keep_sentImages {P : State → Prop} (hP : Stable P) (a0 : Nat) (a1 : List (Option Nat)) (s : State) (hs : P s) :
    Snd P (sentImages a0 a1 s) := by
  induction a1 generalizing s with
  | nil => exact hs
  | cons h t ih =>
    cases h with
    | none => exact ih s hs
    | some h => exact ih _ (keep_sentImage hP _ _ _ hs)

theorem keep_groupPages {P : State → Prop} (hP : Stable P) (a0 : Nat) (a1 : Nat) (a2 : List Nat) (s : State) (hs : P s) :
    All (Snd P) (groupPages a0 a1 a2 s) := by
  unfold groupPages
  dsimp -failIfUnchanged only
  repeat' first
    | with_reducible exact hs
    | with_reducible exact all_none
    | with_reducible refine all_some ?_
    | dsimp only [fst_mk_eq, snd_mk_eq]
    | with_reducible refine snd_one (keep_sentImages hP _ _ _ ?_)
    | split

theorem keep_sendSpan {P : State → Prop} (hP : Stable P) (a0 : Nat) (a1 : Nat) (a2 : Seq) (a3 : PlaceRec) (s : State) (hs : P s) :
    P (sendSpan a0 a1 a2 a3 s) := by
  unfold sendSpan
  dsimp -failIfUnchanged only
  repeat' first
    | with_reducible exact hs
    | with_reducible assumption
    | with_reducible refine keep_sendFabric hP _ _ _ _ _ ?_
    | with_reducible refine snd_one (keep_sentImage hP _ _ _ ?_)
    | with_reducible refine foldl_keep ?_ ?_
    | intro _

theorem keep_askedHere {P : State → Prop} (hP : Stable P) (a0 : Nat) (a1 : Nat) (a2 : Nat) (a3 : List Nat) (s : State) (hs : P s) :
    P (askedHere a0 a1 a2 a3 s) := by
  unfold askedHere
  dsimp -failIfUnchanged only
  repeat' first
    | with_reducible exact hs
    | with_reducible refine ite_keep ?_ ?_
    | with_reducible refine keep_answerNode hP _ _ _ _ ?_
    | with_reducible refine snd_get (all_get (keep_groupPages hP _ _ _ _ ?_) (by with_reducible assumption)) rfl
    | with_reducible refine keep_modPart hP _ _ _ ?_
    | with_reducible refine keep_syncMirror hP _ _ _ _ _ _ ?_
    | with_reducible refine keep_answerCoded hP _ _ _ ?_
    | with_reducible refine keep_setCoded hP _ _ _ ?_
    | with_reducible refine snd_one (keep_sentImage hP _ _ _ ?_)
    | with_reducible refine keep_sendSpan hP _ _ _ _ _ ?_
    | split
    | intro _

theorem keep_modPool {P : State → Prop} (hP : Stable P) (a0 : Nat) (a1 : Nat) (a2 : Pool → Pool) (s : State) (hs : P s) :
    P (modPool a0 a1 a2 s) := by
  unfold modPool
  repeat' first
    | with_reducible exact hs
    | with_reducible refine keep_modPart hP _ _ _ ?_

theorem keep_takeBuf {P : State → Prop} (hP : Stable P) (a0 : Nat) (a1 : Nat) (s : State) (hs : P s) :
    All (Snd P) (takeBuf a0 a1 s) := by
  unfold takeBuf
  dsimp -failIfUnchanged only
  repeat' first
    | with_reducible exact hs
    | with_reducible exact all_none
    | with_reducible refine all_some ?_
    | dsimp only [fst_mk_eq, snd_mk_eq]
    | with_reducible refine keep_acceptInto hP _ _ _ ?_
    | with_reducible refine keep_modPool hP _ _ _ _ ?_
    | split

theorem keep_putMsg {P : State → Prop} (hP : Stable P) (a0 : Nat) (a1 : MsgIn) (s : State) (hs : P s) :
    P (putMsg a0 a1 s) := by
  unfold putMsg
  dsimp -failIfUnchanged only
  repeat' first
    | with_reducible exact hs
    | with_reducible refine keep_modConn hP _ _ _ ?_

theorem keep_assignBufs {P : State → Prop} (hP : Stable P) (a0 : Nat) (a1 : Nat) (s : State) (hs : P s) :
    P (assignBufs a0 a1 s) := by
  unfold assignBufs
  dsimp -failIfUnchanged only
  repeat' first
    | with_reducible exact hs
    | with_reducible assumption
    | with_reducible refine snd_get (all_get (keep_takeBuf hP _ _ _ ?_) (by with_reducible assumption)) rfl
    | with_reducible refine keep_putMsg hP _ _ _ ?_
    | with_reducible refine foldl_keep ?_ ?_
    | split
    | intro _

theorem keep_epochFence {P : State → Prop} (hP : Stable P) (a0 : Nat) (a1 : Nat) (a2 : Nat) (a3 : Nat) (a4 : Nat) (a5 : Nat) (s : State) (hs : P s) :
    P (epochFence a0 a1 a2 a3 a4 a5 s) := by
  unfold epochFence
  repeat' first
    | with_reducible exact hs
    | with_reducible assumption
    | with_reducible refine keep_modSpan hP _ _ _ _ ?_
    | with_reducible refine foldl_keep ?_ ?_
    | split
    | intro _

theorem keep_meetEpochs {P : State → Prop} (hP : Stable P) (a0 : Nat) (a1 : Nat) (a2 : Nat) (a3 : Nat) (a4 : Nat) (a5 : Nat) (a6 : Nat) (s : State) (hs : P s) :
    P (meetEpochs a0 a1 a2 a3 a4 a5 a6 s) := by
  unfold meetEpochs
  dsimp -failIfUnchanged only
  repeat' first
    | with_reducible exact hs
    | with_reducible refine ite_keep ?_ ?_
    | with_reducible refine keep_modPart hP _ _ _ ?_
    | with_reducible refine keep_epochFence hP _ _ _ _ _ _ _ ?_
    | intro _

theorem keep_meetCmd {P : State → Prop} (hP : Stable P) (a0 : Cmd) (a1 : Nat) (a2 : Nat) (s : State) (hs : P s) :
    P (meetCmd a0 a1 a2 s) := by
  unfold meetCmd
  repeat' first
    | with_reducible exact hs
    | with_reducible refine ite_keep ?_ ?_
    | with_reducible refine keep_meetEpochs hP _ _ _ _ _ _ _ _ ?_
    | intro _

theorem keep_atHome {P : State → Prop} (hP : Stable P) (a0 : Cmd) (a1 : Bool) (a2 : Nat → PlaceRec → State → State × Reply) (s : State) (h2 : ∀ i c s, P s → Fst P (a2 i c s)) (hs : P s) :
    Fst P (atHome a0 a1 a2 s) := by
  unfold atHome
  dsimp -failIfUnchanged only
  repeat' first
    | with_reducible exact hs
    | with_reducible refine ite_keep ?_ ?_
    | dsimp only [fst_mk_eq, snd_mk_eq]
    | with_reducible refine fst_one (h2 _ _ _ ?_)
    | with_reducible refine keep_meetCmd hP _ _ _ _ ?_
    | split
    | intro _

theorem keep_raiseJkg {P : State → Prop} (hP : Stable P) (a0 : Nat) (a1 : Nat) (a2 : Nat) (s : State) (hs : P s) :
    P (raiseJkg a0 a1 a2 s) := by
  unfold raiseJkg
  repeat' first
    | with_reducible exact hs
    | with_reducible refine keep_modPart hP _ _ _ ?_

theorem keep_authPacket {P : State → Prop} (hP : Stable P) (a0 : Nat) (a1 : Nat) (a2 : Bool) (a3 : Nat) (s : State) (hs : P s) :
    All P (authPacket a0 a1 a2 a3 s) := by
  unfold authPacket
  dsimp -failIfUnchanged only
  repeat' first
    | with_reducible exact hs
    | with_reducible exact all_none
    | with_reducible refine all_some ?_
    | with_reducible refine ite_keep ?_ ?_
    | with_reducible refine keep_modConn hP _ _ _ ?_
    | with_reducible refine keep_raiseJkg hP _ _ _ _ ?_
    | split
    | intro _

theorem keep_closeDump {P : State → Prop} (hP : Stable P) (a0 : Bool) (s : State) (hs : P s) :
    P (closeDump a0 s) := by
  unfold closeDump
  dsimp -failIfUnchanged only
  repeat' first
    | with_reducible exact hs
    | with_reducible refine keep_modDbg hP _ _ ?_
    | with_reducible refine keep_conclude hP _ _ _ ?_
    | with_reducible refine snd_one (keep_draw hP _ ?_)
    | split

theorem keep_startDump {P : State → Prop} (hP : Stable P) (a0 : Nat) (a1 : Nat) (a2 : Nat) (a3 : Bool) (a4 : Bool) (a5 : List Nat) (a6 : Option Nat) (s : State) (hs : P s) :
    P (startDump a0 a1 a2 a3 a4 a5 a6 s) := by
  unfold startDump
  dsimp -failIfUnchanged only
  repeat' first
    | with_reducible exact hs
    | with_reducible refine keep_modDbg hP _ _ ?_
    | with_reducible refine keep_closeDump hP _ _ ?_
    | with_reducible refine keep_modNode hP _ _ ?_

theorem keep_autoDump {P : State → Prop} (hP : Stable P) (a0 : Nat) (a1 : Nat) (a2 : Nat) (a3 : List Nat) (s : State) (hs : P s) :
    P (autoDump a0 a1 a2 a3 s) := by
  unfold autoDump
  repeat' first
    | with_reducible exact hs
    | with_reducible refine ite_keep ?_ ?_
    | with_reducible refine keep_startDump hP _ _ _ _ _ _ _ _ ?_
    | intro _

theorem keep_awaitFailed {P : State → Prop} (hP : Stable P) (a0 : Nat) (a1 : Await) (s : State) (hs : P s) :
    P (awaitFailed a0 a1 s) := by
  unfold awaitFailed
  repeat' first
    | with_reducible exact hs
    | with_reducible refine ite_keep ?_ ?_
    | with_reducible refine keep_answered hP _ _ _ _ _ _ ?_
    | split
    | intro _

theorem keep_setObj {P : State → Prop} (hP : Stable P) (a0 : Nat) (a1 : List Byte) (a2 : MetaObj) (s : State) (hs : P s) :
    P (setObj a0 a1 a2 s) := by
  unfold setObj
  repeat' first
    | with_reducible exact hs
    | with_reducible refine keep_modSeq hP _ _ _ _ ?_
    | with_reducible refine keep_modCell hP _ _ _ ?_
    | split

theorem keep_putMeta {P : State → Prop} (hP : Stable P) (a0 : Nat) (a1 : Nat) (a2 : Granule) (a3 : List Nat) (s : State) (hs : P s) :
    P (putMeta a0 a1 a2 a3 s) := by
  unfold putMeta
  dsimp -failIfUnchanged only
  repeat' first
    | with_reducible exact hs
    | with_reducible refine keep_setMeta hP _ _ _ _ ?_
    | with_reducible refine keep_setObj hP _ _ _ _ ?_
    | with_reducible refine keep_modCell hP _ _ _ ?_
    | split

theorem keep_runElement {P : State → Prop} (hP : Wide P) (a0 : Nat) (a1 : Nat) (a2 : Elem) (s : State) (hs : P s) :
    Fst P (runElement a0 a1 a2 s) := by
  unfold runElement
  dsimp -failIfUnchanged only
  repeat' first
    | with_reducible exact hs
    | with_reducible assumption
    | with_reducible refine ite_keep ?_ ?_
    | dsimp only [fst_mk_eq, snd_mk_eq]
    | with_reducible refine keep_setGran hP.1 _ _ _ ?_
    | with_reducible refine keep_putMeta hP.1 _ _ _ _ _ ?_
    | with_reducible refine keep_putRaw hP _ _ _ ?_
    | with_reducible refine foldl_keep ?_ ?_
    | split
    | intro _

theorem keep_bankStep {P : State → Prop} (hP : Wide P) (a0 : Nat) (a1 : Nat) (s : State) (hs : P s) :
    P (bankStep a0 a1 s) := by
  unfold bankStep
  dsimp -failIfUnchanged only
  repeat' first
    | with_reducible exact hs
    | with_reducible refine ite_keep ?_ ?_
    | with_reducible refine fst_one (keep_runElement hP _ _ _ _ ?_)
    | with_reducible refine keep_endOp hP.1 _ _ _ ?_
    | with_reducible refine keep_modGset hP.1 _ _ _ _ ?_
    | with_reducible refine keep_modOp hP.1 _ _ _ _ ?_
    | with_reducible refine keep_modCell hP.1 _ _ _ ?_
    | split
    | intro _

theorem keep_bankAccess {P : State → Prop} (hP : Wide P) (a0 : Nat) (a1 : Nat) (s : State) (hs : P s) :
    P (bankAccess a0 a1 s) := by
  unfold bankAccess
  repeat' first
    | with_reducible exact hs
    | with_reducible refine ite_keep ?_ ?_
    | with_reducible refine keep_bankStep hP _ _ _ ?_
    | intro _

theorem keep_finishSearch {P : State → Prop} (hP : Stable P) (a0 : Nat) (s : State) (hs : P s) :
    P (finishSearch a0 s) := by
  unfold finishSearch
  dsimp -failIfUnchanged only
  repeat' first
    | with_reducible exact hs
    | with_reducible assumption
    | with_reducible refine ite_keep ?_ ?_
    | with_reducible refine keep_modPart hP _ _ _ ?_
    | with_reducible refine keep_conclude hP _ _ _ ?_
    | with_reducible refine foldl_keep ?_ ?_
    | split
    | intro _

theorem keep_keyResult {P : State → Prop} (hP : Stable P) (a0 : Nat) (a1 : Nat) (a2 : List KeyReport) (a3 : Bool) (a4 : Bool) (s : State) (hs : P s) :
    P (keyResult a0 a1 a2 a3 a4 s) := by
  unfold keyResult
  dsimp -failIfUnchanged only
  repeat' first
    | with_reducible exact hs
    | with_reducible refine keep_modCtx hP _ _ _ ?_
    | with_reducible refine keep_finishSearch hP _ _ ?_

theorem keep_markKeys {P : State → Prop} (hP : Stable P) (a0 : Nat) (a1 : List BKey) (s : State) (hs : P s) :
    P (markKeys a0 a1 s) := by
  unfold markKeys
  repeat' first
    | with_reducible exact hs
    | with_reducible assumption
    | with_reducible refine keep_modCtx hP _ _ _ ?_
    | with_reducible refine foldl_keep ?_ ?_
    | intro _

theorem keep_batchDone {P : State → Prop} (hP : Stable P) (a0 : Nat) (a1 : Nat) (s : State) (hs : P s) :
    P (batchDone a0 a1 s) := by
  unfold batchDone
  dsimp -failIfUnchanged only
  repeat' first
    | with_reducible exact hs
    | with_reducible assumption
    | with_reducible refine ite_keep ?_ ?_
    | with_reducible refine keep_modPart hP _ _ _ ?_
    | with_reducible refine keep_keyResult hP _ _ _ _ _ _ ?_
    | with_reducible refine keep_markKeys hP _ _ _ ?_
    | with_reducible refine keep_modCell hP _ _ _ ?_
    | with_reducible refine foldl_keep ?_ ?_
    | split
    | intro _

theorem keep_becomeMirror {P : State → Prop} (hP : Stable P) (a0 : Nat) (a1 : PlaceRec) (s : State) (hs : P s) :
    P (becomeMirror a0 a1 s) := by
  unfold becomeMirror
  repeat' first
    | with_reducible exact hs
    | with_reducible refine ite_keep ?_ ?_
    | with_reducible refine keep_addSpan hP _ _ _ ?_
    | with_reducible refine keep_modSpan hP _ _ _ _ ?_
    | split
    | intro _

theorem keep_joinSet {P : State → Prop} (hP : Stable P) (a0 : Nat) (a1 : Req) (a2 : Nat) (s : State) (hs : P s) :
    P (joinSet a0 a1 a2 s) := by
  unfold joinSet
  repeat' first
    | with_reducible exact hs
    | with_reducible refine keep_modGset hP _ _ _ _ ?_

theorem keep_memberShort {P : State → Prop} (hP : Stable P) (a0 : Nat) (a1 : Req) (a2 : Seq) (s : State) (hs : P s) :
    P (memberShort a0 a1 a2 s) := by
  unfold memberShort
  dsimp -failIfUnchanged only
  repeat' first
    | with_reducible exact hs
    | with_reducible refine ite_keep ?_ ?_
    | with_reducible refine keep_modCtx hP _ _ _ ?_
    | intro _

theorem keep_launch {P : State → Prop} (hP : Stable P) (a0 : Nat) (a1 : Cmd) (a2 : Req) (a3 : Seq) (s : State) (hs : P s) :
    P (launch a0 a1 a2 a3 s) := by
  unfold launch
  dsimp -failIfUnchanged only
  repeat' first
    | with_reducible exact hs
    | with_reducible refine keep_startRequest hP _ _ _ _ _ _ _ _ _ _ _ ?_
    | with_reducible refine keep_walkReads hP _ _ _ _ ?_

theorem keep_beginBwd {P : State → Prop} (hP : Stable P) (a0 : Nat) (a1 : Nat) (a2 : Cmd) (a3 : Req) (a4 : Seq) (s : State) (hs : P s) :
    P (beginBwd a0 a1 a2 a3 a4 s) := by
  unfold beginBwd
  dsimp -failIfUnchanged only
  repeat' first
    | with_reducible exact hs
    | with_reducible refine ite_keep ?_ ?_
    | dsimp only [fst_mk_eq, snd_mk_eq]
    | with_reducible refine keep_modCtx hP _ _ _ ?_
    | with_reducible refine keep_joinSet hP _ _ _ _ ?_
    | with_reducible refine keep_memberShort hP _ _ _ _ ?_
    | with_reducible refine keep_launch hP _ _ _ _ _ ?_
    | split
    | intro _

theorem keep_begin_ {P : State → Prop} (hP : Stable P) (a0 : Handler) (a1 : Nat) (s : State) (h0 : ∀ i c s, P s → Fst P (a0 i c s)) (hs : P s) :
    P (begin_ a0 a1 s) := by
  unfold begin_
  repeat' first
    | with_reducible exact hs
    | with_reducible refine fst_get (h0 _ _ _ ?_) (by with_reducible assumption)
    | with_reducible refine keep_conclude hP _ _ _ ?_
    | split

theorem keep_writeChunk {P : State → Prop} (hP : Stable P) (a0 : Nat) (a1 : Seq) (a2 : Nat) (a3 : Nat) (a4 : Nat) (a5 : Nat) (a6 : List DGroup) (s : State) (hs : P s) :
    All (Snd (Snd P)) (writeChunk a0 a1 a2 a3 a4 a5 a6 s) := by
  unfold writeChunk
  dsimp -failIfUnchanged only
  repeat' first
    | with_reducible exact hs
    | with_reducible exact all_none
    | with_reducible refine all_some ?_
    | with_reducible refine ite_keep ?_ ?_
    | dsimp only [fst_mk_eq, snd_mk_eq]
    | with_reducible refine snd_one (keep_newUid hP _ _ _ ?_)
    | with_reducible refine snd_one (keep_draw hP _ ?_)
    | with_reducible refine keep_retire hP _ _ _ _ _ ?_
    | with_reducible refine keep_modCell hP _ _ _ ?_
    | split
    | intro _

theorem keep_buildGroups {P : State → Prop} (hP : Stable P) (a0 : Nat) (a1 : Seq) (a2 : List Nat) (a3 : List Nat) (s : State) (hs : P s) :
    Snd P (buildGroups a0 a1 a2 a3 s) := by
  unfold buildGroups
  dsimp -failIfUnchanged only
  repeat' first
    | with_reducible exact hs
    | with_reducible assumption
    | dsimp only [fst_mk_eq, snd_mk_eq]
    | with_reducible exact snd_one (by with_reducible assumption)
    | with_reducible refine snd_one (snd_one (all_get (keep_writeChunk hP _ _ _ _ _ _ _ _ ?_) (by with_reducible assumption)))
    | with_reducible refine foldl_keep ?_ ?_
    | split
    | intro _

theorem keep_bumpCores {P : State → Prop} (hP : Stable P) (a0 : Nat) (s : State) (hs : P s) :
    P (bumpCores a0 s) := by
  unfold bumpCores
  dsimp -failIfUnchanged only
  repeat' first
    | with_reducible exact hs
    | with_reducible refine keep_modCell hP _ _ _ ?_

theorem keep_bumpSerial {P : State → Prop} (hP : Stable P) (a0 : Nat) (s : State) (hs : P s) :
    P (bumpSerial a0 s) := by
  unfold bumpSerial
  repeat' first
    | with_reducible exact hs
    | with_reducible refine keep_modPart hP _ _ _ ?_

theorem keep_readyConn {P : State → Prop} (hP : Stable P) (a0 : Nat) (s : State) (hs : P s) :
    P (readyConn a0 s) := by
  unfold readyConn
  dsimp -failIfUnchanged only
  repeat' first
    | with_reducible exact hs
    | with_reducible refine keep_modConn hP _ _ _ ?_

theorem keep_capEnd {P : State → Prop} (hP : Stable P) (a0 : Nat) (a1 : Option Reply) (s : State) (hs : P s) :
    P (capEnd a0 a1 s) := by
  unfold capEnd
  dsimp -failIfUnchanged only
  repeat' first
    | with_reducible exact hs
    | with_reducible refine ite_keep ?_ ?_
    | with_reducible refine keep_readyConn hP _ _ ?_
    | with_reducible refine keep_modConn hP _ _ _ ?_
    | with_reducible refine keep_conclude hP _ _ _ ?_
    | split
    | intro _
    | fail_if_no_progress (with_reducible refine mk_keep hP ?_)

theorem keep_capSend {P : State → Prop} (hP : Stable P) (a0 : Nat) (a1 : Nat) (a2 : List Byte) (s : State) (hs : P s) :
    P (capSend a0 a1 a2 s) := by
  unfold capSend
  repeat' first
    | with_reducible exact hs
    | with_reducible refine keep_emit hP _ _ ?_
    | with_reducible refine keep_useTx hP _ _ ?_
    | split

end Sys2Proof.Laws
end

