-- ==== Sys2Proof/Laws/Keep3.lean ====
section
/-! SUPPORT. What the functions of the machine keep, part 3 of 6, callees first. A function that leaves the queue and the addressed
memory alone keeps every property that depends on those two only; one that writes the addressed memory keeps its form and the queue. -/

namespace Sys2Proof.Laws

open Sys2Proof.Machine

theorem keep_ccTick {P : State → Prop} (hP : Stable P) (a0 : Nat) (s : State) (hs : P s) :
    P (ccTick a0 s) := by
  unfold ccTick
  dsimp -failIfUnchanged only
  repeat' first
    | with_reducible exact hs
    | with_reducible refine keep_modConn hP _ _ _ ?_

theorem keep_leaveCellOff {P : State → Prop} (hP : Stable P) (a0 : Nat) (a1 : Nat) (a2 : Nat) (a3 : Option Nat) (s : State) (hs : P s) :
    P (leaveCellOff a0 a1 a2 a3 s) := by
  unfold leaveCellOff
  repeat' first
    | with_reducible exact hs
    | with_reducible refine keep_modCellPwr hP _ _ _ ?_

theorem keep_enterCellOff {P : State → Prop} (hP : Stable P) (a0 : Nat) (a1 : Nat) (a2 : Option Nat) (s : State) (hs : P s) :
    P (enterCellOff a0 a1 a2 s) := by
  unfold enterCellOff
  repeat' first
    | with_reducible exact hs
    | with_reducible refine keep_modCellPwr hP _ _ _ ?_

theorem keep_loseOps {P : State → Prop} (hP : Stable P) (a0 : Nat) (s : State) (hs : P s) :
    P (loseOps a0 s) := by
  unfold loseOps
  dsimp -failIfUnchanged only
  repeat' first
    | with_reducible exact hs
    | with_reducible assumption
    | with_reducible refine keep_endOp hP _ _ _ ?_
    | with_reducible refine keep_modOp hP _ _ _ _ ?_
    | with_reducible refine keep_modCell hP _ _ _ ?_
    | with_reducible refine foldl_keep ?_ ?_
    | intro _

theorem keep_setCeil {P : State → Prop} (hP : Stable P) (a0 : Nat) (a1 : Nat) (a2 : Nat) (s : State) (hs : P s) :
    P (setCeil a0 a1 a2 s) := by
  unfold setCeil
  repeat' first
    | with_reducible exact hs
    | with_reducible refine keep_applyClock hP _ _ ?_
    | with_reducible refine keep_modCellPwr hP _ _ _ ?_

theorem keep_cellPower {P : State → Prop} (hP : Stable P) (a0 : Nat) (a1 : Nat) (a2 : Nat) (a3 : Nat) (s : State) (hs : P s) :
    Fst P (cellPower a0 a1 a2 a3 s) := by
  unfold cellPower
  dsimp -failIfUnchanged only
  repeat' first
    | with_reducible exact hs
    | with_reducible refine ite_keep ?_ ?_
    | dsimp only [fst_mk_eq, snd_mk_eq]
    | with_reducible refine keep_leaveCellOff hP _ _ _ _ _ ?_
    | with_reducible refine keep_enterCellOff hP _ _ _ _ ?_
    | with_reducible refine keep_loseOps hP _ _ ?_
    | with_reducible refine keep_setCeil hP _ _ _ _ ?_
    | with_reducible refine keep_modCellPwr hP _ _ _ ?_
    | split
    | intro _

theorem keep_checkStored {P : State → Prop} (hP : Stable P) (s : State) (hs : P s) :
    P (checkStored s) := by
  unfold checkStored
  dsimp -failIfUnchanged only
  repeat' first
    | with_reducible exact hs
    | with_reducible refine ite_keep ?_ ?_
    | with_reducible refine snd_one (keep_draw hP _ ?_)
    | with_reducible refine keep_modNode hP _ _ ?_
    | intro _

theorem keep_modPwr {P : State → Prop} (hP : Stable P) (a0 : Pwr → Pwr) (s : State) (hs : P s) :
    P (modPwr a0 s) := by
  unfold modPwr
  repeat' first
    | with_reducible exact hs
    | fail_if_no_progress (with_reducible refine mk_keep hP ?_)

theorem keep_clearCause {P : State → Prop} (hP : Stable P) (a0 : Nat) (s : State) (hs : P s) :
    P (clearCause a0 s) := by
  unfold clearCause
  dsimp -failIfUnchanged only
  repeat' first
    | with_reducible exact hs
    | with_reducible assumption
    | with_reducible refine ite_keep ?_ ?_
    | with_reducible refine keep_applyClocks hP _ ?_
    | with_reducible refine keep_modPwr hP _ _ ?_
    | with_reducible refine keep_announceThrottle hP _ _ ?_
    | with_reducible refine keep_modCellPwr hP _ _ _ ?_
    | with_reducible refine foldl_keep ?_ ?_
    | split
    | intro _

theorem keep_clearCond {P : State → Prop} (hP : Stable P) (a0 : Nat) (a1 : Bool) (s : State) (hs : P s) :
    P (clearCond a0 a1 s) := by
  unfold clearCond
  repeat' first
    | with_reducible exact hs
    | with_reducible refine ite_keep ?_ ?_
    | with_reducible refine keep_modPwr hP _ _ ?_
    | split
    | intro _

theorem keep_thaw {P : State → Prop} (hP : Stable P) (s : State) (hs : P s) :
    P (thaw s) := by
  unfold thaw
  repeat' first
    | with_reducible exact hs
    | with_reducible refine keep_modDbg hP _ _ ?_

theorem keep_releaseFrost {P : State → Prop} (hP : Stable P) (s : State) (hs : P s) :
    P (releaseFrost s) := by
  unfold releaseFrost
  repeat' first
    | with_reducible exact hs
    | with_reducible refine ite_keep ?_ ?_
    | with_reducible refine keep_modDbg hP _ _ ?_
    | with_reducible refine keep_drivePin hP _ _ _ ?_
    | intro _

theorem keep_endFrost {P : State → Prop} (hP : Stable P) (s : State) (hs : P s) :
    P (endFrost s) := by
  unfold endFrost
  repeat' first
    | with_reducible exact hs
    | with_reducible refine keep_thaw hP _ ?_
    | with_reducible refine keep_releaseFrost hP _ ?_

theorem keep_postRecovery {P : State → Prop} (hP : Stable P) (a0 : Nat) (a1 : Nat) (a2 : Nat) (a3 : Nat) (a4 : Nat) (a5 : Nat) (s : State) (hs : P s) :
    P (postRecovery a0 a1 a2 a3 a4 a5 s) := by
  unfold postRecovery
  dsimp -failIfUnchanged only
  repeat' first
    | with_reducible exact hs
    | with_reducible refine ite_keep ?_ ?_
    | with_reducible refine keep_modDbg hP _ _ ?_
    | with_reducible refine keep_raiseMsi hP _ _ _ ?_
    | with_reducible refine keep_postEvent hP _ _ _ _ _ ?_
    | intro _

theorem keep_level5 {P : State → Prop} (hP : Stable P) (a0 : Nat) (a1 : Option Nat) (s : State) (hs : P s) :
    P (level5 a0 a1 s) := by
  unfold level5
  dsimp -failIfUnchanged only
  repeat' first
    | with_reducible exact hs
    | with_reducible refine keep_autoDump hP _ _ _ _ _ ?_
    | with_reducible refine keep_conclude hP _ _ _ ?_
    | with_reducible refine keep_modNode hP _ _ ?_
    | with_reducible refine keep_postRecovery hP _ _ _ _ _ _ _ ?_
    | split

theorem keep_halt {P : State → Prop} (hP : Stable P) (a0 : Nat) (a1 : Nat) (a2 : Nat) (a3 : Nat) (a4 : Nat) (s : State) (hs : P s) :
    P (halt a0 a1 a2 a3 a4 s) := by
  unfold halt
  repeat' first
    | with_reducible exact hs
    | with_reducible refine keep_modDbg hP _ _ ?_
    | with_reducible refine keep_assertFault hP _ ?_
    | with_reducible refine keep_postRecovery hP _ _ _ _ _ _ _ ?_

theorem keep_climb5 {P : State → Prop} (hP : Stable P) (s : State) (hs : P s) :
    P (climb5 s) := by
  unfold climb5
  repeat' first
    | with_reducible exact hs
    | with_reducible refine ite_keep ?_ ?_
    | with_reducible refine keep_level5 hP _ _ _ ?_
    | with_reducible refine keep_postRecovery hP _ _ _ _ _ _ _ ?_
    | with_reducible refine keep_halt hP _ _ _ _ _ _ ?_
    | intro _

theorem keep_dropWork {P : State → Prop} (hP : Stable P) (a0 : Nat) (a1 : Nat) (s : State) (hs : P s) :
    P (dropWork a0 a1 s) := by
  unfold dropWork
  repeat' first
    | with_reducible exact hs
    | with_reducible refine keep_abandonEdit hP _ _ _ ?_
    | with_reducible refine keep_modPart hP _ _ _ ?_

theorem keep_modSec {P : State → Prop} (hP : Stable P) (a0 : Sec → Sec) (s : State) (hs : P s) :
    P (modSec a0 s) := by
  unfold modSec
  repeat' first
    | with_reducible exact hs
    | fail_if_no_progress (with_reducible refine mk_keep hP ?_)

theorem keep_retrainAll {P : State → Prop} (hP : Stable P) (s : State) (hs : P s) :
    P (retrainAll s) := by
  unfold retrainAll
  dsimp -failIfUnchanged only
  repeat' first
    | with_reducible exact hs
    | with_reducible assumption
    | with_reducible refine keep_modPort hP _ _ _ ?_
    | with_reducible refine keep_startPort hP _ _ ?_
    | with_reducible refine foldl_keep ?_ ?_
    | split
    | intro _

theorem keep_fenceAll {P : State → Prop} (hP : Stable P) (a0 : Nat) (s : State) (hs : P s) :
    P (fenceAll a0 s) := by
  unfold fenceAll
  dsimp -failIfUnchanged only
  repeat' first
    | with_reducible exact hs
    | with_reducible refine keep_modPart hP _ _ _ ?_

theorem keep_releaseLends {P : State → Prop} (hP : Stable P) (a0 : Nat) (s : State) (hs : P s) :
    P (releaseLends a0 s) := by
  unfold releaseLends
  repeat' first
    | with_reducible exact hs
    | with_reducible assumption
    | with_reducible refine keep_releaseLent hP _ _ _ ?_
    | with_reducible refine foldl_keep ?_ ?_
    | intro _

theorem keep_revokeCheck {P : State → Prop} (hP : Stable P) (a0 : Nat) (a1 : Nat) (s : State) (hs : P s) :
    P (revokeCheck a0 a1 s) := by
  unfold revokeCheck
  repeat' first
    | with_reducible exact hs
    | with_reducible refine ite_keep ?_ ?_
    | with_reducible refine keep_modPart hP _ _ _ ?_
    | with_reducible refine keep_conclude hP _ _ _ ?_
    | split
    | intro _

theorem keep_leaveRegion {P : State → Prop} (hP : Stable P) (a0 : Nat) (a1 : Nat) (s : State) (hs : P s) :
    P (leaveRegion a0 a1 s) := by
  unfold leaveRegion
  repeat' first
    | with_reducible exact hs
    | with_reducible refine keep_modRegion hP _ _ _ _ ?_
    | with_reducible refine keep_revokeCheck hP _ _ _ ?_

theorem keep_returnBuf {P : State → Prop} (hP : Stable P) (a0 : Nat) (a1 : Nat) (a2 : Buf) (s : State) (hs : P s) :
    P (returnBuf a0 a1 a2 s) := by
  unfold returnBuf
  repeat' first
    | with_reducible exact hs
    | with_reducible refine ite_keep ?_ ?_
    | with_reducible refine keep_leaveRegion hP _ _ _ ?_
    | with_reducible refine keep_modPool hP _ _ _ _ ?_
    | split
    | intro _

theorem keep_membersFailed {P : State → Prop} (hP : Stable P) (a0 : Nat) (s : State) (hs : P s) :
    P (membersFailed a0 s) := by
  unfold membersFailed
  dsimp -failIfUnchanged only
  repeat' first
    | with_reducible exact hs
    | with_reducible assumption
    | with_reducible refine keep_reissue hP _ _ _ ?_
    | with_reducible refine keep_modPart hP _ _ _ ?_
    | with_reducible refine keep_awaitFailed hP _ _ _ ?_
    | with_reducible refine keep_postMember hP _ _ _ _ ?_
    | with_reducible refine foldl_keep ?_ ?_
    | split
    | intro _

theorem keep_endCarried {P : State → Prop} (hP : Stable P) (a0 : Nat) (s : State) (hs : P s) :
    P (endCarried a0 s) := by
  unfold endCarried
  dsimp -failIfUnchanged only
  repeat' first
    | with_reducible exact hs
    | with_reducible assumption
    | with_reducible refine ite_keep ?_ ?_
    | with_reducible refine keep_returnBuf hP _ _ _ _ ?_
    | with_reducible refine keep_modConn hP _ _ _ ?_
    | with_reducible refine keep_membersFailed hP _ _ ?_
    | with_reducible refine keep_leaveRegion hP _ _ _ ?_
    | with_reducible refine keep_msgFailed hP _ _ _ ?_
    | with_reducible refine foldl_keep ?_ ?_
    | split
    | intro _

theorem keep_destroyConn {P : State → Prop} (hP : Stable P) (a0 : Nat) (s : State) (hs : P s) :
    P (destroyConn a0 s) := by
  unfold destroyConn
  dsimp -failIfUnchanged only
  repeat' first
    | with_reducible exact hs
    | with_reducible refine keep_endCarried hP _ _ ?_
    | with_reducible refine keep_modConn hP _ _ _ ?_
    | with_reducible refine keep_conclude hP _ _ _ ?_
    | split
    | fail_if_no_progress (with_reducible refine mk_keep hP ?_)

theorem keep_destroyConns {P : State → Prop} (hP : Stable P) (a0 : Nat) (s : State) (hs : P s) :
    P (destroyConns a0 s) := by
  unfold destroyConns
  repeat' first
    | with_reducible exact hs
    | with_reducible assumption
    | with_reducible refine keep_destroyConn hP _ _ ?_
    | with_reducible refine foldl_keep ?_ ?_
    | intro _

theorem keep_releaseAndDrop {P : State → Prop} (hP : Stable P) (a0 : Nat) (s : State) (hs : P s) :
    P (releaseAndDrop a0 s) := by
  unfold releaseAndDrop
  repeat' first
    | with_reducible exact hs
    | with_reducible refine keep_releaseLends hP _ _ ?_
    | with_reducible refine keep_destroyConns hP _ _ ?_

theorem keep_level4 {P : State → Prop} (hP : Stable P) (a0 : Nat) (a1 : Bool) (a2 : Bool) (a3 : Option Nat) (a4 : Option Nat) (s : State) (hs : P s) :
    P (level4 a0 a1 a2 a3 a4 s) := by
  unfold level4
  dsimp -failIfUnchanged only
  repeat' first
    | with_reducible exact hs
    | with_reducible assumption
    | with_reducible refine keep_modDbg hP _ _ ?_
    | with_reducible refine keep_dropWork hP _ _ _ ?_
    | with_reducible refine keep_modPwr hP _ _ ?_
    | with_reducible refine keep_modSec hP _ _ ?_
    | with_reducible refine keep_modPart hP _ _ _ ?_
    | with_reducible refine keep_autoDump hP _ _ _ _ _ ?_
    | with_reducible refine keep_conclude hP _ _ _ ?_
    | with_reducible refine keep_retrainAll hP _ ?_
    | with_reducible refine keep_fenceAll hP _ _ ?_
    | with_reducible refine keep_releaseAndDrop hP _ _ ?_
    | with_reducible refine keep_modNode hP _ _ ?_
    | with_reducible refine keep_dropHolds hP _ _ ?_
    | with_reducible refine keep_modCell hP _ _ _ ?_
    | with_reducible refine foldl_keep ?_ ?_
    | split
    | intro _
    | fail_if_no_progress (with_reducible refine mk_keep hP ?_)

theorem keep_nodeReset {P : State → Prop} (hP : Stable P) (a0 : Nat) (a1 : Bool) (a2 : Bool) (a3 : Option Nat) (a4 : Option Nat) (s : State) (hs : P s) :
    P (nodeReset a0 a1 a2 a3 a4 s) := by
  unfold nodeReset
  dsimp -failIfUnchanged only
  repeat' first
    | with_reducible exact hs
    | with_reducible refine ite_keep ?_ ?_
    | with_reducible refine keep_endFrost hP _ ?_
    | with_reducible refine keep_climb5 hP _ ?_
    | with_reducible refine keep_level4 hP _ _ _ _ _ _ ?_
    | intro _

theorem keep_climb4 {P : State → Prop} (hP : Stable P) (a0 : Nat) (a1 : Nat) (a2 : Nat) (a3 : Nat) (a4 : Option Nat) (s : State) (hs : P s) :
    P (climb4 a0 a1 a2 a3 a4 s) := by
  unfold climb4
  repeat' first
    | with_reducible exact hs
    | with_reducible refine ite_keep ?_ ?_
    | with_reducible refine keep_nodeReset hP _ _ _ _ _ _ ?_
    | with_reducible refine keep_postRecovery hP _ _ _ _ _ _ _ ?_
    | with_reducible refine keep_halt hP _ _ _ _ _ _ ?_
    | intro _

theorem keep_reportBatch {P : State → Prop} (hP : Stable P) (a0 : Nat) (a1 : Nat) (a2 : Nat) (a3 : Option (List KeyReport)) (s : State) (hs : P s) :
    P (reportBatch a0 a1 a2 a3 s) := by
  unfold reportBatch
  dsimp -failIfUnchanged only
  repeat' first
    | with_reducible exact hs
    | with_reducible refine ite_keep ?_ ?_
    | with_reducible refine keep_modPart hP _ _ _ ?_
    | with_reducible refine keep_batchDone hP _ _ _ ?_
    | with_reducible refine keep_markKeys hP _ _ _ ?_
    | split
    | intro _

theorem keep_fenceCell {P : State → Prop} (hP : Stable P) (a0 : Nat) (s : State) (hs : P s) :
    P (fenceCell a0 s) := by
  unfold fenceCell
  dsimp -failIfUnchanged only
  repeat' first
    | with_reducible exact hs
    | with_reducible assumption
    | with_reducible refine keep_loseOps hP _ _ ?_
    | with_reducible refine keep_reportBatch hP _ _ _ _ _ ?_
    | with_reducible refine keep_markCell hP _ _ _ ?_
    | with_reducible refine keep_modCell hP _ _ _ ?_
    | with_reducible refine foldl_keep ?_ ?_
    | intro _

theorem keep_postOps {P : State → Prop} (hP : Stable P) (a0 : Nat) (s : State) (hs : P s) :
    P (postOps a0 s) := by
  unfold postOps
  repeat' first
    | with_reducible exact hs
    | with_reducible assumption
    | with_reducible refine keep_postOp hP _ _ _ ?_
    | with_reducible refine foldl_keep ?_ ?_
    | intro _

theorem keep_endPartCmds {P : State → Prop} (hP : Stable P) (a0 : Nat) (a1 : Option Nat) (s : State) (hs : P s) :
    P (endPartCmds a0 a1 s) := by
  unfold endPartCmds
  dsimp -failIfUnchanged only
  repeat' first
    | with_reducible exact hs
    | with_reducible assumption
    | with_reducible refine keep_postOps hP _ _ ?_
    | with_reducible refine keep_abortCmd hP _ _ _ ?_
    | with_reducible refine foldl_keep ?_ ?_
    | split
    | intro _

theorem keep_destroyIdle {P : State → Prop} (hP : Stable P) (a0 : Nat) (s : State) (hs : P s) :
    P (destroyIdle a0 s) := by
  unfold destroyIdle
  repeat' first
    | with_reducible exact hs
    | with_reducible assumption
    | with_reducible refine keep_destroyConn hP _ _ ?_
    | with_reducible refine foldl_keep ?_ ?_
    | intro _

theorem keep_reportLosses {P : State → Prop} (hP : Stable P) (a0 : Nat) (s : State) (hs : P s) :
    P (reportLosses a0 s) := by
  unfold reportLosses
  dsimp -failIfUnchanged only
  repeat' first
    | with_reducible exact hs
    | with_reducible assumption
    | with_reducible refine keep_sendFabric hP _ _ _ _ _ ?_
    | with_reducible refine foldl_keep ?_ ?_
    | split
    | intro _

theorem keep_fencePart {P : State → Prop} (hP : Stable P) (a0 : Nat) (a1 : Option Nat) (s : State) (hs : P s) :
    P (fencePart a0 a1 s) := by
  unfold fencePart
  dsimp -failIfUnchanged only
  repeat' first
    | with_reducible exact hs
    | with_reducible assumption
    | with_reducible refine keep_releaseLends hP _ _ ?_
    | with_reducible refine keep_fenceCell hP _ _ ?_
    | with_reducible refine keep_endPartCmds hP _ _ _ ?_
    | with_reducible refine keep_modPart hP _ _ _ ?_
    | with_reducible refine keep_fenceAll hP _ _ ?_
    | with_reducible refine keep_destroyIdle hP _ _ ?_
    | with_reducible refine keep_reportLosses hP _ _ ?_
    | with_reducible refine foldl_keep ?_ ?_
    | intro _

theorem keep_level3 {P : State → Prop} (hP : Stable P) (a0 : Nat) (a1 : Nat) (a2 : Option Nat) (s : State) (hs : P s) :
    P (level3 a0 a1 a2 s) := by
  unfold level3
  dsimp -failIfUnchanged only
  repeat' first
    | with_reducible exact hs
    | with_reducible assumption
    | with_reducible refine ite_keep ?_ ?_
    | with_reducible refine keep_modDbg hP _ _ ?_
    | with_reducible refine keep_fencePart hP _ _ _ ?_
    | with_reducible refine keep_modPart hP _ _ _ ?_
    | with_reducible refine keep_autoDump hP _ _ _ _ _ ?_
    | with_reducible refine keep_conclude hP _ _ _ ?_
    | with_reducible refine keep_bumpCores hP _ _ ?_
    | with_reducible refine foldl_keep ?_ ?_
    | split
    | intro _

theorem keep_partReset {P : State → Prop} (hP : Stable P) (a0 : Nat) (a1 : Nat) (a2 : Option Nat) (s : State) (hs : P s) :
    P (partReset a0 a1 a2 s) := by
  unfold partReset
  dsimp -failIfUnchanged only
  repeat' first
    | with_reducible exact hs
    | with_reducible refine ite_keep ?_ ?_
    | with_reducible refine keep_climb4 hP _ _ _ _ _ _ ?_
    | with_reducible refine keep_level3 hP _ _ _ _ ?_
    | intro _

theorem keep_climb3 {P : State → Prop} (hP : Stable P) (a0 : Nat) (a1 : Nat) (a2 : Nat) (a3 : Nat) (a4 : Option Nat) (s : State) (hs : P s) :
    P (climb3 a0 a1 a2 a3 a4 s) := by
  unfold climb3
  repeat' first
    | with_reducible exact hs
    | with_reducible refine ite_keep ?_ ?_
    | with_reducible refine keep_partReset hP _ _ _ _ ?_
    | with_reducible refine keep_postRecovery hP _ _ _ _ _ _ _ ?_
    | with_reducible refine keep_halt hP _ _ _ _ _ _ ?_
    | intro _

theorem keep_closeBatch {P : State → Prop} (hP : Stable P) (a0 : Nat) (a1 : Nat) (s : State) (hs : P s) :
    P (closeBatch a0 a1 s) := by
  unfold closeBatch
  dsimp -failIfUnchanged only
  repeat' first
    | with_reducible exact hs
    | with_reducible assumption
    | with_reducible refine ite_keep ?_ ?_
    | with_reducible refine keep_modPart hP _ _ _ ?_
    | with_reducible refine keep_batchDone hP _ _ _ ?_
    | with_reducible refine keep_markKeys hP _ _ _ ?_
    | with_reducible refine keep_modCell hP _ _ _ ?_
    | with_reducible refine foldl_keep ?_ ?_
    | split
    | intro _

theorem keep_closeEntry {P : State → Prop} (hP : Stable P) (a0 : Nat) (a1 : Nat) (a2 : Nat) (s : State) (hs : P s) :
    P (closeEntry a0 a1 a2 s) := by
  unfold closeEntry
  repeat' first
    | with_reducible exact hs
    | with_reducible refine ite_keep ?_ ?_
    | with_reducible refine keep_returnCredits hP _ _ _ ?_
    | with_reducible refine keep_pushReport hP _ _ _ _ _ _ ?_
    | with_reducible refine keep_modCell hP _ _ _ ?_
    | split
    | intro _

theorem keep_logShadow {P : State → Prop} (hP : Stable P) (a0 : Nat) (a1 : Nat) (a2 : Nat) (s : State) (hs : P s) :
    P (logShadow a0 a1 a2 s) := by
  unfold logShadow
  repeat' first
    | with_reducible exact hs
    | with_reducible assumption
    | with_reducible refine keep_countPoison hP _ _ ?_
    | with_reducible refine keep_logPoison hP _ _ _ ?_
    | with_reducible refine foldl_keep ?_ ?_
    | intro _

theorem keep_scrubWords {P : State → Prop} (hP : Stable P) (a0 : Nat) (a1 : Nat) (a2 : List Nat) (s : State) (hs : P s) :
    P (scrubWords a0 a1 a2 s) := by
  unfold scrubWords
  dsimp -failIfUnchanged only
  repeat' first
    | with_reducible exact hs
    | with_reducible assumption
    | with_reducible refine keep_discoverPoison hP _ _ _ ?_
    | with_reducible refine keep_modCell hP _ _ _ ?_
    | with_reducible refine foldl_keep ?_ ?_
    | intro _

theorem keep_rewritePartners {P : State → Prop} (hP : Stable P) (a0 : Nat) (a1 : List Nat) (s : State) (hs : P s) :
    P (rewritePartners a0 a1 s) := by
  unfold rewritePartners
  dsimp -failIfUnchanged only
  repeat' first
    | with_reducible exact hs
    | with_reducible assumption
    | with_reducible refine keep_scrubWords hP _ _ _ _ ?_
    | with_reducible refine keep_modCell hP _ _ _ ?_
    | with_reducible refine foldl_keep ?_ ?_
    | split
    | intro _

theorem keep_loseEntry {P : State → Prop} (hP : Stable P) (a0 : Nat) (a1 : Nat) (a2 : Nat) (s : State) (hs : P s) :
    P (loseEntry a0 a1 a2 s) := by
  unfold loseEntry
  dsimp -failIfUnchanged only
  repeat' first
    | with_reducible exact hs
    | with_reducible refine ite_keep ?_ ?_
    | with_reducible refine keep_modPart hP _ _ _ ?_
    | with_reducible refine keep_postEvent hP _ _ _ _ _ ?_
    | with_reducible refine keep_raiseOf hP _ _ _ _ ?_
    | with_reducible refine keep_logShadow hP _ _ _ _ ?_
    | with_reducible refine keep_rewritePartners hP _ _ _ ?_
    | with_reducible refine keep_modCell hP _ _ _ ?_
    | intro _

theorem keep_repairEntry {P : State → Prop} (hP : Stable P) (a0 : Nat) (a1 : Nat) (a2 : Nat) (s : State) (hs : P s) :
    P (repairEntry a0 a1 a2 s) := by
  unfold repairEntry
  dsimp -failIfUnchanged only
  repeat' first
    | with_reducible exact hs
    | with_reducible refine ite_keep ?_ ?_
    | with_reducible refine keep_loseEntry hP _ _ _ _ ?_
    | with_reducible refine keep_modCell hP _ _ _ ?_
    | intro _

theorem keep_readFixed {P : State → Prop} (hP : Stable P) (a0 : Nat) (a1 : Nat) (a2 : Nat) (s : State) (hs : P s) :
    P (readFixed a0 a1 a2 s) := by
  unfold readFixed
  repeat' first
    | with_reducible exact hs
    | with_reducible assumption
    | with_reducible refine keep_meetWords hP _ _ _ _ _ ?_
    | with_reducible refine foldl_keep ?_ ?_
    | intro _

theorem keep_placeSweep {P : State → Prop} (hP : Stable P) (a0 : Nat) (a1 : BKey) (a2 : Bool) (s : State) (hs : P s) :
    Snd P (placeSweep a0 a1 a2 s) := by
  unfold placeSweep
  dsimp -failIfUnchanged only
  repeat' first
    | with_reducible exact hs
    | with_reducible assumption
    | dsimp only [fst_mk_eq, snd_mk_eq]
    | with_reducible exact snd_one (by with_reducible assumption)
    | with_reducible refine keep_repairEntry hP _ _ _ _ ?_
    | with_reducible refine keep_readFixed hP _ _ _ _ ?_
    | with_reducible refine keep_modCell hP _ _ _ ?_
    | with_reducible refine foldl_keep ?_ ?_
    | split
    | intro _

theorem keep_placeLookup {P : State → Prop} (hP : Stable P) (a0 : Nat) (a1 : Nat) (s : State) (hs : P s) :
    Snd P (placeLookup a0 a1 s) := by
  unfold placeLookup
  dsimp -failIfUnchanged only
  repeat' first
    | with_reducible exact hs
    | with_reducible refine ite_keep ?_ ?_
    | dsimp only [fst_mk_eq, snd_mk_eq]
    | with_reducible refine snd_one (keep_placeSweep hP _ _ _ _ ?_)
    | split
    | intro _

theorem keep_homeCheck {P : State → Prop} (hP : Stable P) (a0 : Nat) (a1 : Nat) (a2 : Nat) (s : State) (hs : P s) :
    Snd P (homeCheck a0 a1 a2 s) := by
  unfold homeCheck
  dsimp -failIfUnchanged only
  repeat' first
    | with_reducible exact hs
    | with_reducible refine ite_keep ?_ ?_
    | dsimp only [fst_mk_eq, snd_mk_eq]
    | with_reducible refine keep_postEvent hP _ _ _ _ _ ?_
    | with_reducible refine snd_one (keep_placeLookup hP _ _ _ ?_)
    | split
    | intro _

theorem keep_queueEdit {P : State → Prop} (hP : Stable P) (a0 : Nat) (a1 : Nat) (a2 : Nat) (s : State) (hs : P s) :
    P (queueEdit a0 a1 a2 s) := by
  unfold queueEdit
  repeat' first
    | with_reducible exact hs
    | with_reducible refine keep_modSeq hP _ _ _ _ ?_

theorem keep_cmdAppend {P : State → Prop} (hP : Stable P) (a0 : Nat) (a1 : Cmd) (s : State) (hs : P s) :
    Fst P (cmdAppend a0 a1 s) := by
  unfold cmdAppend
  dsimp -failIfUnchanged only
  repeat' first
    | with_reducible exact hs
    | with_reducible refine ite_keep ?_ ?_
    | dsimp only [fst_mk_eq, snd_mk_eq]
    | with_reducible refine snd_one (keep_homeCheck hP _ _ _ _ ?_)
    | with_reducible refine keep_modCtx hP _ _ _ ?_
    | with_reducible refine snd_one (keep_writeThroughSend hP _ _ _ _ _ _ _ _ _ ?_)
    | with_reducible refine snd_get (keep_appendRun hP _ _ _ _ _ _ ?_) (by with_reducible assumption)
    | with_reducible refine keep_queueEdit hP _ _ _ _ ?_
    | with_reducible refine keep_runParts hP _ _ _ _ _ _ _ ?_
    | with_reducible refine keep_meetCmd hP _ _ _ _ ?_
    | with_reducible refine keep_mirrorGone hP _ _ _ _ _ ?_
    | split
    | intro _

theorem keep_cmdWriteThrough {P : State → Prop} (hP : Stable P) (a0 : Nat) (a1 : Cmd) (s : State) (hs : P s) :
    Fst P (cmdWriteThrough a0 a1 s) := by
  unfold cmdWriteThrough
  dsimp -failIfUnchanged only
  repeat' first
    | with_reducible exact hs
    | with_reducible refine ite_keep ?_ ?_
    | dsimp only [fst_mk_eq, snd_mk_eq]
    | with_reducible refine snd_get (keep_appendRun hP _ _ _ _ _ _ ?_) (by with_reducible assumption)
    | with_reducible refine keep_queueEdit hP _ _ _ _ ?_
    | with_reducible refine keep_meetCmd hP _ _ _ _ ?_
    | with_reducible refine keep_modSpan hP _ _ _ _ ?_
    | split
    | intro _

theorem keep_cmdAppendAny {P : State → Prop} (hP : Stable P) (a0 : Nat) (a1 : Cmd) (s : State) (hs : P s) :
    Fst P (cmdAppendAny a0 a1 s) := by
  unfold cmdAppendAny
  repeat' first
    | with_reducible exact hs
    | with_reducible refine ite_keep ?_ ?_
    | with_reducible refine keep_cmdWriteThrough hP _ _ _ ?_
    | with_reducible refine keep_cmdAppend hP _ _ _ ?_
    | intro _

theorem keep_requestCheck {P : State → Prop} (hP : Stable P) (a0 : Cmd) (a1 : Nat) (a2 : Nat) (s : State) (hs : P s) :
    Snd P (requestCheck a0 a1 a2 s) := by
  unfold requestCheck
  dsimp -failIfUnchanged only
  repeat' first
    | with_reducible exact hs
    | with_reducible refine ite_keep ?_ ?_
    | dsimp only [fst_mk_eq, snd_mk_eq]
    | with_reducible refine snd_get (keep_homeCheck hP _ _ _ _ ?_) (by with_reducible assumption)
    | with_reducible refine keep_meetCmd hP _ _ _ _ ?_
    | split
    | intro _

set_option maxHeartbeats 2000000 in
theorem keep_cmdAttend {P : State → Prop} (hP : Stable P) (a0 : Nat) (a1 : Cmd) (s : State) (hs : P s) :
    Fst P (cmdAttend a0 a1 s) := by
  unfold cmdAttend
  dsimp -failIfUnchanged only
  repeat' first
    | with_reducible exact hs
    | with_reducible refine ite_keep ?_ ?_
    | with_reducible refine id_keep ?_
    | dsimp only [fst_mk_eq, snd_mk_eq]
    | with_reducible refine keep_memberShort hP _ _ _ _ ?_
    | with_reducible refine keep_launch hP _ _ _ _ _ ?_
    | with_reducible refine snd_get (keep_requestCheck hP _ _ _ _ ?_) (by with_reducible assumption)
    | split
    | intro _

theorem keep_cmdReconstruct {P : State → Prop} (hP : Stable P) (a0 : Nat) (a1 : Cmd) (s : State) (hs : P s) :
    Fst P (cmdReconstruct a0 a1 s) := by
  unfold cmdReconstruct
  dsimp -failIfUnchanged only
  repeat' first
    | with_reducible exact hs
    | with_reducible assumption
    | with_reducible refine ite_keep ?_ ?_
    | dsimp only [fst_mk_eq, snd_mk_eq]
    | with_reducible refine keep_modCtx hP _ _ _ ?_
    | with_reducible refine keep_reconstruct hP _ _ _ _ _ ?_
    | with_reducible refine keep_fetchFrom hP _ _ _ _ _ _ _ ?_
    | with_reducible refine keep_meetCmd hP _ _ _ _ ?_
    | with_reducible refine foldl_keep ?_ ?_
    | split
    | intro _

theorem keep_cmdNeighbour {P : State → Prop} (hP : Stable P) (a0 : Nat) (a1 : Cmd) (s : State) (hs : P s) :
    Fst P (cmdNeighbour a0 a1 s) := by
  unfold cmdNeighbour
  dsimp -failIfUnchanged only
  repeat' first
    | with_reducible exact hs
    | with_reducible refine ite_keep ?_ ?_
    | dsimp only [fst_mk_eq, snd_mk_eq]
    | with_reducible refine keep_startRequest hP _ _ _ _ _ _ _ _ _ _ _ ?_
    | with_reducible refine keep_modCtx hP _ _ _ ?_
    | with_reducible refine keep_meetCmd hP _ _ _ _ ?_
    | split
    | intro _

theorem keep_cmdAttendAny {P : State → Prop} (hP : Stable P) (a0 : Nat) (a1 : Cmd) (s : State) (hs : P s) :
    Fst P (cmdAttendAny a0 a1 s) := by
  unfold cmdAttendAny
  repeat' first
    | with_reducible exact hs
    | with_reducible refine ite_keep ?_ ?_
    | with_reducible refine keep_cmdAttend hP _ _ _ ?_
    | with_reducible refine keep_cmdReconstruct hP _ _ _ ?_
    | with_reducible refine keep_cmdNeighbour hP _ _ _ ?_
    | split
    | intro _

theorem keep_fillStripe {P : State → Prop} (hP : Stable P) (a0 : Nat) (a1 : Nat) (a2 : Nat) (a3 : Nat) (a4 : Nat) (a5 : Nat) (a6 : Nat) (s : State) (hs : P s) :
    P (fillStripe a0 a1 a2 a3 a4 a5 a6 s) := by
  unfold fillStripe
  dsimp -failIfUnchanged only
  repeat' first
    | with_reducible exact hs
    | with_reducible assumption
    | with_reducible refine keep_modNode hP _ _ ?_
    | with_reducible refine keep_modCell hP _ _ _ ?_
    | with_reducible refine foldl_keep ?_ ?_
    | intro _

theorem keep_placeSet {P : State → Prop} (hP : Stable P) (a0 : Nat) (a1 : Nat) (a2 : Nat) (a3 : Nat) (a4 : Nat) (a5 : List (Nat × Nat × Nat)) (a6 : List GPage) (s : State) (hs : P s) :
    All (Snd P) (placeSet a0 a1 a2 a3 a4 a5 a6 s) := by
  induction a5 generalizing a6 s with
  | nil =>
    unfold placeSet
    repeat' first
      | with_reducible exact hs
      | with_reducible refine all_some ?_
      | dsimp only [fst_mk_eq, snd_mk_eq]
  | cons x l ih =>
    unfold placeSet
    dsimp -failIfUnchanged only
    repeat' first
      | with_reducible refine ih _ _ ?_
      | with_reducible exact hs
      | with_reducible exact all_none
      | with_reducible refine snd_one (keep_draw hP _ ?_)
      | with_reducible refine keep_fillStripe hP _ _ _ _ _ _ _ _ ?_
      | split

set_option maxHeartbeats 2000000 in
theorem keep_cmdAttendBwd {P : State → Prop} (hP : Stable P) (a0 : Nat) (a1 : Cmd) (s : State) (hs : P s) :
    Fst P (cmdAttendBwd a0 a1 s) := by
  unfold cmdAttendBwd
  dsimp -failIfUnchanged only
  repeat' first
    | with_reducible exact hs
    | with_reducible refine ite_keep ?_ ?_
    | dsimp only [fst_mk_eq, snd_mk_eq]
    | with_reducible refine keep_beginBwd hP _ _ _ _ _ _ ?_
    | with_reducible refine keep_modPart hP _ _ _ ?_
    | with_reducible refine snd_get (keep_requestCheck hP _ _ _ _ ?_) (by with_reducible assumption)
    | with_reducible refine snd_get (all_get (keep_placeSet hP _ _ _ _ _ _ _ _ ?_) (by with_reducible assumption)) rfl
    | split
    | intro _

theorem keep_signed {P : State → Prop} (hP : Stable P) (a0 : List Byte) (s : State) (hs : P s) :
    Snd P (signed a0 s) := by
  unfold signed
  dsimp -failIfUnchanged only
  repeat' first
    | with_reducible exact hs
    | dsimp only [fst_mk_eq, snd_mk_eq]
    | with_reducible refine snd_one (keep_draw hP _ ?_)

theorem keep_cmdAttestGet {P : State → Prop} (hP : Stable P) (a0 : Nat) (a1 : Cmd) (s : State) (hs : P s) :
    Fst P (cmdAttestGet a0 a1 s) := by
  unfold cmdAttestGet
  dsimp -failIfUnchanged only
  repeat' first
    | with_reducible exact hs
    | with_reducible refine ite_keep ?_ ?_
    | dsimp only [fst_mk_eq, snd_mk_eq]
    | with_reducible refine snd_one (keep_signed hP _ _ ?_)
    | split
    | intro _

theorem keep_meetCell {P : State → Prop} (hP : Stable P) (a0 : Nat) (s : State) (hs : P s) :
    P (meetCell a0 s) := by
  unfold meetCell
  dsimp -failIfUnchanged only
  repeat' first
    | with_reducible exact hs
    | with_reducible refine ite_keep ?_ ?_
    | with_reducible refine keep_leaveCellOff hP _ _ _ _ _ ?_
    | with_reducible refine keep_loseOps hP _ _ ?_
    | split
    | intro _

theorem keep_cmdBankOp {P : State → Prop} (hP : Stable P) (a0 : Nat) (a1 : Cmd) (s : State) (hs : P s) :
    Fst P (cmdBankOp a0 a1 s) := by
  unfold cmdBankOp
  dsimp -failIfUnchanged only
  repeat' first
    | with_reducible exact hs
    | with_reducible assumption
    | with_reducible refine ite_keep ?_ ?_
    | dsimp only [fst_mk_eq, snd_mk_eq]
    | with_reducible refine keep_modPart hP _ _ _ ?_
    | with_reducible refine keep_complete hP _ _ _ ?_
    | with_reducible refine keep_modNode hP _ _ ?_
    | with_reducible refine keep_meetCell hP _ _ ?_
    | with_reducible refine keep_modCell hP _ _ _ ?_
    | with_reducible refine foldl_keep ?_ ?_
    | split
    | intro _

theorem keep_cmdBankOpstat {P : State → Prop} (hP : Stable P) (a0 : Nat) (a1 : Cmd) (s : State) (hs : P s) :
    Fst P (cmdBankOpstat a0 a1 s) := by
  unfold cmdBankOpstat
  dsimp -failIfUnchanged only
  repeat' first
    | with_reducible exact hs
    | with_reducible refine ite_keep ?_ ?_
    | dsimp only [fst_mk_eq, snd_mk_eq]
    | with_reducible refine keep_modPart hP _ _ _ ?_
    | split
    | intro _

theorem keep_cmdBudgetSet {P : State → Prop} (hP : Stable P) (a0 : Nat) (a1 : Cmd) (s : State) (hs : P s) :
    Fst P (cmdBudgetSet a0 a1 s) := by
  unfold cmdBudgetSet
  dsimp -failIfUnchanged only
  repeat' first
    | with_reducible exact hs
    | with_reducible refine ite_keep ?_ ?_
    | dsimp only [fst_mk_eq, snd_mk_eq]
    | with_reducible refine keep_applyClocks hP _ ?_
    | with_reducible refine keep_modPwr hP _ _ ?_
    | with_reducible refine keep_modPart hP _ _ _ ?_
    | split
    | intro _

theorem keep_cmdCancel {P : State → Prop} (hP : Stable P) (a0 : Nat) (a1 : Cmd) (s : State) (hs : P s) :
    Fst P (cmdCancel a0 a1 s) := by
  unfold cmdCancel
  dsimp -failIfUnchanged only
  repeat' first
    | with_reducible exact hs
    | with_reducible refine ite_keep ?_ ?_
    | dsimp only [fst_mk_eq, snd_mk_eq]
    | with_reducible refine keep_abortCmd hP _ _ _ ?_
    | split
    | intro _

theorem keep_commitItems {P : State → Prop} (hP : Stable P) (a0 : Nat) (a1 : List Staged) (a2 : Tab CalSet) (s : State) (hs : P s) :
    P (commitItems a0 a1 a2 s) := by
  unfold commitItems
  dsimp -failIfUnchanged only
  repeat' first
    | with_reducible exact hs
    | with_reducible assumption
    | with_reducible refine keep_afterCommit hP _ _ _ ?_
    | with_reducible refine keep_modPart hP _ _ _ ?_
    | with_reducible refine foldl_keep ?_ ?_
    | split
    | intro _

theorem keep_cmdConfigCommit {P : State → Prop} (hP : Stable P) (a0 : Nat) (a1 : Cmd) (s : State) (hs : P s) :
    Fst P (cmdConfigCommit a0 a1 s) := by
  unfold cmdConfigCommit
  dsimp -failIfUnchanged only
  repeat' first
    | with_reducible exact hs
    | with_reducible refine ite_keep ?_ ?_
    | dsimp only [fst_mk_eq, snd_mk_eq]
    | with_reducible refine keep_commitItems hP _ _ _ _ ?_
    | split
    | intro _

theorem keep_stageItem {P : State → Prop} (hP : Stable P) (a0 : Nat) (a1 : Nat) (a2 : Nat) (a3 : List Nat) (a4 : Nat) (s : State) (hs : P s) :
    P (stageItem a0 a1 a2 a3 a4 s) := by
  unfold stageItem
  repeat' first
    | with_reducible exact hs
    | with_reducible refine keep_modPart hP _ _ _ ?_
    | with_reducible refine keep_bumpSerial hP _ _ ?_

theorem keep_cmdConfigStage {P : State → Prop} (hP : Stable P) (a0 : Nat) (a1 : Cmd) (s : State) (hs : P s) :
    Fst P (cmdConfigStage a0 a1 s) := by
  unfold cmdConfigStage
  dsimp -failIfUnchanged only
  repeat' first
    | with_reducible exact hs
    | with_reducible refine ite_keep ?_ ?_
    | dsimp only [fst_mk_eq, snd_mk_eq]
    | with_reducible refine keep_modPart hP _ _ _ ?_
    | with_reducible refine keep_stageItem hP _ _ _ _ _ _ ?_
    | with_reducible refine keep_bumpSerial hP _ _ ?_
    | split
    | intro _

theorem keep_cmdConnCreate {P : State → Prop} (hP : Stable P) (a0 : Nat) (a1 : Cmd) (s : State) (hs : P s) :
    Fst P (cmdConnCreate a0 a1 s) := by
  unfold cmdConnCreate
  dsimp -failIfUnchanged only
  repeat' first
    | with_reducible exact hs
    | with_reducible refine ite_keep ?_ ?_
    | dsimp only [fst_mk_eq, snd_mk_eq]
    | with_reducible refine keep_modConn hP _ _ _ ?_
    | with_reducible refine snd_one (keep_draw hP _ ?_)
    | with_reducible refine keep_capSend hP _ _ _ _ ?_
    | split
    | intro _
    | fail_if_no_progress (with_reducible refine mk_keep hP ?_)

theorem keep_cmdConnDestroy {P : State → Prop} (hP : Stable P) (a0 : Nat) (a1 : Cmd) (s : State) (hs : P s) :
    Fst P (cmdConnDestroy a0 a1 s) := by
  unfold cmdConnDestroy
  repeat' first
    | with_reducible exact hs
    | with_reducible refine ite_keep ?_ ?_
    | dsimp only [fst_mk_eq, snd_mk_eq]
    | with_reducible refine keep_destroyConn hP _ _ ?_
    | split
    | intro _

theorem keep_failConn {P : State → Prop} (hP : Stable P) (a0 : Nat) (s : State) (hs : P s) :
    P (failConn a0 s) := by
  unfold failConn
  repeat' first
    | with_reducible exact hs
    | with_reducible refine ite_keep ?_ ?_
    | with_reducible refine keep_endCarried hP _ _ ?_
    | with_reducible refine keep_modConn hP _ _ _ ?_
    | intro _

theorem keep_initConn {P : State → Prop} (hP : Stable P) (a0 : Nat) (s : State) (hs : P s) :
    P (initConn a0 s) := by
  unfold initConn
  repeat' first
    | with_reducible exact hs
    | with_reducible refine keep_modConn hP _ _ _ ?_

theorem keep_cmdConnModify {P : State → Prop} (hP : Stable P) (a0 : Nat) (a1 : Cmd) (s : State) (hs : P s) :
    Fst P (cmdConnModify a0 a1 s) := by
  unfold cmdConnModify
  dsimp -failIfUnchanged only
  repeat' first
    | with_reducible exact hs
    | with_reducible refine ite_keep ?_ ?_
    | dsimp only [fst_mk_eq, snd_mk_eq]
    | with_reducible refine keep_readyConn hP _ _ ?_
    | with_reducible refine keep_modConn hP _ _ _ ?_
    | with_reducible refine keep_failConn hP _ _ ?_
    | with_reducible refine keep_initConn hP _ _ ?_
    | split
    | intro _

theorem keep_rebuildDigest {P : State → Prop} (hP : Stable P) (a0 : Nat) (a1 : Nat) (s : State) (hs : P s) :
    P (rebuildDigest a0 a1 s) := by
  unfold rebuildDigest
  dsimp -failIfUnchanged only
  repeat' first
    | with_reducible exact hs
    | with_reducible refine keep_modPage hP _ _ _ ?_

theorem keep_cmdDigestBuild {P : State → Prop} (hP : Stable P) (a0 : Nat) (a1 : Cmd) (s : State) (hs : P s) :
    Fst P (cmdDigestBuild a0 a1 s) := by
  unfold cmdDigestBuild
  dsimp -failIfUnchanged only
  repeat' first
    | with_reducible exact hs
    | with_reducible assumption
    | with_reducible refine ite_keep ?_ ?_
    | dsimp only [fst_mk_eq, snd_mk_eq]
    | with_reducible refine snd_one (keep_buildGroups hP _ _ _ _ _ ?_)
    | with_reducible refine keep_rebuildDigest hP _ _ _ ?_
    | with_reducible refine foldl_keep ?_ ?_
    | split
    | intro _

theorem keep_cmdDumpCollect {P : State → Prop} (hP : Stable P) (a0 : Nat) (a1 : Cmd) (s : State) (hs : P s) :
    Fst P (cmdDumpCollect a0 a1 s) := by
  unfold cmdDumpCollect
  dsimp -failIfUnchanged only
  repeat' first
    | with_reducible exact hs
    | with_reducible refine ite_keep ?_ ?_
    | dsimp only [fst_mk_eq, snd_mk_eq]
    | with_reducible refine keep_startDump hP _ _ _ _ _ _ _ _ ?_
    | split
    | intro _

theorem keep_cmdDumpRead {P : State → Prop} (hP : Stable P) (a0 : Nat) (a1 : Cmd) (s : State) (hs : P s) :
    Fst P (cmdDumpRead a0 a1 s) := by
  unfold cmdDumpRead
  dsimp -failIfUnchanged only
  repeat' first
    | with_reducible exact hs
    | with_reducible refine ite_keep ?_ ?_
    | dsimp only [fst_mk_eq, snd_mk_eq]
    | with_reducible refine keep_modDbg hP _ _ ?_
    | split
    | intro _

theorem keep_cmdEventSubscribe {P : State → Prop} (hP : Stable P) (a0 : Nat) (a1 : Cmd) (s : State) (hs : P s) :
    Fst P (cmdEventSubscribe a0 a1 s) := by
  unfold cmdEventSubscribe
  dsimp -failIfUnchanged only
  repeat' first
    | with_reducible exact hs
    | with_reducible refine ite_keep ?_ ?_
    | dsimp only [fst_mk_eq, snd_mk_eq]
    | with_reducible refine keep_modPart hP _ _ _ ?_
    | split
    | intro _

theorem keep_cmdFormatTableLoad {P : State → Prop} (hP : Stable P) (a0 : Nat) (a1 : Cmd) (s : State) (hs : P s) :
    Fst P (cmdFormatTableLoad a0 a1 s) := by
  unfold cmdFormatTableLoad
  dsimp -failIfUnchanged only
  repeat' first
    | with_reducible exact hs
    | with_reducible refine ite_keep ?_ ?_
    | dsimp only [fst_mk_eq, snd_mk_eq]
    | with_reducible refine keep_modTable hP _ _ _ _ ?_
    | with_reducible refine keep_modNode hP _ _ ?_
    | split
    | intro _

theorem keep_cmdFrostArm {P : State → Prop} (hP : Stable P) (a0 : Nat) (a1 : Cmd) (s : State) (hs : P s) :
    Fst P (cmdFrostArm a0 a1 s) := by
  unfold cmdFrostArm
  dsimp -failIfUnchanged only
  repeat' first
    | with_reducible exact hs
    | with_reducible refine ite_keep ?_ ?_
    | dsimp only [fst_mk_eq, snd_mk_eq]
    | with_reducible refine keep_modDbg hP _ _ ?_
    | split
    | intro _

theorem keep_cmdFwActivate {P : State → Prop} (hP : Stable P) (a0 : Nat) (a1 : Cmd) (s : State) (hs : P s) :
    Fst P (cmdFwActivate a0 a1 s) := by
  unfold cmdFwActivate
  repeat' first
    | with_reducible exact hs
    | with_reducible refine ite_keep ?_ ?_
    | dsimp only [fst_mk_eq, snd_mk_eq]
    | with_reducible refine keep_activate hP _ _ ?_
    | intro _

theorem keep_stageChunk {P : State → Prop} (hP : Stable P) (a0 : Nat) (a1 : Nat) (a2 : Bool) (a3 : List Byte) (s : State) (hs : P s) :
    Fst P (stageChunk a0 a1 a2 a3 s) := by
  unfold stageChunk
  dsimp -failIfUnchanged only
  repeat' first
    | with_reducible exact hs
    | with_reducible refine ite_keep ?_ ?_
    | dsimp only [fst_mk_eq, snd_mk_eq]
    | with_reducible refine keep_modNode hP _ _ ?_
    | split
    | intro _

theorem keep_cmdFwStage {P : State → Prop} (hP : Stable P) (a0 : Nat) (a1 : Cmd) (s : State) (hs : P s) :
    Fst P (cmdFwStage a0 a1 s) := by
  unfold cmdFwStage
  dsimp -failIfUnchanged only
  repeat' first
    | with_reducible exact hs
    | with_reducible refine ite_keep ?_ ?_
    | dsimp only [fst_mk_eq, snd_mk_eq]
    | with_reducible refine fst_one (keep_stageChunk hP _ _ _ _ _ ?_)
    | intro _

theorem keep_cmdHandoff {P : State → Prop} (hP : Stable P) (a0 : Nat) (a1 : Cmd) (s : State) (hs : P s) :
    Fst P (cmdHandoff a0 a1 s) := by
  unfold cmdHandoff
  dsimp -failIfUnchanged only
  repeat' first
    | with_reducible exact hs
    | with_reducible refine ite_keep ?_ ?_
    | dsimp only [fst_mk_eq, snd_mk_eq]
    | with_reducible refine keep_handoffsGo hP _ _ ?_
    | with_reducible refine keep_modSpan hP _ _ _ _ ?_
    | split
    | intro _

theorem keep_cmdHandoffAtHome {P : State → Prop} (hP : Stable P) (a0 : Nat) (a1 : Cmd) (s : State) (hs : P s) :
    Fst P (cmdHandoffAtHome a0 a1 s) := by
  unfold cmdHandoffAtHome
  dsimp -failIfUnchanged only
  repeat' first
    | with_reducible exact hs
    | with_reducible assumption
    | dsimp only [fst_mk_eq, snd_mk_eq]
    | with_reducible refine keep_handOver hP _ _ _ _ _ _ _ ?_
    | with_reducible refine keep_atHome hP _ _ _ _ ?_ ?_
    | split
    | intro _

theorem keep_cmdIdentify {P : State → Prop} (hP : Stable P) (a0 : Nat) (a1 : Cmd) (s : State) (hs : P s) :
    Fst P (cmdIdentify a0 a1 s) := by
  unfold cmdIdentify
  repeat' first
    | with_reducible exact hs
    | with_reducible refine ite_keep ?_ ?_
    | dsimp only [fst_mk_eq, snd_mk_eq]
    | split
    | intro _

theorem keep_failJob {P : State → Prop} (hP : Stable P) (a0 : Nat) (a1 : Nat) (s : State) (hs : P s) :
    P (failJob a0 a1 s) := by
  unfold failJob
  repeat' first
    | with_reducible exact hs
    | with_reducible assumption
    | with_reducible refine keep_failConn hP _ _ ?_
    | with_reducible refine foldl_keep ?_ ?_
    | intro _

theorem keep_keepSecret {P : State → Prop} (hP : Stable P) (a0 : Nat) (a1 : Nat) (a2 : List Byte) (a3 : List Byte) (s : State) (hs : P s) :
    Fst P (keepSecret a0 a1 a2 a3 s) := by
  unfold keepSecret
  dsimp -failIfUnchanged only
  repeat' first
    | with_reducible exact hs
    | with_reducible refine ite_keep ?_ ?_
    | dsimp only [fst_mk_eq, snd_mk_eq]
    | with_reducible refine keep_modPart hP _ _ _ ?_
    | with_reducible refine keep_failJob hP _ _ _ ?_
    | split
    | intro _

theorem keep_installKey {P : State → Prop} (hP : Stable P) (a0 : Nat) (a1 : List Byte) (s : State) (hs : P s) :
    Fst P (installKey a0 a1 s) := by
  unfold installKey
  dsimp -failIfUnchanged only
  repeat' first
    | with_reducible exact hs
    | dsimp only [fst_mk_eq, snd_mk_eq]
    | with_reducible refine keep_keepSecret hP _ _ _ _ _ ?_
    | split

theorem keep_cmdJobKeyInstall {P : State → Prop} (hP : Stable P) (a0 : Nat) (a1 : Cmd) (s : State) (hs : P s) :
    Fst P (cmdJobKeyInstall a0 a1 s) := by
  unfold cmdJobKeyInstall
  dsimp -failIfUnchanged only
  repeat' first
    | with_reducible exact hs
    | with_reducible refine ite_keep ?_ ?_
    | dsimp only [fst_mk_eq, snd_mk_eq]
    | with_reducible refine keep_installKey hP _ _ _ ?_
    | with_reducible refine keep_modPart hP _ _ _ ?_
    | with_reducible refine keep_failJob hP _ _ _ ?_
    | split
    | intro _

theorem keep_cmdKeyRotate {P : State → Prop} (hP : Stable P) (a0 : Nat) (a1 : Cmd) (s : State) (hs : P s) :
    Fst P (cmdKeyRotate a0 a1 s) := by
  unfold cmdKeyRotate
  dsimp -failIfUnchanged only
  repeat' first
    | with_reducible exact hs
    | with_reducible refine ite_keep ?_ ?_
    | dsimp only [fst_mk_eq, snd_mk_eq]
    | with_reducible refine keep_modPart hP _ _ _ ?_
    | split
    | intro _

theorem keep_cmdLeaseAcquire {P : State → Prop} (hP : Stable P) (a0 : Nat) (a1 : Cmd) (s : State) (hs : P s) :
    Fst P (cmdLeaseAcquire a0 a1 s) := by
  unfold cmdLeaseAcquire
  repeat' first
    | with_reducible exact hs
    | with_reducible assumption
    | dsimp only [fst_mk_eq, snd_mk_eq]
    | with_reducible refine keep_learnWhenHeld hP _ _ _ _ ?_
    | with_reducible refine keep_atHome hP _ _ _ _ ?_ ?_
    | with_reducible refine keep_grantRec hP _ _ _ _ _ _ ?_
    | split
    | intro _

theorem keep_cmdPrompt {P : State → Prop} (hP : Stable P) (a0 : Nat) (a1 : Cmd) (s : State) (hs : P s) :
    Fst P (cmdPrompt a0 a1 s) := by
  unfold cmdPrompt
  dsimp -failIfUnchanged only
  repeat' first
    | with_reducible exact hs
    | with_reducible refine ite_keep ?_ ?_
    | dsimp only [fst_mk_eq, snd_mk_eq]
    | with_reducible refine keep_addSpan hP _ _ _ ?_
    | with_reducible refine keep_meetEpochs hP _ _ _ _ _ _ _ _ ?_
    | with_reducible refine keep_askFabric hP _ _ _ _ _ _ _ _ _ _ _ _ _ ?_
    | with_reducible refine keep_modSpan hP _ _ _ _ ?_
    | split
    | intro _

theorem keep_cmdLeaseHandoff {P : State → Prop} (hP : Stable P) (a0 : Nat) (a1 : Cmd) (s : State) (hs : P s) :
    Fst P (cmdLeaseHandoff a0 a1 s) := by
  unfold cmdLeaseHandoff
  dsimp -failIfUnchanged only
  repeat' first
    | with_reducible exact hs
    | with_reducible refine ite_keep ?_ ?_
    | with_reducible refine keep_cmdHandoffAtHome hP _ _ _ ?_
    | with_reducible refine keep_cmdHandoff hP _ _ _ ?_
    | with_reducible refine keep_cmdPrompt hP _ _ _ ?_
    | split
    | intro _

theorem keep_dropLease {P : State → Prop} (hP : Stable P) (a0 : Nat) (a1 : Nat) (s : State) (hs : P s) :
    P (dropLease a0 a1 s) := by
  unfold dropLease
  repeat' first
    | with_reducible exact hs
    | with_reducible refine keep_modRec hP _ _ _ _ ?_
    | with_reducible refine keep_prompt hP _ _ _ ?_

theorem keep_cmdLeaseRelease {P : State → Prop} (hP : Stable P) (a0 : Nat) (a1 : Cmd) (s : State) (hs : P s) :
    Fst P (cmdLeaseRelease a0 a1 s) := by
  unfold cmdLeaseRelease
  repeat' first
    | with_reducible exact hs
    | with_reducible assumption
    | dsimp only [fst_mk_eq, snd_mk_eq]
    | with_reducible refine keep_dropLease hP _ _ _ ?_
    | with_reducible refine keep_atHome hP _ _ _ _ ?_ ?_
    | split
    | intro _

theorem keep_promptAll {P : State → Prop} (hP : Stable P) (a0 : Nat) (s : State) (hs : P s) :
    P (promptAll a0 s) := by
  unfold promptAll
  repeat' first
    | with_reducible exact hs
    | with_reducible assumption
    | with_reducible refine keep_prompt hP _ _ _ ?_
    | with_reducible refine foldl_keep ?_ ?_
    | split
    | intro _

theorem keep_cmdLeaseRenew {P : State → Prop} (hP : Stable P) (a0 : Nat) (a1 : Cmd) (s : State) (hs : P s) :
    Fst P (cmdLeaseRenew a0 a1 s) := by
  unfold cmdLeaseRenew
  dsimp -failIfUnchanged only
  repeat' first
    | with_reducible exact hs
    | with_reducible assumption
    | with_reducible refine ite_keep ?_ ?_
    | dsimp only [fst_mk_eq, snd_mk_eq]
    | with_reducible refine keep_promptAll hP _ _ ?_
    | with_reducible refine keep_modRec hP _ _ _ _ ?_
    | with_reducible refine keep_atHome hP _ _ _ _ ?_ ?_
    | with_reducible refine keep_grantRec hP _ _ _ _ _ _ ?_
    | split
    | intro _

theorem keep_cmdMatchConfig {P : State → Prop} (hP : Stable P) (a0 : Nat) (a1 : Cmd) (s : State) (hs : P s) :
    Fst P (cmdMatchConfig a0 a1 s) := by
  unfold cmdMatchConfig
  dsimp -failIfUnchanged only
  repeat' first
    | with_reducible exact hs
    | with_reducible assumption
    | with_reducible refine ite_keep ?_ ?_
    | dsimp only [fst_mk_eq, snd_mk_eq]
    | with_reducible refine keep_modPart hP _ _ _ ?_
    | with_reducible refine keep_modCell hP _ _ _ ?_
    | with_reducible refine foldl_keep ?_ ?_
    | split
    | intro _

theorem keep_queueWrite {P : State → Prop} (hP : Stable P) (a0 : Nat) (a1 : Nat) (s : State) (hs : P s) :
    P (queueWrite a0 a1 s) := by
  unfold queueWrite
  repeat' first
    | with_reducible exact hs
    | with_reducible refine keep_modCell hP _ _ _ ?_

theorem keep_readShadow {P : State → Prop} (hP : Stable P) (a0 : Nat) (a1 : Nat) (a2 : Nat) (s : State) (hs : P s) :
    P (readShadow a0 a1 a2 s) := by
  unfold readShadow
  dsimp -failIfUnchanged only
  repeat' first
    | with_reducible exact hs
    | with_reducible refine ite_keep ?_ ?_
    | with_reducible refine keep_readFixed hP _ _ _ _ ?_
    | with_reducible refine keep_loseEntry hP _ _ _ _ ?_
    | intro _

theorem keep_readIndex {P : State → Prop} (hP : Stable P) (a0 : Nat) (a1 : Nat) (s : State) (hs : P s) :
    P (readIndex a0 a1 s) := by
  unfold readIndex
  repeat' first
    | with_reducible exact hs
    | with_reducible refine ite_keep ?_ ?_
    | with_reducible refine keep_readShadow hP _ _ _ _ ?_
    | split
    | intro _

theorem keep_dropEntry {P : State → Prop} (hP : Stable P) (a0 : Nat) (a1 : Nat) (a2 : Nat) (s : State) (hs : P s) :
    P (dropEntry a0 a1 a2 s) := by
  unfold dropEntry
  dsimp -failIfUnchanged only
  repeat' first
    | with_reducible exact hs
    | with_reducible refine keep_rewritePartners hP _ _ _ ?_
    | with_reducible refine keep_modCell hP _ _ _ ?_

theorem keep_cmdMatchDelete {P : State → Prop} (hP : Stable P) (a0 : Nat) (a1 : Cmd) (s : State) (hs : P s) :
    Fst P (cmdMatchDelete a0 a1 s) := by
  unfold cmdMatchDelete
  dsimp -failIfUnchanged only
  repeat' first
    | with_reducible exact hs
    | with_reducible refine ite_keep ?_ ?_
    | dsimp only [fst_mk_eq, snd_mk_eq]
    | with_reducible refine keep_queueWrite hP _ _ _ ?_
    | with_reducible refine keep_readIndex hP _ _ _ ?_
    | with_reducible refine keep_dropEntry hP _ _ _ _ ?_
    | split
    | intro _

theorem keep_putEntry {P : State → Prop} (hP : Stable P) (a0 : Nat) (a1 : Nat) (a2 : Nat) (a3 : List Nat) (a4 : List Nat) (a5 : Nat) (s : State) (hs : P s) :
    P (putEntry a0 a1 a2 a3 a4 a5 s) := by
  unfold putEntry
  dsimp -failIfUnchanged only
  repeat' first
    | with_reducible exact hs
    | with_reducible refine keep_rewritePartners hP _ _ _ ?_
    | with_reducible refine keep_modCell hP _ _ _ ?_

theorem keep_cmdMatchInsert {P : State → Prop} (hP : Stable P) (a0 : Nat) (a1 : Cmd) (s : State) (hs : P s) :
    Fst P (cmdMatchInsert a0 a1 s) := by
  unfold cmdMatchInsert
  dsimp -failIfUnchanged only
  repeat' first
    | with_reducible exact hs
    | with_reducible refine ite_keep ?_ ?_
    | dsimp only [fst_mk_eq, snd_mk_eq]
    | with_reducible refine keep_queueWrite hP _ _ _ ?_
    | with_reducible refine keep_readIndex hP _ _ _ ?_
    | with_reducible refine keep_putEntry hP _ _ _ _ _ _ _ ?_
    | split
    | intro _

theorem keep_setBatch {P : State → Prop} (hP : Stable P) (a0 : Nat) (a1 : Nat) (a2 : Batch) (s : State) (hs : P s) :
    P (setBatch a0 a1 a2 s) := by
  unfold setBatch
  dsimp -failIfUnchanged only
  repeat' first
    | with_reducible exact hs
    | with_reducible refine ite_keep ?_ ?_
    | with_reducible refine keep_closeBatch hP _ _ _ ?_
    | with_reducible refine keep_modPart hP _ _ _ ?_
    | intro _

theorem keep_joinBatch {P : State → Prop} (hP : Stable P) (a0 : Nat) (a1 : Nat) (a2 : List BKey) (s : State) (hs : P s) :
    P (joinBatch a0 a1 a2 s) := by
  unfold joinBatch
  dsimp -failIfUnchanged only
  repeat' first
    | with_reducible exact hs
    | with_reducible refine keep_setBatch hP _ _ _ _ ?_
    | split

theorem keep_cmdMatchSearch {P : State → Prop} (hP : Stable P) (a0 : Nat) (a1 : Cmd) (s : State) (hs : P s) :
    Fst P (cmdMatchSearch a0 a1 s) := by
  unfold cmdMatchSearch
  dsimp -failIfUnchanged only
  repeat' first
    | with_reducible exact hs
    | with_reducible refine ite_keep ?_ ?_
    | dsimp only [fst_mk_eq, snd_mk_eq]
    | with_reducible refine keep_modCtx hP _ _ _ ?_
    | with_reducible refine keep_modPart hP _ _ _ ?_
    | with_reducible refine keep_joinBatch hP _ _ _ _ ?_
    | split
    | intro _

theorem keep_cmdMatchStep {P : State → Prop} (hP : Stable P) (a0 : Nat) (a1 : Cmd) (s : State) (hs : P s) :
    Fst P (cmdMatchStep a0 a1 s) := by
  unfold cmdMatchStep
  dsimp -failIfUnchanged only
  repeat' first
    | with_reducible exact hs
    | with_reducible assumption
    | with_reducible refine ite_keep ?_ ?_
    | dsimp only [fst_mk_eq, snd_mk_eq]
    | with_reducible refine keep_modPart hP _ _ _ ?_
    | with_reducible refine keep_queueWrite hP _ _ _ ?_
    | with_reducible refine keep_readIndex hP _ _ _ ?_
    | with_reducible refine foldl_keep ?_ ?_
    | split
    | intro _

theorem keep_cmdMerge {P : State → Prop} (hP : Stable P) (a0 : Nat) (a1 : Cmd) (s : State) (hs : P s) :
    Fst P (cmdMerge a0 a1 s) := by
  unfold cmdMerge
  dsimp -failIfUnchanged only
  repeat' first
    | with_reducible exact hs
    | with_reducible refine ite_keep ?_ ?_
    | dsimp only [fst_mk_eq, snd_mk_eq]
    | split
    | intro _

theorem keep_cmdMeterReport {P : State → Prop} (hP : Stable P) (a0 : Nat) (a1 : Cmd) (s : State) (hs : P s) :
    Fst P (cmdMeterReport a0 a1 s) := by
  unfold cmdMeterReport
  dsimp -failIfUnchanged only
  repeat' first
    | with_reducible exact hs
    | with_reducible refine ite_keep ?_ ?_
    | dsimp only [fst_mk_eq, snd_mk_eq]
    | with_reducible refine snd_one (keep_signed hP _ _ ?_)
    | with_reducible refine keep_modNode hP _ _ ?_
    | split
    | intro _

theorem keep_cmdNop {P : State → Prop} (hP : Stable P) (a0 : Nat) (a1 : Cmd) (s : State) (hs : P s) :
    Fst P (cmdNop a0 a1 s) := by
  unfold cmdNop
  repeat' first
    | with_reducible exact hs
    | with_reducible refine ite_keep ?_ ?_
    | dsimp only [fst_mk_eq, snd_mk_eq]
    | intro _

theorem keep_cmdPageLend {P : State → Prop} (hP : Stable P) (a0 : Nat) (a1 : Cmd) (s : State) (hs : P s) :
    Fst P (cmdPageLend a0 a1 s) := by
  unfold cmdPageLend
  dsimp -failIfUnchanged only
  repeat' first
    | with_reducible exact hs
    | with_reducible refine ite_keep ?_ ?_
    | dsimp only [fst_mk_eq, snd_mk_eq]
    | with_reducible refine keep_modSeq hP _ _ _ _ ?_
    | with_reducible refine keep_modPart hP _ _ _ ?_
    | with_reducible refine keep_queueEdit hP _ _ _ _ ?_
    | with_reducible refine keep_lendNext hP _ _ _ ?_
    | split
    | intro _

theorem keep_poisonWords {P : State → Prop} (hP : Stable P) (a0 : Nat) (a1 : List Nat) (s : State) (hs : P s) :
    P (poisonWords a0 a1 s) := by
  unfold poisonWords
  dsimp -failIfUnchanged only
  repeat' first
    | with_reducible exact hs
    | with_reducible assumption
    | with_reducible refine keep_setGran hP _ _ _ ?_
    | with_reducible refine foldl_keep ?_ ?_
    | intro _

theorem keep_storeWhole {P : State → Prop} (hP : Stable P) (a0 : Nat) (a1 : Nat) (a2 : WorkPage) (s : State) (hs : P s) :
    P (storeWhole a0 a1 a2 s) := by
  unfold storeWhole
  dsimp -failIfUnchanged only
  repeat' first
    | with_reducible exact hs
    | with_reducible refine keep_modPage hP _ _ _ ?_
    | with_reducible refine keep_writeBytes hP _ _ _ _ _ _ ?_

set_option maxHeartbeats 2000000 in
theorem keep_movePage {P : State → Prop} (hP : Stable P) (a0 : Cmd) (a1 : Seq) (a2 : Nat) (s : State) (hs : P s) :
    All (Snd P) (movePage a0 a1 a2 s) := by
  unfold movePage
  dsimp -failIfUnchanged only
  repeat' first
    | with_reducible exact hs
    | with_reducible exact all_none
    | with_reducible refine all_some ?_
    | with_reducible refine ite_keep ?_ ?_
    | dsimp only [fst_mk_eq, snd_mk_eq]
    | with_reducible refine keep_modPage hP _ _ _ ?_
    | with_reducible refine keep_carryRec hP _ _ _ ?_
    | with_reducible refine keep_copySlotClean hP _ _ _ _ ?_
    | with_reducible refine keep_poisonWords hP _ _ _ ?_
    | with_reducible refine keep_storeWhole hP _ _ _ _ ?_
    | with_reducible refine snd_one (keep_commitRead hP _ _ _ ?_)
    | with_reducible refine snd_one (keep_newUid hP _ _ _ ?_)
    | with_reducible refine keep_takeTable hP _ _ _ ?_
    | with_reducible refine keep_t1Take hP _ _ ?_
    | with_reducible refine snd_get (all_get (keep_allocPage hP _ _ _ _ _ ?_) (by with_reducible assumption)) rfl
    | split
    | intro _

theorem keep_movePages {P : State → Prop} (hP : Stable P) (a0 : Cmd) (a1 : Seq) (a2 : List Nat) (s : State) (hs : P s) :
    All (Snd P) (movePages a0 a1 a2 s) := by
  unfold movePages
  repeat' first
    | with_reducible exact hs
    | with_reducible assumption
    | with_reducible refine all_some ?_
    | with_reducible refine map_keep ?_
    | dsimp only [fst_mk_eq, snd_mk_eq]
    | with_reducible refine snd_get (all_get (keep_movePage hP _ _ _ _ ?_) (by with_reducible assumption)) rfl
    | with_reducible refine foldl_keep ?_ ?_
    | split
    | intro _
    | with_reducible exact snd_get (all_get (by with_reducible assumption) rfl) rfl

theorem keep_cmdPageMigrate {P : State → Prop} (hP : Stable P) (a0 : Nat) (a1 : Cmd) (s : State) (hs : P s) :
    Fst P (cmdPageMigrate a0 a1 s) := by
  unfold cmdPageMigrate
  dsimp -failIfUnchanged only
  repeat' first
    | with_reducible exact hs
    | with_reducible assumption
    | with_reducible refine ite_keep ?_ ?_
    | dsimp only [fst_mk_eq, snd_mk_eq]
    | with_reducible refine snd_get (all_get (keep_movePages hP _ _ _ _ ?_) (by with_reducible assumption)) rfl
    | with_reducible refine keep_reclaim hP _ _ ?_
    | with_reducible refine all_get (keep_swapHandles hP _ _ _ _ ?_) (by with_reducible assumption)
    | with_reducible refine keep_queueEdit hP _ _ _ _ ?_
    | with_reducible refine keep_dropRef hP _ _ _ ?_
    | with_reducible refine foldl_keep ?_ ?_
    | split
    | intro _

theorem keep_pinPage {P : State → Prop} (hP : Stable P) (a0 : Nat) (a1 : Bool) (s : State) (hs : P s) :
    P (pinPage a0 a1 s) := by
  unfold pinPage
  dsimp -failIfUnchanged only
  repeat' first
    | with_reducible exact hs
    | with_reducible refine ite_keep ?_ ?_
    | with_reducible refine keep_modPage hP _ _ _ ?_
    | with_reducible refine keep_t1Take hP _ _ ?_
    | split
    | intro _

theorem keep_cmdPagePin {P : State → Prop} (hP : Stable P) (a0 : Nat) (a1 : Cmd) (s : State) (hs : P s) :
    Fst P (cmdPagePin a0 a1 s) := by
  unfold cmdPagePin
  dsimp -failIfUnchanged only
  repeat' first
    | with_reducible exact hs
    | with_reducible assumption
    | with_reducible refine ite_keep ?_ ?_
    | dsimp only [fst_mk_eq, snd_mk_eq]
    | with_reducible exact snd_one (by with_reducible assumption)
    | with_reducible refine keep_unpinPage hP _ _ _ ?_
    | with_reducible refine keep_modSeq hP _ _ _ _ ?_
    | with_reducible refine keep_pinPage hP _ _ _ ?_
    | with_reducible refine foldl_keep ?_ ?_
    | with_reducible refine snd_one (foldl_keep (Q := Snd P) ?_ ?_)
    | split
    | intro _

theorem keep_cmdPageRecall {P : State → Prop} (hP : Stable P) (a0 : Nat) (a1 : Cmd) (s : State) (hs : P s) :
    Fst P (cmdPageRecall a0 a1 s) := by
  unfold cmdPageRecall
  dsimp -failIfUnchanged only
  repeat' first
    | with_reducible exact hs
    | with_reducible refine ite_keep ?_ ?_
    | dsimp only [fst_mk_eq, snd_mk_eq]
    | with_reducible refine keep_modSeq hP _ _ _ _ ?_
    | with_reducible refine keep_recallNext hP _ _ _ ?_
    | with_reducible refine keep_modPart hP _ _ _ ?_
    | with_reducible refine keep_queueEdit hP _ _ _ _ ?_
    | split
    | intro _

theorem keep_cmdPageShare {P : State → Prop} (hP : Stable P) (a0 : Nat) (a1 : Cmd) (s : State) (hs : P s) :
    Fst P (cmdPageShare a0 a1 s) := by
  unfold cmdPageShare
  dsimp -failIfUnchanged only
  repeat' first
    | with_reducible exact hs
    | with_reducible assumption
    | with_reducible refine ite_keep ?_ ?_
    | dsimp only [fst_mk_eq, snd_mk_eq]
    | with_reducible refine keep_modPage hP _ _ _ ?_
    | with_reducible refine keep_modSeq hP _ _ _ _ ?_
    | with_reducible refine keep_reclaim hP _ _ ?_
    | with_reducible refine keep_queueEdit hP _ _ _ _ ?_
    | with_reducible refine keep_setSeq hP _ _ _ _ ?_
    | with_reducible refine snd_get (all_get (keep_editSwap hP _ _ _ _ ?_) (by with_reducible assumption)) rfl
    | with_reducible refine foldl_keep ?_ ?_
    | split
    | intro _

theorem keep_loseStack {P : State → Prop} (hP : Wide P) (a0 : Nat) (s : State) (hs : P s) :
    P (loseStack a0 s) := by
  exact hP.stack _ _ hs

end Sys2Proof.Laws
end

