-- ==== Sys2Proof/Laws/Keep4.lean ====
section
/-! SUPPORT. What the functions of the machine keep, part 4 of 6, callees first. A function that leaves the queue and the addressed
memory alone keeps every property that depends on those two only; one that writes the addressed memory keeps its form and the queue. -/

namespace Sys2Proof.Laws

open Sys2Proof.Machine

theorem keep_wipeCell {P : State → Prop} (hP : Wide P) (a0 : Nat) (s : State) (hs : P s) :
    P (wipeCell a0 s) := by
  unfold wipeCell
  repeat' first
    | with_reducible exact hs
    | with_reducible refine keep_loseStack hP _ _ ?_
    | with_reducible refine keep_modCell hP.1 _ _ _ ?_

theorem keep_createReady {P : State → Prop} (hP : Wide P) (a0 : Nat) (s : State) (hs : P s) :
    P (createReady a0 s) := by
  unfold createReady
  dsimp -failIfUnchanged only
  repeat' first
    | with_reducible exact hs
    | with_reducible assumption
    | with_reducible refine ite_keep ?_ ?_
    | with_reducible refine keep_wipeCell hP _ _ ?_
    | with_reducible refine keep_modPart hP.1 _ _ _ ?_
    | with_reducible refine keep_conclude hP.1 _ _ _ ?_
    | with_reducible refine foldl_keep ?_ ?_
    | split
    | intro _

theorem keep_cmdPartitionCreate {P : State → Prop} (hP : Wide P) (a0 : Nat) (a1 : Cmd) (s : State) (hs : P s) :
    Fst P (cmdPartitionCreate a0 a1 s) := by
  unfold cmdPartitionCreate
  dsimp -failIfUnchanged only
  repeat' first
    | with_reducible exact hs
    | with_reducible assumption
    | with_reducible refine ite_keep ?_ ?_
    | dsimp only [fst_mk_eq, snd_mk_eq]
    | with_reducible refine keep_leaveCellOff hP.1 _ _ _ _ _ ?_
    | with_reducible refine keep_modPart hP.1 _ _ _ ?_
    | with_reducible refine keep_setPart hP.1 _ _ _ ?_
    | with_reducible refine keep_createReady hP _ _ ?_
    | with_reducible refine foldl_keep ?_ ?_
    | split
    | intro _

theorem keep_eraseP {P : State → Prop} (hP : Wide P) (a0 : Nat) (s : State) (hs : P s) :
    P (eraseP a0 s) := by
  unfold eraseP
  repeat' first
    | with_reducible exact hs
    | with_reducible assumption
    | with_reducible refine keep_wipeCell hP _ _ ?_
    | with_reducible refine keep_modPart hP.1 _ _ _ ?_
    | with_reducible refine foldl_keep ?_ ?_
    | intro _

theorem keep_finishDestroy {P : State → Prop} (hP : Wide P) (a0 : Nat) (s : State) (hs : P s) :
    P (finishDestroy a0 s) := by
  unfold finishDestroy
  dsimp -failIfUnchanged only
  repeat' first
    | with_reducible exact hs
    | with_reducible assumption
    | with_reducible refine elim_keep ?_ ?_
    | with_reducible refine keep_modFn hP.1 _ _ _ ?_
    | with_reducible refine keep_conclude hP.1 _ _ _ ?_
    | with_reducible refine keep_setPart hP.1 _ _ _ ?_
    | with_reducible refine keep_eraseP hP _ _ ?_
    | with_reducible refine keep_destroyConns hP.1 _ _ ?_
    | with_reducible refine keep_modCellPwr hP.1 _ _ _ ?_
    | with_reducible refine foldl_keep ?_ ?_
    | intro _

theorem keep_destroyGo {P : State → Prop} (hP : Wide P) (a0 : Nat) (s : State) (hs : P s) :
    P (destroyGo a0 s) := by
  unfold destroyGo
  repeat' first
    | with_reducible exact hs
    | with_reducible refine ite_keep ?_ ?_
    | with_reducible refine keep_finishDestroy hP _ _ ?_
    | intro _

theorem keep_dropElements {P : State → Prop} (hP : Stable P) (a0 : Nat) (a1 : Nat) (s : State) (hs : P s) :
    P (dropElements a0 a1 s) := by
  unfold dropElements
  repeat' first
    | with_reducible exact hs
    | with_reducible assumption
    | with_reducible refine keep_modCell hP _ _ _ ?_
    | with_reducible refine foldl_keep ?_ ?_
    | intro _

theorem keep_endByReset {P : State → Prop} (hP : Stable P) (a0 : Nat) (a1 : Reply) (s : State) (hs : P s) :
    P (endByReset a0 a1 s) := by
  unfold endByReset
  dsimp -failIfUnchanged only
  repeat' first
    | with_reducible exact hs
    | with_reducible refine keep_dropWork hP _ _ _ ?_
    | with_reducible refine keep_dropElements hP _ _ _ ?_
    | with_reducible refine keep_modPart hP _ _ _ ?_
    | with_reducible refine keep_conclude hP _ _ _ ?_
    | with_reducible refine keep_abortCmd hP _ _ _ ?_
    | split

theorem keep_destroyPart {P : State → Prop} (hP : Wide P) (a0 : Nat) (a1 : Nat) (s : State) (hs : P s) :
    P (destroyPart a0 a1 s) := by
  unfold destroyPart
  dsimp -failIfUnchanged only
  repeat' first
    | with_reducible exact hs
    | with_reducible assumption
    | with_reducible refine keep_destroyGo hP _ _ ?_
    | with_reducible refine keep_fencePart hP.1 _ _ _ ?_
    | with_reducible refine keep_modPart hP.1 _ _ _ ?_
    | with_reducible refine keep_conclude hP.1 _ _ _ ?_
    | with_reducible refine keep_endByReset hP.1 _ _ _ ?_
    | with_reducible refine foldl_keep ?_ ?_
    | split
    | intro _

theorem keep_cmdPartitionDestroy {P : State → Prop} (hP : Wide P) (a0 : Nat) (a1 : Cmd) (s : State) (hs : P s) :
    Fst P (cmdPartitionDestroy a0 a1 s) := by
  unfold cmdPartitionDestroy
  dsimp -failIfUnchanged only
  repeat' first
    | with_reducible exact hs
    | with_reducible refine ite_keep ?_ ?_
    | dsimp only [fst_mk_eq, snd_mk_eq]
    | with_reducible refine keep_destroyPart hP _ _ _ ?_
    | split
    | intro _

theorem keep_writeEntry {P : State → Prop} (hP : Stable P) (a0 : Nat) (a1 : Nat) (a2 : PlaceRec) (s : State) (hs : P s) :
    P (writeEntry a0 a1 a2 s) := by
  unfold writeEntry
  repeat' first
    | with_reducible exact hs
    | with_reducible refine keep_putEntry hP _ _ _ _ _ _ _ ?_
    | split

theorem keep_createMember {P : State → Prop} (hP : Stable P) (a0 : Nat) (a1 : Seq) (a2 : PlaceRec) (a3 : Nat) (a4 : Nat) (s : State) (hs : P s) :
    P (createMember a0 a1 a2 a3 a4 s) := by
  unfold createMember
  repeat' first
    | with_reducible exact hs
    | with_reducible refine keep_askFabric hP _ _ _ _ _ _ _ _ _ _ _ _ _ ?_
    | split

theorem keep_createMembers {P : State → Prop} (hP : Stable P) (a0 : Nat) (a1 : Seq) (a2 : PlaceRec) (a3 : Nat → Bool) (s : State) (hs : P s) :
    P (createMembers a0 a1 a2 a3 s) := by
  unfold createMembers
  dsimp -failIfUnchanged only
  repeat' first
    | with_reducible exact hs
    | with_reducible refine ite_keep ?_ ?_
    | with_reducible refine keep_createMember hP _ _ _ _ _ _ ?_
    | split
    | intro _

theorem keep_gainHome {P : State → Prop} (hP : Stable P) (a0 : Nat) (a1 : Nat) (a2 : Nat) (s : State) (hs : P s) :
    P (gainHome a0 a1 a2 s) := by
  unfold gainHome
  dsimp -failIfUnchanged only
  repeat' first
    | with_reducible exact hs
    | with_reducible assumption
    | with_reducible refine keep_createMembers hP _ _ _ _ _ ?_
    | with_reducible refine keep_modRec hP _ _ _ _ ?_
    | with_reducible refine keep_prompt hP _ _ _ ?_
    | with_reducible refine foldl_keep ?_ ?_
    | split
    | intro _

theorem keep_homesChanged {P : State → Prop} (hP : Stable P) (a0 : Nat) (a1 : State) (s : State) (hs : P s) :
    P (homesChanged a0 a1 s) := by
  unfold homesChanged
  dsimp -failIfUnchanged only
  repeat' first
    | with_reducible exact hs
    | with_reducible assumption
    | with_reducible refine keep_loseHome hP _ _ _ _ _ _ ?_
    | with_reducible refine keep_gainHome hP _ _ _ _ ?_
    | with_reducible refine keep_epochFence hP _ _ _ _ _ _ _ ?_
    | with_reducible refine foldl_keep ?_ ?_
    | split
    | intro _

theorem keep_resyncSend {P : State → Prop} (hP : Stable P) (a0 : Nat) (a1 : Nat) (s : State) (hs : P s) :
    P (resyncSend a0 a1 s) := by
  unfold resyncSend
  dsimp -failIfUnchanged only
  repeat' first
    | with_reducible exact hs
    | with_reducible refine keep_modRec hP _ _ _ _ ?_
    | with_reducible refine keep_sendSpan hP _ _ _ _ _ ?_
    | split

theorem keep_codeSend {P : State → Prop} (hP : Stable P) (a0 : Nat) (a1 : Nat) (s : State) (hs : P s) :
    P (codeSend a0 a1 s) := by
  unfold codeSend
  dsimp -failIfUnchanged only
  repeat' first
    | with_reducible exact hs
    | with_reducible assumption
    | with_reducible refine keep_sendFabric hP _ _ _ _ _ ?_
    | with_reducible refine snd_one (keep_sentImage hP _ _ _ ?_)
    | with_reducible refine foldl_keep ?_ ?_
    | split
    | intro _

set_option maxHeartbeats 2000000 in
theorem keep_spanPlaced {P : State → Prop} (hP : Stable P) (a0 : Nat) (a1 : Nat) (a2 : Option PlaceRec) (s : State) (hs : P s) :
    P (spanPlaced a0 a1 a2 s) := by
  unfold spanPlaced
  dsimp -failIfUnchanged only
  repeat' first
    | with_reducible exact hs
    | with_reducible refine ite_keep ?_ ?_
    | dsimp only [fst_mk_eq, snd_mk_eq]
    | with_reducible refine keep_askResync hP _ _ _ ?_
    | with_reducible refine keep_becomeMirror hP _ _ _ ?_
    | with_reducible refine keep_resyncSend hP _ _ _ ?_
    | with_reducible refine keep_codeSend hP _ _ _ ?_
    | with_reducible refine keep_askCoded hP _ _ _ ?_
    | with_reducible refine keep_epochFence hP _ _ _ _ _ _ _ ?_
    | with_reducible refine keep_createMembers hP _ _ _ _ _ ?_
    | with_reducible refine keep_prompt hP _ _ _ ?_
    | split
    | intro _

theorem keep_recPlaced {P : State → Prop} (hP : Stable P) (a0 : Nat) (a1 : Nat) (a2 : PlaceRec) (a3 : Option PlaceRec) (a4 : State) (s : State) (hs : P s) :
    P (recPlaced a0 a1 a2 a3 a4 s) := by
  unfold recPlaced
  repeat' first
    | with_reducible exact hs
    | with_reducible refine ite_keep ?_ ?_
    | with_reducible refine keep_spanPlaced hP _ _ _ _ ?_
    | with_reducible refine keep_homesChanged hP _ _ _ ?_
    | intro _

theorem keep_cmdPlaceSet {P : State → Prop} (hP : Stable P) (a0 : Nat) (a1 : Cmd) (s : State) (hs : P s) :
    Fst P (cmdPlaceSet a0 a1 s) := by
  unfold cmdPlaceSet
  dsimp -failIfUnchanged only
  repeat' first
    | with_reducible exact hs
    | with_reducible refine ite_keep ?_ ?_
    | dsimp only [fst_mk_eq, snd_mk_eq]
    | with_reducible refine keep_modPart hP _ _ _ ?_
    | with_reducible refine keep_writeEntry hP _ _ _ _ ?_
    | with_reducible refine keep_readIndex hP _ _ _ ?_
    | with_reducible refine keep_modRec hP _ _ _ _ ?_
    | with_reducible refine keep_homesChanged hP _ _ _ ?_
    | with_reducible refine keep_dropEntry hP _ _ _ _ ?_
    | with_reducible refine keep_recPlaced hP _ _ _ _ _ _ ?_
    | split
    | intro _

theorem keep_cmdPoolSet {P : State → Prop} (hP : Stable P) (a0 : Nat) (a1 : Cmd) (s : State) (hs : P s) :
    Fst P (cmdPoolSet a0 a1 s) := by
  unfold cmdPoolSet
  dsimp -failIfUnchanged only
  repeat' first
    | with_reducible exact hs
    | with_reducible refine ite_keep ?_ ?_
    | dsimp only [fst_mk_eq, snd_mk_eq]
    | with_reducible refine keep_modPart hP _ _ _ ?_
    | intro _

theorem keep_nodePower {P : State → Prop} (hP : Stable P) (a0 : Nat) (a1 : Nat) (a2 : Nat) (s : State) (hs : P s) :
    Fst P (nodePower a0 a1 a2 s) := by
  unfold nodePower
  dsimp -failIfUnchanged only
  repeat' first
    | with_reducible exact hs
    | with_reducible assumption
    | with_reducible refine ite_keep ?_ ?_
    | dsimp only [fst_mk_eq, snd_mk_eq]
    | with_reducible refine keep_modPwr hP _ _ ?_
    | with_reducible refine keep_modNode hP _ _ ?_
    | with_reducible refine keep_setCeil hP _ _ _ _ ?_
    | with_reducible refine foldl_keep ?_ ?_
    | split
    | intro _

theorem keep_cmdPowerState {P : State → Prop} (hP : Stable P) (a0 : Nat) (a1 : Cmd) (s : State) (hs : P s) :
    Fst P (cmdPowerState a0 a1 s) := by
  unfold cmdPowerState
  dsimp -failIfUnchanged only
  repeat' first
    | with_reducible exact hs
    | with_reducible refine ite_keep ?_ ?_
    | dsimp only [fst_mk_eq, snd_mk_eq]
    | with_reducible refine keep_cellPower hP _ _ _ _ _ ?_
    | with_reducible refine keep_nodePower hP _ _ _ _ ?_
    | split
    | intro _

theorem keep_cmdReadState {P : State → Prop} (hP : Stable P) (a0 : Nat) (a1 : Cmd) (s : State) (hs : P s) :
    Fst P (cmdReadState a0 a1 s) := by
  unfold cmdReadState
  dsimp -failIfUnchanged only
  repeat' first
    | with_reducible exact hs
    | with_reducible refine ite_keep ?_ ?_
    | dsimp only [fst_mk_eq, snd_mk_eq]
    | split
    | intro _

theorem keep_cmdRegionRegister {P : State → Prop} (hP : Stable P) (a0 : Nat) (a1 : Cmd) (s : State) (hs : P s) :
    Fst P (cmdRegionRegister a0 a1 s) := by
  unfold cmdRegionRegister
  dsimp -failIfUnchanged only
  repeat' first
    | with_reducible exact hs
    | with_reducible refine ite_keep ?_ ?_
    | dsimp only [fst_mk_eq, snd_mk_eq]
    | with_reducible refine keep_modPart hP _ _ _ ?_
    | with_reducible refine snd_one (keep_draw hP _ ?_)
    | split
    | intro _

theorem keep_cmdRegionRevoke {P : State → Prop} (hP : Stable P) (a0 : Nat) (a1 : Cmd) (s : State) (hs : P s) :
    Fst P (cmdRegionRevoke a0 a1 s) := by
  unfold cmdRegionRevoke
  dsimp -failIfUnchanged only
  repeat' first
    | with_reducible exact hs
    | with_reducible refine ite_keep ?_ ?_
    | dsimp only [fst_mk_eq, snd_mk_eq]
    | with_reducible refine keep_modPart hP _ _ _ ?_
    | with_reducible refine keep_modRegion hP _ _ _ _ ?_
    | with_reducible refine keep_revokeCheck hP _ _ _ ?_
    | split
    | intro _

theorem keep_releaseFault {P : State → Prop} (hP : Stable P) (s : State) (hs : P s) :
    P (releaseFault s) := by
  unfold releaseFault
  repeat' first
    | with_reducible exact hs
    | with_reducible refine ite_keep ?_ ?_
    | with_reducible refine keep_drivePin hP _ _ _ ?_
    | with_reducible refine keep_modNode hP _ _ ?_
    | intro _

theorem keep_unhalt {P : State → Prop} (hP : Stable P) (a0 : Nat) (a1 : Nat) (s : State) (hs : P s) :
    P (unhalt a0 a1 s) := by
  unfold unhalt
  repeat' first
    | with_reducible exact hs
    | with_reducible refine keep_modDbg hP _ _ ?_
    | with_reducible refine keep_releaseFault hP _ ?_

theorem keep_retireCore {P : State → Prop} (hP : Stable P) (a0 : Nat) (a1 : Nat) (s : State) (hs : P s) :
    P (retireCore a0 a1 s) := by
  unfold retireCore
  dsimp -failIfUnchanged only
  repeat' first
    | with_reducible exact hs
    | with_reducible refine keep_modCell hP _ _ _ ?_

theorem keep_wornOut {P : State → Prop} (hP : Stable P) (a0 : Nat) (a1 : Nat) (s : State) (hs : P s) :
    P (wornOut a0 a1 s) := by
  unfold wornOut
  dsimp -failIfUnchanged only
  repeat' first
    | with_reducible exact hs
    | with_reducible refine ite_keep ?_ ?_
    | with_reducible refine keep_climb3 hP _ _ _ _ _ _ ?_
    | with_reducible refine keep_conclude hP _ _ _ ?_
    | with_reducible refine keep_retireCore hP _ _ _ ?_
    | with_reducible refine keep_postRecovery hP _ _ _ _ _ _ _ ?_
    | with_reducible refine keep_halt hP _ _ _ _ _ _ ?_
    | split
    | intro _

theorem keep_reissueTokens {P : State → Prop} (hP : Stable P) (a0 : Nat) (a1 : Nat) (s : State) (hs : P s) :
    Snd P (reissueTokens a0 a1 s) := by
  unfold reissueTokens
  dsimp -failIfUnchanged only
  repeat' first
    | with_reducible exact hs
    | dsimp only [fst_mk_eq, snd_mk_eq]
    | with_reducible refine keep_modCell hP _ _ _ ?_

theorem keep_rerunHandler {P : State → Prop} (hP : Stable P) (a0 : Nat) (a1 : Nat) (a2 : Cmd) (s : State) (hs : P s) :
    Fst P (rerunHandler a0 a1 a2 s) := by
  unfold rerunHandler
  repeat' first
    | with_reducible exact hs
    | with_reducible refine keep_cmdAttendAny hP _ _ _ ?_
    | with_reducible refine keep_cmdMatchSearch hP _ _ _ ?_
    | with_reducible refine keep_cmdMerge hP _ _ _ ?_
    | split

theorem keep_rerun {P : State → Prop} (hP : Stable P) (a0 : Nat) (a1 : Nat) (s : State) (hs : P s) :
    P (rerun a0 a1 s) := by
  unfold rerun
  dsimp -failIfUnchanged only
  repeat' first
    | with_reducible exact hs
    | with_reducible assumption
    | with_reducible refine keep_releaseCtx hP _ _ ?_
    | with_reducible refine keep_modCtx hP _ _ _ ?_
    | with_reducible refine keep_conclude hP _ _ _ ?_
    | with_reducible refine keep_releaseSearch hP _ _ ?_
    | with_reducible refine keep_rerunHandler hP _ _ _ _ ?_
    | with_reducible refine keep_modCmd hP _ _ _ ?_
    | with_reducible refine keep_begin_ hP _ _ _ ?_ ?_
    | split
    | intro _
    | fail_if_no_progress (with_reducible refine mk_keep hP ?_)

theorem keep_level1 {P : State → Prop} (hP : Stable P) (a0 : Nat) (a1 : Nat) (s : State) (hs : P s) :
    P (level1 a0 a1 s) := by
  unfold level1
  dsimp -failIfUnchanged only
  repeat' first
    | with_reducible exact hs
    | with_reducible refine ite_keep ?_ ?_
    | with_reducible refine keep_rerun hP _ _ _ ?_
    | with_reducible refine keep_dropElements hP _ _ _ ?_
    | with_reducible refine keep_modPart hP _ _ _ ?_
    | with_reducible refine keep_endByReset hP _ _ _ ?_
    | with_reducible refine keep_postRecovery hP _ _ _ _ _ _ _ ?_
    | split
    | intro _
    | fail_if_no_progress (with_reducible refine mk_keep hP ?_)

theorem keep_level2 {P : State → Prop} (hP : Stable P) (a0 : Nat) (a1 : Nat) (a2 : Nat) (a3 : Bool) (a4 : Option Nat) (s : State) (hs : P s) :
    P (level2 a0 a1 a2 a3 a4 s) := by
  unfold level2
  dsimp -failIfUnchanged only
  repeat' first
    | with_reducible exact hs
    | with_reducible assumption
    | with_reducible refine ite_keep ?_ ?_
    | with_reducible refine keep_modDbg hP _ _ ?_
    | with_reducible refine snd_one (keep_reissueTokens hP _ _ _ ?_)
    | with_reducible refine keep_autoDump hP _ _ _ _ _ ?_
    | with_reducible refine keep_conclude hP _ _ _ ?_
    | with_reducible refine keep_level1 hP _ _ _ ?_
    | with_reducible refine keep_modCell hP _ _ _ ?_
    | with_reducible refine foldl_keep ?_ ?_
    | split
    | intro _

theorem keep_coreReset {P : State → Prop} (hP : Stable P) (a0 : Nat) (a1 : Nat) (a2 : Nat) (a3 : Bool) (a4 : Option Nat) (s : State) (hs : P s) :
    P (coreReset a0 a1 a2 a3 a4 s) := by
  unfold coreReset
  dsimp -failIfUnchanged only
  repeat' first
    | with_reducible exact hs
    | with_reducible refine ite_keep ?_ ?_
    | with_reducible refine keep_wornOut hP _ _ _ ?_
    | with_reducible refine keep_level2 hP _ _ _ _ _ _ ?_
    | intro _

theorem keep_cmdResetLevel {P : State → Prop} (hP : Stable P) (a0 : Nat) (a1 : Cmd) (s : State) (hs : P s) :
    Fst P (cmdResetLevel a0 a1 s) := by
  unfold cmdResetLevel
  dsimp -failIfUnchanged only
  repeat' first
    | with_reducible exact hs
    | with_reducible refine ite_keep ?_ ?_
    | dsimp only [fst_mk_eq, snd_mk_eq]
    | with_reducible refine keep_unhalt hP _ _ _ ?_
    | with_reducible refine keep_partReset hP _ _ _ _ ?_
    | with_reducible refine keep_coreReset hP _ _ _ _ _ _ ?_
    | with_reducible refine keep_endByReset hP _ _ _ ?_
    | with_reducible refine keep_nodeReset hP _ _ _ _ _ _ ?_
    | with_reducible refine keep_level5 hP _ _ _ ?_
    | with_reducible refine keep_postRecovery hP _ _ _ _ _ _ _ ?_
    | split
    | intro _

theorem keep_cmdSaInstall {P : State → Prop} (hP : Stable P) (a0 : Nat) (a1 : Cmd) (s : State) (hs : P s) :
    Fst P (cmdSaInstall a0 a1 s) := by
  unfold cmdSaInstall
  dsimp -failIfUnchanged only
  repeat' first
    | with_reducible exact hs
    | with_reducible refine ite_keep ?_ ?_
    | dsimp only [fst_mk_eq, snd_mk_eq]
    | with_reducible refine keep_modConn hP _ _ _ ?_
    | split
    | intro _

theorem keep_cmdScorerLoad {P : State → Prop} (hP : Stable P) (a0 : Nat) (a1 : Cmd) (s : State) (hs : P s) :
    Fst P (cmdScorerLoad a0 a1 s) := by
  unfold cmdScorerLoad
  dsimp -failIfUnchanged only
  repeat' first
    | with_reducible exact hs
    | with_reducible refine ite_keep ?_ ?_
    | dsimp only [fst_mk_eq, snd_mk_eq]
    | with_reducible refine keep_modPart hP _ _ _ ?_
    | split
    | intro _

theorem keep_cmdSeqCreate {P : State → Prop} (hP : Stable P) (a0 : Nat) (a1 : Cmd) (s : State) (hs : P s) :
    Fst P (cmdSeqCreate a0 a1 s) := by
  unfold cmdSeqCreate
  dsimp -failIfUnchanged only
  repeat' first
    | with_reducible exact hs
    | with_reducible assumption
    | with_reducible refine ite_keep ?_ ?_
    | dsimp only [fst_mk_eq, snd_mk_eq]
    | with_reducible refine keep_setSeq hP _ _ _ _ ?_
    | with_reducible refine keep_addSpan hP _ _ _ ?_
    | with_reducible refine snd_get (all_get (keep_allocBlock hP _ _ _ _ ?_) (by with_reducible assumption)) rfl
    | with_reducible refine keep_meetCmd hP _ _ _ _ ?_
    | with_reducible refine keep_createMembers hP _ _ _ _ _ ?_
    | with_reducible refine foldl_keep ?_ ?_
    | split
    | intro _

theorem keep_destroySeq {P : State → Prop} (hP : Stable P) (a0 : Nat) (a1 : Nat) (s : State) (hs : P s) :
    P (destroySeq a0 a1 s) := by
  unfold destroySeq
  dsimp -failIfUnchanged only
  repeat' first
    | with_reducible exact hs
    | with_reducible assumption
    | with_reducible refine keep_unpinPage hP _ _ _ ?_
    | with_reducible refine keep_dropHandle hP _ _ _ ?_
    | with_reducible refine keep_reclaim hP _ _ ?_
    | with_reducible refine keep_modPart hP _ _ _ ?_
    | with_reducible refine keep_conclude hP _ _ _ ?_
    | with_reducible refine keep_retire hP _ _ _ _ _ ?_
    | with_reducible refine keep_modCell hP _ _ _ ?_
    | with_reducible refine foldl_keep ?_ ?_
    | split
    | intro _

theorem keep_cmdSeqDestroy {P : State → Prop} (hP : Stable P) (a0 : Nat) (a1 : Cmd) (s : State) (hs : P s) :
    Fst P (cmdSeqDestroy a0 a1 s) := by
  unfold cmdSeqDestroy
  dsimp -failIfUnchanged only
  repeat' first
    | with_reducible exact hs
    | with_reducible refine ite_keep ?_ ?_
    | dsimp only [fst_mk_eq, snd_mk_eq]
    | with_reducible refine keep_destroySeq hP _ _ _ ?_
    | with_reducible refine keep_queueEdit hP _ _ _ _ ?_
    | split
    | intro _

theorem keep_refill {P : State → Prop} (hP : Stable P) (a0 : Nat) (a1 : Nat) (a2 : Seq) (a3 : Cmd) (s : State) (hs : P s) :
    Fst P (refill a0 a1 a2 a3 s) := by
  unfold refill
  dsimp -failIfUnchanged only
  repeat' first
    | with_reducible exact hs
    | with_reducible assumption
    | with_reducible refine ite_keep ?_ ?_
    | dsimp only [fst_mk_eq, snd_mk_eq]
    | with_reducible refine keep_modPage hP _ _ _ ?_
    | with_reducible refine keep_unpinPage hP _ _ _ ?_
    | with_reducible refine keep_dropHandle hP _ _ _ ?_
    | with_reducible refine keep_modSeq hP _ _ _ _ ?_
    | with_reducible refine keep_reclaim hP _ _ ?_
    | with_reducible refine all_get (keep_swapHandles hP _ _ _ _ ?_) (by with_reducible assumption)
    | with_reducible refine snd_get (all_get (keep_freshPage hP _ _ _ _ _ ?_) (by with_reducible assumption)) rfl
    | with_reducible refine snd_one (keep_writeTokens hP _ _ _ _ _ _ _ ?_)
    | with_reducible refine foldl_keep ?_ ?_
    | split
    | intro _

theorem keep_recopy {P : State → Prop} (hP : Stable P) (a0 : Nat) (a1 : Nat) (a2 : Nat) (a3 : Nat) (a4 : Seq) (s : State) (hs : P s) :
    Fst P (recopy a0 a1 a2 a3 a4 s) := by
  unfold recopy
  dsimp -failIfUnchanged only
  repeat' first
    | with_reducible exact hs
    | dsimp only [fst_mk_eq, snd_mk_eq]
    | with_reducible refine snd_one (keep_newTag hP _ ?_)
    | with_reducible refine keep_modPart hP _ _ _ ?_
    | with_reducible refine keep_askNode hP _ _ _ _ ?_
    | with_reducible refine keep_holdEdit hP _ _ _ _ ?_
    | split

theorem keep_forwardEdit {P : State → Prop} (hP : Stable P) (a0 : Nat) (a1 : Nat) (a2 : Cmd) (a3 : Seq) (a4 : PlaceRec) (a5 : Nat) (s : State) (hs : P s) :
    P (forwardEdit a0 a1 a2 a3 a4 a5 s) := by
  unfold forwardEdit
  repeat' first
    | with_reducible exact hs
    | with_reducible refine keep_askFabric hP _ _ _ _ _ _ _ _ _ _ _ _ _ ?_

theorem keep_mapEdit {P : State → Prop} (hP : Stable P) (a0 : Nat) (a1 : Nat) (a2 : Nat) (a3 : Seq) (a4 : Cmd) (s : State) (hs : P s) :
    Fst P (mapEdit a0 a1 a2 a3 a4 s) := by
  unfold mapEdit
  dsimp -failIfUnchanged only
  repeat' first
    | with_reducible exact hs
    | with_reducible assumption
    | with_reducible refine ite_keep ?_ ?_
    | dsimp only [fst_mk_eq, snd_mk_eq]
    | with_reducible refine keep_refill hP _ _ _ _ _ ?_
    | with_reducible refine fst_one (keep_truncateHere hP _ _ _ _ ?_)
    | with_reducible refine keep_recopy hP _ _ _ _ _ _ ?_
    | with_reducible refine keep_forwardEdit hP _ _ _ _ _ _ _ ?_
    | with_reducible refine keep_holdEdit hP _ _ _ _ ?_
    | with_reducible refine foldl_keep ?_ ?_
    | split
    | intro _

theorem keep_cmdSeqMapEdit {P : State → Prop} (hP : Stable P) (a0 : Nat) (a1 : Cmd) (s : State) (hs : P s) :
    Fst P (cmdSeqMapEdit a0 a1 s) := by
  unfold cmdSeqMapEdit
  dsimp -failIfUnchanged only
  repeat' first
    | with_reducible exact hs
    | with_reducible refine ite_keep ?_ ?_
    | dsimp only [fst_mk_eq, snd_mk_eq]
    | with_reducible refine keep_queueEdit hP _ _ _ _ ?_
    | with_reducible refine keep_mapEdit hP _ _ _ _ _ _ ?_
    | with_reducible refine keep_meetCmd hP _ _ _ _ ?_
    | split
    | intro _

theorem keep_cmdSrqPost {P : State → Prop} (hP : Stable P) (a0 : Nat) (a1 : Cmd) (s : State) (hs : P s) :
    Fst P (cmdSrqPost a0 a1 s) := by
  unfold cmdSrqPost
  dsimp -failIfUnchanged only
  repeat' first
    | with_reducible exact hs
    | with_reducible refine ite_keep ?_ ?_
    | dsimp only [fst_mk_eq, snd_mk_eq]
    | with_reducible refine keep_modPool hP _ _ _ _ ?_
    | split
    | intro _

theorem keep_zeroiseAll {P : State → Prop} (hP : Wide P) (a0 : Option Nat) (s : State) (hs : P s) :
    P (zeroiseAll a0 s) := by
  unfold zeroiseAll
  dsimp -failIfUnchanged only
  repeat' first
    | with_reducible exact hs
    | with_reducible assumption
    | with_reducible refine keep_fenceCell hP.1 _ _ ?_
    | with_reducible refine keep_postOps hP.1 _ _ ?_
    | with_reducible refine keep_releaseAndDrop hP.1 _ _ ?_
    | with_reducible refine keep_eraseP hP _ _ ?_
    | with_reducible refine keep_abortCmd hP.1 _ _ _ ?_
    | with_reducible refine foldl_keep ?_ ?_
    | split
    | intro _

theorem keep_cmdZeroise {P : State → Prop} (hP : Wide P) (a0 : Nat) (a1 : Cmd) (s : State) (hs : P s) :
    Fst P (cmdZeroise a0 a1 s) := by
  unfold cmdZeroise
  repeat' first
    | with_reducible exact hs
    | with_reducible refine ite_keep ?_ ?_
    | dsimp only [fst_mk_eq, snd_mk_eq]
    | with_reducible refine keep_zeroiseAll hP _ _ ?_
    | with_reducible refine keep_modSec hP.1 _ _ ?_
    | intro _

theorem keep_commitNow {P : State → Prop} (hP : Stable P) (a0 : Nat) (a1 : Nat) (s : State) (hs : P s) :
    P (commitNow a0 a1 s) := by
  unfold commitNow
  dsimp -failIfUnchanged only
  repeat' first
    | with_reducible exact hs
    | with_reducible refine keep_modPart hP _ _ _ ?_
    | with_reducible refine keep_commitItems hP _ _ _ _ ?_
    | split

theorem keep_commitReg {P : State → Prop} (hP : Stable P) (a0 : Nat) (a1 : Nat) (s : State) (hs : P s) :
    P (commitReg a0 a1 s) := by
  unfold commitReg
  repeat' first
    | with_reducible exact hs
    | with_reducible refine ite_keep ?_ ?_
    | with_reducible refine keep_commitNow hP _ _ _ ?_
    | with_reducible refine keep_modPart hP _ _ _ ?_
    | split
    | intro _

theorem keep_commitTurn {P : State → Prop} (hP : Stable P) (a0 : Nat) (s : State) (hs : P s) :
    P (commitTurn a0 s) := by
  unfold commitTurn
  repeat' first
    | with_reducible exact hs
    | with_reducible refine ite_keep ?_ ?_
    | with_reducible refine keep_commitNow hP _ _ _ ?_
    | with_reducible refine keep_modPart hP _ _ _ ?_
    | split
    | intro _

theorem keep_commitTurns {P : State → Prop} (hP : Stable P) (s : State) (hs : P s) :
    P (commitTurns s) := by
  unfold commitTurns
  repeat' first
    | with_reducible exact hs
    | with_reducible assumption
    | with_reducible refine keep_commitTurn hP _ _ ?_
    | with_reducible refine foldl_keep ?_ ?_
    | intro _

theorem keep_discardReg {P : State → Prop} (hP : Stable P) (a0 : Nat) (a1 : Nat) (s : State) (hs : P s) :
    P (discardReg a0 a1 s) := by
  unfold discardReg
  repeat' first
    | with_reducible exact hs
    | with_reducible refine keep_modPart hP _ _ _ ?_
    | split

theorem keep_commitWrite {P : State → Prop} (hP : Stable P) (a0 : Nat) (a1 : Nat) (a2 : Nat) (s : State) (hs : P s) :
    P (commitWrite a0 a1 a2 s) := by
  unfold commitWrite
  dsimp -failIfUnchanged only
  repeat' first
    | with_reducible exact hs
    | with_reducible refine ite_keep ?_ ?_
    | with_reducible refine keep_commitReg hP _ _ _ ?_
    | with_reducible refine keep_modPart hP _ _ _ ?_
    | with_reducible refine keep_discardReg hP _ _ _ ?_
    | split
    | intro _

theorem keep_congest {P : State → Prop} (hP : Stable P) (a0 : Nat) (s : State) (hs : P s) :
    P (congest a0 s) := by
  unfold congest
  dsimp -failIfUnchanged only
  repeat' first
    | with_reducible exact hs
    | with_reducible refine ite_keep ?_ ?_
    | with_reducible refine keep_modConn hP _ _ _ ?_
    | intro _

theorem keep_consume {P : State → Prop} (hP : Wide P) (a0 : Nat) (a1 : Nat) (s : State) (hs : P s) :
    P (consume a0 a1 s) := by
  unfold consume
  dsimp -failIfUnchanged only
  repeat' first
    | with_reducible exact hs
    | with_reducible refine ite_keep ?_ ?_
    | with_reducible refine keep_modCtx hP.1 _ _ _ ?_
    | with_reducible refine all_get (keep_addIncrements hP _ _ _ _ _ _ ?_) (by with_reducible assumption)
    | with_reducible refine keep_advanceHeld hP.1 _ _ _ _ ?_
    | with_reducible refine keep_modCore hP.1 _ _ _ _ ?_
    | split
    | intro _

theorem keep_restartEnds {P : State → Prop} (hP : Stable P) (a0 : Nat) (s : State) (hs : P s) :
    P (restartEnds a0 s) := by
  unfold restartEnds
  dsimp -failIfUnchanged only
  repeat' first
    | with_reducible exact hs
    | with_reducible refine ite_keep ?_ ?_
    | with_reducible refine keep_dropWork hP _ _ _ ?_
    | with_reducible refine keep_abortCmd hP _ _ _ ?_
    | intro _

theorem keep_controlRestart {P : State → Prop} (hP : Stable P) (s : State) (hs : P s) :
    P (controlRestart s) := by
  unfold controlRestart
  dsimp -failIfUnchanged only
  repeat' first
    | with_reducible exact hs
    | with_reducible assumption
    | with_reducible refine ite_keep ?_ ?_
    | with_reducible refine keep_modDbg hP _ _ ?_
    | with_reducible refine keep_climb4 hP _ _ _ _ _ _ ?_
    | with_reducible refine keep_restartEnds hP _ _ ?_
    | with_reducible refine keep_modNode hP _ _ ?_
    | with_reducible refine foldl_keep ?_ ?_
    | split
    | intro _

theorem keep_countCells {P : State → Prop} (hP : Stable P) (s : State) (hs : P s) :
    P (countCells s) := by
  unfold countCells
  repeat' first
    | with_reducible exact hs
    | with_reducible assumption
    | with_reducible refine keep_meter hP _ _ _ _ ?_
    | with_reducible refine foldl_keep ?_ ?_
    | intro _

theorem keep_countMalformed {P : State → Prop} (hP : Stable P) (a0 : Source) (s : State) (hs : P s) :
    P (countMalformed a0 s) := by
  unfold countMalformed
  repeat' first
    | with_reducible exact hs
    | with_reducible refine keep_modConn hP _ _ _ ?_
    | with_reducible refine keep_modQp hP _ _ _ _ ?_
    | split

theorem keep_drainPoolRing_go {P : State → Prop} (hP : Stable P) (a0 : Nat) (a1 : Nat) (a2 : Nat) (s : State) (hs : P s) :
    P (drainPoolRing.go a0 a1 a2 s) := by
  induction a2 generalizing s with
  | zero =>
    unfold drainPoolRing.go
    repeat' first
      | with_reducible exact hs
  | succ n ih =>
    unfold drainPoolRing.go
    dsimp -failIfUnchanged only
    repeat' first
      | with_reducible refine ih _ ?_
      | with_reducible exact hs
      | with_reducible refine ite_keep ?_ ?_
      | with_reducible refine keep_modPart hP _ _ _ ?_
      | with_reducible refine keep_raiseMsi hP _ _ _ ?_
      | with_reducible refine keep_emit hP _ _ ?_
      | split
      | intro _

theorem keep_drainPoolRing {P : State → Prop} (hP : Stable P) (a0 : Nat) (a1 : Nat) (s : State) (hs : P s) :
    P (drainPoolRing a0 a1 s) := by
  unfold drainPoolRing
  repeat' first
    | with_reducible exact hs
    | with_reducible refine keep_drainPoolRing_go hP _ _ _ _ ?_

theorem keep_postRecv {P : State → Prop} (hP : Stable P) (a0 : Nat) (a1 : Nat) (a2 : List Byte) (s : State) (hs : P s) :
    P (postRecv a0 a1 a2 s) := by
  unfold postRecv
  dsimp -failIfUnchanged only
  repeat' first
    | with_reducible exact hs
    | with_reducible refine keep_modPart hP _ _ _ ?_
    | with_reducible refine keep_drainPoolRing hP _ _ _ ?_

theorem keep_enrol {P : State → Prop} (hP : Stable P) (a0 : Cmd) (s : State) (hs : P s) :
    All (Snd (Snd P)) (enrol a0 s) := by
  unfold enrol
  dsimp -failIfUnchanged only
  repeat' first
    | with_reducible exact hs
    | with_reducible refine all_some ?_
    | with_reducible refine ite_keep ?_ ?_
    | with_reducible refine map_keep ?_
    | dsimp only [fst_mk_eq, snd_mk_eq]
    | with_reducible refine keep_modNode hP _ _ ?_
    | intro _
    | fail_if_no_progress (with_reducible refine mk_keep hP ?_)

theorem keep_latchWake {P : State → Prop} (hP : Stable P) (s : State) (hs : P s) :
    P (latchWake s) := by
  unfold latchWake
  repeat' first
    | with_reducible exact hs
    | with_reducible refine ite_keep ?_ ?_
    | with_reducible refine keep_abandonDrizzle hP _ ?_
    | with_reducible refine keep_modNode hP _ _ ?_
    | split
    | intro _

theorem keep_holdScorer {P : State → Prop} (hP : Stable P) (a0 : Nat) (a1 : Cmd) (s : State) (hs : P s) :
    P (holdScorer a0 a1 s) := by
  unfold holdScorer
  dsimp -failIfUnchanged only
  repeat' first
    | with_reducible exact hs
    | with_reducible refine ite_keep ?_ ?_
    | with_reducible refine keep_modScorer hP _ _ _ _ ?_
    | with_reducible refine keep_modCmd hP _ _ _ ?_
    | intro _

theorem keep_holdDeadline {P : State → Prop} (hP : Stable P) (a0 : Nat) (a1 : Cmd) (s : State) (hs : P s) :
    P (holdDeadline a0 a1 s) := by
  unfold holdDeadline
  dsimp -failIfUnchanged only
  repeat' first
    | with_reducible exact hs
    | with_reducible refine keep_modCtx hP _ _ _ ?_
    | with_reducible refine keep_modCmd hP _ _ _ ?_
    | split

theorem keep_holdTable {P : State → Prop} (hP : Stable P) (a0 : Nat) (a1 : Cmd) (s : State) (hs : P s) :
    P (holdTable a0 a1 s) := by
  unfold holdTable
  dsimp -failIfUnchanged only
  repeat' first
    | with_reducible exact hs
    | with_reducible refine ite_keep ?_ ?_
    | with_reducible refine keep_takeTable hP _ _ _ ?_
    | with_reducible refine keep_modCmd hP _ _ _ ?_
    | split
    | intro _

theorem keep_freeOrphans {P : State → Prop} (hP : Stable P) (a0 : Nat) (a1 : Nat) (a2 : Nat) (a3 : Nat) (s : State) (hs : P s) :
    P (freeOrphans a0 a1 a2 a3 s) := by
  unfold freeOrphans
  dsimp -failIfUnchanged only
  repeat' first
    | with_reducible exact hs
    | with_reducible assumption
    | with_reducible refine keep_modPart hP _ _ _ ?_
    | with_reducible refine keep_modCell hP _ _ _ ?_
    | with_reducible refine foldl_keep ?_ ?_
    | intro _

theorem keep_meetSender {P : State → Prop} (hP : Stable P) (a0 : Cmd) (s : State) (hs : P s) :
    P (meetSender a0 s) := by
  unfold meetSender
  repeat' first
    | with_reducible exact hs
    | with_reducible refine ite_keep ?_ ?_
    | with_reducible refine keep_freeOrphans hP _ _ _ _ _ ?_
    | split
    | intro _

theorem keep_takeHolds {P : State → Prop} (hP : Stable P) (a0 : Nat) (a1 : Cmd) (s : State) (hs : P s) :
    P (takeHolds a0 a1 s) := by
  unfold takeHolds
  repeat' first
    | with_reducible exact hs
    | with_reducible refine keep_holdScorer hP _ _ _ ?_
    | with_reducible refine keep_holdDeadline hP _ _ _ ?_
    | with_reducible refine keep_holdTable hP _ _ _ ?_
    | with_reducible refine keep_meetSender hP _ _ ?_

theorem keep_submit {P : State → Prop} (hP : Stable P) (a0 : Source) (a1 : Packet) (a2 : Handler) (s : State) (h2 : ∀ i c s, P s → Fst P (a2 i c s)) (hs : P s) :
    P (submit a0 a1 a2 s) := by
  unfold submit
  dsimp -failIfUnchanged only
  repeat' first
    | with_reducible exact hs
    | with_reducible assumption
    | with_reducible refine ite_keep ?_ ?_
    | with_reducible refine snd_one (snd_one (all_get (keep_enrol hP _ _ ?_) (by with_reducible assumption)))
    | with_reducible refine keep_handReply hP _ _ _ _ _ _ _ _ ?_
    | with_reducible refine keep_latchWake hP _ ?_
    | with_reducible refine keep_countMalformed hP _ _ ?_
    | with_reducible refine snd_one (keep_draw hP _ ?_)
    | with_reducible refine keep_modCmd hP _ _ _ ?_
    | with_reducible refine keep_modNode hP _ _ ?_
    | with_reducible refine keep_begin_ hP _ _ _ ?_ ?_
    | with_reducible refine keep_takeHolds hP _ _ _ ?_
    | split
    | intro _

theorem keep_runOp {P : State → Prop} (hP : Wide P) (a0 : Nat) (a1 : Cmd) (s : State) (hs : P s) :
    Fst P (runOp a0 a1 s) := by
  unfold runOp
  repeat' first
    | with_reducible exact hs
    | dsimp only [fst_mk_eq, snd_mk_eq]
    | with_reducible refine keep_cmdMatchDelete hP.1 _ _ _ ?_
    | with_reducible refine keep_cmdFwActivate hP.1 _ _ _ ?_
    | with_reducible refine keep_cmdConfigStage hP.1 _ _ _ ?_
    | with_reducible refine keep_cmdPoolSet hP.1 _ _ _ ?_
    | with_reducible refine keep_cmdAttendAny hP.1 _ _ _ ?_
    | with_reducible refine keep_cmdPagePin hP.1 _ _ _ ?_
    | with_reducible refine keep_cmdSeqCreate hP.1 _ _ _ ?_
    | with_reducible refine keep_cmdSrqPost hP.1 _ _ _ ?_
    | with_reducible refine keep_cmdKeyRotate hP.1 _ _ _ ?_
    | with_reducible refine keep_cmdFormatTableLoad hP.1 _ _ _ ?_
    | with_reducible refine keep_cmdConnModify hP.1 _ _ _ ?_
    | with_reducible refine keep_cmdDumpRead hP.1 _ _ _ ?_
    | with_reducible refine keep_cmdIdentify hP.1 _ _ _ ?_
    | with_reducible refine keep_cmdRegionRegister hP.1 _ _ _ ?_
    | with_reducible refine keep_cmdMatchSearch hP.1 _ _ _ ?_
    | with_reducible refine keep_cmdRegionRevoke hP.1 _ _ _ ?_
    | with_reducible refine keep_cmdAttendBwd hP.1 _ _ _ ?_
    | with_reducible refine keep_cmdConnCreate hP.1 _ _ _ ?_
    | with_reducible refine keep_cmdLeaseHandoff hP.1 _ _ _ ?_
    | with_reducible refine keep_cmdBankOp hP.1 _ _ _ ?_
    | with_reducible refine keep_cmdPowerState hP.1 _ _ _ ?_
    | with_reducible refine keep_cmdAttestGet hP.1 _ _ _ ?_
    | with_reducible refine keep_cmdScorerLoad hP.1 _ _ _ ?_
    | with_reducible refine keep_cmdLeaseRenew hP.1 _ _ _ ?_
    | with_reducible refine keep_cmdPageMigrate hP.1 _ _ _ ?_
    | with_reducible refine keep_cmdCancel hP.1 _ _ _ ?_
    | with_reducible refine keep_cmdJobKeyInstall hP.1 _ _ _ ?_
    | with_reducible refine keep_cmdEventSubscribe hP.1 _ _ _ ?_
    | with_reducible refine keep_cmdResetLevel hP.1 _ _ _ ?_
    | with_reducible refine keep_cmdZeroise hP _ _ _ ?_
    | with_reducible refine keep_cmdMeterReport hP.1 _ _ _ ?_
    | with_reducible refine keep_cmdSeqDestroy hP.1 _ _ _ ?_
    | with_reducible refine keep_cmdPlaceSet hP.1 _ _ _ ?_
    | with_reducible refine keep_cmdMatchConfig hP.1 _ _ _ ?_
    | with_reducible refine keep_cmdSaInstall hP.1 _ _ _ ?_
    | with_reducible refine keep_cmdPageShare hP.1 _ _ _ ?_
    | with_reducible refine keep_cmdPageLend hP.1 _ _ _ ?_
    | with_reducible refine keep_cmdAppendAny hP.1 _ _ _ ?_
    | with_reducible refine keep_cmdSeqMapEdit hP.1 _ _ _ ?_
    | with_reducible refine keep_cmdPartitionCreate hP _ _ _ ?_
    | with_reducible refine keep_cmdLeaseRelease hP.1 _ _ _ ?_
    | with_reducible refine keep_cmdDumpCollect hP.1 _ _ _ ?_
    | with_reducible refine keep_cmdBankOpstat hP.1 _ _ _ ?_
    | with_reducible refine keep_cmdPageRecall hP.1 _ _ _ ?_
    | with_reducible refine keep_cmdMatchStep hP.1 _ _ _ ?_
    | with_reducible refine keep_cmdConfigCommit hP.1 _ _ _ ?_
    | with_reducible refine keep_cmdBudgetSet hP.1 _ _ _ ?_
    | with_reducible refine keep_cmdMerge hP.1 _ _ _ ?_
    | with_reducible refine keep_cmdNop hP.1 _ _ _ ?_
    | with_reducible refine keep_cmdDigestBuild hP.1 _ _ _ ?_
    | with_reducible refine keep_cmdPartitionDestroy hP _ _ _ ?_
    | with_reducible refine keep_cmdReadState hP.1 _ _ _ ?_
    | with_reducible refine keep_cmdConnDestroy hP.1 _ _ _ ?_
    | with_reducible refine keep_cmdLeaseAcquire hP.1 _ _ _ ?_
    | with_reducible refine keep_cmdMatchInsert hP.1 _ _ _ ?_
    | with_reducible refine keep_cmdFwStage hP.1 _ _ _ ?_
    | with_reducible refine keep_cmdFrostArm hP.1 _ _ _ ?_
    | split

theorem keep_movedReply {P : State → Prop} (hP : Stable P) (a0 : Nat) (a1 : Await) (a2 : List Byte) (s : State) (hs : P s) :
    P (movedReply a0 a1 a2 s) := by
  unfold movedReply
  repeat' first
    | with_reducible exact hs
    | with_reducible refine ite_keep ?_ ?_
    | with_reducible refine keep_meetEpochs hP _ _ _ _ _ _ _ _ ?_
    | with_reducible refine keep_depose hP _ _ _ _ _ _ ?_
    | intro _

theorem keep_fabricReply {P : State → Prop} (hP : Stable P) (a0 : Nat) (a1 : Nat) (a2 : Nat) (a3 : Nat) (a4 : List Byte) (s : State) (hs : P s) :
    P (fabricReply a0 a1 a2 a3 a4 s) := by
  unfold fabricReply
  dsimp -failIfUnchanged only
  repeat' first
    | with_reducible exact hs
    | with_reducible refine ite_keep ?_ ?_
    | with_reducible refine keep_movedReply hP _ _ _ _ ?_
    | with_reducible refine keep_modPart hP _ _ _ ?_
    | with_reducible refine keep_answered hP _ _ _ _ _ _ ?_
    | split
    | intro _

theorem keep_memberReply {P : State → Prop} (hP : Stable P) (a0 : Nat) (a1 : Nat) (a2 : Nat) (a3 : Nat) (a4 : List Byte) (s : State) (hs : P s) :
    P (memberReply a0 a1 a2 a3 a4 s) := by
  unfold memberReply
  dsimp -failIfUnchanged only
  repeat' first
    | with_reducible exact hs
    | with_reducible refine ite_keep ?_ ?_
    | with_reducible refine keep_neighbourDone hP _ _ _ _ ?_
    | with_reducible refine keep_acceptRows hP _ _ _ _ _ _ ?_
    | with_reducible refine keep_partReply hP _ _ _ _ _ _ ?_
    | with_reducible refine keep_reissue hP _ _ _ ?_
    | with_reducible refine keep_loseLent hP _ _ _ _ ?_
    | with_reducible refine keep_postMember hP _ _ _ _ ?_
    | with_reducible refine keep_depose hP _ _ _ _ _ _ ?_
    | with_reducible refine keep_spanFailed hP _ _ _ ?_
    | with_reducible refine keep_sendSub hP _ _ _ _ _ ?_
    | split
    | intro _

theorem keep_deliverReply {P : State → Prop} (hP : Stable P) (a0 : Nat) (a1 : List Byte) (a2 : Option (Nat × Nat × Nat)) (s : State) (hs : P s) :
    P (deliverReply a0 a1 a2 s) := by
  unfold deliverReply
  dsimp -failIfUnchanged only
  repeat' first
    | with_reducible exact hs
    | with_reducible refine keep_fabricReply hP _ _ _ _ _ _ ?_
    | with_reducible refine keep_memberReply hP _ _ _ _ _ _ ?_
    | split

theorem keep_meetInc {P : State → Prop} (hP : Stable P) (a0 : Nat) (a1 : Nat) (s : State) (hs : P s) :
    All P (meetInc a0 a1 s) := by
  unfold meetInc
  dsimp -failIfUnchanged only
  repeat' first
    | with_reducible exact hs
    | with_reducible exact all_none
    | with_reducible refine all_some ?_
    | with_reducible refine ite_keep ?_ ?_
    | with_reducible refine keep_modNode hP _ _ ?_
    | intro _

theorem keep_deliverSend {P : State → Prop} (hP : Wide P) (a0 : Nat) (a1 : List Byte) (s : State) (hs : P s) :
    P (deliverSend a0 a1 s) := by
  unfold deliverSend
  dsimp -failIfUnchanged only
  repeat' first
    | with_reducible exact hs
    | with_reducible assumption
    | with_reducible refine ite_keep ?_ ?_
    | with_reducible refine elim_keep ?_ ?_
    | with_reducible refine keep_submit hP.1 _ _ _ _ ?_ ?_
    | with_reducible refine keep_askedHere hP.1 _ _ _ _ _ ?_
    | with_reducible refine keep_runOp hP _ _ _ ?_
    | with_reducible refine keep_deliverReply hP.1 _ _ _ _ ?_
    | with_reducible refine all_get (keep_meetInc hP.1 _ _ _ ?_) (by with_reducible assumption)
    | split
    | intro _

theorem keep_deliverMsg {P : State → Prop} (hP : Wide P) (a0 : Nat) (a1 : MsgIn) (s : State) (hs : P s) :
    P (deliverMsg a0 a1 s) := by
  unfold deliverMsg
  dsimp -failIfUnchanged only
  repeat' first
    | with_reducible exact hs
    | with_reducible refine all_some ?_
    | with_reducible refine ite_keep ?_ ?_
    | dsimp only [fst_mk_eq, snd_mk_eq]
    | with_reducible refine keep_returnBuf hP.1 _ _ _ _ ?_
    | with_reducible refine keep_postRecv hP.1 _ _ _ _ ?_
    | with_reducible refine keep_leaveRegion hP.1 _ _ _ ?_
    | with_reducible refine keep_takeBuf hP.1 _ _ _ ?_
    | with_reducible refine keep_deliverSend hP _ _ _ ?_
    | split
    | intro _
    | with_reducible refine snd_get (all_get (Q := Snd P) ?_ (by with_reducible assumption)) rfl

theorem keep_deliverPassed {P : State → Prop} (hP : Wide P) (a0 : Nat) (a1 : Nat) (s : State) (hs : P s) :
    P (deliverPassed a0 a1 s) := by
  induction a0 generalizing s with
  | zero =>
    unfold deliverPassed
    repeat' first
      | with_reducible exact hs
  | succ n ih =>
    unfold deliverPassed
    dsimp -failIfUnchanged only
    repeat' first
      | with_reducible refine ih _ ?_
      | with_reducible exact hs
      | with_reducible refine ite_keep ?_ ?_
      | with_reducible refine keep_deliverMsg hP _ _ _ ?_
      | with_reducible refine keep_modConn hP.1 _ _ _ ?_
      | split
      | intro _

theorem keep_qpErr {P : State → Prop} (hP : Stable P) (a0 : Nat) (a1 : Nat) (a2 : Nat) (s : State) (hs : P s) :
    P (qpErr a0 a1 a2 s) := by
  unfold qpErr
  dsimp -failIfUnchanged only
  repeat' first
    | with_reducible exact hs
    | with_reducible refine ite_keep ?_ ?_
    | with_reducible refine keep_raiseMsi hP _ _ _ ?_
    | with_reducible refine keep_modQp hP _ _ _ _ ?_
    | intro _

theorem keep_qpFault {P : State → Prop} (hP : Stable P) (a0 : Nat) (a1 : Nat) (a2 : Nat) (s : State) (hs : P s) :
    P (qpFault a0 a1 a2 s) := by
  unfold qpFault
  dsimp -failIfUnchanged only
  repeat' first
    | with_reducible exact hs
    | with_reducible refine ite_keep ?_ ?_
    | with_reducible refine keep_qpErr hP _ _ _ _ ?_
    | with_reducible refine keep_modQp hP _ _ _ _ ?_
    | intro _
    | fail_if_no_progress (with_reducible refine mk_keep hP ?_)

theorem keep_doorbell {P : State → Prop} (hP : Stable P) (a0 : Bool) (a1 : Nat) (a2 : Nat) (a3 : Nat) (s : State) (hs : P s) :
    P (doorbell a0 a1 a2 a3 s) := by
  unfold doorbell
  dsimp -failIfUnchanged only
  repeat' first
    | with_reducible exact hs
    | with_reducible refine ite_keep ?_ ?_
    | with_reducible refine keep_latchWake hP _ ?_
    | with_reducible refine keep_modQp hP _ _ _ _ ?_
    | with_reducible refine keep_qpFault hP _ _ _ _ ?_
    | split
    | intro _

theorem keep_drainRing {P : State → Prop} (hP : Stable P) (a0 : Nat) (a1 : RingId) (s : State) (hs : P s) :
    P (drainRing a0 a1 s) := by
  unfold drainRing
  dsimp -failIfUnchanged only
  repeat' first
    | with_reducible exact hs
    | with_reducible assumption
    | with_reducible refine ite_keep ?_ ?_
    | with_reducible refine keep_modFn hP _ _ _ ?_
    | with_reducible refine keep_drainPoolRing hP _ _ _ ?_
    | with_reducible refine keep_postEventRing hP _ _ _ ?_
    | with_reducible refine foldl_keep ?_ ?_
    | split
    | intro _

theorem keep_dropPacket {P : State → Prop} (hP : Stable P) (a0 : Nat) (s : State) (hs : P s) :
    P (dropPacket a0 s) := by
  unfold dropPacket
  repeat' first
    | with_reducible exact hs
    | with_reducible refine keep_modConn hP _ _ _ ?_

theorem keep_editHandler {P : State → Prop} (hP : Stable P) (a0 : Nat) (a1 : Nat) (a2 : Cmd) (s : State) (hs : P s) :
    Fst P (editHandler a0 a1 a2 s) := by
  unfold editHandler
  repeat' first
    | with_reducible exact hs
    | with_reducible refine keep_cmdPageMigrate hP _ _ _ ?_
    | with_reducible refine keep_cmdSeqDestroy hP _ _ _ ?_
    | with_reducible refine keep_cmdPageShare hP _ _ _ ?_
    | with_reducible refine keep_cmdPageLend hP _ _ _ ?_
    | with_reducible refine keep_cmdAppendAny hP _ _ _ ?_
    | with_reducible refine keep_cmdSeqMapEdit hP _ _ _ ?_
    | with_reducible refine keep_cmdPageRecall hP _ _ _ ?_
    | split

theorem keep_emitPacket {P : State → Prop} (hP : Stable P) (a0 : Nat) (a1 : MsgOut) (a2 : Nat) (a3 : Nat) (a4 : Bool) (s : State) (hs : P s) :
    P (emitPacket a0 a1 a2 a3 a4 s) := by
  unfold emitPacket
  dsimp -failIfUnchanged only
  repeat' first
    | with_reducible exact hs
    | with_reducible refine keep_sendPkt hP _ _ _ _ ?_

theorem keep_emits {P : State → Prop} (hP : Stable P) (a0 : List Output) (s : State) (hs : P s) :
    P (emits a0 s) := by
  unfold emits
  repeat' first
    | with_reducible exact hs
    | with_reducible assumption
    | with_reducible refine keep_emit hP _ _ ?_
    | with_reducible refine foldl_keep ?_ ?_
    | intro _

theorem keep_errorState {P : State → Prop} (hP : Stable P) (a0 : Nat) (s : State) (hs : P s) :
    P (errorState a0 s) := by
  unfold errorState
  dsimp -failIfUnchanged only
  repeat' first
    | with_reducible exact hs
    | with_reducible assumption
    | with_reducible refine keep_modSec hP _ _ ?_
    | with_reducible refine keep_modPart hP _ _ _ ?_
    | with_reducible refine keep_endByReset hP _ _ _ ?_
    | with_reducible refine keep_assertFault hP _ ?_
    | with_reducible refine foldl_keep ?_ ?_
    | split
    | intro _
    | fail_if_no_progress (with_reducible refine mk_keep hP ?_)

theorem keep_sendAck {P : State → Prop} (hP : Stable P) (a0 : Nat) (a1 : Nat) (a2 : Nat) (s : State) (hs : P s) :
    P (sendAck a0 a1 a2 s) := by
  unfold sendAck
  dsimp -failIfUnchanged only
  repeat' first
    | with_reducible exact hs
    | with_reducible refine keep_modConn hP _ _ _ ?_
    | with_reducible refine keep_ackPkt hP _ _ _ _ _ ?_

theorem keep_execAckDelayExpiry {P : State → Prop} (hP : Stable P) (a0 : Nat) (s : State) (hs : P s) :
    Next P (execAckDelayExpiry a0 s) := by
  unfold execAckDelayExpiry
  repeat' first
    | with_reducible exact hs
    | with_reducible refine next_next ?_
    | with_reducible refine ite_keep ?_ ?_
    | with_reducible refine keep_sendAck hP _ _ _ _ ?_
    | split
    | intro _

theorem keep_resendPsn {P : State → Prop} (hP : Stable P) (a0 : Nat) (a1 : Nat) (s : State) (hs : P s) :
    P (resendPsn a0 a1 s) := by
  unfold resendPsn
  dsimp -failIfUnchanged only
  repeat' first
    | with_reducible exact hs
    | with_reducible refine ite_keep ?_ ?_
    | with_reducible refine keep_emitPacket hP _ _ _ _ _ _ ?_
    | with_reducible refine keep_modConn hP _ _ _ ?_
    | with_reducible refine keep_failConn hP _ _ ?_
    | split
    | intro _

theorem keep_goBack {P : State → Prop} (hP : Stable P) (a0 : Nat) (a1 : Nat) (s : State) (hs : P s) :
    P (goBack a0 a1 s) := by
  unfold goBack
  dsimp -failIfUnchanged only
  repeat' first
    | with_reducible exact hs
    | with_reducible assumption
    | with_reducible refine keep_resendPsn hP _ _ _ ?_
    | with_reducible refine foldl_keep ?_ ?_
    | intro _

theorem keep_execAckTimeout {P : State → Prop} (hP : Stable P) (a0 : Nat) (a1 : Nat) (s : State) (hs : P s) :
    Next P (execAckTimeout a0 a1 s) := by
  unfold execAckTimeout
  dsimp -failIfUnchanged only
  repeat' first
    | with_reducible exact hs
    | with_reducible refine next_next ?_
    | with_reducible refine ite_keep ?_ ?_
    | with_reducible refine keep_modConn hP _ _ _ ?_
    | with_reducible refine keep_goBack hP _ _ _ ?_
    | with_reducible refine keep_resendPsn hP _ _ _ ?_
    | split
    | intro _

theorem keep_submitOp {P : State → Prop} (hP : Stable P) (a0 : Nat) (a1 : Source) (a2 : Packet) (a3 : Handler) (s : State) (h3 : ∀ i c s, P s → Fst P (a3 i c s)) (hs : P s) :
    P (submitOp a0 a1 a2 a3 s) := by
  unfold submitOp
  repeat' first
    | with_reducible exact hs
    | with_reducible assumption
    | with_reducible refine ite_keep ?_ ?_
    | with_reducible refine keep_submit hP _ _ _ _ ?_ ?_
    | intro _

theorem keep_execAppendCmd {P : State → Prop} (hP : Stable P) (a0 : Source) (a1 : Packet) (s : State) (hs : P s) :
    Next P (execAppendCmd a0 a1 s) := by
  unfold execAppendCmd
  repeat' first
    | with_reducible exact hs
    | with_reducible assumption
    | with_reducible refine next_next ?_
    | with_reducible refine keep_submitOp hP _ _ _ _ _ ?_ ?_
    | with_reducible refine keep_cmdAppend hP _ _ _ ?_
    | intro _

theorem keep_execArpNdReceive {P : State → Prop} (hP : Stable P) (a0 : Nat) (a1 : Bool) (a2 : Bool) (a3 : List Byte) (a4 : List Byte) (a5 : List Byte) (s : State) (hs : P s) :
    Next P (execArpNdReceive a0 a1 a2 a3 a4 a5 s) := by
  unfold execArpNdReceive
  dsimp -failIfUnchanged only
  repeat' first
    | with_reducible exact hs
    | with_reducible refine next_next ?_
    | with_reducible refine ite_keep ?_ ?_
    | with_reducible refine keep_emit hP _ _ ?_
    | with_reducible refine keep_useTx hP _ _ ?_
    | split
    | intro _
    | fail_if_no_progress (with_reducible refine mk_keep hP ?_)

theorem keep_execAttend {P : State → Prop} (hP : Stable P) (a0 : Source) (a1 : Packet) (s : State) (hs : P s) :
    Next P (execAttend a0 a1 s) := by
  unfold execAttend
  repeat' first
    | with_reducible exact hs
    | with_reducible assumption
    | with_reducible refine next_next ?_
    | with_reducible refine keep_submitOp hP _ _ _ _ _ ?_ ?_
    | with_reducible refine keep_cmdAttend hP _ _ _ ?_
    | intro _

theorem keep_execAttendBwd {P : State → Prop} (hP : Stable P) (a0 : Source) (a1 : Packet) (s : State) (hs : P s) :
    Next P (execAttendBwd a0 a1 s) := by
  unfold execAttendBwd
  repeat' first
    | with_reducible exact hs
    | with_reducible assumption
    | with_reducible refine next_next ?_
    | with_reducible refine keep_submitOp hP _ _ _ _ _ ?_ ?_
    | with_reducible refine keep_cmdAttendBwd hP _ _ _ ?_
    | intro _

theorem keep_execAttestGet {P : State → Prop} (hP : Stable P) (a0 : Source) (a1 : Packet) (s : State) (hs : P s) :
    Next P (execAttestGet a0 a1 s) := by
  unfold execAttestGet
  repeat' first
    | with_reducible exact hs
    | with_reducible assumption
    | with_reducible refine next_next ?_
    | with_reducible refine keep_submitOp hP _ _ _ _ _ ?_ ?_
    | with_reducible refine keep_cmdAttestGet hP _ _ _ ?_
    | intro _

theorem keep_execAutoneg {P : State → Prop} (hP : Stable P) (a0 : Nat) (a1 : Nat) (a2 : Nat) (a3 : Bool) (s : State) (hs : P s) :
    Next P (execAutoneg a0 a1 a2 a3 s) := by
  unfold execAutoneg
  dsimp -failIfUnchanged only
  repeat' first
    | with_reducible exact hs
    | with_reducible refine next_next ?_
    | with_reducible refine ite_keep ?_ ?_
    | with_reducible refine keep_modPort hP _ _ _ ?_
    | with_reducible refine keep_downPort hP _ _ ?_
    | split
    | intro _

theorem keep_setCause {P : State → Prop} (hP : Stable P) (a0 : Nat) (s : State) (hs : P s) :
    P (setCause a0 s) := by
  unfold setCause
  dsimp -failIfUnchanged only
  repeat' first
    | with_reducible exact hs
    | with_reducible refine ite_keep ?_ ?_
    | with_reducible refine keep_applyClocks hP _ ?_
    | with_reducible refine keep_modPwr hP _ _ ?_
    | with_reducible refine keep_latchWake hP _ ?_
    | with_reducible refine keep_announceThrottle hP _ _ ?_
    | intro _

theorem keep_regFault {P : State → Prop} (hP : Stable P) (a0 : Nat) (s : State) (hs : P s) :
    P (regFault a0 s) := by
  unfold regFault
  repeat' first
    | with_reducible exact hs
    | with_reducible refine keep_setCause hP _ _ ?_
    | with_reducible refine keep_modCellPwr hP _ _ _ ?_

theorem keep_pollRail {P : State → Prop} (hP : Stable P) (s : State) (a1 : RailRead) (hs : P s) :
    P (pollRail s a1) := by
  unfold pollRail
  dsimp -failIfUnchanged only
  repeat' first
    | with_reducible exact hs
    | with_reducible refine ite_keep ?_ ?_
    | with_reducible refine keep_regFault hP _ _ ?_
    | with_reducible refine keep_setCause hP _ _ ?_
    | with_reducible refine keep_modCellPwr hP _ _ _ ?_
    | split
    | intro _

theorem keep_execAvsPoll {P : State → Prop} (hP : Stable P) (a0 : Nat) (a1 : Bool) (a2 : List RailRead) (s : State) (hs : P s) :
    Next P (execAvsPoll a0 a1 a2 s) := by
  unfold execAvsPoll
  dsimp -failIfUnchanged only
  repeat' first
    | with_reducible exact hs
    | with_reducible assumption
    | with_reducible refine next_next ?_
    | with_reducible refine ite_keep ?_ ?_
    | with_reducible refine keep_setCause hP _ _ ?_
    | with_reducible refine keep_modPwr hP _ _ ?_
    | with_reducible refine keep_pollRail hP _ _ ?_
    | with_reducible refine keep_clearCond hP _ _ _ ?_
    | with_reducible refine foldl_keep ?_ ?_
    | split
    | intro _

theorem keep_powerReply {P : State → Prop} (hP : Stable P) (a0 : Nat) (a1 : Nat) (s : State) (hs : P s) :
    P (powerReply a0 a1 s) := by
  unfold powerReply
  dsimp -failIfUnchanged only
  repeat' first
    | with_reducible exact hs
    | with_reducible refine keep_conclude hP _ _ _ ?_

theorem keep_settlePower {P : State → Prop} (hP : Stable P) (s : State) (hs : P s) :
    P (settlePower s) := by
  unfold settlePower
  dsimp -failIfUnchanged only
  repeat' first
    | with_reducible exact hs
    | with_reducible assumption
    | with_reducible refine ite_keep ?_ ?_
    | with_reducible refine keep_modPwr hP _ _ ?_
    | with_reducible refine keep_powerReply hP _ _ _ ?_
    | with_reducible refine keep_modCellPwr hP _ _ _ ?_
    | with_reducible refine foldl_keep ?_ ?_
    | split
    | intro _

theorem keep_execAvsTimeout {P : State → Prop} (hP : Stable P) (a0 : Nat) (s : State) (hs : P s) :
    Next P (execAvsTimeout a0 s) := by
  unfold execAvsTimeout
  repeat' first
    | with_reducible exact hs
    | with_reducible refine next_next ?_
    | with_reducible refine ite_keep ?_ ?_
    | with_reducible refine keep_regFault hP _ _ ?_
    | with_reducible refine keep_settlePower hP _ ?_
    | split
    | intro _

theorem keep_execAvsVoltageReached {P : State → Prop} (hP : Stable P) (a0 : Nat) (a1 : Nat) (s : State) (hs : P s) :
    Next P (execAvsVoltageReached a0 a1 s) := by
  unfold execAvsVoltageReached
  dsimp -failIfUnchanged only
  repeat' first
    | with_reducible exact hs
    | with_reducible refine next_next ?_
    | with_reducible refine ite_keep ?_ ?_
    | with_reducible refine keep_settlePower hP _ ?_
    | with_reducible refine keep_clearCond hP _ _ _ ?_
    | with_reducible refine keep_modCellPwr hP _ _ _ ?_
    | split
    | intro _

theorem keep_execBankElementDone {P : State → Prop} (hP : Wide P) (a0 : Nat) (a1 : Nat) (s : State) (hs : P s) :
    Next P (execBankElementDone a0 a1 s) := by
  unfold execBankElementDone
  repeat' first
    | with_reducible exact hs
    | with_reducible refine next_next ?_
    | with_reducible refine keep_bankStep hP _ _ _ ?_

theorem keep_execBankOp {P : State → Prop} (hP : Stable P) (a0 : Source) (a1 : Packet) (s : State) (hs : P s) :
    Next P (execBankOp a0 a1 s) := by
  unfold execBankOp
  repeat' first
    | with_reducible exact hs
    | with_reducible assumption
    | with_reducible refine next_next ?_
    | with_reducible refine keep_submitOp hP _ _ _ _ _ ?_ ?_
    | with_reducible refine keep_cmdBankOp hP _ _ _ ?_
    | intro _

theorem keep_execBankOpstat {P : State → Prop} (hP : Stable P) (a0 : Source) (a1 : Packet) (s : State) (hs : P s) :
    Next P (execBankOpstat a0 a1 s) := by
  unfold execBankOpstat
  repeat' first
    | with_reducible exact hs
    | with_reducible assumption
    | with_reducible refine next_next ?_
    | with_reducible refine keep_submitOp hP _ _ _ _ _ ?_ ?_
    | with_reducible refine keep_cmdBankOpstat hP _ _ _ ?_
    | intro _

theorem keep_execBatchClose {P : State → Prop} (hP : Stable P) (a0 : Nat) (a1 : Nat) (s : State) (hs : P s) :
    Next P (execBatchClose a0 a1 s) := by
  unfold execBatchClose
  dsimp -failIfUnchanged only
  repeat' first
    | with_reducible exact hs
    | with_reducible refine next_next ?_
    | with_reducible refine ite_keep ?_ ?_
    | with_reducible refine keep_closeBatch hP _ _ _ ?_
    | split
    | intro _

theorem keep_execBootDone {P : State → Prop} (hP : Stable P) (a0 : Nat) (s : State) (hs : P s) :
    Next P (execBootDone a0 s) := by
  unfold execBootDone
  dsimp -failIfUnchanged only
  repeat' first
    | with_reducible exact hs
    | with_reducible refine next_next ?_
    | with_reducible refine ite_keep ?_ ?_
    | with_reducible refine keep_modSec hP _ _ ?_
    | with_reducible refine keep_releaseFault hP _ ?_
    | with_reducible refine keep_modPart hP _ _ _ ?_
    | with_reducible refine keep_modNode hP _ _ ?_
    | intro _

theorem keep_execBudgetSet {P : State → Prop} (hP : Stable P) (a0 : Source) (a1 : Packet) (s : State) (hs : P s) :
    Next P (execBudgetSet a0 a1 s) := by
  unfold execBudgetSet
  repeat' first
    | with_reducible exact hs
    | with_reducible assumption
    | with_reducible refine next_next ?_
    | with_reducible refine keep_submitOp hP _ _ _ _ _ ?_ ?_
    | with_reducible refine keep_cmdBudgetSet hP _ _ _ ?_
    | intro _

theorem keep_execCancel {P : State → Prop} (hP : Stable P) (a0 : Source) (a1 : Packet) (s : State) (hs : P s) :
    Next P (execCancel a0 a1 s) := by
  unfold execCancel
  repeat' first
    | with_reducible exact hs
    | with_reducible assumption
    | with_reducible refine next_next ?_
    | with_reducible refine keep_submitOp hP _ _ _ _ _ ?_ ?_
    | with_reducible refine keep_cmdCancel hP _ _ _ ?_
    | intro _

theorem keep_execCapRetry {P : State → Prop} (hP : Stable P) (a0 : Nat) (s : State) (hs : P s) :
    Next P (execCapRetry a0 s) := by
  unfold execCapRetry
  dsimp -failIfUnchanged only
  repeat' first
    | with_reducible exact hs
    | with_reducible refine next_next ?_
    | with_reducible refine ite_keep ?_ ?_
    | with_reducible refine keep_modConn hP _ _ _ ?_
    | with_reducible refine keep_capSend hP _ _ _ _ ?_
    | with_reducible refine keep_capEnd hP _ _ _ ?_
    | split
    | intro _

theorem keep_leaveExchange {P : State → Prop} (hP : Stable P) (a0 : Nat) (a1 : List Byte) (s : State) (hs : P s) :
    P (leaveExchange a0 a1 s) := by
  unfold leaveExchange
  dsimp -failIfUnchanged only
  repeat' first
    | with_reducible exact hs
    | with_reducible refine ite_keep ?_ ?_
    | with_reducible refine keep_modPort hP _ _ _ ?_
    | with_reducible refine keep_emit hP _ _ ?_
    | split
    | intro _

theorem keep_execCapabilityBlock {P : State → Prop} (hP : Stable P) (a0 : Nat) (a1 : List Byte) (s : State) (hs : P s) :
    Next P (execCapabilityBlock a0 a1 s) := by
  unfold execCapabilityBlock
  dsimp -failIfUnchanged only
  repeat' first
    | with_reducible exact hs
    | with_reducible refine next_next ?_
    | with_reducible refine ite_keep ?_ ?_
    | with_reducible refine keep_modPort hP _ _ _ ?_
    | with_reducible refine keep_checkStored hP _ ?_
    | with_reducible refine keep_leaveExchange hP _ _ _ ?_
    | with_reducible refine keep_downPort hP _ _ ?_
    | split
    | intro _

theorem keep_execCapabilityBlockRepeat {P : State → Prop} (hP : Stable P) (a0 : Nat) (s : State) (hs : P s) :
    Next P (execCapabilityBlockRepeat a0 s) := by
  unfold execCapabilityBlockRepeat
  dsimp -failIfUnchanged only
  repeat' first
    | with_reducible exact hs
    | with_reducible refine next_next ?_
    | with_reducible refine ite_keep ?_ ?_
    | with_reducible refine keep_modPort hP _ _ _ ?_
    | with_reducible refine keep_checkStored hP _ ?_
    | with_reducible refine keep_emit hP _ _ ?_
    | intro _

theorem keep_execCapabilityDatagram {P : State → Prop} (hP : Stable P) (a0 : Nat) (a1 : List Byte) (a2 : List Byte) (s : State) (hs : P s) :
    Next P (execCapabilityDatagram a0 a1 a2 s) := by
  unfold execCapabilityDatagram
  dsimp -failIfUnchanged only
  repeat' first
    | with_reducible exact hs
    | with_reducible refine next_next ?_
    | with_reducible refine ite_keep ?_ ?_
    | with_reducible refine keep_modConn hP _ _ _ ?_
    | with_reducible refine keep_latchWake hP _ ?_
    | with_reducible refine keep_emit hP _ _ ?_
    | with_reducible refine keep_useTx hP _ _ ?_
    | with_reducible refine keep_capEnd hP _ _ _ ?_
    | split
    | intro _

theorem keep_execCcTimer {P : State → Prop} (hP : Stable P) (a0 : Nat) (s : State) (hs : P s) :
    Next P (execCcTimer a0 s) := by
  unfold execCcTimer
  repeat' first
    | with_reducible exact hs
    | with_reducible refine next_next ?_
    | with_reducible refine ite_keep ?_ ?_
    | with_reducible refine keep_ccTick hP _ _ ?_
    | intro _

theorem keep_powerDownUnits {P : State → Prop} (hP : Stable P) (a0 : Nat) (s : State) (hs : P s) :
    P (powerDownUnits a0 s) := by
  unfold powerDownUnits
  dsimp -failIfUnchanged only
  repeat' first
    | with_reducible exact hs
    | with_reducible refine keep_modCell hP _ _ _ ?_

theorem keep_execCellOffDrained {P : State → Prop} (hP : Wide P) (a0 : Nat) (s : State) (hs : P s) :
    Next P (execCellOffDrained a0 s) := by
  unfold execCellOffDrained
  dsimp -failIfUnchanged only
  repeat' first
    | with_reducible exact hs
    | with_reducible refine next_next ?_
    | with_reducible refine ite_keep ?_ ?_
    | with_reducible refine keep_loseStack hP _ _ ?_
    | with_reducible refine keep_powerDownUnits hP.1 _ _ ?_
    | with_reducible refine keep_powerReply hP.1 _ _ _ ?_
    | with_reducible refine keep_modCellPwr hP.1 _ _ _ ?_
    | split
    | intro _

theorem keep_powerUp {P : State → Prop} (hP : Stable P) (a0 : Nat) (a1 : Nat) (s : State) (hs : P s) :
    P (powerUp a0 a1 s) := by
  unfold powerUp
  dsimp -failIfUnchanged only
  repeat' first
    | with_reducible exact hs
    | with_reducible refine keep_emit hP _ _ ?_
    | with_reducible refine keep_modCellPwr hP _ _ _ ?_

theorem keep_rejoinCell {P : State → Prop} (hP : Wide P) (a0 : Nat) (s : State) (hs : P s) :
    P (rejoinCell a0 s) := by
  unfold rejoinCell
  dsimp -failIfUnchanged only
  repeat' first
    | with_reducible exact hs
    | with_reducible refine keep_wipeCell hP _ _ ?_
    | with_reducible refine keep_modCell hP.1 _ _ _ ?_

theorem keep_execCellOffExitDone {P : State → Prop} (hP : Wide P) (a0 : Nat) (s : State) (hs : P s) :
    Next P (execCellOffExitDone a0 s) := by
  unfold execCellOffExitDone
  dsimp -failIfUnchanged only
  repeat' first
    | with_reducible exact hs
    | with_reducible refine next_next ?_
    | with_reducible refine ite_keep ?_ ?_
    | with_reducible refine keep_powerUp hP.1 _ _ _ ?_
    | with_reducible refine keep_rejoinCell hP _ _ ?_
    | with_reducible refine keep_powerReply hP.1 _ _ _ ?_
    | with_reducible refine keep_createReady hP _ _ ?_
    | split
    | intro _

theorem keep_execCellPartialReceive {P : State → Prop} (hP : Stable P) (a0 : Nat) (s : State) (hs : P s) :
    Next P (execCellPartialReceive a0 s) := by
  unfold execCellPartialReceive
  dsimp -failIfUnchanged only
  repeat' first
    | with_reducible exact hs
    | with_reducible refine next_next ?_
    | with_reducible refine ite_keep ?_ ?_
    | with_reducible refine keep_arrive hP _ _ _ _ _ _ ?_
    | with_reducible refine keep_modCell hP _ _ _ ?_
    | split
    | intro _

theorem keep_freeze {P : State → Prop} (hP : Stable P) (a0 : Nat) (s : State) (hs : P s) :
    P (freeze a0 s) := by
  unfold freeze
  dsimp -failIfUnchanged only
  repeat' first
    | with_reducible exact hs
    | with_reducible refine ite_keep ?_ ?_
    | with_reducible refine keep_modDbg hP _ _ ?_
    | with_reducible refine keep_drivePin hP _ _ _ ?_
    | intro _

theorem keep_tripAction {P : State → Prop} (hP : Wide P) (a0 : Nat) (a1 : Nat) (a2 : Nat) (s : State) (hs : P s) :
    P (tripAction a0 a1 a2 s) := by
  unfold tripAction
  dsimp -failIfUnchanged only
  repeat' first
    | with_reducible exact hs
    | with_reducible refine ite_keep ?_ ?_
    | with_reducible refine keep_modDbg hP.1 _ _ ?_
    | with_reducible refine keep_fenceCell hP.1 _ _ ?_
    | with_reducible refine keep_wipeCell hP _ _ ?_
    | with_reducible refine keep_autoDump hP.1 _ _ _ _ _ ?_
    | with_reducible refine keep_partReset hP.1 _ _ _ _ ?_
    | with_reducible refine keep_coreReset hP.1 _ _ _ _ _ _ ?_
    | with_reducible refine keep_bumpCores hP.1 _ _ ?_
    | with_reducible refine keep_level1 hP.1 _ _ _ ?_
    | with_reducible refine keep_nodeReset hP.1 _ _ _ _ _ _ ?_
    | with_reducible refine keep_postRecovery hP.1 _ _ _ _ _ _ _ ?_
    | split
    | intro _

end Sys2Proof.Laws
end

