-- ==== Sys2Proof/Laws/Keep5.lean ====
section
/-! SUPPORT. What the functions of the machine keep, part 5 of 6, callees first. A function that leaves the queue and the addressed
memory alone keeps every property that depends on those two only; one that writes the addressed memory keeps its form and the queue. -/

namespace Sys2Proof.Laws

open Sys2Proof.Machine

theorem keep_trip {P : State → Prop} (hP : Wide P) (a0 : Nat) (a1 : Nat) (a2 : Nat) (s : State) (hs : P s) :
    P (trip a0 a1 a2 s) := by
  unfold trip
  repeat' first
    | with_reducible exact hs
    | with_reducible refine ite_keep ?_ ?_
    | with_reducible refine keep_modDbg hP.1 _ _ ?_
    | with_reducible refine keep_freeze hP.1 _ _ ?_
    | with_reducible refine keep_tripAction hP _ _ _ _ ?_
    | split
    | intro _

theorem keep_execCellWdTrip {P : State → Prop} (hP : Wide P) (a0 : Nat) (a1 : Nat) (s : State) (hs : P s) :
    Next P (execCellWdTrip a0 a1 s) := by
  unfold execCellWdTrip
  repeat' first
    | with_reducible exact hs
    | with_reducible refine next_next ?_
    | with_reducible refine ite_keep ?_ ?_
    | with_reducible refine keep_trip hP _ _ _ _ ?_
    | intro _

theorem keep_execClockSweep {P : State → Prop} (hP : Stable P) (a0 : Nat) (s : State) (hs : P s) :
    Next P (execClockSweep a0 s) := by
  unfold execClockSweep
  dsimp -failIfUnchanged only
  repeat' first
    | with_reducible exact hs
    | with_reducible assumption
    | with_reducible refine next_next ?_
    | with_reducible refine ite_keep ?_ ?_
    | with_reducible refine keep_modPart hP _ _ _ ?_
    | with_reducible refine keep_modCell hP _ _ _ ?_
    | with_reducible refine foldl_keep ?_ ?_
    | intro _

theorem keep_finishWake {P : State → Prop} (hP : Stable P) (s : State) (hs : P s) :
    P (finishWake s) := by
  unfold finishWake
  dsimp -failIfUnchanged only
  repeat' first
    | with_reducible exact hs
    | with_reducible assumption
    | with_reducible refine ite_keep ?_ ?_
    | with_reducible refine keep_modPort hP _ _ _ ?_
    | with_reducible refine keep_powerUp hP _ _ _ ?_
    | with_reducible refine keep_emit hP _ _ ?_
    | with_reducible refine keep_modNode hP _ _ ?_
    | with_reducible refine foldl_keep ?_ ?_
    | split
    | intro _

theorem keep_meetPacket {P : State → Prop} (hP : Stable P) (a0 : Nat) (a1 : NetHead) (a2 : Nat → State → State) (s : State) (h2 : ∀ i s, P s → P (a2 i s)) (hs : P s) :
    P (meetPacket a0 a1 a2 s) := by
  unfold meetPacket
  dsimp -failIfUnchanged only
  repeat' first
    | with_reducible exact hs
    | with_reducible refine ite_keep ?_ ?_
    | with_reducible refine h2 _ _ ?_
    | with_reducible refine keep_modDbg hP _ _ ?_
    | with_reducible refine keep_modPort hP _ _ _ ?_
    | with_reducible refine keep_dropPacket hP _ _ ?_
    | with_reducible refine keep_latchWake hP _ ?_
    | with_reducible refine keep_finishWake hP _ ?_
    | with_reducible refine all_get (keep_authPacket hP _ _ _ _ _ ?_) (by with_reducible assumption)
    | split
    | intro _

theorem keep_execCnpReceive {P : State → Prop} (hP : Stable P) (a0 : NetHead) (s : State) (hs : P s) :
    Next P (execCnpReceive a0 s) := by
  unfold execCnpReceive
  repeat' first
    | with_reducible exact hs
    | with_reducible assumption
    | with_reducible refine next_next ?_
    | with_reducible refine keep_congest hP _ _ ?_
    | with_reducible refine keep_meetPacket hP _ _ _ _ ?_ ?_
    | intro _

theorem keep_execCoalUsExpiry {P : State → Prop} (hP : Stable P) (a0 : Nat) (a1 : Nat) (s : State) (hs : P s) :
    Next P (execCoalUsExpiry a0 a1 s) := by
  unfold execCoalUsExpiry
  dsimp -failIfUnchanged only
  repeat' first
    | with_reducible exact hs
    | with_reducible refine next_next ?_
    | with_reducible refine ite_keep ?_ ?_
    | with_reducible refine keep_raiseMsi hP _ _ _ ?_
    | with_reducible refine keep_modQp hP _ _ _ _ ?_
    | intro _

theorem keep_tlp {P : State → Prop} (hP : Stable P) (s : State) (hs : P s) :
    P (tlp s) := by
  unfold tlp
  repeat' first
    | with_reducible exact hs
    | with_reducible refine ite_keep ?_ ?_
    | with_reducible refine keep_latchWake hP _ ?_
    | intro _

theorem keep_execCommit {P : State → Prop} (hP : Stable P) (a0 : Nat) (a1 : Nat) (s : State) (hs : P s) :
    Next P (execCommit a0 a1 s) := by
  unfold execCommit
  dsimp -failIfUnchanged only
  repeat' first
    | with_reducible exact hs
    | with_reducible refine next_next ?_
    | with_reducible refine ite_keep ?_ ?_
    | with_reducible refine keep_commitReg hP _ _ _ ?_
    | with_reducible refine keep_tlp hP _ ?_
    | intro _

theorem keep_execCompletionPost {P : State → Prop} (hP : Stable P) (a0 : Nat) (a1 : Nat) (a2 : Bool) (s : State) (hs : P s) :
    Next P (execCompletionPost a0 a1 a2 s) := by
  unfold execCompletionPost
  dsimp -failIfUnchanged only
  repeat' first
    | with_reducible exact hs
    | with_reducible refine next_next ?_
    | with_reducible refine ite_keep ?_ ?_
    | with_reducible refine keep_raiseMsi hP _ _ _ ?_
    | with_reducible refine keep_emit hP _ _ ?_
    | with_reducible refine keep_modQp hP _ _ _ _ ?_
    | with_reducible refine keep_qpFault hP _ _ _ _ ?_
    | split
    | intro _

theorem keep_execConfigCommit {P : State → Prop} (hP : Stable P) (a0 : Source) (a1 : Packet) (s : State) (hs : P s) :
    Next P (execConfigCommit a0 a1 s) := by
  unfold execConfigCommit
  repeat' first
    | with_reducible exact hs
    | with_reducible assumption
    | with_reducible refine next_next ?_
    | with_reducible refine keep_submitOp hP _ _ _ _ _ ?_ ?_
    | with_reducible refine keep_cmdConfigCommit hP _ _ _ ?_
    | intro _

theorem keep_execConfigStage {P : State → Prop} (hP : Stable P) (a0 : Source) (a1 : Packet) (s : State) (hs : P s) :
    Next P (execConfigStage a0 a1 s) := by
  unfold execConfigStage
  repeat' first
    | with_reducible exact hs
    | with_reducible assumption
    | with_reducible refine next_next ?_
    | with_reducible refine keep_cmdConfigStage hP _ _ _ ?_
    | with_reducible refine keep_submitOp hP _ _ _ _ _ ?_ ?_
    | intro _

theorem keep_execConnCreate {P : State → Prop} (hP : Stable P) (a0 : Source) (a1 : Packet) (s : State) (hs : P s) :
    Next P (execConnCreate a0 a1 s) := by
  unfold execConnCreate
  repeat' first
    | with_reducible exact hs
    | with_reducible assumption
    | with_reducible refine next_next ?_
    | with_reducible refine keep_submitOp hP _ _ _ _ _ ?_ ?_
    | with_reducible refine keep_cmdConnCreate hP _ _ _ ?_
    | intro _

theorem keep_execConnDestroy {P : State → Prop} (hP : Stable P) (a0 : Source) (a1 : Packet) (s : State) (hs : P s) :
    Next P (execConnDestroy a0 a1 s) := by
  unfold execConnDestroy
  repeat' first
    | with_reducible exact hs
    | with_reducible assumption
    | with_reducible refine next_next ?_
    | with_reducible refine keep_submitOp hP _ _ _ _ _ ?_ ?_
    | with_reducible refine keep_cmdConnDestroy hP _ _ _ ?_
    | intro _

theorem keep_execConnModify {P : State → Prop} (hP : Stable P) (a0 : Source) (a1 : Packet) (s : State) (hs : P s) :
    Next P (execConnModify a0 a1 s) := by
  unfold execConnModify
  repeat' first
    | with_reducible exact hs
    | with_reducible assumption
    | with_reducible refine next_next ?_
    | with_reducible refine keep_submitOp hP _ _ _ _ _ ?_ ?_
    | with_reducible refine keep_cmdConnModify hP _ _ _ ?_
    | intro _

theorem keep_execContextResetTimeout {P : State → Prop} (hP : Stable P) (a0 : Nat) (a1 : StuckUnit) (s : State) (hs : P s) :
    Next P (execContextResetTimeout a0 a1 s) := by
  unfold execContextResetTimeout
  dsimp -failIfUnchanged only
  repeat' first
    | with_reducible exact hs
    | with_reducible refine next_next ?_
    | with_reducible refine ite_keep ?_ ?_
    | with_reducible refine keep_climb4 hP _ _ _ _ _ _ ?_
    | with_reducible refine keep_climb3 hP _ _ _ _ _ _ ?_
    | with_reducible refine keep_coreReset hP _ _ _ _ _ _ ?_
    | with_reducible refine keep_postRecovery hP _ _ _ _ _ _ _ ?_
    | with_reducible refine keep_halt hP _ _ _ _ _ _ ?_
    | split
    | intro _

theorem keep_execControlFrameReceive {P : State → Prop} (hP : Stable P) (a0 : Nat) (s : State) (hs : P s) :
    Next P (execControlFrameReceive a0 s) := by
  unfold execControlFrameReceive
  repeat' first
    | with_reducible exact hs
    | with_reducible refine next_next ?_
    | with_reducible refine ite_keep ?_ ?_
    | with_reducible refine keep_modPort hP _ _ _ ?_
    | intro _

theorem keep_firmwareRuns {P : State → Prop} (hP : Stable P) (s : State) (hs : P s) :
    P (firmwareRuns s) := by
  unfold firmwareRuns
  repeat' first
    | with_reducible exact hs
    | with_reducible assumption
    | with_reducible refine keep_postOps hP _ _ ?_
    | with_reducible refine foldl_keep ?_ ?_
    | intro _

theorem keep_execControlRestartDone {P : State → Prop} (hP : Stable P) (s : State) (hs : P s) :
    Next P (execControlRestartDone s) := by
  unfold execControlRestartDone
  repeat' first
    | with_reducible exact hs
    | with_reducible refine next_next ?_
    | with_reducible refine ite_keep ?_ ?_
    | with_reducible refine keep_modNode hP _ _ ?_
    | with_reducible refine keep_postRecovery hP _ _ _ _ _ _ _ ?_
    | with_reducible refine keep_firmwareRuns hP _ ?_
    | split
    | intro _

theorem keep_execControlRestartTimeout {P : State → Prop} (hP : Stable P) (s : State) (hs : P s) :
    Next P (execControlRestartTimeout s) := by
  unfold execControlRestartTimeout
  repeat' first
    | with_reducible exact hs
    | with_reducible refine next_next ?_
    | with_reducible refine ite_keep ?_ ?_
    | with_reducible refine keep_climb4 hP _ _ _ _ _ _ ?_
    | split
    | intro _

theorem keep_execCoreResetTimeout {P : State → Prop} (hP : Stable P) (a0 : Nat) (a1 : Nat) (s : State) (hs : P s) :
    Next P (execCoreResetTimeout a0 a1 s) := by
  unfold execCoreResetTimeout
  dsimp -failIfUnchanged only
  repeat' first
    | with_reducible exact hs
    | with_reducible refine next_next ?_
    | with_reducible refine ite_keep ?_ ?_
    | with_reducible refine keep_climb3 hP _ _ _ _ _ _ ?_
    | with_reducible refine keep_halt hP _ _ _ _ _ _ ?_
    | split
    | intro _

theorem keep_execCoreSelfCheckDone {P : State → Prop} (hP : Stable P) (a0 : Nat) (a1 : Nat) (a2 : Bool) (s : State) (hs : P s) :
    Next P (execCoreSelfCheckDone a0 a1 a2 s) := by
  unfold execCoreSelfCheckDone
  dsimp -failIfUnchanged only
  repeat' first
    | with_reducible exact hs
    | with_reducible refine next_next ?_
    | with_reducible refine ite_keep ?_ ?_
    | with_reducible refine keep_conclude hP _ _ _ ?_
    | with_reducible refine keep_wornOut hP _ _ _ ?_
    | with_reducible refine keep_postRecovery hP _ _ _ _ _ _ _ ?_
    | with_reducible refine keep_modCore hP _ _ _ _ ?_
    | split
    | intro _

theorem keep_execCoreWdTrip {P : State → Prop} (hP : Wide P) (a0 : Nat) (a1 : Nat) (s : State) (hs : P s) :
    Next P (execCoreWdTrip a0 a1 s) := by
  unfold execCoreWdTrip
  repeat' first
    | with_reducible exact hs
    | with_reducible refine next_next ?_
    | with_reducible refine ite_keep ?_ ?_
    | with_reducible refine keep_trip hP _ _ _ _ ?_
    | intro _

theorem keep_execCqDoorbell {P : State → Prop} (hP : Stable P) (a0 : Nat) (a1 : Nat) (a2 : Nat) (s : State) (hs : P s) :
    Next P (execCqDoorbell a0 a1 a2 s) := by
  unfold execCqDoorbell
  repeat' first
    | with_reducible exact hs
    | with_reducible refine next_next ?_
    | with_reducible refine keep_doorbell hP _ _ _ _ _ ?_

theorem keep_execCtxWdTrip {P : State → Prop} (hP : Wide P) (a0 : Nat) (s : State) (hs : P s) :
    Next P (execCtxWdTrip a0 s) := by
  unfold execCtxWdTrip
  repeat' first
    | with_reducible exact hs
    | with_reducible refine next_next ?_
    | with_reducible refine ite_keep ?_ ?_
    | with_reducible refine keep_trip hP _ _ _ _ ?_
    | intro _

theorem keep_execCursorTimeout {P : State → Prop} (hP : Stable P) (a0 : Nat) (a1 : Nat) (s : State) (hs : P s) :
    Next P (execCursorTimeout a0 a1 s) := by
  unfold execCursorTimeout
  repeat' first
    | with_reducible exact hs
    | with_reducible refine next_next ?_
    | with_reducible refine ite_keep ?_ ?_
    | with_reducible refine keep_modPart hP _ _ _ ?_
    | split
    | intro _

theorem keep_execD3hot {P : State → Prop} (hP : Stable P) (a0 : Nat) (a1 : Bool) (s : State) (hs : P s) :
    Next P (execD3hot a0 a1 s) := by
  unfold execD3hot
  repeat' first
    | with_reducible exact hs
    | with_reducible refine next_next ?_
    | with_reducible refine ite_keep ?_ ?_
    | with_reducible refine keep_modFn hP _ _ _ ?_
    | split
    | intro _

theorem keep_execDeadlineExpiry {P : State → Prop} (hP : Stable P) (a0 : Nat) (s : State) (hs : P s) :
    Next P (execDeadlineExpiry a0 s) := by
  unfold execDeadlineExpiry
  repeat' first
    | with_reducible exact hs
    | with_reducible refine next_next ?_
    | with_reducible refine ite_keep ?_ ?_
    | with_reducible refine keep_abortCmd hP _ _ _ ?_
    | split
    | intro _

theorem keep_tripThermal {P : State → Prop} (hP : Stable P) (s : State) (hs : P s) :
    P (tripThermal s) := by
  unfold tripThermal
  dsimp -failIfUnchanged only
  repeat' first
    | with_reducible exact hs
    | with_reducible refine ite_keep ?_ ?_
    | with_reducible refine keep_modDbg hP _ _ ?_
    | with_reducible refine keep_modPwr hP _ _ ?_
    | with_reducible refine keep_drivePin hP _ _ _ ?_
    | with_reducible refine keep_assertFault hP _ ?_
    | with_reducible refine keep_modNode hP _ _ ?_
    | intro _

theorem keep_setWarn {P : State → Prop} (hP : Stable P) (a0 : Bool) (s : State) (hs : P s) :
    P (setWarn a0 s) := by
  unfold setWarn
  dsimp -failIfUnchanged only
  repeat' first
    | with_reducible exact hs
    | with_reducible refine ite_keep ?_ ?_
    | with_reducible refine keep_modPwr hP _ _ ?_
    | with_reducible refine keep_raiseMsi hP _ _ _ ?_
    | split
    | intro _

theorem keep_execDieTempReport {P : State → Prop} (hP : Stable P) (a0 : Nat) (a1 : Nat) (s : State) (hs : P s) :
    Next P (execDieTempReport a0 a1 s) := by
  unfold execDieTempReport
  dsimp -failIfUnchanged only
  repeat' first
    | with_reducible exact hs
    | with_reducible refine next_next ?_
    | with_reducible refine ite_keep ?_ ?_
    | with_reducible refine keep_setCause hP _ _ ?_
    | with_reducible refine keep_modPwr hP _ _ ?_
    | with_reducible refine keep_tripThermal hP _ ?_
    | with_reducible refine keep_setWarn hP _ _ ?_
    | with_reducible refine keep_clearCond hP _ _ _ ?_
    | with_reducible refine keep_modCellPwr hP _ _ _ ?_
    | split
    | intro _

theorem keep_execDigestBuild {P : State → Prop} (hP : Stable P) (a0 : Source) (a1 : Packet) (s : State) (hs : P s) :
    Next P (execDigestBuild a0 a1 s) := by
  unfold execDigestBuild
  repeat' first
    | with_reducible exact hs
    | with_reducible assumption
    | with_reducible refine next_next ?_
    | with_reducible refine keep_submitOp hP _ _ _ _ _ ?_ ?_
    | with_reducible refine keep_cmdDigestBuild hP _ _ _ ?_
    | intro _

theorem keep_execDiscard {P : State → Prop} (hP : Stable P) (a0 : Nat) (a1 : Nat) (s : State) (hs : P s) :
    Next P (execDiscard a0 a1 s) := by
  unfold execDiscard
  dsimp -failIfUnchanged only
  repeat' first
    | with_reducible exact hs
    | with_reducible refine next_next ?_
    | with_reducible refine ite_keep ?_ ?_
    | with_reducible refine keep_discardReg hP _ _ _ ?_
    | with_reducible refine keep_tlp hP _ ?_
    | intro _

theorem keep_execDispatchAdmit {P : State → Prop} (hP : Stable P) (a0 : Nat) (s : State) (hs : P s) :
    Next P (execDispatchAdmit a0 s) := by
  unfold execDispatchAdmit
  repeat' first
    | with_reducible exact hs
    | with_reducible refine next_next ?_
    | with_reducible refine ite_keep ?_ ?_
    | with_reducible refine keep_admitTokens hP _ _ ?_
    | intro _

theorem keep_execDrizzleQuiesceExpiry {P : State → Prop} (hP : Stable P) (s : State) (hs : P s) :
    Next P (execDrizzleQuiesceExpiry s) := by
  unfold execDrizzleQuiesceExpiry
  repeat' first
    | with_reducible exact hs
    | with_reducible refine next_next ?_
    | with_reducible refine ite_keep ?_ ?_
    | with_reducible refine keep_abandonDrizzle hP _ ?_
    | split
    | intro _

theorem keep_sleepLinks {P : State → Prop} (hP : Stable P) (s : State) (hs : P s) :
    P (sleepLinks s) := by
  unfold sleepLinks
  dsimp -failIfUnchanged only
  repeat' first
    | with_reducible exact hs
    | with_reducible assumption
    | with_reducible refine keep_modPort hP _ _ _ ?_
    | with_reducible refine keep_askPark hP _ _ ?_
    | with_reducible refine foldl_keep ?_ ?_
    | split
    | intro _

theorem keep_sleepRails {P : State → Prop} (hP : Stable P) (s : State) (hs : P s) :
    P (sleepRails s) := by
  unfold sleepRails
  repeat' first
    | with_reducible exact hs
    | with_reducible assumption
    | with_reducible refine keep_emit hP _ _ ?_
    | with_reducible refine keep_modCellPwr hP _ _ _ ?_
    | with_reducible refine foldl_keep ?_ ?_
    | split
    | intro _

theorem keep_execDrizzleQuiesced {P : State → Prop} (hP : Stable P) (s : State) (hs : P s) :
    Next P (execDrizzleQuiesced s) := by
  unfold execDrizzleQuiesced
  repeat' first
    | with_reducible exact hs
    | with_reducible refine next_next ?_
    | with_reducible refine ite_keep ?_ ?_
    | with_reducible refine keep_sleepLinks hP _ ?_
    | with_reducible refine keep_sleepRails hP _ ?_
    | with_reducible refine keep_modNode hP _ _ ?_
    | with_reducible refine keep_powerReply hP _ _ _ ?_
    | split
    | intro _

theorem keep_execDrizzleTimerExpiry {P : State → Prop} (hP : Stable P) (s : State) (hs : P s) :
    Next P (execDrizzleTimerExpiry s) := by
  unfold execDrizzleTimerExpiry
  repeat' first
    | with_reducible exact hs
    | with_reducible refine next_next ?_
    | with_reducible refine ite_keep ?_ ?_
    | with_reducible refine keep_latchWake hP _ ?_
    | intro _

theorem keep_execDumpCollect {P : State → Prop} (hP : Stable P) (a0 : Source) (a1 : Packet) (s : State) (hs : P s) :
    Next P (execDumpCollect a0 a1 s) := by
  unfold execDumpCollect
  repeat' first
    | with_reducible exact hs
    | with_reducible assumption
    | with_reducible refine next_next ?_
    | with_reducible refine keep_submitOp hP _ _ _ _ _ ?_ ?_
    | with_reducible refine keep_cmdDumpCollect hP _ _ _ ?_
    | intro _

theorem keep_execDumpHoldExpiry {P : State → Prop} (hP : Stable P) (s : State) (hs : P s) :
    Next P (execDumpHoldExpiry s) := by
  unfold execDumpHoldExpiry
  repeat' first
    | with_reducible exact hs
    | with_reducible refine next_next ?_
    | with_reducible refine ite_keep ?_ ?_
    | with_reducible refine keep_closeDump hP _ _ ?_
    | with_reducible refine keep_drivePin hP _ _ _ ?_
    | with_reducible refine keep_modNode hP _ _ ?_
    | intro _

theorem keep_execDumpRead {P : State → Prop} (hP : Stable P) (a0 : Source) (a1 : Packet) (s : State) (hs : P s) :
    Next P (execDumpRead a0 a1 s) := by
  unfold execDumpRead
  repeat' first
    | with_reducible exact hs
    | with_reducible assumption
    | with_reducible refine next_next ?_
    | with_reducible refine keep_submitOp hP _ _ _ _ _ ?_ ?_
    | with_reducible refine keep_cmdDumpRead hP _ _ _ ?_
    | intro _

theorem keep_execDumpTruncated {P : State → Prop} (hP : Stable P) (s : State) (hs : P s) :
    Next P (execDumpTruncated s) := by
  unfold execDumpTruncated
  repeat' first
    | with_reducible exact hs
    | with_reducible refine next_next ?_
    | with_reducible refine ite_keep ?_ ?_
    | with_reducible refine keep_closeDump hP _ _ ?_
    | intro _

theorem keep_execDumpUnitWaitExpiry {P : State → Prop} (hP : Stable P) (a0 : Nat) (s : State) (hs : P s) :
    Next P (execDumpUnitWaitExpiry a0 s) := by
  unfold execDumpUnitWaitExpiry
  dsimp -failIfUnchanged only
  repeat' first
    | with_reducible exact hs
    | with_reducible refine next_next ?_
    | with_reducible refine keep_modDbg hP _ _ ?_

theorem keep_execEditQueueResume {P : State → Prop} (hP : Stable P) (a0 : Nat) (a1 : Nat) (a2 : Nat) (s : State) (hs : P s) :
    Next P (execEditQueueResume a0 a1 a2 s) := by
  unfold execEditQueueResume
  dsimp -failIfUnchanged only
  repeat' first
    | with_reducible exact hs
    | with_reducible assumption
    | with_reducible refine next_next ?_
    | with_reducible refine ite_keep ?_ ?_
    | with_reducible refine keep_handoffsGo hP _ _ ?_
    | with_reducible refine keep_modSeq hP _ _ _ _ ?_
    | with_reducible refine keep_modCmd hP _ _ _ ?_
    | with_reducible refine keep_editHandler hP _ _ _ _ ?_
    | with_reducible refine keep_begin_ hP _ _ _ ?_ ?_
    | split
    | intro _

theorem keep_execElementWaitExpiry {P : State → Prop} (hP : Stable P) (a0 : Nat) (a1 : Nat) (s : State) (hs : P s) :
    Next P (execElementWaitExpiry a0 a1 s) := by
  unfold execElementWaitExpiry
  repeat' first
    | with_reducible exact hs
    | with_reducible refine next_next ?_
    | with_reducible refine ite_keep ?_ ?_
    | with_reducible refine keep_modCell hP _ _ _ ?_
    | split
    | intro _

theorem keep_execEntropyTestFail {P : State → Prop} (hP : Stable P) (a0 : Nat) (s : State) (hs : P s) :
    Next P (execEntropyTestFail a0 s) := by
  unfold execEntropyTestFail
  repeat' first
    | with_reducible exact hs
    | with_reducible refine next_next ?_
    | with_reducible refine ite_keep ?_ ?_
    | with_reducible refine keep_errorState hP _ _ ?_
    | intro _

theorem keep_execEnvelopeTick {P : State → Prop} (hP : Stable P) (a0 : List (Nat × Nat)) (s : State) (hs : P s) :
    Next P (execEnvelopeTick a0 s) := by
  unfold execEnvelopeTick
  dsimp -failIfUnchanged only
  repeat' first
    | with_reducible exact hs
    | with_reducible assumption
    | with_reducible refine next_next ?_
    | with_reducible refine ite_keep ?_ ?_
    | with_reducible refine keep_applyClocks hP _ ?_
    | with_reducible refine keep_modPart hP _ _ _ ?_
    | with_reducible refine keep_modCellPwr hP _ _ _ ?_
    | with_reducible refine foldl_keep ?_ ?_
    | split
    | intro _

theorem keep_execEpochAdvance {P : State → Prop} (hP : Stable P) (a0 : Nat) (s : State) (hs : P s) :
    Next P (execEpochAdvance a0 s) := by
  unfold execEpochAdvance
  repeat' first
    | with_reducible exact hs
    | with_reducible refine next_next ?_
    | with_reducible refine ite_keep ?_ ?_
    | with_reducible refine keep_reclaim hP _ _ ?_
    | with_reducible refine keep_modPart hP _ _ _ ?_
    | intro _

theorem keep_execEventSubscribe {P : State → Prop} (hP : Stable P) (a0 : Source) (a1 : Packet) (s : State) (hs : P s) :
    Next P (execEventSubscribe a0 a1 s) := by
  unfold execEventSubscribe
  repeat' first
    | with_reducible exact hs
    | with_reducible assumption
    | with_reducible refine next_next ?_
    | with_reducible refine keep_submitOp hP _ _ _ _ _ ?_ ?_
    | with_reducible refine keep_cmdEventSubscribe hP _ _ _ ?_
    | intro _

theorem keep_execEviction {P : State → Prop} (hP : Stable P) (a0 : Nat) (s : State) (hs : P s) :
    Next P (execEviction a0 s) := by
  unfold execEviction
  dsimp -failIfUnchanged only
  repeat' first
    | with_reducible exact hs
    | with_reducible refine next_next ?_
    | with_reducible refine ite_keep ?_ ?_
    | with_reducible refine keep_destroySeq hP _ _ _ ?_
    | with_reducible refine keep_postEvent hP _ _ _ _ _ ?_
    | split
    | intro _

theorem keep_execFabricReply {P : State → Prop} (hP : Stable P) (a0 : Nat) (a1 : Nat) (a2 : Nat) (a3 : Nat) (a4 : List Byte) (s : State) (hs : P s) :
    Next P (execFabricReply a0 a1 a2 a3 a4 s) := by
  unfold execFabricReply
  repeat' first
    | with_reducible exact hs
    | with_reducible refine next_next ?_
    | with_reducible refine ite_keep ?_ ?_
    | with_reducible refine keep_fabricReply hP _ _ _ _ _ _ ?_
    | intro _

theorem keep_execFastRetrainTimeout {P : State → Prop} (hP : Stable P) (a0 : Nat) (s : State) (hs : P s) :
    Next P (execFastRetrainTimeout a0 s) := by
  unfold execFastRetrainTimeout
  dsimp -failIfUnchanged only
  repeat' first
    | with_reducible exact hs
    | with_reducible refine next_next ?_
    | with_reducible refine ite_keep ?_ ?_
    | with_reducible refine keep_modPort hP _ _ _ ?_
    | with_reducible refine keep_startPort hP _ _ ?_
    | intro _

theorem keep_flrWindow {P : State → Prop} (hP : Stable P) (a0 : Nat) (s : State) (hs : P s) :
    P (flrWindow a0 s) := by
  unfold flrWindow
  dsimp -failIfUnchanged only
  repeat' first
    | with_reducible exact hs
    | with_reducible assumption
    | with_reducible refine keep_modPart hP _ _ _ ?_
    | with_reducible refine keep_modCell hP _ _ _ ?_
    | with_reducible refine foldl_keep ?_ ?_
    | intro _

theorem keep_flrFn {P : State → Prop} (hP : Stable P) (a0 : Nat) (s : State) (hs : P s) :
    P (flrFn a0 s) := by
  unfold flrFn
  dsimp -failIfUnchanged only
  repeat' first
    | with_reducible exact hs
    | with_reducible refine keep_modFn hP _ _ _ ?_
    | with_reducible refine keep_flrWindow hP _ _ ?_
    | fail_if_no_progress (with_reducible refine mk_keep hP ?_)

theorem keep_flrAll {P : State → Prop} (hP : Stable P) (s : State) (hs : P s) :
    P (flrAll s) := by
  unfold flrAll
  repeat' first
    | with_reducible exact hs
    | with_reducible assumption
    | with_reducible refine keep_flrFn hP _ _ ?_
    | with_reducible refine foldl_keep ?_ ?_
    | intro _

theorem keep_execFlr {P : State → Prop} (hP : Stable P) (a0 : Nat) (s : State) (hs : P s) :
    Next P (execFlr a0 s) := by
  unfold execFlr
  repeat' first
    | with_reducible exact hs
    | with_reducible refine next_next ?_
    | with_reducible refine ite_keep ?_ ?_
    | with_reducible refine keep_flrFn hP _ _ ?_
    | with_reducible refine keep_flrAll hP _ ?_
    | split
    | intro _

theorem keep_execFormatTableLoad {P : State → Prop} (hP : Stable P) (a0 : Source) (a1 : Packet) (s : State) (hs : P s) :
    Next P (execFormatTableLoad a0 a1 s) := by
  unfold execFormatTableLoad
  repeat' first
    | with_reducible exact hs
    | with_reducible assumption
    | with_reducible refine next_next ?_
    | with_reducible refine keep_submitOp hP _ _ _ _ _ ?_ ?_
    | with_reducible refine keep_cmdFormatTableLoad hP _ _ _ ?_
    | intro _

theorem keep_execFrostArm {P : State → Prop} (hP : Stable P) (a0 : Source) (a1 : Packet) (s : State) (hs : P s) :
    Next P (execFrostArm a0 a1 s) := by
  unfold execFrostArm
  repeat' first
    | with_reducible exact hs
    | with_reducible assumption
    | with_reducible refine next_next ?_
    | with_reducible refine keep_submitOp hP _ _ _ _ _ ?_ ?_
    | with_reducible refine keep_cmdFrostArm hP _ _ _ ?_
    | intro _

theorem keep_execFrostNFall {P : State → Prop} (hP : Stable P) (s : State) (hs : P s) :
    Next P (execFrostNFall s) := by
  unfold execFrostNFall
  repeat' first
    | with_reducible exact hs
    | with_reducible refine next_next ?_
    | with_reducible refine ite_keep ?_ ?_
    | with_reducible refine keep_freeze hP _ _ ?_
    | intro _

theorem keep_fenceExpired {P : State → Prop} (hP : Stable P) (s : State) (hs : P s) :
    P (fenceExpired s) := by
  unfold fenceExpired
  dsimp -failIfUnchanged only
  repeat' first
    | with_reducible exact hs
    | with_reducible assumption
    | with_reducible refine keep_modPart hP _ _ _ ?_
    | with_reducible refine foldl_keep ?_ ?_
    | intro _

theorem keep_execFrostNRise {P : State → Prop} (hP : Wide P) (s : State) (hs : P s) :
    Next P (execFrostNRise s) := by
  unfold execFrostNRise
  dsimp -failIfUnchanged only
  repeat' first
    | with_reducible exact hs
    | with_reducible refine next_next ?_
    | with_reducible refine ite_keep ?_ ?_
    | with_reducible refine keep_thaw hP.1 _ ?_
    | with_reducible refine keep_fenceExpired hP.1 _ ?_
    | with_reducible refine keep_tripAction hP _ _ _ _ ?_
    | split
    | intro _

theorem keep_execFrostTrigger {P : State → Prop} (hP : Stable P) (s : State) (hs : P s) :
    Next P (execFrostTrigger s) := by
  unfold execFrostTrigger
  repeat' first
    | with_reducible exact hs
    | with_reducible refine next_next ?_
    | with_reducible refine ite_keep ?_ ?_
    | with_reducible refine keep_freeze hP _ _ ?_
    | split
    | intro _

theorem keep_execFwActivate {P : State → Prop} (hP : Stable P) (a0 : Source) (a1 : Packet) (s : State) (hs : P s) :
    Next P (execFwActivate a0 a1 s) := by
  unfold execFwActivate
  repeat' first
    | with_reducible exact hs
    | with_reducible assumption
    | with_reducible refine next_next ?_
    | with_reducible refine keep_cmdFwActivate hP _ _ _ ?_
    | with_reducible refine keep_submitOp hP _ _ _ _ _ ?_ ?_
    | intro _

theorem keep_execFwActivateTimeout {P : State → Prop} (hP : Stable P) (s : State) (hs : P s) :
    Next P (execFwActivateTimeout s) := by
  unfold execFwActivateTimeout
  dsimp -failIfUnchanged only
  repeat' first
    | with_reducible exact hs
    | with_reducible refine next_next ?_
    | with_reducible refine ite_keep ?_ ?_
    | with_reducible refine keep_conclude hP _ _ _ ?_
    | with_reducible refine keep_modNode hP _ _ ?_
    | with_reducible refine keep_firmwareRuns hP _ ?_
    | split
    | intro _

theorem keep_execFwReportRunning {P : State → Prop} (hP : Stable P) (s : State) (hs : P s) :
    Next P (execFwReportRunning s) := by
  unfold execFwReportRunning
  dsimp -failIfUnchanged only
  repeat' first
    | with_reducible exact hs
    | with_reducible refine next_next ?_
    | with_reducible refine ite_keep ?_ ?_
    | with_reducible refine keep_conclude hP _ _ _ ?_
    | with_reducible refine keep_modNode hP _ _ ?_
    | with_reducible refine keep_firmwareRuns hP _ ?_
    | split
    | intro _

theorem keep_execFwStage {P : State → Prop} (hP : Stable P) (a0 : Source) (a1 : Packet) (s : State) (hs : P s) :
    Next P (execFwStage a0 a1 s) := by
  unfold execFwStage
  repeat' first
    | with_reducible exact hs
    | with_reducible assumption
    | with_reducible refine next_next ?_
    | with_reducible refine keep_submitOp hP _ _ _ _ _ ?_ ?_
    | with_reducible refine keep_cmdFwStage hP _ _ _ ?_
    | intro _

theorem keep_execGradMessageDone {P : State → Prop} (hP : Stable P) (a0 : Nat) (a1 : Bool) (s : State) (hs : P s) :
    Next P (execGradMessageDone a0 a1 s) := by
  unfold execGradMessageDone
  repeat' first
    | with_reducible exact hs
    | with_reducible refine next_next ?_
    | with_reducible refine ite_keep ?_ ?_
    | with_reducible refine keep_gradSent hP _ _ _ ?_
    | intro _

theorem keep_execGsetQueueResume {P : State → Prop} (hP : Stable P) (a0 : Nat) (a1 : Nat) (s : State) (hs : P s) :
    Next P (execGsetQueueResume a0 a1 s) := by
  unfold execGsetQueueResume
  dsimp -failIfUnchanged only
  repeat' first
    | with_reducible exact hs
    | with_reducible refine next_next ?_
    | with_reducible refine ite_keep ?_ ?_
    | with_reducible refine keep_modCtx hP _ _ _ ?_
    | with_reducible refine keep_settle hP _ _ ?_
    | with_reducible refine keep_modGset hP _ _ _ _ ?_
    | with_reducible refine keep_pump hP _ ?_
    | split
    | intro _

theorem keep_execHandoffTimeout {P : State → Prop} (hP : Stable P) (a0 : Nat) (a1 : Nat) (a2 : Nat) (a3 : Nat) (s : State) (hs : P s) :
    Next P (execHandoffTimeout a0 a1 a2 a3 s) := by
  unfold execHandoffTimeout
  repeat' first
    | with_reducible exact hs
    | with_reducible refine next_next ?_
    | with_reducible refine ite_keep ?_ ?_
    | with_reducible refine keep_conclude hP _ _ _ ?_
    | with_reducible refine keep_modSpan hP _ _ _ _ ?_
    | split
    | intro _

theorem keep_execHeartbeatMiss {P : State → Prop} (hP : Stable P) (a0 : HeartbeatSide) (s : State) (hs : P s) :
    Next P (execHeartbeatMiss a0 s) := by
  unfold execHeartbeatMiss
  repeat' first
    | with_reducible exact hs
    | with_reducible refine next_next ?_
    | with_reducible refine ite_keep ?_ ?_
    | with_reducible refine keep_controlRestart hP _ ?_
    | with_reducible refine keep_nodeReset hP _ _ _ _ _ _ ?_
    | split
    | intro _

theorem keep_execHomeRecordExpiry {P : State → Prop} (hP : Stable P) (a0 : Nat) (a1 : Nat) (s : State) (hs : P s) :
    Next P (execHomeRecordExpiry a0 a1 s) := by
  unfold execHomeRecordExpiry
  dsimp -failIfUnchanged only
  repeat' first
    | with_reducible exact hs
    | with_reducible assumption
    | with_reducible refine next_next ?_
    | with_reducible refine ite_keep ?_ ?_
    | with_reducible refine keep_loseHome hP _ _ _ _ _ _ ?_
    | with_reducible refine keep_latchWake hP _ ?_
    | with_reducible refine keep_modRec hP _ _ _ _ ?_
    | with_reducible refine foldl_keep ?_ ?_
    | split
    | intro _

theorem keep_execHubWdTrip {P : State → Prop} (hP : Wide P) (a0 : Nat) (s : State) (hs : P s) :
    Next P (execHubWdTrip a0 s) := by
  unfold execHubWdTrip
  repeat' first
    | with_reducible exact hs
    | with_reducible refine next_next ?_
    | with_reducible refine ite_keep ?_ ?_
    | with_reducible refine keep_trip hP _ _ _ _ ?_
    | intro _

theorem keep_execI3cModeEntry {P : State → Prop} (hP : Stable P) (s : State) (hs : P s) :
    Next P (execI3cModeEntry s) := by
  unfold execI3cModeEntry
  repeat' first
    | with_reducible exact hs
    | with_reducible refine next_next ?_
    | with_reducible refine ite_keep ?_ ?_
    | with_reducible refine keep_modNode hP _ _ ?_
    | intro _

theorem keep_execIdentify {P : State → Prop} (hP : Stable P) (a0 : Source) (a1 : Packet) (s : State) (hs : P s) :
    Next P (execIdentify a0 a1 s) := by
  unfold execIdentify
  repeat' first
    | with_reducible exact hs
    | with_reducible assumption
    | with_reducible refine next_next ?_
    | with_reducible refine keep_submitOp hP _ _ _ _ _ ?_ ?_
    | with_reducible refine keep_cmdIdentify hP _ _ _ ?_
    | intro _

theorem keep_execJobKeyInstall {P : State → Prop} (hP : Stable P) (a0 : Source) (a1 : Packet) (s : State) (hs : P s) :
    Next P (execJobKeyInstall a0 a1 s) := by
  unfold execJobKeyInstall
  repeat' first
    | with_reducible exact hs
    | with_reducible assumption
    | with_reducible refine next_next ?_
    | with_reducible refine keep_submitOp hP _ _ _ _ _ ?_ ?_
    | with_reducible refine keep_cmdJobKeyInstall hP _ _ _ ?_
    | intro _

theorem keep_execKeyRotate {P : State → Prop} (hP : Stable P) (a0 : Source) (a1 : Packet) (s : State) (hs : P s) :
    Next P (execKeyRotate a0 a1 s) := by
  unfold execKeyRotate
  repeat' first
    | with_reducible exact hs
    | with_reducible assumption
    | with_reducible refine next_next ?_
    | with_reducible refine keep_submitOp hP _ _ _ _ _ ?_ ?_
    | with_reducible refine keep_cmdKeyRotate hP _ _ _ ?_
    | intro _

theorem keep_execLeaseAcquire {P : State → Prop} (hP : Stable P) (a0 : Source) (a1 : Packet) (s : State) (hs : P s) :
    Next P (execLeaseAcquire a0 a1 s) := by
  unfold execLeaseAcquire
  repeat' first
    | with_reducible exact hs
    | with_reducible assumption
    | with_reducible refine next_next ?_
    | with_reducible refine keep_submitOp hP _ _ _ _ _ ?_ ?_
    | with_reducible refine keep_cmdLeaseAcquire hP _ _ _ ?_
    | intro _

theorem keep_execLeaseExpiry {P : State → Prop} (hP : Stable P) (a0 : Nat) (a1 : Nat) (s : State) (hs : P s) :
    Next P (execLeaseExpiry a0 a1 s) := by
  unfold execLeaseExpiry
  repeat' first
    | with_reducible exact hs
    | with_reducible refine next_next ?_
    | with_reducible refine ite_keep ?_ ?_
    | with_reducible refine keep_dropLease hP _ _ _ ?_
    | with_reducible refine keep_latchWake hP _ ?_
    | split
    | intro _

theorem keep_execLeaseHandoff {P : State → Prop} (hP : Stable P) (a0 : Source) (a1 : Packet) (s : State) (hs : P s) :
    Next P (execLeaseHandoff a0 a1 s) := by
  unfold execLeaseHandoff
  repeat' first
    | with_reducible exact hs
    | with_reducible assumption
    | with_reducible refine next_next ?_
    | with_reducible refine keep_submitOp hP _ _ _ _ _ ?_ ?_
    | with_reducible refine keep_cmdLeaseHandoff hP _ _ _ ?_
    | intro _

theorem keep_execLeaseHandoffAtHome {P : State → Prop} (hP : Stable P) (a0 : Source) (a1 : Packet) (s : State) (hs : P s) :
    Next P (execLeaseHandoffAtHome a0 a1 s) := by
  unfold execLeaseHandoffAtHome
  repeat' first
    | with_reducible exact hs
    | with_reducible assumption
    | with_reducible refine next_next ?_
    | with_reducible refine keep_submitOp hP _ _ _ _ _ ?_ ?_
    | with_reducible refine keep_cmdHandoffAtHome hP _ _ _ ?_
    | with_reducible refine keep_cmdHandoff hP _ _ _ ?_
    | split
    | intro _

theorem keep_execLeasePrompt {P : State → Prop} (hP : Stable P) (a0 : Source) (a1 : Packet) (s : State) (hs : P s) :
    Next P (execLeasePrompt a0 a1 s) := by
  unfold execLeasePrompt
  repeat' first
    | with_reducible exact hs
    | with_reducible assumption
    | with_reducible refine next_next ?_
    | with_reducible refine keep_submitOp hP _ _ _ _ _ ?_ ?_
    | with_reducible refine keep_cmdHandoff hP _ _ _ ?_
    | with_reducible refine keep_cmdPrompt hP _ _ _ ?_
    | split
    | intro _

theorem keep_execLeaseRelease {P : State → Prop} (hP : Stable P) (a0 : Source) (a1 : Packet) (s : State) (hs : P s) :
    Next P (execLeaseRelease a0 a1 s) := by
  unfold execLeaseRelease
  repeat' first
    | with_reducible exact hs
    | with_reducible assumption
    | with_reducible refine next_next ?_
    | with_reducible refine keep_submitOp hP _ _ _ _ _ ?_ ?_
    | with_reducible refine keep_cmdLeaseRelease hP _ _ _ ?_
    | intro _

theorem keep_execLeaseRenew {P : State → Prop} (hP : Stable P) (a0 : Source) (a1 : Packet) (s : State) (hs : P s) :
    Next P (execLeaseRenew a0 a1 s) := by
  unfold execLeaseRenew
  repeat' first
    | with_reducible exact hs
    | with_reducible assumption
    | with_reducible refine next_next ?_
    | with_reducible refine keep_submitOp hP _ _ _ _ _ ?_ ?_
    | with_reducible refine keep_cmdLeaseRenew hP _ _ _ ?_
    | intro _

theorem keep_subRow {P : State → Prop} (hP : Stable P) (a0 : Cmd → Bool) (a1 : Handler) (a2 : Source) (a3 : Packet) (s : State) (h1 : ∀ i c s, P s → Fst P (a1 i c s)) (hs : P s) :
    P (subRow a0 a1 a2 a3 s) := by
  unfold subRow
  dsimp -failIfUnchanged only
  repeat' first
    | with_reducible exact hs
    | with_reducible assumption
    | with_reducible refine ite_keep ?_ ?_
    | with_reducible refine keep_submit hP _ _ _ _ ?_ ?_
    | intro _

theorem keep_subHandler {P : State → Prop} (hP : Stable P) (a0 : Nat) (a1 : Cmd) (s : State) (hs : P s) :
    Fst P (subHandler a0 a1 s) := by
  unfold subHandler
  repeat' first
    | with_reducible exact hs
    | with_reducible refine ite_keep ?_ ?_
    | with_reducible refine keep_cmdAttendAny hP _ _ _ ?_
    | with_reducible refine keep_cmdSeqCreate hP _ _ _ ?_
    | with_reducible refine keep_cmdAttendBwd hP _ _ _ ?_
    | with_reducible refine keep_cmdAppendAny hP _ _ _ ?_
    | split
    | intro _

theorem keep_execLendNeighbourAttend {P : State → Prop} (hP : Stable P) (a0 : Source) (a1 : Packet) (s : State) (hs : P s) :
    Next P (execLendNeighbourAttend a0 a1 s) := by
  unfold execLendNeighbourAttend
  repeat' first
    | with_reducible exact hs
    | with_reducible assumption
    | with_reducible refine next_next ?_
    | with_reducible refine keep_subRow hP _ _ _ _ _ ?_ ?_
    | with_reducible refine keep_subHandler hP _ _ _ ?_
    | intro _

theorem keep_freeLent {P : State → Prop} (hP : Stable P) (a0 : Nat) (s : State) (hs : P s) :
    P (freeLent a0 s) := by
  unfold freeLent
  repeat' first
    | with_reducible exact hs
    | with_reducible refine keep_modCell hP _ _ _ ?_

theorem keep_execLendRelease {P : State → Prop} (hP : Stable P) (a0 : Nat) (a1 : Nat) (a2 : Nat) (s : State) (hs : P s) :
    Next P (execLendRelease a0 a1 a2 s) := by
  unfold execLendRelease
  repeat' first
    | with_reducible exact hs
    | with_reducible refine next_next ?_
    | with_reducible refine ite_keep ?_ ?_
    | with_reducible refine keep_freeLent hP _ _ ?_
    | with_reducible refine keep_answerFabric hP _ _ _ _ ?_
    | split
    | intro _

theorem keep_execLendReleaseWaitExpiry {P : State → Prop} (hP : Wide P) (a0 : Nat) (s : State) (hs : P s) :
    Next P (execLendReleaseWaitExpiry a0 s) := by
  unfold execLendReleaseWaitExpiry
  dsimp -failIfUnchanged only
  repeat' first
    | with_reducible exact hs
    | with_reducible refine next_next ?_
    | with_reducible refine ite_keep ?_ ?_
    | with_reducible refine keep_modPart hP.1 _ _ _ ?_
    | with_reducible refine keep_finishDestroy hP _ _ ?_
    | with_reducible refine keep_destroyConns hP.1 _ _ ?_
    | split
    | intro _

theorem keep_execLentLossReport {P : State → Prop} (hP : Stable P) (a0 : Nat) (a1 : List Nat) (s : State) (hs : P s) :
    Next P (execLentLossReport a0 a1 s) := by
  unfold execLentLossReport
  dsimp -failIfUnchanged only
  repeat' first
    | with_reducible exact hs
    | with_reducible refine next_next ?_
    | with_reducible refine ite_keep ?_ ?_
    | with_reducible refine keep_loseLent hP _ _ _ _ ?_
    | split
    | intro _

theorem keep_execLentPageReceive {P : State → Prop} (hP : Stable P) (a0 : Nat) (a1 : Nat) (a2 : PageImage) (a3 : List Byte) (s : State) (hs : P s) :
    Next P (execLentPageReceive a0 a1 a2 a3 s) := by
  unfold execLentPageReceive
  dsimp -failIfUnchanged only
  repeat' first
    | with_reducible exact hs
    | with_reducible refine next_next ?_
    | with_reducible refine ite_keep ?_ ?_
    | with_reducible refine keep_answerFabric hP _ _ _ _ ?_
    | with_reducible refine keep_modCell hP _ _ _ ?_
    | split
    | intro _

theorem keep_execLinkLockTimeout {P : State → Prop} (hP : Stable P) (a0 : Nat) (s : State) (hs : P s) :
    Next P (execLinkLockTimeout a0 s) := by
  unfold execLinkLockTimeout
  repeat' first
    | with_reducible exact hs
    | with_reducible refine next_next ?_
    | with_reducible refine ite_keep ?_ ?_
    | with_reducible refine keep_startPort hP _ _ ?_
    | intro _

theorem keep_execLinkLoss {P : State → Prop} (hP : Stable P) (a0 : Nat) (s : State) (hs : P s) :
    Next P (execLinkLoss a0 s) := by
  unfold execLinkLoss
  repeat' first
    | with_reducible exact hs
    | with_reducible refine next_next ?_
    | with_reducible refine ite_keep ?_ ?_
    | with_reducible refine keep_downPort hP _ _ ?_
    | intro _

theorem keep_storeTaps {P : State → Prop} (hP : Stable P) (a0 : Nat) (s : State) (hs : P s) :
    P (storeTaps a0 s) := by
  unfold storeTaps
  dsimp -failIfUnchanged only
  repeat' first
    | with_reducible exact hs
    | with_reducible refine keep_modPort hP _ _ _ ?_
    | with_reducible refine snd_one (keep_draw hP _ ?_)

theorem keep_upPort {P : State → Prop} (hP : Stable P) (a0 : Nat) (s : State) (hs : P s) :
    P (upPort a0 s) := by
  unfold upPort
  dsimp -failIfUnchanged only
  repeat' first
    | with_reducible exact hs
    | with_reducible refine ite_keep ?_ ?_
    | with_reducible refine keep_modPort hP _ _ _ ?_
    | with_reducible refine keep_storeTaps hP _ _ ?_
    | with_reducible refine keep_linkEvent hP _ _ ?_
    | with_reducible refine keep_askPark hP _ _ ?_
    | split
    | intro _

theorem keep_execLinkTrainingDone {P : State → Prop} (hP : Stable P) (a0 : Nat) (s : State) (hs : P s) :
    Next P (execLinkTrainingDone a0 s) := by
  unfold execLinkTrainingDone
  repeat' first
    | with_reducible exact hs
    | with_reducible refine next_next ?_
    | with_reducible refine ite_keep ?_ ?_
    | with_reducible refine keep_upPort hP _ _ ?_
    | intro _

theorem keep_execLpiEntry {P : State → Prop} (hP : Stable P) (a0 : Nat) (s : State) (hs : P s) :
    Next P (execLpiEntry a0 s) := by
  unfold execLpiEntry
  dsimp -failIfUnchanged only
  repeat' first
    | with_reducible exact hs
    | with_reducible refine next_next ?_
    | with_reducible refine ite_keep ?_ ?_
    | with_reducible refine keep_modPort hP _ _ _ ?_
    | intro _

theorem keep_execMatchConfig {P : State → Prop} (hP : Stable P) (a0 : Source) (a1 : Packet) (s : State) (hs : P s) :
    Next P (execMatchConfig a0 a1 s) := by
  unfold execMatchConfig
  repeat' first
    | with_reducible exact hs
    | with_reducible assumption
    | with_reducible refine next_next ?_
    | with_reducible refine keep_submitOp hP _ _ _ _ _ ?_ ?_
    | with_reducible refine keep_cmdMatchConfig hP _ _ _ ?_
    | intro _

theorem keep_execMatchDelete {P : State → Prop} (hP : Stable P) (a0 : Source) (a1 : Packet) (s : State) (hs : P s) :
    Next P (execMatchDelete a0 a1 s) := by
  unfold execMatchDelete
  repeat' first
    | with_reducible exact hs
    | with_reducible assumption
    | with_reducible refine next_next ?_
    | with_reducible refine keep_cmdMatchDelete hP _ _ _ ?_
    | with_reducible refine keep_submitOp hP _ _ _ _ _ ?_ ?_
    | intro _

theorem keep_execMatchInsert {P : State → Prop} (hP : Stable P) (a0 : Source) (a1 : Packet) (s : State) (hs : P s) :
    Next P (execMatchInsert a0 a1 s) := by
  unfold execMatchInsert
  repeat' first
    | with_reducible exact hs
    | with_reducible assumption
    | with_reducible refine next_next ?_
    | with_reducible refine keep_submitOp hP _ _ _ _ _ ?_ ?_
    | with_reducible refine keep_cmdMatchInsert hP _ _ _ ?_
    | intro _

theorem keep_execMatchSearch {P : State → Prop} (hP : Stable P) (a0 : Source) (a1 : Packet) (s : State) (hs : P s) :
    Next P (execMatchSearch a0 a1 s) := by
  unfold execMatchSearch
  repeat' first
    | with_reducible exact hs
    | with_reducible assumption
    | with_reducible refine next_next ?_
    | with_reducible refine keep_submitOp hP _ _ _ _ _ ?_ ?_
    | with_reducible refine keep_cmdMatchSearch hP _ _ _ ?_
    | intro _

theorem keep_execMatchStep {P : State → Prop} (hP : Stable P) (a0 : Source) (a1 : Packet) (s : State) (hs : P s) :
    Next P (execMatchStep a0 a1 s) := by
  unfold execMatchStep
  repeat' first
    | with_reducible exact hs
    | with_reducible assumption
    | with_reducible refine next_next ?_
    | with_reducible refine keep_submitOp hP _ _ _ _ _ ?_ ?_
    | with_reducible refine keep_cmdMatchStep hP _ _ _ ?_
    | intro _

theorem keep_execMemberReply {P : State → Prop} (hP : Stable P) (a0 : Nat) (a1 : Nat) (a2 : Nat) (a3 : Nat) (a4 : List Byte) (s : State) (hs : P s) :
    Next P (execMemberReply a0 a1 a2 a3 a4 s) := by
  unfold execMemberReply
  repeat' first
    | with_reducible exact hs
    | with_reducible refine next_next ?_
    | with_reducible refine ite_keep ?_ ?_
    | with_reducible refine keep_memberReply hP _ _ _ _ _ _ ?_
    | intro _

theorem keep_partSuspect {P : State → Prop} (hP : Stable P) (a0 : Nat) (a1 : Nat) (a2 : Ctx) (a3 : SubReq) (s : State) (hs : P s) :
    P (partSuspect a0 a1 a2 a3 s) := by
  unfold partSuspect
  dsimp -failIfUnchanged only
  repeat' first
    | with_reducible exact hs
    | with_reducible refine keep_modCtx hP _ _ _ ?_
    | with_reducible refine keep_postEvent hP _ _ _ _ _ ?_

theorem keep_execMemberWaitExpiry {P : State → Prop} (hP : Stable P) (a0 : Nat) (a1 : Nat) (s : State) (hs : P s) :
    Next P (execMemberWaitExpiry a0 a1 s) := by
  unfold execMemberWaitExpiry
  repeat' first
    | with_reducible exact hs
    | with_reducible refine next_next ?_
    | with_reducible refine ite_keep ?_ ?_
    | with_reducible refine keep_reissue hP _ _ _ ?_
    | with_reducible refine keep_partSuspect hP _ _ _ _ _ ?_
    | with_reducible refine keep_postMember hP _ _ _ _ ?_
    | split
    | intro _

theorem keep_execMergeCmd {P : State → Prop} (hP : Stable P) (a0 : Source) (a1 : Packet) (s : State) (hs : P s) :
    Next P (execMergeCmd a0 a1 s) := by
  unfold execMergeCmd
  repeat' first
    | with_reducible exact hs
    | with_reducible assumption
    | with_reducible refine next_next ?_
    | with_reducible refine keep_submitOp hP _ _ _ _ _ ?_ ?_
    | with_reducible refine keep_cmdMerge hP _ _ _ ?_
    | intro _

theorem keep_execMeterReport {P : State → Prop} (hP : Stable P) (a0 : Source) (a1 : Packet) (s : State) (hs : P s) :
    Next P (execMeterReport a0 a1 s) := by
  unfold execMeterReport
  repeat' first
    | with_reducible exact hs
    | with_reducible assumption
    | with_reducible refine next_next ?_
    | with_reducible refine keep_submitOp hP _ _ _ _ _ ?_ ?_
    | with_reducible refine keep_cmdMeterReport hP _ _ _ ?_
    | intro _

theorem keep_execMeteringSecond {P : State → Prop} (hP : Stable P) (a0 : Nat) (s : State) (hs : P s) :
    Next P (execMeteringSecond a0 s) := by
  unfold execMeteringSecond
  dsimp -failIfUnchanged only
  repeat' first
    | with_reducible exact hs
    | with_reducible assumption
    | with_reducible refine next_next ?_
    | with_reducible refine ite_keep ?_ ?_
    | with_reducible refine keep_meter hP _ _ _ _ ?_
    | with_reducible refine foldl_keep ?_ ?_
    | intro _

theorem keep_execMirrorRead {P : State → Prop} (hP : Stable P) (a0 : Source) (a1 : Packet) (s : State) (hs : P s) :
    Next P (execMirrorRead a0 a1 s) := by
  unfold execMirrorRead
  repeat' first
    | with_reducible exact hs
    | with_reducible assumption
    | with_reducible refine next_next ?_
    | with_reducible refine keep_subRow hP _ _ _ _ _ ?_ ?_
    | with_reducible refine keep_subHandler hP _ _ _ ?_
    | intro _

theorem keep_writeMtrSel {P : State → Prop} (hP : Stable P) (a0 : Nat) (a1 : Nat) (s : State) (hs : P s) :
    P (writeMtrSel a0 a1 s) := by
  unfold writeMtrSel
  dsimp -failIfUnchanged only
  repeat' first
    | with_reducible exact hs
    | with_reducible refine keep_modPart hP _ _ _ ?_

theorem keep_execMtrSel {P : State → Prop} (hP : Stable P) (a0 : Nat) (a1 : Nat) (s : State) (hs : P s) :
    Next P (execMtrSel a0 a1 s) := by
  unfold execMtrSel
  dsimp -failIfUnchanged only
  repeat' first
    | with_reducible exact hs
    | with_reducible refine next_next ?_
    | with_reducible refine ite_keep ?_ ?_
    | with_reducible refine keep_writeMtrSel hP _ _ _ ?_
    | with_reducible refine keep_tlp hP _ ?_
    | intro _

theorem keep_writeNodeId {P : State → Prop} (hP : Stable P) (a0 : Nat) (s : State) (hs : P s) :
    P (writeNodeId a0 s) := by
  unfold writeNodeId
  repeat' first
    | with_reducible exact hs
    | with_reducible refine ite_keep ?_ ?_
    | with_reducible refine keep_modNode hP _ _ ?_
    | intro _

theorem keep_execNodeIdWrite {P : State → Prop} (hP : Stable P) (a0 : Nat) (a1 : Nat) (s : State) (hs : P s) :
    Next P (execNodeIdWrite a0 a1 s) := by
  unfold execNodeIdWrite
  dsimp -failIfUnchanged only
  repeat' first
    | with_reducible exact hs
    | with_reducible refine next_next ?_
    | with_reducible refine ite_keep ?_ ?_
    | with_reducible refine keep_writeNodeId hP _ _ ?_
    | with_reducible refine keep_tlp hP _ ?_
    | intro _

theorem keep_losePart {P : State → Prop} (hP : Wide P) (a0 : Nat) (s : State) (hs : P s) :
    P (losePart a0 s) := by
  unfold losePart
  dsimp -failIfUnchanged only
  repeat' first
    | with_reducible exact hs
    | with_reducible refine keep_modPart hP.1 _ _ _ ?_
    | with_reducible refine keep_eraseP hP _ _ ?_

theorem keep_restorePart {P : State → Prop} (hP : Stable P) (a0 : Nat) (s : State) (hs : P s) :
    P (restorePart a0 s) := by
  unfold restorePart
  repeat' first
    | with_reducible exact hs
    | with_reducible refine keep_reclaim hP _ _ ?_

theorem keep_nodeResetDone {P : State → Prop} (hP : Wide P) (a0 : Nat) (s : State) (hs : P s) :
    P (nodeResetDone a0 s) := by
  unfold nodeResetDone
  dsimp -failIfUnchanged only
  repeat' first
    | with_reducible exact hs
    | with_reducible assumption
    | with_reducible refine ite_keep ?_ ?_
    | with_reducible refine keep_modSec hP.1 _ _ ?_
    | with_reducible refine keep_releaseFault hP.1 _ ?_
    | with_reducible refine keep_closeDump hP.1 _ _ ?_
    | with_reducible refine keep_powerUp hP.1 _ _ _ ?_
    | with_reducible refine snd_one (keep_draw hP.1 _ ?_)
    | with_reducible refine keep_assertFault hP.1 _ ?_
    | with_reducible refine keep_modNode hP.1 _ _ ?_
    | with_reducible refine keep_eraseP hP _ _ ?_
    | with_reducible refine keep_losePart hP _ _ ?_
    | with_reducible refine keep_restorePart hP.1 _ _ ?_
    | with_reducible refine keep_postRecovery hP.1 _ _ _ _ _ _ _ ?_
    | with_reducible refine foldl_keep ?_ ?_
    | split
    | intro _

theorem keep_execNodeResetDone {P : State → Prop} (hP : Wide P) (a0 : Nat) (s : State) (hs : P s) :
    Next P (execNodeResetDone a0 s) := by
  unfold execNodeResetDone
  repeat' first
    | with_reducible exact hs
    | with_reducible refine next_next ?_
    | with_reducible refine ite_keep ?_ ?_
    | with_reducible refine keep_nodeResetDone hP _ _ ?_
    | intro _

theorem keep_execNodeResetTimeout {P : State → Prop} (hP : Stable P) (s : State) (hs : P s) :
    Next P (execNodeResetTimeout s) := by
  unfold execNodeResetTimeout
  repeat' first
    | with_reducible exact hs
    | with_reducible refine next_next ?_
    | with_reducible refine ite_keep ?_ ?_
    | with_reducible refine keep_climb5 hP _ ?_
    | intro _

theorem keep_execNop {P : State → Prop} (hP : Stable P) (a0 : Source) (a1 : Packet) (s : State) (hs : P s) :
    Next P (execNop a0 a1 s) := by
  unfold execNop
  repeat' first
    | with_reducible exact hs
    | with_reducible assumption
    | with_reducible refine next_next ?_
    | with_reducible refine keep_submitOp hP _ _ _ _ _ ?_ ?_
    | with_reducible refine keep_cmdNop hP _ _ _ ?_
    | intro _

theorem keep_execOpRecordExpiry {P : State → Prop} (hP : Stable P) (a0 : Nat) (a1 : Nat) (s : State) (hs : P s) :
    Next P (execOpRecordExpiry a0 a1 s) := by
  unfold execOpRecordExpiry
  repeat' first
    | with_reducible exact hs
    | with_reducible refine next_next ?_
    | with_reducible refine ite_keep ?_ ?_
    | with_reducible refine keep_modPart hP _ _ _ ?_
    | split
    | intro _

theorem keep_execOwnerLeaseEnd {P : State → Prop} (hP : Stable P) (a0 : Nat) (a1 : Nat) (a2 : Nat) (a3 : Nat) (s : State) (hs : P s) :
    Next P (execOwnerLeaseEnd a0 a1 a2 a3 s) := by
  unfold execOwnerLeaseEnd
  repeat' first
    | with_reducible exact hs
    | with_reducible refine next_next ?_
    | with_reducible refine ite_keep ?_ ?_
    | with_reducible refine keep_modSpan hP _ _ _ _ ?_
    | split
    | intro _

theorem keep_sendNext {P : State → Prop} (hP : Stable P) (a0 : Nat) (s : State) (hs : P s) :
    P (sendNext a0 s) := by
  unfold sendNext
  dsimp -failIfUnchanged only
  repeat' first
    | with_reducible exact hs
    | with_reducible refine ite_keep ?_ ?_
    | dsimp only [fst_mk_eq, snd_mk_eq]
    | with_reducible refine keep_emitPacket hP _ _ _ _ _ _ ?_
    | with_reducible refine keep_modConn hP _ _ _ ?_
    | with_reducible refine keep_meter hP _ _ _ _ ?_
    | split
    | intro _

theorem keep_execPacketSend {P : State → Prop} (hP : Stable P) (a0 : Nat) (s : State) (hs : P s) :
    Next P (execPacketSend a0 s) := by
  unfold execPacketSend
  repeat' first
    | with_reducible exact hs
    | with_reducible refine next_next ?_
    | with_reducible refine ite_keep ?_ ?_
    | with_reducible refine keep_sendNext hP _ _ ?_
    | intro _

theorem keep_modPlace {P : State → Prop} (hP : Stable P) (a0 : Nat) (a1 : Nat) (a2 : Nat) (a3 : Place → Place) (s : State) (hs : P s) :
    P (modPlace a0 a1 a2 a3 s) := by
  unfold modPlace
  repeat' first
    | with_reducible exact hs
    | with_reducible refine keep_modCore hP _ _ _ _ ?_

theorem keep_runAhead {P : State → Prop} (hP : Stable P) (a0 : Nat) (a1 : List Nat) (s : State) (hs : P s) :
    P (runAhead a0 a1 s) := by
  unfold runAhead
  dsimp -failIfUnchanged only
  repeat' first
    | with_reducible exact hs
    | with_reducible refine snd_one (keep_draw hP _ ?_)
    | with_reducible refine keep_modCore hP _ _ _ _ ?_
    | with_reducible refine keep_modCell hP _ _ _ ?_
    | split

theorem keep_execPageFetch {P : State → Prop} (hP : Stable P) (a0 : Nat) (s : State) (hs : P s) :
    Next P (execPageFetch a0 s) := by
  unfold execPageFetch
  dsimp -failIfUnchanged only
  repeat' first
    | with_reducible exact hs
    | with_reducible refine next_next ?_
    | with_reducible refine ite_keep ?_ ?_
    | with_reducible refine keep_modPlace hP _ _ _ _ _ ?_
    | with_reducible refine keep_runAhead hP _ _ _ ?_
    | with_reducible refine keep_modCell hP _ _ _ ?_
    | split
    | intro _

theorem keep_readLent {P : State → Prop} (hP : Stable P) (a0 : Nat) (a1 : List Nat) (s : State) (hs : P s) :
    Snd P (readLent a0 a1 s) := by
  unfold readLent
  dsimp -failIfUnchanged only
  repeat' first
    | with_reducible exact hs
    | with_reducible assumption
    | dsimp only [fst_mk_eq, snd_mk_eq]
    | with_reducible refine keep_meetWords hP _ _ _ _ _ ?_
    | with_reducible refine keep_modCell hP _ _ _ ?_
    | with_reducible refine foldl_keep ?_ ?_
    | split
    | intro _

theorem keep_fetchDone {P : State → Prop} (hP : Stable P) (a0 : Nat) (a1 : Nat) (a2 : Nat) (a3 : Nat) (s : State) (hs : P s) :
    P (fetchDone a0 a1 a2 a3 s) := by
  unfold fetchDone
  dsimp -failIfUnchanged only
  repeat' first
    | with_reducible exact hs
    | with_reducible refine ite_keep ?_ ?_
    | dsimp only [fst_mk_eq, snd_mk_eq]
    | with_reducible refine keep_excludePage hP _ _ _ _ _ ?_
    | with_reducible refine keep_aheadLands hP _ _ _ _ ?_
    | with_reducible refine keep_advanceHeld hP _ _ _ _ ?_
    | with_reducible refine snd_one (keep_commitRead hP _ _ _ ?_)
    | with_reducible refine snd_one (keep_readLent hP _ _ _ ?_)
    | with_reducible refine keep_t1Take hP _ _ ?_
    | with_reducible refine keep_modCore hP _ _ _ _ ?_
    | with_reducible refine keep_modCell hP _ _ _ ?_
    | split
    | intro _

theorem keep_pageAccess {P : State → Prop} (hP : Wide P) (a0 : Nat) (a1 : List Nat) (s : State) (hs : P s) :
    P (pageAccess a0 a1 s) := by
  unfold pageAccess
  repeat' first
    | with_reducible exact hs
    | with_reducible assumption
    | with_reducible refine keep_bankStep hP _ _ _ ?_
    | with_reducible refine foldl_keep ?_ ?_
    | split
    | intro _

theorem keep_fetchAccess {P : State → Prop} (hP : Wide P) (a0 : Nat) (a1 : HTok) (a2 : Place) (s : State) (hs : P s) :
    P (fetchAccess a0 a1 a2 s) := by
  unfold fetchAccess
  repeat' first
    | with_reducible exact hs
    | with_reducible refine ite_keep ?_ ?_
    | with_reducible refine keep_pageAccess hP _ _ _ ?_
    | intro _

theorem keep_execPageFetchDone {P : State → Prop} (hP : Wide P) (a0 : Nat) (a1 : Nat) (a2 : Nat) (a3 : Nat) (s : State) (hs : P s) :
    Next P (execPageFetchDone a0 a1 a2 a3 s) := by
  unfold execPageFetchDone
  repeat' first
    | with_reducible exact hs
    | with_reducible refine next_next ?_
    | with_reducible refine keep_fetchDone hP.1 _ _ _ _ _ ?_
    | with_reducible refine keep_fetchAccess hP _ _ _ _ ?_
    | split

theorem keep_execPageLend {P : State → Prop} (hP : Stable P) (a0 : Source) (a1 : Packet) (s : State) (hs : P s) :
    Next P (execPageLend a0 a1 s) := by
  unfold execPageLend
  repeat' first
    | with_reducible exact hs
    | with_reducible assumption
    | with_reducible refine next_next ?_
    | with_reducible refine keep_submitOp hP _ _ _ _ _ ?_ ?_
    | with_reducible refine keep_cmdPageLend hP _ _ _ ?_
    | intro _

end Sys2Proof.Laws
end

