-- ==== Sys2Proof/Laws/Keep6.lean ====
section
/-! SUPPORT. What the functions of the machine keep, part 6 of 6, callees first. A function that leaves the queue and the addressed
memory alone keeps every property that depends on those two only; one that writes the addressed memory keeps its form and the queue. -/

namespace Sys2Proof.Laws

open Sys2Proof.Machine

theorem keep_execPageMigrate {P : State → Prop} (hP : Stable P) (a0 : Source) (a1 : Packet) (s : State) (hs : P s) :
    Next P (execPageMigrate a0 a1 s) := by
  unfold execPageMigrate
  repeat' first
    | with_reducible exact hs
    | with_reducible assumption
    | with_reducible refine next_next ?_
    | with_reducible refine keep_submitOp hP _ _ _ _ _ ?_ ?_
    | with_reducible refine keep_cmdPageMigrate hP _ _ _ ?_
    | intro _

theorem keep_execPagePin {P : State → Prop} (hP : Stable P) (a0 : Source) (a1 : Packet) (s : State) (hs : P s) :
    Next P (execPagePin a0 a1 s) := by
  unfold execPagePin
  repeat' first
    | with_reducible exact hs
    | with_reducible assumption
    | with_reducible refine next_next ?_
    | with_reducible refine keep_cmdPagePin hP _ _ _ ?_
    | with_reducible refine keep_submitOp hP _ _ _ _ _ ?_ ?_
    | intro _

theorem keep_execPageRecall {P : State → Prop} (hP : Stable P) (a0 : Source) (a1 : Packet) (s : State) (hs : P s) :
    Next P (execPageRecall a0 a1 s) := by
  unfold execPageRecall
  repeat' first
    | with_reducible exact hs
    | with_reducible assumption
    | with_reducible refine next_next ?_
    | with_reducible refine keep_submitOp hP _ _ _ _ _ ?_ ?_
    | with_reducible refine keep_cmdPageRecall hP _ _ _ ?_
    | intro _

theorem keep_execPageShare {P : State → Prop} (hP : Stable P) (a0 : Source) (a1 : Packet) (s : State) (hs : P s) :
    Next P (execPageShare a0 a1 s) := by
  unfold execPageShare
  repeat' first
    | with_reducible exact hs
    | with_reducible assumption
    | with_reducible refine next_next ?_
    | with_reducible refine keep_submitOp hP _ _ _ _ _ ?_ ?_
    | with_reducible refine keep_cmdPageShare hP _ _ _ ?_
    | intro _

theorem keep_execParityStream {P : State → Prop} (hP : Stable P) (a0 : Nat) (a1 : Nat) (a2 : Nat) (a3 : Nat) (a4 : Nat) (a5 : Nat) (a6 : PageImage) (a7 : Bool) (s : State) (hs : P s) :
    Next P (execParityStream a0 a1 a2 a3 a4 a5 a6 a7 s) := by
  unfold execParityStream
  dsimp -failIfUnchanged only
  repeat' first
    | with_reducible exact hs
    | with_reducible refine next_next ?_
    | with_reducible refine ite_keep ?_ ?_
    | with_reducible refine keep_modGroup hP _ _ _ _ ?_
    | with_reducible refine keep_answerCoded hP _ _ _ ?_
    | with_reducible refine keep_addParity hP _ _ _ _ _ _ _ ?_
    | with_reducible refine keep_markCoded hP _ _ _ ?_
    | split
    | intro _

theorem keep_execParkAck {P : State → Prop} (hP : Stable P) (a0 : Nat) (s : State) (hs : P s) :
    Next P (execParkAck a0 s) := by
  unfold execParkAck
  repeat' first
    | with_reducible exact hs
    | with_reducible refine next_next ?_
    | with_reducible refine ite_keep ?_ ?_
    | with_reducible refine keep_modPort hP _ _ _ ?_
    | intro _

theorem keep_execParkReq {P : State → Prop} (hP : Stable P) (a0 : Nat) (s : State) (hs : P s) :
    Next P (execParkReq a0 s) := by
  unfold execParkReq
  dsimp -failIfUnchanged only
  repeat' first
    | with_reducible exact hs
    | with_reducible refine next_next ?_
    | with_reducible refine ite_keep ?_ ?_
    | with_reducible refine keep_modPort hP _ _ _ ?_
    | with_reducible refine keep_emit hP _ _ ?_
    | intro _

theorem keep_execPartResetTimeout {P : State → Prop} (hP : Stable P) (a0 : Nat) (s : State) (hs : P s) :
    Next P (execPartResetTimeout a0 s) := by
  unfold execPartResetTimeout
  dsimp -failIfUnchanged only
  repeat' first
    | with_reducible exact hs
    | with_reducible refine next_next ?_
    | with_reducible refine ite_keep ?_ ?_
    | with_reducible refine keep_climb4 hP _ _ _ _ _ _ ?_
    | intro _

theorem keep_execPartitionCreate {P : State → Prop} (hP : Wide P) (a0 : Source) (a1 : Packet) (s : State) (hs : P s) :
    Next P (execPartitionCreate a0 a1 s) := by
  unfold execPartitionCreate
  repeat' first
    | with_reducible exact hs
    | with_reducible assumption
    | with_reducible refine next_next ?_
    | with_reducible refine keep_submitOp hP.1 _ _ _ _ _ ?_ ?_
    | with_reducible refine keep_cmdPartitionCreate hP _ _ _ ?_
    | intro _

theorem keep_execPartitionDestroy {P : State → Prop} (hP : Wide P) (a0 : Source) (a1 : Packet) (s : State) (hs : P s) :
    Next P (execPartitionDestroy a0 a1 s) := by
  unfold execPartitionDestroy
  repeat' first
    | with_reducible exact hs
    | with_reducible assumption
    | with_reducible refine next_next ?_
    | with_reducible refine keep_submitOp hP.1 _ _ _ _ _ ?_ ?_
    | with_reducible refine keep_cmdPartitionDestroy hP _ _ _ ?_
    | intro _

theorem keep_execPartitionResetDone {P : State → Prop} (hP : Wide P) (a0 : Nat) (s : State) (hs : P s) :
    Next P (execPartitionResetDone a0 s) := by
  unfold execPartitionResetDone
  dsimp -failIfUnchanged only
  repeat' first
    | with_reducible exact hs
    | with_reducible refine next_next ?_
    | with_reducible refine ite_keep ?_ ?_
    | with_reducible refine keep_modFn hP.1 _ _ _ ?_
    | with_reducible refine keep_closeDump hP.1 _ _ ?_
    | with_reducible refine keep_modPart hP.1 _ _ _ ?_
    | with_reducible refine keep_conclude hP.1 _ _ _ ?_
    | with_reducible refine keep_eraseP hP _ _ ?_
    | with_reducible refine keep_postRecovery hP.1 _ _ _ _ _ _ _ ?_
    | with_reducible refine keep_destroyConns hP.1 _ _ ?_
    | split
    | intro _

theorem keep_execPatrolCompare {P : State → Prop} (hP : Stable P) (a0 : Nat) (s : State) (hs : P s) :
    Next P (execPatrolCompare a0 s) := by
  unfold execPatrolCompare
  dsimp -failIfUnchanged only
  repeat' first
    | with_reducible exact hs
    | with_reducible refine next_next ?_
    | with_reducible refine ite_keep ?_ ?_
    | with_reducible refine keep_repairEntry hP _ _ _ _ ?_
    | with_reducible refine keep_readFixed hP _ _ _ _ ?_
    | with_reducible refine keep_loseEntry hP _ _ _ _ ?_
    | with_reducible refine keep_modCell hP _ _ _ ?_
    | split
    | intro _

theorem keep_execPcieLinkDown {P : State → Prop} (hP : Stable P) (s : State) (hs : P s) :
    Next P (execPcieLinkDown s) := by
  unfold execPcieLinkDown
  repeat' first
    | with_reducible exact hs
    | with_reducible refine next_next ?_
    | with_reducible refine ite_keep ?_ ?_
    | with_reducible refine keep_flrAll hP _ ?_
    | intro _

theorem keep_execPerstN {P : State → Prop} (hP : Stable P) (a0 : Bool) (s : State) (hs : P s) :
    Next P (execPerstN a0 s) := by
  unfold execPerstN
  repeat' first
    | with_reducible exact hs
    | with_reducible refine next_next ?_
    | with_reducible refine ite_keep ?_ ?_
    | with_reducible refine keep_flrAll hP _ ?_
    | with_reducible refine keep_modNode hP _ _ ?_
    | split
    | intro _

theorem keep_execPlaceSet {P : State → Prop} (hP : Stable P) (a0 : Source) (a1 : Packet) (s : State) (hs : P s) :
    Next P (execPlaceSet a0 a1 s) := by
  unfold execPlaceSet
  repeat' first
    | with_reducible exact hs
    | with_reducible assumption
    | with_reducible refine next_next ?_
    | with_reducible refine keep_submitOp hP _ _ _ _ _ ?_ ?_
    | with_reducible refine keep_cmdPlaceSet hP _ _ _ ?_
    | intro _

theorem keep_execPldmRequest {P : State → Prop} (hP : Stable P) (a0 : PldmReq) (s : State) (hs : P s) :
    Next P (execPldmRequest a0 s) := by
  unfold execPldmRequest
  dsimp -failIfUnchanged only
  repeat' first
    | with_reducible exact hs
    | with_reducible refine next_next ?_
    | with_reducible refine ite_keep ?_ ?_
    | dsimp only [fst_mk_eq, snd_mk_eq]
    | with_reducible refine fst_one (keep_activate hP _ _ ?_)
    | with_reducible refine keep_latchWake hP _ ?_
    | with_reducible refine fst_one (keep_stageChunk hP _ _ _ _ _ ?_)
    | with_reducible refine snd_one (keep_draw hP _ ?_)
    | with_reducible refine keep_emit hP _ _ ?_
    | split
    | intro _

theorem keep_execPoolSet {P : State → Prop} (hP : Stable P) (a0 : Source) (a1 : Packet) (s : State) (hs : P s) :
    Next P (execPoolSet a0 a1 s) := by
  unfold execPoolSet
  repeat' first
    | with_reducible exact hs
    | with_reducible assumption
    | with_reducible refine next_next ?_
    | with_reducible refine keep_cmdPoolSet hP _ _ _ ?_
    | with_reducible refine keep_submitOp hP _ _ _ _ _ ?_ ?_
    | intro _

theorem keep_execPoolStatUpdate {P : State → Prop} (hP : Stable P) (a0 : Nat) (s : State) (hs : P s) :
    Next P (execPoolStatUpdate a0 s) := by
  unfold execPoolStatUpdate
  dsimp -failIfUnchanged only
  repeat' first
    | with_reducible exact hs
    | with_reducible refine next_next ?_
    | with_reducible refine ite_keep ?_ ?_
    | with_reducible refine keep_modPart hP _ _ _ ?_
    | intro _

theorem keep_powerGone {P : State → Prop} (hP : Wide P) (s : State) (hs : P s) :
    P (powerGone s) := by
  exact hP.power _ hs

theorem keep_execPowerLoss {P : State → Prop} (hP : Wide P) (s : State) (hs : P s) :
    Next P (execPowerLoss s) := by
  unfold execPowerLoss
  repeat' first
    | with_reducible exact hs
    | with_reducible refine next_next ?_
    | with_reducible refine keep_powerGone hP _ ?_

theorem keep_execPowerState {P : State → Prop} (hP : Stable P) (a0 : Source) (a1 : Packet) (s : State) (hs : P s) :
    Next P (execPowerState a0 a1 s) := by
  unfold execPowerState
  repeat' first
    | with_reducible exact hs
    | with_reducible assumption
    | with_reducible refine next_next ?_
    | with_reducible refine keep_submitOp hP _ _ _ _ _ ?_ ?_
    | with_reducible refine keep_cmdPowerState hP _ _ _ ?_
    | intro _

theorem keep_execPromptRepeat {P : State → Prop} (hP : Stable P) (a0 : Nat) (a1 : Nat) (s : State) (hs : P s) :
    Next P (execPromptRepeat a0 a1 s) := by
  unfold execPromptRepeat
  repeat' first
    | with_reducible exact hs
    | with_reducible refine next_next ?_
    | with_reducible refine ite_keep ?_ ?_
    | with_reducible refine keep_latchWake hP _ ?_
    | with_reducible refine keep_prompt hP _ _ _ ?_
    | split
    | intro _

theorem keep_execPwrGood {P : State → Prop} (hP : Wide P) (a0 : Nat) (a1 : Bool) (a2 : Bool) (a3 : Bool) (s : State) (hs : P s) :
    Next P (execPwrGood a0 a1 a2 a3 s) := by
  unfold execPwrGood
  dsimp -failIfUnchanged only
  repeat' first
    | with_reducible exact hs
    | with_reducible refine next_next ?_
    | with_reducible refine ite_keep ?_ ?_
    | with_reducible refine keep_modSec hP.1 _ _ ?_
    | with_reducible refine snd_one (keep_draw hP.1 _ ?_)
    | with_reducible refine keep_loadImage hP.1 _ ?_
    | with_reducible refine keep_assertFault hP.1 _ ?_
    | with_reducible refine keep_modNode hP.1 _ _ ?_
    | with_reducible refine keep_powerGone hP _ ?_
    | split
    | intro _

theorem keep_writeQpCfg {P : State → Prop} (hP : Stable P) (a0 : Nat) (a1 : Nat) (a2 : Nat) (s : State) (hs : P s) :
    P (writeQpCfg a0 a1 a2 s) := by
  unfold writeQpCfg
  dsimp -failIfUnchanged only
  repeat' first
    | with_reducible exact hs
    | with_reducible refine ite_keep ?_ ?_
    | with_reducible refine keep_qpErr hP _ _ _ _ ?_
    | with_reducible refine keep_modQp hP _ _ _ _ ?_
    | split
    | intro _

theorem keep_execQpDisable {P : State → Prop} (hP : Stable P) (a0 : Nat) (a1 : Nat) (a2 : BitVec 64) (s : State) (hs : P s) :
    Next P (execQpDisable a0 a1 a2 s) := by
  unfold execQpDisable
  repeat' first
    | with_reducible exact hs
    | with_reducible refine next_next ?_
    | with_reducible refine keep_writeQpCfg hP _ _ _ _ ?_
    | with_reducible refine keep_tlp hP _ ?_

theorem keep_execQpEnable {P : State → Prop} (hP : Stable P) (a0 : Nat) (a1 : Nat) (a2 : BitVec 64) (s : State) (hs : P s) :
    Next P (execQpEnable a0 a1 a2 s) := by
  unfold execQpEnable
  repeat' first
    | with_reducible exact hs
    | with_reducible refine next_next ?_
    | with_reducible refine keep_writeQpCfg hP _ _ _ _ ?_
    | with_reducible refine keep_tlp hP _ ?_

theorem keep_execQpQuiesceDone {P : State → Prop} (hP : Stable P) (a0 : Nat) (a1 : Nat) (s : State) (hs : P s) :
    Next P (execQpQuiesceDone a0 a1 s) := by
  unfold execQpQuiesceDone
  dsimp -failIfUnchanged only
  repeat' first
    | with_reducible exact hs
    | with_reducible refine next_next ?_
    | with_reducible refine ite_keep ?_ ?_
    | with_reducible refine keep_modQp hP _ _ _ _ ?_
    | intro _

theorem keep_execRawApertureAccess {P : State → Prop} (hP : Wide P) (a0 : Nat) (a1 : Nat) (a2 : Nat) (a3 : Nat) (a4 : Option (List Byte)) (s : State) (hs : P s) :
    Next P (execRawApertureAccess a0 a1 a2 a3 a4 s) := by
  unfold execRawApertureAccess
  dsimp -failIfUnchanged only
  repeat' first
    | with_reducible exact hs
    | with_reducible refine next_next ?_
    | with_reducible refine ite_keep ?_ ?_
    | with_reducible refine keep_apertureWrite hP _ _ _ _ _ ?_
    | with_reducible refine keep_latchWake hP.1 _ ?_
    | with_reducible refine keep_finishWake hP.1 _ ?_
    | with_reducible refine keep_emit hP.1 _ _ ?_
    | with_reducible refine keep_bankAccess hP _ _ _ ?_
    | split
    | intro _

theorem keep_execReadState {P : State → Prop} (hP : Stable P) (a0 : Source) (a1 : Packet) (s : State) (hs : P s) :
    Next P (execReadState a0 a1 s) := by
  unfold execReadState
  repeat' first
    | with_reducible exact hs
    | with_reducible assumption
    | with_reducible refine next_next ?_
    | with_reducible refine keep_submitOp hP _ _ _ _ _ ?_ ?_
    | with_reducible refine keep_cmdReadState hP _ _ _ ?_
    | intro _

theorem keep_execRecallRequest {P : State → Prop} (hP : Stable P) (a0 : Nat) (a1 : Nat) (a2 : Nat) (a3 : Nat) (s : State) (hs : P s) :
    Next P (execRecallRequest a0 a1 a2 a3 s) := by
  unfold execRecallRequest
  dsimp -failIfUnchanged only
  repeat' first
    | with_reducible exact hs
    | with_reducible refine next_next ?_
    | with_reducible refine ite_keep ?_ ?_
    | with_reducible refine snd_one (keep_readLent hP _ _ _ ?_)
    | with_reducible refine keep_answerFabric hP _ _ _ _ ?_
    | split
    | intro _

theorem keep_execReconstruction {P : State → Prop} (hP : Stable P) (a0 : Source) (a1 : Packet) (s : State) (hs : P s) :
    Next P (execReconstruction a0 a1 s) := by
  unfold execReconstruction
  repeat' first
    | with_reducible exact hs
    | with_reducible assumption
    | with_reducible refine next_next ?_
    | with_reducible refine keep_subRow hP _ _ _ _ _ ?_ ?_
    | with_reducible refine keep_subHandler hP _ _ _ ?_
    | intro _

theorem keep_execRefLoss {P : State → Prop} (hP : Stable P) (a0 : RefKind) (s : State) (hs : P s) :
    Next P (execRefLoss a0 s) := by
  unfold execRefLoss
  dsimp -failIfUnchanged only
  repeat' first
    | with_reducible exact hs
    | with_reducible assumption
    | with_reducible refine next_next ?_
    | with_reducible refine ite_keep ?_ ?_
    | with_reducible refine keep_flrAll hP _ ?_
    | with_reducible refine keep_fenceAll hP _ _ ?_
    | with_reducible refine keep_downPort hP _ _ ?_
    | with_reducible refine keep_assertFault hP _ ?_
    | with_reducible refine keep_nodeReset hP _ _ _ _ _ _ ?_
    | with_reducible refine keep_modNode hP _ _ ?_
    | with_reducible refine foldl_keep ?_ ?_
    | split
    | intro _

theorem keep_execRegionRegister {P : State → Prop} (hP : Stable P) (a0 : Source) (a1 : Packet) (s : State) (hs : P s) :
    Next P (execRegionRegister a0 a1 s) := by
  unfold execRegionRegister
  repeat' first
    | with_reducible exact hs
    | with_reducible assumption
    | with_reducible refine next_next ?_
    | with_reducible refine keep_submitOp hP _ _ _ _ _ ?_ ?_
    | with_reducible refine keep_cmdRegionRegister hP _ _ _ ?_
    | intro _

theorem keep_execRegionRevoke {P : State → Prop} (hP : Stable P) (a0 : Source) (a1 : Packet) (s : State) (hs : P s) :
    Next P (execRegionRevoke a0 a1 s) := by
  unfold execRegionRevoke
  repeat' first
    | with_reducible exact hs
    | with_reducible assumption
    | with_reducible refine next_next ?_
    | with_reducible refine keep_submitOp hP _ _ _ _ _ ?_ ?_
    | with_reducible refine keep_cmdRegionRevoke hP _ _ _ ?_
    | intro _

theorem keep_startSelftest {P : State → Prop} (hP : Stable P) (s : State) (hs : P s) :
    P (startSelftest s) := by
  unfold startSelftest
  repeat' first
    | with_reducible exact hs
    | with_reducible refine ite_keep ?_ ?_
    | with_reducible refine keep_modSec hP _ _ ?_
    | intro _

theorem keep_rwsWrite {P : State → Prop} (hP : Stable P) (a0 : Nat) (a1 : Nat) (a2 : Half) (a3 : BitVec 64) (s : State) (hs : P s) :
    P (rwsWrite a0 a1 a2 a3 s) := by
  unfold rwsWrite
  repeat' first
    | with_reducible exact hs
    | with_reducible refine ite_keep ?_ ?_
    | with_reducible refine keep_stageItem hP _ _ _ _ _ _ ?_
    | split
    | intro _

theorem keep_writeGlobal {P : State → Prop} (hP : Stable P) (a0 : Nat) (a1 : Nat) (a2 : Nat) (a3 : Nat) (a4 : Half) (a5 : BitVec 64) (s : State) (hs : P s) :
    P (writeGlobal a0 a1 a2 a3 a4 a5 s) := by
  unfold writeGlobal
  dsimp -failIfUnchanged only
  repeat' first
    | with_reducible exact hs
    | with_reducible refine ite_keep ?_ ?_
    | with_reducible refine keep_commitWrite hP _ _ _ _ ?_
    | with_reducible refine keep_modDbg hP _ _ ?_
    | with_reducible refine keep_modPort hP _ _ _ ?_
    | with_reducible refine keep_startSelftest hP _ ?_
    | with_reducible refine keep_modPwr hP _ _ ?_
    | with_reducible refine keep_modSec hP _ _ ?_
    | with_reducible refine keep_rwsWrite hP _ _ _ _ _ ?_
    | with_reducible refine keep_modPart hP _ _ _ ?_
    | with_reducible refine keep_writeNodeId hP _ _ ?_
    | split
    | intro _

theorem keep_modRing {P : State → Prop} (hP : Stable P) (a0 : Nat) (a1 : RingId) (a2 : Ring → Ring) (s : State) (hs : P s) :
    P (modRing a0 a1 a2 s) := by
  unfold modRing
  repeat' first
    | with_reducible exact hs
    | with_reducible refine ite_keep ?_ ?_
    | with_reducible refine keep_modFn hP _ _ _ ?_
    | with_reducible refine keep_modPart hP _ _ _ ?_
    | split
    | intro _

theorem keep_writeRingCtl {P : State → Prop} (hP : Stable P) (a0 : Nat) (a1 : RingId) (a2 : Nat) (s : State) (hs : P s) :
    P (writeRingCtl a0 a1 a2 s) := by
  unfold writeRingCtl
  dsimp -failIfUnchanged only
  repeat' first
    | with_reducible exact hs
    | with_reducible refine ite_keep ?_ ?_
    | with_reducible refine keep_drainRing hP _ _ _ ?_
    | with_reducible refine keep_modRing hP _ _ _ _ ?_
    | split
    | intro _

set_option maxHeartbeats 2000000 in
theorem keep_writeWindow {P : State → Prop} (hP : Stable P) (a0 : Nat) (a1 : Nat) (a2 : Nat) (a3 : Nat) (a4 : Nat) (a5 : Half) (a6 : BitVec 64) (s : State) (hs : P s) :
    P (writeWindow a0 a1 a2 a3 a4 a5 a6 s) := by
  unfold writeWindow
  dsimp -failIfUnchanged only
  repeat' first
    | with_reducible exact hs
    | with_reducible refine ite_keep ?_ ?_
    | with_reducible refine keep_commitWrite hP _ _ _ _ ?_
    | with_reducible refine keep_rwsWrite hP _ _ _ _ _ ?_
    | with_reducible refine keep_modPart hP _ _ _ ?_
    | with_reducible refine keep_writeQpCfg hP _ _ _ _ ?_
    | with_reducible refine keep_writeMtrSel hP _ _ _ ?_
    | with_reducible refine keep_modRing hP _ _ _ _ ?_
    | with_reducible refine keep_writeRingCtl hP _ _ _ _ ?_
    | with_reducible refine keep_modQp hP _ _ _ _ ?_
    | with_reducible refine keep_modCell hP _ _ _ ?_
    | split
    | intro _

theorem keep_writeCapCtl {P : State → Prop} (hP : Stable P) (a0 : Half) (a1 : BitVec 64) (s : State) (hs : P s) :
    P (writeCapCtl a0 a1 s) := by
  unfold writeCapCtl
  dsimp -failIfUnchanged only
  repeat' first
    | with_reducible exact hs
    | with_reducible refine ite_keep ?_ ?_
    | with_reducible refine keep_modDbg hP _ _ ?_
    | with_reducible refine keep_releaseFrost hP _ ?_
    | intro _

theorem keep_execRegisterWrite {P : State → Prop} (hP : Stable P) (a0 : Nat) (a1 : Nat) (a2 : Nat) (a3 : Half) (a4 : BitVec 64) (s : State) (hs : P s) :
    Next P (execRegisterWrite a0 a1 a2 a3 a4 s) := by
  unfold execRegisterWrite
  dsimp -failIfUnchanged only
  repeat' first
    | with_reducible exact hs
    | with_reducible refine next_next ?_
    | with_reducible refine ite_keep ?_ ?_
    | with_reducible refine keep_writeGlobal hP _ _ _ _ _ _ _ ?_
    | with_reducible refine keep_modDbg hP _ _ ?_
    | with_reducible refine keep_writeWindow hP _ _ _ _ _ _ _ _ ?_
    | with_reducible refine keep_writeCapCtl hP _ _ _ ?_
    | with_reducible refine keep_doorbell hP _ _ _ _ _ ?_
    | with_reducible refine keep_tlp hP _ ?_
    | split
    | intro _

theorem keep_execRelease {P : State → Prop} (hP : Stable P) (s : State) (hs : P s) :
    Next P (execRelease s) := by
  unfold execRelease
  repeat' first
    | with_reducible exact hs
    | with_reducible refine next_next ?_
    | with_reducible refine keep_releaseFrost hP _ ?_

theorem keep_execRenewTimer {P : State → Prop} (hP : Stable P) (a0 : Nat) (a1 : Nat) (a2 : Nat) (a3 : Nat) (s : State) (hs : P s) :
    Next P (execRenewTimer a0 a1 a2 a3 s) := by
  unfold execRenewTimer
  dsimp -failIfUnchanged only
  repeat' first
    | with_reducible exact hs
    | with_reducible refine next_next ?_
    | with_reducible refine ite_keep ?_ ?_
    | with_reducible refine keep_latchWake hP _ ?_
    | with_reducible refine keep_askFabric hP _ _ _ _ _ _ _ _ _ _ _ _ _ ?_
    | with_reducible refine keep_modSpan hP _ _ _ _ ?_
    | with_reducible refine keep_grantRec hP _ _ _ _ _ _ ?_
    | with_reducible refine keep_holdLease hP _ _ _ _ _ _ _ _ _ ?_
    | split
    | intro _

theorem keep_execResetLevel {P : State → Prop} (hP : Stable P) (a0 : Source) (a1 : Packet) (s : State) (hs : P s) :
    Next P (execResetLevel a0 a1 s) := by
  unfold execResetLevel
  repeat' first
    | with_reducible exact hs
    | with_reducible assumption
    | with_reducible refine next_next ?_
    | with_reducible refine keep_submitOp hP _ _ _ _ _ ?_ ?_
    | with_reducible refine keep_cmdResetLevel hP _ _ _ ?_
    | intro _

theorem keep_execResetN {P : State → Prop} (hP : Stable P) (s : State) (hs : P s) :
    Next P (execResetN s) := by
  unfold execResetN
  repeat' first
    | with_reducible exact hs
    | with_reducible refine next_next ?_
    | with_reducible refine ite_keep ?_ ?_
    | with_reducible refine keep_endFrost hP _ ?_
    | with_reducible refine keep_nodeReset hP _ _ _ _ _ _ ?_
    | with_reducible refine keep_modNode hP _ _ ?_
    | split
    | intro _

theorem keep_execResetNRelease {P : State → Prop} (hP : Stable P) (s : State) (hs : P s) :
    Next P (execResetNRelease s) := by
  unfold execResetNRelease
  repeat' first
    | with_reducible exact hs
    | with_reducible refine next_next ?_
    | with_reducible refine ite_keep ?_ ?_
    | with_reducible refine keep_modNode hP _ _ ?_
    | intro _

theorem keep_execResyncPage {P : State → Prop} (hP : Stable P) (a0 : Nat) (a1 : Nat) (a2 : Nat) (a3 : Nat) (a4 : Nat) (a5 : Nat) (a6 : PageImage) (s : State) (hs : P s) :
    Next P (execResyncPage a0 a1 a2 a3 a4 a5 a6 s) := by
  unfold execResyncPage
  dsimp -failIfUnchanged only
  repeat' first
    | with_reducible exact hs
    | with_reducible refine next_next ?_
    | with_reducible refine ite_keep ?_ ?_
    | with_reducible refine keep_modSeq hP _ _ _ _ ?_
    | with_reducible refine all_get (keep_landPage hP _ _ _ _ _ _ _ _ ?_) (by with_reducible assumption)
    | with_reducible refine keep_epochFence hP _ _ _ _ _ _ _ ?_
    | with_reducible refine keep_modSpan hP _ _ _ _ ?_
    | split
    | intro _

theorem keep_execReturnToD0 {P : State → Prop} (hP : Stable P) (a0 : Nat) (s : State) (hs : P s) :
    Next P (execReturnToD0 a0 s) := by
  unfold execReturnToD0
  dsimp -failIfUnchanged only
  repeat' first
    | with_reducible exact hs
    | with_reducible assumption
    | with_reducible refine next_next ?_
    | with_reducible refine ite_keep ?_ ?_
    | with_reducible refine keep_modFn hP _ _ _ ?_
    | with_reducible refine keep_raiseMsi hP _ _ _ ?_
    | with_reducible refine keep_drainRing hP _ _ _ ?_
    | with_reducible refine foldl_keep ?_ ?_
    | intro _

theorem keep_execRingEnable {P : State → Prop} (hP : Stable P) (a0 : Nat) (a1 : RingId) (a2 : BitVec 64) (s : State) (hs : P s) :
    Next P (execRingEnable a0 a1 a2 s) := by
  unfold execRingEnable
  repeat' first
    | with_reducible exact hs
    | with_reducible refine next_next ?_
    | with_reducible refine keep_writeRingCtl hP _ _ _ _ ?_
    | with_reducible refine keep_tlp hP _ ?_

theorem keep_execRingHeadWrite {P : State → Prop} (hP : Stable P) (a0 : Nat) (a1 : RingId) (a2 : Nat) (s : State) (hs : P s) :
    Next P (execRingHeadWrite a0 a1 a2 s) := by
  unfold execRingHeadWrite
  dsimp -failIfUnchanged only
  repeat' first
    | with_reducible exact hs
    | with_reducible refine next_next ?_
    | with_reducible refine ite_keep ?_ ?_
    | with_reducible refine keep_drainRing hP _ _ _ ?_
    | with_reducible refine keep_modRing hP _ _ _ _ ?_
    | with_reducible refine keep_tlp hP _ ?_
    | intro _

theorem keep_rnrWait {P : State → Prop} (hP : Stable P) (a0 : Nat) (a1 : Nat) (s : State) (hs : P s) :
    P (rnrWait a0 a1 s) := by
  unfold rnrWait
  repeat' first
    | with_reducible exact hs
    | with_reducible refine ite_keep ?_ ?_
    | with_reducible refine keep_modConn hP _ _ _ ?_
    | with_reducible refine keep_failConn hP _ _ ?_
    | split
    | intro _

theorem keep_rnrMet {P : State → Prop} (hP : Stable P) (a0 : Nat) (a1 : Nat) (s : State) (hs : P s) :
    P (rnrMet a0 a1 s) := by
  unfold rnrMet
  repeat' first
    | with_reducible exact hs
    | with_reducible refine keep_rnrWait hP _ _ _ ?_
    | with_reducible refine keep_modConn hP _ _ _ ?_
    | with_reducible refine keep_ackedTo hP _ _ _ ?_

theorem keep_execRnrNakReceive {P : State → Prop} (hP : Stable P) (a0 : NetHead) (a1 : Nat) (s : State) (hs : P s) :
    Next P (execRnrNakReceive a0 a1 s) := by
  unfold execRnrNakReceive
  repeat' first
    | with_reducible exact hs
    | with_reducible assumption
    | with_reducible refine next_next ?_
    | with_reducible refine keep_meetPacket hP _ _ _ _ ?_ ?_
    | with_reducible refine keep_rnrMet hP _ _ _ ?_
    | split
    | intro _

theorem keep_execRnrTimerExpiry {P : State → Prop} (hP : Stable P) (a0 : Nat) (s : State) (hs : P s) :
    Next P (execRnrTimerExpiry a0 s) := by
  unfold execRnrTimerExpiry
  dsimp -failIfUnchanged only
  repeat' first
    | with_reducible exact hs
    | with_reducible assumption
    | with_reducible refine next_next ?_
    | with_reducible refine ite_keep ?_ ?_
    | with_reducible refine keep_emitPacket hP _ _ _ _ _ _ ?_
    | with_reducible refine keep_modConn hP _ _ _ ?_
    | with_reducible refine foldl_keep ?_ ?_
    | split
    | intro _

theorem keep_execRwsWrite {P : State → Prop} (hP : Stable P) (a0 : Nat) (a1 : Nat) (a2 : Half) (a3 : BitVec 64) (s : State) (hs : P s) :
    Next P (execRwsWrite a0 a1 a2 a3 s) := by
  unfold execRwsWrite
  dsimp -failIfUnchanged only
  repeat' first
    | with_reducible exact hs
    | with_reducible refine next_next ?_
    | with_reducible refine ite_keep ?_ ?_
    | with_reducible refine keep_rwsWrite hP _ _ _ _ _ ?_
    | with_reducible refine keep_tlp hP _ ?_
    | intro _

theorem keep_execSaInstall {P : State → Prop} (hP : Stable P) (a0 : Source) (a1 : Packet) (s : State) (hs : P s) :
    Next P (execSaInstall a0 a1 s) := by
  unfold execSaInstall
  repeat' first
    | with_reducible exact hs
    | with_reducible assumption
    | with_reducible refine next_next ?_
    | with_reducible refine keep_submitOp hP _ _ _ _ _ ?_ ?_
    | with_reducible refine keep_cmdSaInstall hP _ _ _ ?_
    | intro _

theorem keep_execScorerLoad {P : State → Prop} (hP : Stable P) (a0 : Source) (a1 : Packet) (s : State) (hs : P s) :
    Next P (execScorerLoad a0 a1 s) := by
  unfold execScorerLoad
  repeat' first
    | with_reducible exact hs
    | with_reducible assumption
    | with_reducible refine next_next ?_
    | with_reducible refine keep_submitOp hP _ _ _ _ _ ?_ ?_
    | with_reducible refine keep_cmdScorerLoad hP _ _ _ ?_
    | intro _

theorem keep_scrubLentRec {P : State → Prop} (hP : Stable P) (a0 : Nat) (a1 : Nat) (a2 : Nat) (a3 : Bool) (s : State) (hs : P s) :
    P (scrubLentRec a0 a1 a2 a3 s) := by
  unfold scrubLentRec
  dsimp -failIfUnchanged only
  repeat' first
    | with_reducible exact hs
    | with_reducible refine keep_scrubWords hP _ _ _ _ ?_
    | with_reducible refine keep_modCell hP _ _ _ ?_
    | split

theorem keep_scrubLent {P : State → Prop} (hP : Stable P) (a0 : Nat) (a1 : Nat) (a2 : Nat) (a3 : Bool) (s : State) (hs : P s) :
    P (scrubLent a0 a1 a2 a3 s) := by
  unfold scrubLent
  dsimp -failIfUnchanged only
  repeat' first
    | with_reducible exact hs
    | with_reducible refine keep_scrubWords hP _ _ _ _ ?_
    | with_reducible refine keep_modCell hP _ _ _ ?_
    | split

theorem keep_scrubMeta {P : State → Prop} (hP : Stable P) (a0 : Nat) (a1 : Nat) (a2 : Bool) (s : State) (hs : P s) :
    P (scrubMeta a0 a1 a2 s) := by
  unfold scrubMeta
  dsimp -failIfUnchanged only
  repeat' first
    | with_reducible exact hs
    | with_reducible refine ite_keep ?_ ?_
    | with_reducible refine elim_keep ?_ ?_
    | with_reducible refine keep_bumpGen hP _ _ _ ?_
    | with_reducible refine keep_setMeta hP _ _ _ _ ?_
    | with_reducible refine keep_scrubWords hP _ _ _ _ ?_
    | with_reducible refine keep_poisonPage hP _ _ ?_
    | split
    | intro _

theorem keep_scrubShadow {P : State → Prop} (hP : Stable P) (a0 : Nat) (a1 : Nat) (a2 : Bool) (s : State) (hs : P s) :
    P (scrubShadow a0 a1 a2 s) := by
  unfold scrubShadow
  dsimp -failIfUnchanged only
  repeat' first
    | with_reducible exact hs
    | with_reducible refine ite_keep ?_ ?_
    | with_reducible refine keep_scrubWords hP _ _ _ _ ?_
    | with_reducible refine keep_modCell hP _ _ _ ?_
    | intro _

theorem keep_scrubRead {P : State → Prop} (hP : Stable P) (a0 : Nat) (a1 : Nat) (a2 : Bool) (s : State) (hs : P s) :
    P (scrubRead a0 a1 a2 s) := by
  unfold scrubRead
  dsimp -failIfUnchanged only
  repeat' first
    | with_reducible exact hs
    | with_reducible refine ite_keep ?_ ?_
    | with_reducible refine elim_keep ?_ ?_
    | with_reducible refine keep_bumpGen hP _ _ _ ?_
    | with_reducible refine keep_setGran hP _ _ _ ?_
    | with_reducible refine keep_scrubWords hP _ _ _ _ ?_
    | with_reducible refine keep_poisonPage hP _ _ ?_
    | split
    | intro _

theorem keep_scrubAt {P : State → Prop} (hP : Stable P) (a0 : Nat) (a1 : Nat) (a2 : Bool) (s : State) (hs : P s) :
    P (scrubAt a0 a1 a2 s) := by
  unfold scrubAt
  dsimp -failIfUnchanged only
  repeat' first
    | with_reducible exact hs
    | with_reducible refine ite_keep ?_ ?_
    | with_reducible refine keep_scrubLentRec hP _ _ _ _ _ ?_
    | with_reducible refine keep_scrubLent hP _ _ _ _ _ ?_
    | with_reducible refine keep_scrubMeta hP _ _ _ _ ?_
    | with_reducible refine keep_scrubShadow hP _ _ _ _ ?_
    | with_reducible refine keep_scrubRead hP _ _ _ _ ?_
    | split
    | intro _

theorem keep_execScrubGranule {P : State → Prop} (hP : Stable P) (a0 : Nat) (a1 : Bool) (s : State) (hs : P s) :
    Next P (execScrubGranule a0 a1 s) := by
  unfold execScrubGranule
  repeat' first
    | with_reducible exact hs
    | with_reducible refine next_next ?_
    | with_reducible refine ite_keep ?_ ?_
    | with_reducible refine keep_scrubAt hP _ _ _ _ ?_
    | with_reducible refine keep_modCell hP _ _ _ ?_
    | split
    | intro _

theorem keep_rewriteGran {P : State → Prop} (hP : Stable P) (a0 : Nat) (a1 : Nat) (s : State) (hs : P s) :
    P (rewriteGran a0 a1 s) := by
  unfold rewriteGran
  dsimp -failIfUnchanged only
  repeat' first
    | with_reducible exact hs
    | with_reducible refine ite_keep ?_ ?_
    | with_reducible refine keep_setMeta hP _ _ _ _ ?_
    | with_reducible refine keep_setGran hP _ _ _ ?_
    | with_reducible refine keep_modCell hP _ _ _ ?_
    | split
    | intro _

theorem keep_execScrubRewrite {P : State → Prop} (hP : Stable P) (a0 : Nat) (s : State) (hs : P s) :
    Next P (execScrubRewrite a0 s) := by
  unfold execScrubRewrite
  repeat' first
    | with_reducible exact hs
    | with_reducible refine next_next ?_
    | with_reducible refine ite_keep ?_ ?_
    | with_reducible refine keep_rewriteGran hP _ _ _ ?_
    | with_reducible refine keep_modCell hP _ _ _ ?_
    | split
    | intro _

theorem keep_select {P : State → Prop} (hP : Stable P) (a0 : Nat) (a1 : Nat) (s : State) (hs : P s) :
    P (select a0 a1 s) := by
  unfold select
  dsimp -failIfUnchanged only
  repeat' first
    | with_reducible exact hs
    | with_reducible assumption
    | with_reducible refine keep_excludePage hP _ _ _ _ _ ?_
    | with_reducible refine keep_modCtx hP _ _ _ ?_
    | with_reducible refine keep_closeEntry hP _ _ _ _ ?_
    | with_reducible refine keep_modCore hP _ _ _ _ ?_
    | with_reducible refine keep_modCell hP _ _ _ ?_
    | with_reducible refine foldl_keep ?_ ?_
    | split
    | intro _

theorem keep_execSelectionDone {P : State → Prop} (hP : Stable P) (a0 : Nat) (a1 : Nat) (a2 : Nat) (s : State) (hs : P s) :
    Next P (execSelectionDone a0 a1 a2 s) := by
  unfold execSelectionDone
  repeat' first
    | with_reducible exact hs
    | with_reducible refine next_next ?_
    | with_reducible refine ite_keep ?_ ?_
    | with_reducible refine keep_select hP _ _ _ ?_
    | with_reducible refine keep_modCell hP _ _ _ ?_
    | split
    | intro _

theorem keep_execSelftest {P : State → Prop} (hP : Stable P) (a0 : Nat) (s : State) (hs : P s) :
    Next P (execSelftest a0 s) := by
  unfold execSelftest
  dsimp -failIfUnchanged only
  repeat' first
    | with_reducible exact hs
    | with_reducible refine next_next ?_
    | with_reducible refine ite_keep ?_ ?_
    | with_reducible refine keep_startSelftest hP _ ?_
    | with_reducible refine keep_tlp hP _ ?_
    | intro _

theorem keep_execSelftestDone {P : State → Prop} (hP : Stable P) (a0 : Nat) (s : State) (hs : P s) :
    Next P (execSelftestDone a0 s) := by
  unfold execSelftestDone
  repeat' first
    | with_reducible exact hs
    | with_reducible refine next_next ?_
    | with_reducible refine ite_keep ?_ ?_
    | with_reducible refine keep_modSec hP _ _ ?_
    | with_reducible refine keep_errorState hP _ _ ?_
    | split
    | intro _

theorem keep_execSeqCreate {P : State → Prop} (hP : Stable P) (a0 : Source) (a1 : Packet) (s : State) (hs : P s) :
    Next P (execSeqCreate a0 a1 s) := by
  unfold execSeqCreate
  repeat' first
    | with_reducible exact hs
    | with_reducible assumption
    | with_reducible refine next_next ?_
    | with_reducible refine keep_cmdSeqCreate hP _ _ _ ?_
    | with_reducible refine keep_submitOp hP _ _ _ _ _ ?_ ?_
    | intro _

theorem keep_execSeqDestroy {P : State → Prop} (hP : Stable P) (a0 : Source) (a1 : Packet) (s : State) (hs : P s) :
    Next P (execSeqDestroy a0 a1 s) := by
  unfold execSeqDestroy
  repeat' first
    | with_reducible exact hs
    | with_reducible assumption
    | with_reducible refine next_next ?_
    | with_reducible refine keep_submitOp hP _ _ _ _ _ ?_ ?_
    | with_reducible refine keep_cmdSeqDestroy hP _ _ _ ?_
    | intro _

theorem keep_execSeqMapEdit {P : State → Prop} (hP : Stable P) (a0 : Source) (a1 : Packet) (s : State) (hs : P s) :
    Next P (execSeqMapEdit a0 a1 s) := by
  unfold execSeqMapEdit
  repeat' first
    | with_reducible exact hs
    | with_reducible assumption
    | with_reducible refine next_next ?_
    | with_reducible refine keep_submitOp hP _ _ _ _ _ ?_ ?_
    | with_reducible refine keep_cmdSeqMapEdit hP _ _ _ ?_
    | intro _

theorem keep_execSpanDeadlineExpiry {P : State → Prop} (hP : Stable P) (a0 : Nat) (a1 : Nat) (s : State) (hs : P s) :
    Next P (execSpanDeadlineExpiry a0 a1 s) := by
  unfold execSpanDeadlineExpiry
  dsimp -failIfUnchanged only
  repeat' first
    | with_reducible exact hs
    | with_reducible refine next_next ?_
    | with_reducible refine ite_keep ?_ ?_
    | with_reducible refine keep_neighbourDone hP _ _ _ _ ?_
    | with_reducible refine keep_postMember hP _ _ _ _ ?_
    | with_reducible refine keep_spanFailed hP _ _ _ ?_
    | split
    | intro _

theorem keep_execSpdmRequest {P : State → Prop} (hP : Stable P) (a0 : Nat) (a1 : Nat) (a2 : List Byte) (s : State) (hs : P s) :
    Next P (execSpdmRequest a0 a1 a2 s) := by
  unfold execSpdmRequest
  dsimp -failIfUnchanged only
  repeat' first
    | with_reducible exact hs
    | with_reducible refine next_next ?_
    | with_reducible refine ite_keep ?_ ?_
    | dsimp only [fst_mk_eq, snd_mk_eq]
    | with_reducible refine keep_modSec hP _ _ ?_
    | with_reducible refine keep_emit hP _ _ ?_
    | with_reducible refine snd_one (keep_signed hP _ _ ?_)
    | split
    | intro _

theorem keep_takeSack {P : State → Prop} (hP : Stable P) (a0 : Nat) (a1 : Sack) (s : State) (hs : P s) :
    P (takeSack a0 a1 s) := by
  unfold takeSack
  dsimp -failIfUnchanged only
  repeat' first
    | with_reducible exact hs
    | with_reducible assumption
    | with_reducible refine ite_keep ?_ ?_
    | with_reducible refine keep_congest hP _ _ ?_
    | with_reducible refine keep_modConn hP _ _ _ ?_
    | with_reducible refine keep_ackedTo hP _ _ _ ?_
    | with_reducible refine keep_resendPsn hP _ _ _ ?_
    | with_reducible refine foldl_keep ?_ ?_
    | split
    | intro _

theorem keep_execSprayAckReceive {P : State → Prop} (hP : Stable P) (a0 : Nat) (a1 : Nat) (a2 : Bool) (a3 : Sack) (s : State) (hs : P s) :
    Next P (execSprayAckReceive a0 a1 a2 a3 s) := by
  unfold execSprayAckReceive
  repeat' first
    | with_reducible exact hs
    | with_reducible assumption
    | with_reducible refine next_next ?_
    | with_reducible refine keep_takeSack hP _ _ _ ?_
    | with_reducible refine keep_meetPacket hP _ _ _ _ ?_ ?_
    | intro _

theorem keep_noteAck {P : State → Prop} (hP : Stable P) (a0 : Nat) (a1 : Bool) (s : State) (hs : P s) :
    P (noteAck a0 a1 s) := by
  unfold noteAck
  dsimp -failIfUnchanged only
  repeat' first
    | with_reducible exact hs
    | with_reducible refine ite_keep ?_ ?_
    | with_reducible refine keep_modConn hP _ _ _ ?_
    | with_reducible refine keep_sendAck hP _ _ _ _ ?_
    | intro _

theorem keep_markPsn {P : State → Prop} (hP : Wide P) (a0 : Nat) (a1 : Nat) (a2 : Nat) (a3 : Nat) (a4 : Bool) (s : State) (hs : P s) :
    P (markPsn a0 a1 a2 a3 a4 s) := by
  unfold markPsn
  dsimp -failIfUnchanged only
  repeat' first
    | with_reducible exact hs
    | with_reducible refine ite_keep ?_ ?_
    | with_reducible refine keep_modConn hP.1 _ _ _ ?_
    | with_reducible refine keep_sendAck hP.1 _ _ _ _ ?_
    | with_reducible refine keep_deliverPassed hP _ _ _ ?_
    | with_reducible refine keep_noteAck hP.1 _ _ _ ?_
    | intro _

theorem keep_refuseMsg {P : State → Prop} (hP : Stable P) (a0 : Nat) (a1 : Nat) (a2 : MsgIn) (s : State) (hs : P s) :
    P (refuseMsg a0 a1 a2 s) := by
  unfold refuseMsg
  dsimp -failIfUnchanged only
  repeat' first
    | with_reducible exact hs
    | with_reducible refine ite_keep ?_ ?_
    | with_reducible refine keep_returnBuf hP _ _ _ _ ?_
    | with_reducible refine keep_modConn hP _ _ _ ?_
    | with_reducible refine keep_leaveRegion hP _ _ _ ?_
    | with_reducible refine keep_putMsg hP _ _ _ ?_
    | split
    | intro _

theorem keep_placeBytes {P : State → Prop} (hP : Wide P) (a0 : Nat) (a1 : Nat) (a2 : Nat) (a3 : List Byte) (s : State) (hs : P s) :
    P (placeBytes a0 a1 a2 a3 s) := by
  unfold placeBytes
  repeat' first
    | with_reducible exact hs
    | with_reducible refine ite_keep ?_ ?_
    | with_reducible refine keep_putRaw hP _ _ _ ?_
    | split
    | intro _

theorem keep_placePacket {P : State → Prop} (hP : Wide P) (a0 : Nat) (a1 : MsgIn) (a2 : Nat × Nat) (a3 : Nat) (a4 : List Byte) (s : State) (hs : P s) :
    Fst P (placePacket a0 a1 a2 a3 a4 s) := by
  unfold placePacket
  dsimp -failIfUnchanged only
  repeat' first
    | with_reducible exact hs
    | with_reducible refine ite_keep ?_ ?_
    | dsimp only [fst_mk_eq, snd_mk_eq]
    | with_reducible refine keep_placeBytes hP _ _ _ _ _ ?_
    | with_reducible refine keep_meter hP.1 _ _ _ _ ?_
    | split
    | intro _

theorem keep_sprayStore {P : State → Prop} (hP : Wide P) (a0 : Nat) (a1 : NetPacket) (a2 : Nat) (a3 : MsgIn) (s : State) (hs : P s) :
    P (sprayStore a0 a1 a2 a3 s) := by
  unfold sprayStore
  dsimp -failIfUnchanged only
  repeat' first
    | with_reducible exact hs
    | with_reducible refine ite_keep ?_ ?_
    | with_reducible refine keep_markPsn hP _ _ _ _ _ _ ?_
    | with_reducible refine keep_refuseMsg hP.1 _ _ _ _ ?_
    | with_reducible refine keep_putMsg hP.1 _ _ _ ?_
    | with_reducible refine fst_one (keep_placePacket hP _ _ _ _ _ _ ?_)
    | split
    | intro _

theorem keep_refusedAt {P : State → Prop} (hP : Stable P) (a0 : Nat) (a1 : Nat) (s : State) (hs : P s) :
    P (refusedAt a0 a1 s) := by
  unfold refusedAt
  repeat' first
    | with_reducible exact hs
    | with_reducible refine ite_keep ?_ ?_
    | with_reducible refine keep_modRegion hP _ _ _ _ ?_
    | split
    | intro _

theorem keep_sprayStart {P : State → Prop} (hP : Stable P) (a0 : Nat) (a1 : NetPacket) (a2 : MsgIn) (s : State) (hs : P s) :
    Fst P (sprayStart a0 a1 a2 s) := by
  unfold sprayStart
  dsimp -failIfUnchanged only
  repeat' first
    | with_reducible exact hs
    | with_reducible refine ite_keep ?_ ?_
    | dsimp only [fst_mk_eq, snd_mk_eq]
    | with_reducible refine keep_refusedAt hP _ _ _ ?_
    | with_reducible refine keep_acceptInto hP _ _ _ ?_
    | with_reducible refine keep_assignBufs hP _ _ _ ?_
    | split
    | intro _

theorem keep_sprayAccept {P : State → Prop} (hP : Wide P) (a0 : Nat) (a1 : NetPacket) (s : State) (hs : P s) :
    P (sprayAccept a0 a1 s) := by
  unfold sprayAccept
  dsimp -failIfUnchanged only
  repeat' first
    | with_reducible exact hs
    | with_reducible refine ite_keep ?_ ?_
    | dsimp only [fst_mk_eq, snd_mk_eq]
    | with_reducible refine keep_sprayStore hP _ _ _ _ _ ?_
    | with_reducible refine keep_markPsn hP _ _ _ _ _ _ ?_
    | with_reducible refine keep_modConn hP.1 _ _ _ ?_
    | with_reducible refine keep_refuseMsg hP.1 _ _ _ _ ?_
    | with_reducible refine keep_putMsg hP.1 _ _ _ ?_
    | with_reducible refine fst_one (keep_sprayStart hP.1 _ _ _ _ ?_)
    | split
    | intro _

theorem keep_sprayReceive {P : State → Prop} (hP : Wide P) (a0 : Nat) (a1 : NetPacket) (s : State) (hs : P s) :
    P (sprayReceive a0 a1 s) := by
  unfold sprayReceive
  dsimp -failIfUnchanged only
  repeat' first
    | with_reducible exact hs
    | with_reducible refine ite_keep ?_ ?_
    | with_reducible refine keep_modConn hP.1 _ _ _ ?_
    | with_reducible refine keep_sprayAccept hP _ _ _ ?_
    | with_reducible refine keep_noteAck hP.1 _ _ _ ?_
    | split
    | intro _

theorem keep_receive {P : State → Prop} (hP : Stable P) (a0 : Nat) (a1 : NetPacket) (a2 : Nat → NetPacket → State → State) (s : State) (h2 : ∀ i c s, P s → P (a2 i c s)) (hs : P s) :
    P (receive a0 a1 a2 s) := by
  unfold receive
  repeat' first
    | with_reducible exact hs
    | with_reducible assumption
    | with_reducible refine h2 _ _ _ ?_
    | with_reducible refine keep_meetPacket hP _ _ _ _ ?_ ?_
    | intro _

theorem keep_execSprayPacketReceive {P : State → Prop} (hP : Wide P) (a0 : NetPacket) (s : State) (hs : P s) :
    Next P (execSprayPacketReceive a0 s) := by
  unfold execSprayPacketReceive
  repeat' first
    | with_reducible exact hs
    | with_reducible assumption
    | with_reducible refine next_next ?_
    | with_reducible refine keep_sprayReceive hP _ _ _ ?_
    | with_reducible refine keep_receive hP.1 _ _ _ _ ?_ ?_
    | intro _

theorem keep_execSqDoorbell {P : State → Prop} (hP : Stable P) (a0 : Nat) (a1 : Nat) (a2 : Nat) (s : State) (hs : P s) :
    Next P (execSqDoorbell a0 a1 a2 s) := by
  unfold execSqDoorbell
  repeat' first
    | with_reducible exact hs
    | with_reducible refine next_next ?_
    | with_reducible refine keep_doorbell hP _ _ _ _ _ ?_

theorem keep_execSqEntryFetch {P : State → Prop} (hP : Wide P) (a0 : Nat) (a1 : Nat) (a2 : List Byte) (a3 : List Byte) (a4 : Bool) (s : State) (hs : P s) :
    Next P (execSqEntryFetch a0 a1 a2 a3 a4 s) := by
  unfold execSqEntryFetch
  dsimp -failIfUnchanged only
  repeat' first
    | with_reducible exact hs
    | with_reducible assumption
    | with_reducible refine next_next ?_
    | with_reducible refine ite_keep ?_ ?_
    | with_reducible refine keep_submit hP.1 _ _ _ _ ?_ ?_
    | with_reducible refine keep_runOp hP _ _ _ ?_
    | with_reducible refine keep_modQp hP.1 _ _ _ _ ?_
    | with_reducible refine keep_qpFault hP.1 _ _ _ _ ?_
    | split
    | intro _

theorem keep_execSrqPost {P : State → Prop} (hP : Stable P) (a0 : Source) (a1 : Packet) (s : State) (hs : P s) :
    Next P (execSrqPost a0 a1 s) := by
  unfold execSrqPost
  repeat' first
    | with_reducible exact hs
    | with_reducible assumption
    | with_reducible refine next_next ?_
    | with_reducible refine keep_submitOp hP _ _ _ _ _ ?_ ?_
    | with_reducible refine keep_cmdSrqPost hP _ _ _ ?_
    | intro _

theorem keep_execStackTempReport {P : State → Prop} (hP : Stable P) (a0 : Nat) (a1 : Nat) (s : State) (hs : P s) :
    Next P (execStackTempReport a0 a1 s) := by
  unfold execStackTempReport
  dsimp -failIfUnchanged only
  repeat' first
    | with_reducible exact hs
    | with_reducible refine next_next ?_
    | with_reducible refine ite_keep ?_ ?_
    | with_reducible refine keep_setCause hP _ _ ?_
    | with_reducible refine keep_tripThermal hP _ ?_
    | with_reducible refine keep_setWarn hP _ _ ?_
    | with_reducible refine keep_clearCond hP _ _ _ ?_
    | with_reducible refine keep_modCell hP _ _ _ ?_
    | split
    | intro _

theorem keep_sendNak {P : State → Prop} (hP : Stable P) (a0 : Nat) (a1 : Nat) (s : State) (hs : P s) :
    P (sendNak a0 a1 s) := by
  unfold sendNak
  dsimp -failIfUnchanged only
  repeat' first
    | with_reducible exact hs
    | with_reducible refine keep_modConn hP _ _ _ ?_
    | with_reducible refine keep_ackPkt hP _ _ _ _ _ ?_

theorem keep_nakFatal {P : State → Prop} (hP : Stable P) (a0 : Nat) (a1 : Nat) (s : State) (hs : P s) :
    P (nakFatal a0 a1 s) := by
  unfold nakFatal
  repeat' first
    | with_reducible exact hs
    | with_reducible refine keep_sendNak hP _ _ _ ?_
    | with_reducible refine keep_failConn hP _ _ ?_

theorem keep_takeAck {P : State → Prop} (hP : Stable P) (a0 : Nat) (a1 : NetPacket) (s : State) (hs : P s) :
    P (takeAck a0 a1 s) := by
  unfold takeAck
  dsimp -failIfUnchanged only
  repeat' first
    | with_reducible exact hs
    | with_reducible refine ite_keep ?_ ?_
    | with_reducible refine keep_modConn hP _ _ _ ?_
    | with_reducible refine keep_goBack hP _ _ _ ?_
    | with_reducible refine keep_ackedTo hP _ _ _ ?_
    | with_reducible refine keep_failConn hP _ _ ?_
    | with_reducible refine keep_rnrMet hP _ _ _ ?_
    | split
    | intro _

theorem keep_stdStart {P : State → Prop} (hP : Stable P) (a0 : Nat) (a1 : NetPacket) (s : State) (hs : P s) :
    Fst P (stdStart a0 a1 s) := by
  unfold stdStart
  dsimp -failIfUnchanged only
  repeat' first
    | with_reducible exact hs
    | with_reducible refine ite_keep ?_ ?_
    | dsimp only [fst_mk_eq, snd_mk_eq]
    | with_reducible refine keep_refusedAt hP _ _ _ ?_
    | with_reducible refine keep_acceptInto hP _ _ _ ?_
    | with_reducible refine snd_get (all_get (keep_takeBuf hP _ _ _ ?_) (by with_reducible assumption)) rfl
    | split
    | intro _

theorem keep_stdAccept {P : State → Prop} (hP : Wide P) (a0 : Nat) (a1 : NetPacket) (s : State) (hs : P s) :
    P (stdAccept a0 a1 s) := by
  unfold stdAccept
  dsimp -failIfUnchanged only
  repeat' first
    | with_reducible exact hs
    | with_reducible refine ite_keep ?_ ?_
    | dsimp only [fst_mk_eq, snd_mk_eq]
    | with_reducible refine keep_sendNak hP.1 _ _ _ ?_
    | with_reducible refine keep_nakFatal hP.1 _ _ _ ?_
    | with_reducible refine keep_deliverMsg hP _ _ _ ?_
    | with_reducible refine keep_modConn hP.1 _ _ _ ?_
    | with_reducible refine fst_one (keep_stdStart hP.1 _ _ _ ?_)
    | with_reducible refine keep_noteAck hP.1 _ _ _ ?_
    | with_reducible refine fst_one (keep_placePacket hP _ _ _ _ _ _ ?_)
    | split
    | intro _

theorem keep_stdCe {P : State → Prop} (hP : Stable P) (a0 : Nat) (a1 : Bool) (s : State) (hs : P s) :
    P (stdCe a0 a1 s) := by
  unfold stdCe
  dsimp -failIfUnchanged only
  repeat' first
    | with_reducible exact hs
    | with_reducible refine ite_keep ?_ ?_
    | with_reducible refine keep_sendPkt hP _ _ _ _ ?_
    | with_reducible refine keep_modConn hP _ _ _ ?_
    | intro _

theorem keep_stdReceive {P : State → Prop} (hP : Wide P) (a0 : Nat) (a1 : NetPacket) (s : State) (hs : P s) :
    P (stdReceive a0 a1 s) := by
  unfold stdReceive
  dsimp -failIfUnchanged only
  repeat' first
    | with_reducible exact hs
    | with_reducible refine ite_keep ?_ ?_
    | with_reducible refine keep_congest hP.1 _ _ ?_
    | with_reducible refine keep_sendNak hP.1 _ _ _ ?_
    | with_reducible refine keep_nakFatal hP.1 _ _ _ ?_
    | with_reducible refine keep_modConn hP.1 _ _ _ ?_
    | with_reducible refine keep_sendAck hP.1 _ _ _ _ ?_
    | with_reducible refine keep_takeAck hP.1 _ _ _ ?_
    | with_reducible refine keep_stdAccept hP _ _ _ ?_
    | with_reducible refine keep_stdCe hP.1 _ _ _ ?_
    | split
    | intro _

theorem keep_execStdPacketReceive {P : State → Prop} (hP : Wide P) (a0 : NetPacket) (s : State) (hs : P s) :
    Next P (execStdPacketReceive a0 s) := by
  unfold execStdPacketReceive
  repeat' first
    | with_reducible exact hs
    | with_reducible assumption
    | with_reducible refine next_next ?_
    | with_reducible refine keep_stdReceive hP _ _ _ ?_
    | with_reducible refine keep_receive hP.1 _ _ _ _ ?_ ?_
    | intro _

theorem keep_execSubRequest {P : State → Prop} (hP : Stable P) (a0 : Source) (a1 : Packet) (s : State) (hs : P s) :
    Next P (execSubRequest a0 a1 s) := by
  unfold execSubRequest
  repeat' first
    | with_reducible exact hs
    | with_reducible assumption
    | with_reducible refine next_next ?_
    | with_reducible refine keep_subRow hP _ _ _ _ _ ?_ ?_
    | with_reducible refine keep_subHandler hP _ _ _ ?_
    | intro _

theorem keep_writesGo {P : State → Prop} (hP : Stable P) (a0 : Nat) (s : State) (hs : P s) :
    P (writesGo a0 s) := by
  unfold writesGo
  dsimp -failIfUnchanged only
  repeat' first
    | with_reducible exact hs
    | with_reducible assumption
    | with_reducible refine keep_cmdMatchDelete hP _ _ _ ?_
    | with_reducible refine keep_cmdMatchStep hP _ _ _ ?_
    | with_reducible refine keep_begin_ hP _ _ _ ?_ ?_
    | with_reducible refine keep_cmdMatchInsert hP _ _ _ ?_
    | with_reducible refine keep_modCell hP _ _ _ ?_
    | with_reducible refine foldl_keep ?_ ?_
    | split
    | intro _

theorem keep_execSweepDone {P : State → Prop} (hP : Stable P) (a0 : Nat) (s : State) (hs : P s) :
    Next P (execSweepDone a0 s) := by
  unfold execSweepDone
  dsimp -failIfUnchanged only
  repeat' first
    | with_reducible exact hs
    | with_reducible assumption
    | with_reducible refine next_next ?_
    | with_reducible refine ite_keep ?_ ?_
    | with_reducible refine keep_repairEntry hP _ _ _ _ ?_
    | with_reducible refine keep_reportBatch hP _ _ _ _ _ ?_
    | with_reducible refine keep_readFixed hP _ _ _ _ ?_
    | with_reducible refine keep_writesGo hP _ _ ?_
    | with_reducible refine keep_modCell hP _ _ _ ?_
    | with_reducible refine foldl_keep ?_ ?_
    | split
    | intro _

theorem keep_execSweepStart {P : State → Prop} (hP : Stable P) (a0 : Nat) (s : State) (hs : P s) :
    Next P (execSweepStart a0 s) := by
  unfold execSweepStart
  dsimp -failIfUnchanged only
  repeat' first
    | with_reducible exact hs
    | with_reducible refine next_next ?_
    | with_reducible refine ite_keep ?_ ?_
    | with_reducible refine keep_modCell hP _ _ _ ?_
    | split
    | intro _

theorem keep_execTamperN {P : State → Prop} (hP : Wide P) (s : State) (hs : P s) :
    Next P (execTamperN s) := by
  unfold execTamperN
  dsimp -failIfUnchanged only
  repeat' first
    | with_reducible exact hs
    | with_reducible refine next_next ?_
    | with_reducible refine ite_keep ?_ ?_
    | with_reducible refine keep_zeroiseAll hP _ _ ?_
    | with_reducible refine keep_modSec hP.1 _ _ ?_
    | with_reducible refine keep_postEvent hP.1 _ _ _ _ _ ?_
    | with_reducible refine snd_one (keep_draw hP.1 _ ?_)
    | with_reducible refine keep_assertFault hP.1 _ ?_
    | intro _

theorem keep_execTapAccess {P : State → Prop} (hP : Stable P) (a0 : TapOp) (s : State) (hs : P s) :
    Next P (execTapAccess a0 s) := by
  unfold execTapAccess
  dsimp -failIfUnchanged only
  repeat' first
    | with_reducible exact hs
    | with_reducible refine next_next ?_
    | with_reducible refine ite_keep ?_ ?_
    | with_reducible refine keep_modDbg hP _ _ ?_
    | with_reducible refine keep_writeCapCtl hP _ _ _ ?_
    | with_reducible refine keep_emit hP _ _ ?_
    | split
    | intro _

theorem keep_execThermtrip {P : State → Prop} (hP : Stable P) (s : State) (hs : P s) :
    Next P (execThermtrip s) := by
  unfold execThermtrip
  repeat' first
    | with_reducible exact hs
    | with_reducible refine next_next ?_
    | with_reducible refine keep_tripThermal hP _ ?_

theorem keep_execThrottleClear {P : State → Prop} (hP : Stable P) (a0 : Nat) (s : State) (hs : P s) :
    Next P (execThrottleClear a0 s) := by
  unfold execThrottleClear
  repeat' first
    | with_reducible exact hs
    | with_reducible refine next_next ?_
    | with_reducible refine ite_keep ?_ ?_
    | with_reducible refine keep_clearCause hP _ _ ?_
    | intro _

theorem keep_takeToken {P : State → Prop} (hP : Stable P) (a0 : Nat) (a1 : Nat) (a2 : Nat) (s : State) (hs : P s) :
    P (takeToken a0 a1 a2 s) := by
  unfold takeToken
  dsimp -failIfUnchanged only
  repeat' first
    | with_reducible exact hs
    | with_reducible refine ite_keep ?_ ?_
    | with_reducible refine keep_closeEntry hP _ _ _ _ ?_
    | with_reducible refine keep_modCore hP _ _ _ _ ?_
    | with_reducible refine keep_modCell hP _ _ _ ?_
    | split
    | intro _

theorem keep_takeWaiting {P : State → Prop} (hP : Stable P) (a0 : Nat) (a1 : Nat) (a2 : Nat) (a3 : Nat) (s : State) (hs : P s) :
    P (takeWaiting a0 a1 a2 a3 s) := by
  induction a3 generalizing s with
  | zero =>
    unfold takeWaiting
    repeat' first
      | with_reducible exact hs
  | succ n ih =>
    unfold takeWaiting
    dsimp -failIfUnchanged only
    repeat' first
      | with_reducible refine ih _ ?_
      | with_reducible exact hs
      | with_reducible refine keep_takeToken hP _ _ _ _ ?_
      | split

theorem keep_finishToken {P : State → Prop} (hP : Stable P) (a0 : Nat) (a1 : Nat) (s : State) (hs : P s) :
    P (finishToken a0 a1 s) := by
  unfold finishToken
  dsimp -failIfUnchanged only
  repeat' first
    | with_reducible exact hs
    | with_reducible refine ite_keep ?_ ?_
    | with_reducible refine keep_takeToken hP _ _ _ _ ?_
    | with_reducible refine keep_takeWaiting hP _ _ _ _ _ ?_
    | with_reducible refine keep_modCore hP _ _ _ _ ?_
    | split
    | intro _

theorem keep_execTokenFinish {P : State → Prop} (hP : Stable P) (a0 : Nat) (a1 : Nat) (a2 : Nat) (s : State) (hs : P s) :
    Next P (execTokenFinish a0 a1 a2 s) := by
  unfold execTokenFinish
  repeat' first
    | with_reducible exact hs
    | with_reducible refine next_next ?_
    | with_reducible refine ite_keep ?_ ?_
    | with_reducible refine keep_finishToken hP _ _ _ ?_
    | with_reducible refine keep_modCell hP _ _ _ ?_
    | split
    | intro _

theorem keep_pull {P : State → Prop} (hP : Stable P) (a0 : Nat) (a1 : Nat) (s : State) (hs : P s) :
    P (pull a0 a1 s) := by
  unfold pull
  dsimp -failIfUnchanged only
  repeat' first
    | with_reducible exact hs
    | with_reducible refine keep_advanceHeld hP _ _ _ _ ?_
    | with_reducible refine keep_modCore hP _ _ _ _ ?_
    | with_reducible refine keep_modCell hP _ _ _ ?_
    | split

theorem keep_execTokenPull {P : State → Prop} (hP : Stable P) (a0 : Nat) (a1 : Nat) (s : State) (hs : P s) :
    Next P (execTokenPull a0 a1 s) := by
  unfold execTokenPull
  repeat' first
    | with_reducible exact hs
    | with_reducible refine next_next ?_
    | with_reducible refine ite_keep ?_ ?_
    | with_reducible refine keep_pull hP _ _ _ ?_
    | intro _

theorem keep_execUnpark {P : State → Prop} (hP : Stable P) (a0 : Nat) (a1 : Bool) (s : State) (hs : P s) :
    Next P (execUnpark a0 a1 s) := by
  unfold execUnpark
  dsimp -failIfUnchanged only
  repeat' first
    | with_reducible exact hs
    | with_reducible refine next_next ?_
    | with_reducible refine ite_keep ?_ ?_
    | with_reducible refine keep_modPort hP _ _ _ ?_
    | with_reducible refine keep_downPort hP _ _ ?_
    | split
    | intro _

theorem keep_execVTileConsumed {P : State → Prop} (hP : Wide P) (a0 : Nat) (a1 : Nat) (s : State) (hs : P s) :
    Next P (execVTileConsumed a0 a1 s) := by
  unfold execVTileConsumed
  repeat' first
    | with_reducible exact hs
    | with_reducible refine next_next ?_
    | with_reducible refine ite_keep ?_ ?_
    | with_reducible refine keep_consume hP _ _ _ ?_
    | intro _

theorem keep_execVfEnableClear {P : State → Prop} (hP : Stable P) (a0 : Nat) (s : State) (hs : P s) :
    Next P (execVfEnableClear a0 s) := by
  unfold execVfEnableClear
  repeat' first
    | with_reducible exact hs
    | with_reducible assumption
    | with_reducible refine next_next ?_
    | with_reducible refine ite_keep ?_ ?_
    | with_reducible refine keep_flrFn hP _ _ ?_
    | with_reducible refine keep_flrAll hP _ ?_
    | with_reducible refine foldl_keep ?_ ?_
    | split
    | intro _

theorem keep_execWake {P : State → Prop} (hP : Stable P) (s : State) (hs : P s) :
    Next P (execWake s) := by
  unfold execWake
  repeat' first
    | with_reducible exact hs
    | with_reducible refine next_next ?_
    | with_reducible refine ite_keep ?_ ?_
    | with_reducible refine keep_latchWake hP _ ?_
    | with_reducible refine keep_finishWake hP _ ?_
    | intro _

theorem keep_execWakeN {P : State → Prop} (hP : Stable P) (a0 : Bool) (s : State) (hs : P s) :
    Next P (execWakeN a0 s) := by
  unfold execWakeN
  repeat' first
    | with_reducible exact hs
    | with_reducible refine next_next ?_
    | with_reducible refine ite_keep ?_ ?_
    | with_reducible refine keep_latchWake hP _ ?_
    | intro _

theorem keep_execWeftTrainingDone {P : State → Prop} (hP : Stable P) (a0 : Nat) (a1 : Nat) (a2 : Nat) (s : State) (hs : P s) :
    Next P (execWeftTrainingDone a0 a1 a2 s) := by
  unfold execWeftTrainingDone
  dsimp -failIfUnchanged only
  repeat' first
    | with_reducible exact hs
    | with_reducible refine next_next ?_
    | with_reducible refine ite_keep ?_ ?_
    | dsimp only [fst_mk_eq, snd_mk_eq]
    | with_reducible refine keep_modPort hP _ _ _ ?_
    | with_reducible refine keep_upPort hP _ _ ?_
    | with_reducible refine keep_startPort hP _ _ ?_
    | with_reducible refine snd_one (keep_draw hP _ ?_)
    | with_reducible refine keep_emit hP _ _ ?_
    | split
    | intro _

theorem keep_execWriteThrough {P : State → Prop} (hP : Stable P) (a0 : Source) (a1 : Packet) (s : State) (hs : P s) :
    Next P (execWriteThrough a0 a1 s) := by
  unfold execWriteThrough
  repeat' first
    | with_reducible exact hs
    | with_reducible assumption
    | with_reducible refine next_next ?_
    | with_reducible refine keep_submitOp hP _ _ _ _ _ ?_ ?_
    | with_reducible refine keep_cmdAppendAny hP _ _ _ ?_
    | intro _

theorem keep_execZeroise {P : State → Prop} (hP : Wide P) (a0 : Source) (a1 : Packet) (s : State) (hs : P s) :
    Next P (execZeroise a0 a1 s) := by
  unfold execZeroise
  repeat' first
    | with_reducible exact hs
    | with_reducible assumption
    | with_reducible refine next_next ?_
    | with_reducible refine keep_submitOp hP.1 _ _ _ _ _ ?_ ?_
    | with_reducible refine keep_cmdZeroise hP _ _ _ ?_
    | intro _

theorem keep_resumeOne {P : State → Prop} (hP : Stable P) (a0 : Handler) (s : State) (h0 : ∀ i c s, P s → Fst P (a0 i c s)) (hs : P s) :
    P (resumeOne a0 s) := by
  unfold resumeOne
  repeat' first
    | with_reducible exact hs
    | with_reducible assumption
    | with_reducible refine ite_keep ?_ ?_
    | with_reducible refine keep_modCmd hP _ _ _ ?_
    | with_reducible refine keep_begin_ hP _ _ _ ?_ ?_
    | split
    | intro _

theorem keep_resumeAll {P : State → Prop} (hP : Wide P) (s : State) (hs : P s) :
    P (resumeAll s) := by
  unfold resumeAll
  repeat' first
    | with_reducible exact hs
    | with_reducible assumption
    | with_reducible refine keep_commitTurns hP.1 _ ?_
    | with_reducible refine keep_runOp hP _ _ _ ?_
    | with_reducible refine keep_resumeOne hP.1 _ _ ?_ ?_
    | with_reducible refine foldl_keep ?_ ?_
    | intro _

theorem keep_tickDestroy {P : State → Prop} (hP : Wide P) (s : State) (hs : P s) :
    P (tickDestroy s) := by
  unfold tickDestroy
  repeat' first
    | with_reducible exact hs
    | with_reducible assumption
    | with_reducible refine keep_destroyGo hP _ _ ?_
    | with_reducible refine foldl_keep ?_ ?_
    | intro _

theorem keep_tickDump {P : State → Prop} (hP : Stable P) (s : State) (hs : P s) :
    P (tickDump s) := by
  unfold tickDump
  dsimp -failIfUnchanged only
  repeat' first
    | with_reducible exact hs
    | with_reducible refine ite_keep ?_ ?_
    | with_reducible refine keep_closeDump hP _ _ ?_
    | with_reducible refine snd_one (keep_draw hP _ ?_)
    | split
    | intro _

theorem keep_tickWake {P : State → Prop} (hP : Stable P) (s : State) (hs : P s) :
    P (tickWake s) := by
  unfold tickWake
  repeat' first
    | with_reducible exact hs
    | with_reducible refine ite_keep ?_ ?_
    | with_reducible refine keep_finishWake hP _ ?_
    | intro _

theorem keep_tick {P : State → Prop} (hP : Wide P) (s : State) (hs : P s) :
    P (tick s) := by
  unfold tick
  dsimp -failIfUnchanged only
  repeat' first
    | with_reducible exact hs
    | with_reducible refine ite_keep ?_ ?_
    | with_reducible refine keep_tickDestroy hP _ ?_
    | with_reducible refine keep_resumeAll hP _ ?_
    | with_reducible refine keep_tickDump hP.1 _ ?_
    | with_reducible refine keep_modNode hP.1 _ _ ?_
    | with_reducible refine keep_tickWake hP.1 _ ?_
    | with_reducible refine keep_countCells hP.1 _ ?_
    | split
    | intro _

end Sys2Proof.Laws
end

