-- ==== Sys2Proof/Laws/Protocol.lean ====
section
/-! SUPPORT. Where a packet's command begins, submission runs its meaning. -/

namespace Sys2Proof.Laws

open Sys2Proof.Machine

/-- Enrolment records the command under its number. -/
theorem enrol_cmd {c d : Cmd} {s t : State} {id : Nat} (h : enrol c s = some (id, d, t)) : tget? t.cmds id = some d := by
  unfold enrol at h
  simp only at h
  split at h
  · simp only [Option.map_eq_some_iff, Prod.mk.injEq] at h
    obtain ⟨x, _, rfl, rfl, rfl⟩ := h
    simp
  · simp only [Option.some.injEq, Prod.mk.injEq] at h
    obtain ⟨rfl, rfl, rfl⟩ := h
    simp

/-- A packet's enrolment keeps the opcode that it carries. -/
theorem enrol_opcode {c d : Cmd} {s t : State} {id : Nat} (h : enrol c s = some (id, d, t)) : d.opcode = c.opcode := by
  unfold enrol at h
  simp only at h
  split at h
  · simp only [Option.map_eq_some_iff, Prod.mk.injEq] at h
    obtain ⟨x, _, _, rfl, _⟩ := h
    rfl
  · simp only [Option.some.injEq, Prod.mk.injEq] at h
    rw [← h.2.1]

/-- A fold over changes that leave the records of the commands alone leaves them alone. -/
theorem foldl_cmds {β : Type} (l : List β) (f : State → β → State) (s : State) (h : ∀ s b, (f s b).cmds = s.cmds) :
    (l.foldl f s).cmds = s.cmds := by
  induction l generalizing s with
  | nil => rfl
  | cons b l ih => simp only [List.foldl_cons, ih, h]

/-- The record of command `id`, where there is one, is of opcode `op`. -/
def OpAt (id op : Nat) (s : State) : Prop := ∀ d, tget? s.cmds id = some d → d.opcode = op

theorem opAt_of_cmds {id op : Nat} {s t : State} (h : t.cmds = s.cmds) (hs : OpAt id op s) : OpAt id op t := by
  unfold OpAt; rw [h]; exact hs

theorem opAt_modCmd {id op : Nat} {f : Cmd → Cmd} {s : State} (hf : ∀ d, (f d).opcode = d.opcode) (hs : OpAt id op s) :
    OpAt id op (modCmd id f s) := by
  intro d h
  rw [modCmd_cmds, tget?_tmod_self, Option.map_eq_some_iff] at h
  obtain ⟨e, he, rfl⟩ := h
  rw [hf]; exact hs e he

/-- What a command takes hold of leaves its opcode as it is. -/
theorem takeHolds_opcode {id op : Nat} {c : Cmd} {s : State} (hs : OpAt id op s) : OpAt id op (takeHolds id c s) := by
  have h1 : OpAt id op (meetSender c s) := by
    refine opAt_of_cmds ?_ hs
    unfold meetSender
    split
    · split
      · unfold freeOrphans
        simp only [modPart_cmds]
        exact foldl_cmds _ _ _ (fun s b => modCell_cmds _ _ s)
      · rfl
    · rfl
  have h2 : OpAt id op (holdDeadline id c (meetSender c s)) := by
    unfold holdDeadline
    split
    · exact h1
    · exact opAt_of_cmds (modCtx_cmds _ _ _) (opAt_modCmd (fun _ => rfl) h1)
  have h3 : OpAt id op (holdTable id c (holdDeadline id c (meetSender c s))) := by
    unfold holdTable
    split
    · exact h2
    · simp only
      split
      · exact opAt_modCmd (fun _ => rfl) (opAt_of_cmds (by simp only [takeTable, modTable, modPart_cmds]) h2)
      · exact opAt_modCmd (fun _ => rfl) h2
  unfold takeHolds holdScorer
  simp only
  split
  · exact opAt_modCmd (fun _ => rfl) (opAt_of_cmds (by simp only [modScorer, modPart_cmds]) h3)
  · exact h3

/-- What `begins` says: the packet reaches the decoders, passes its checks, and its command is enrolled, takes what it holds and
need not wait. -/
theorem begins_iff {src : Source} {pkt : Packet} {s v : State} {id : Nat} {d : Cmd} :
    begins src pkt s = some (id, d, v) ↔
      reaches src s = true ∧ 64 ≤ pkt.bytes.length ∧ firstCheck (parseCmd (latchWake s) src pkt) pkt.bytes (latchWake s) = none ∧
        ∃ c u, enrol (parseCmd (latchWake s) src pkt) (latchWake s) = some (id, c, u) ∧ v = takeHolds id c u ∧
          mustHold v id c = false ∧ classWaits v id c = false ∧ tget? v.cmds id = some d := by
  unfold begins
  simp only
  constructor
  · intro h
    split at h
    · rename_i hg
      simp only [Bool.and_eq_true, decide_eq_true_eq, Option.isNone_iff_eq_none] at hg
      split at h
      · rename_i he
        split at h
        · cases h
        · rename_i hm
          simp only [Option.map_eq_some_iff, Prod.mk.injEq] at h
          obtain ⟨x, hx, rfl, rfl, rfl⟩ := h
          simp only [Bool.or_eq_true, not_or, Bool.not_eq_true] at hm
          exact ⟨hg.1.1, hg.1.2, hg.2, _, _, he, rfl, hm.1, hm.2, hx⟩
      · cases h
    · cases h
  · rintro ⟨h1, h2, h3, c, u, h4, rfl, h5, h6, h7⟩
    simp [h1, h2, h3, h4, h5, h6, h7]

/-- The record with which a command begins is the one that the state holds under its number. -/
theorem begins_cmd {src : Source} {pkt : Packet} {s t : State} {id : Nat} {c : Cmd} (h : begins src pkt s = some (id, c, t)) :
    tget? t.cmds id = some c := by
  obtain ⟨_, _, _, _, _, _, _, _, _, h⟩ := begins_iff.mp h
  exact h

/-- A packet whose command begins is one of its opcode's meaning. -/
theorem submit_of_begins {src : Source} {pkt : Packet} {s t : State} {id : Nat} {c : Cmd} (hd : Handler)
    (h : begins src pkt s = some (id, c, t)) : submit src pkt hd s = begin_ hd id t := by
  obtain ⟨h1, h2, h3, d, u, h4, rfl, h5, h6, _⟩ := begins_iff.mp h
  unfold submit
  simp only [h1, Bool.not_true, Bool.false_eq_true, if_false, Nat.not_lt.mpr h2, h3, h4, h5, h6, Bool.or_self]

/-- Beginning a command is running its meaning on its record. -/
theorem begin_of_cmd {hd : Handler} {id : Nat} {c : Cmd} {t : State} (h : tget? t.cmds id = some c) :
    begin_ hd id t = after id (hd id c t) := by
  unfold begin_
  simp only [h]
  rcases hh : hd id c t with ⟨u, _ | r⟩ <;> simp only [after]

/-- A row of an opcode, given a packet of that opcode whose command begins, runs the opcode's meaning. -/
theorem submitOp_of_begins {op : Nat} {src : Source} {pkt : Packet} {s t : State} {id : Nat} {c : Cmd} (hd : Handler)
    (h : begins src pkt s = some (id, c, t)) (ho : c.opcode = op) :
    submitOp op src pkt hd s = after id (hd id c t) := by
  have ho' : u16 pkt.bytes 0 = op := by
    obtain ⟨_, _, _, d, u, h4, rfl, _, _, h6⟩ := begins_iff.mp h
    have hd : OpAt id d.opcode u := fun e he => by
      rw [enrol_cmd h4] at he
      cases he
      rfl
    rw [← ho, takeHolds_opcode hd c h6, enrol_opcode h4]
    rfl
  unfold submitOp
  rw [if_pos (by simp [ho']), submit_of_begins hd h, begin_of_cmd (begins_cmd h)]

/-- `submitOp_of_begins` for a command whose meaning answers a reply. -/
theorem submitOp_reply {op : Nat} {src : Source} {pkt : Packet} {s t u : State} {id : Nat} {c : Cmd} {r : Reply} (hd : Handler)
    (h : Begun op src pkt s id c t) (hh : hd id c t = (u, some r)) : submitOp op src pkt hd s = conclude id r u := by
  rw [submitOp_of_begins hd h.1 h.2, hh]; rfl

/-- `submitOp_of_begins` for a command that completes later. -/
theorem submitOp_later {op : Nat} {src : Source} {pkt : Packet} {s t u : State} {id : Nat} {c : Cmd} (hd : Handler)
    (h : Begun op src pkt s id c t) (hh : hd id c t = (u, none)) : submitOp op src pkt hd s = u := by
  rw [submitOp_of_begins hd h.1 h.2, hh]; rfl

/-- A row whose step is its opcode's submission, given a packet whose command begins and whose meaning replies. -/
theorem row_reply {op : Nat} {i : Instr} {src : Source} {pkt : Packet} {s t u : State} {id : Nat} {c : Cmd} {r : Reply} (hd : Handler)
    (h : Begun op src pkt s id c t) (hi : exec i s = .next (submitOp op src pkt hd s)) (hh : hd id c t = (u, some r)) :
    exec i s = .next (conclude id r u) := by rw [hi, submitOp_reply hd h hh]

/-- A row whose step is its opcode's submission, given a packet whose command begins and goes on. -/
theorem row_later {op : Nat} {i : Instr} {src : Source} {pkt : Packet} {s t u : State} {id : Nat} {c : Cmd} (hd : Handler)
    (h : Begun op src pkt s id c t) (hi : exec i s = .next (submitOp op src pkt hd s)) (hh : hd id c t = (u, none)) :
    exec i s = .next u := by rw [hi, submitOp_later hd h hh]

/-- A sub-request's row, given a packet of its role whose command begins, runs the sub-request's meaning. -/
theorem subRow_of_begins {op : Nat} {ok : Cmd → Bool} {src : Source} {pkt : Packet} {s t : State} {id : Nat} {c : Cmd} (hd : Handler)
    (h : Begun op src pkt s id c t) (hl : 80 ≤ pkt.bytes.length) (hf : (parseCmd s src pkt).fabric = true)
    (ho : ok (parseCmd s src pkt) = true) : subRow ok hd src pkt s = after id (hd id c t) := by
  unfold subRow
  simp only [hl, hf, ho]
  rw [if_pos (by simp), submit_of_begins hd h.1, begin_of_cmd (begins_cmd h.1)]

/-- Reading good words changes nothing (R40). -/
theorem meetWords_good {c k obj : Nat} {cls : List Nat} {s : State} (h : ∀ x ∈ cls, x = 0) : meetWords c k obj cls s = s := by
  have h1 : cls.filter (fun x => x = 1 || x = 2) = [] := List.filter_eq_nil_iff.mpr (fun x hx => by simp [h x hx])
  have h2 : cls.filter (fun x => x = 3) = [] := List.filter_eq_nil_iff.mpr (fun x hx => by simp [h x hx])
  simp [meetWords, h1, h2]

/-- Reading good shadow records changes nothing. -/
theorem readIndex_good {p idx : Nat} {s : State}
    (h : ∀ c, entryCell s p idx = some c → ∀ u, ∀ x ∈ (shadowAt (cell s c) u).cls, x = 0) : readIndex p idx s = s := by
  unfold readIndex
  split
  · rename_i c hc
    have g := h c hc
    have fixed (u w : Nat) : readFixed c u w s = s := by
      unfold readFixed
      generalize entryUnits u w = l
      induction l with
      | nil => rfl
      | cons i l ih =>
        rw [List.foldl_cons, meetWords_good (fun x hx => g i x (List.mem_of_mem_filter hx))]
        exact ih
    have ok (u w : Nat) : shadowBad (cell s c) u w = false := by
      simp only [shadowBad, List.any_eq_false, List.any_eq_true, decide_eq_true_eq, not_exists, not_and]
      intro i _ x hx
      simp [g i x hx]
    simp [readShadow, fixed, ok]
  · rfl

/-- The same over a list of matches. -/
theorem readIndex_fold_good {p : Nat} {s : State} (l : List Hit)
    (h : ∀ x ∈ l, ∀ c, entryCell s p x.index = some c → ∀ u, ∀ y ∈ (shadowAt (cell s c) u).cls, y = 0) :
    l.foldl (fun s x => readIndex p x.index s) s = s := by
  induction l with
  | nil => rfl
  | cons x l ih => simp only [List.foldl_cons, readIndex_good (h x (by simp))]; exact ih (fun y hy => h y (by simp [hy]))

end Sys2Proof.Laws
end

