-- ==== Sys2Proof/Tests/Slice0.lean ====
section
/-! SUPPORT. The package's own tests. Well-formedness: for each check a term that it refuses. Then, for every statement with hypotheses, a
concrete state and operands that meet them together (`wit_…`): the hypotheses of each clause, at small states made from `up`. Last, values
that the spec works out (`test_…`). -/

set_option maxRecDepth 100000

set_option Elab.async false

namespace Sys2Proof.Tests

open Sys2Proof Sys2Proof.Machine

/-- A packet: opcode, sender's partition, flags, OBJECT_ID, EPOCH, the 32 bytes of the header's own block, the area. -/
def pk (op part fl obj epoch : Nat) (head area : List Byte) : Packet :=
  { bytes := toLe 2 op ++ toLe 1 fl ++ [1] ++ toLe 4 7 ++ toLe 2 part ++ [0, 0] ++ toLe 4 area.length ++ toLe 8 obj ++ toLe 8 epoch ++
      padTo 32 head ++ area
    replyLen := 1048576 }

/-- A packet with a parameter block. -/
def pkb (op part : Nat) (b : List Byte) (obj : Nat := 0) (epoch : Nat := 0) : Packet := pk op part 0 obj epoch (b.take 32) (b.drop 32)

/-- A packet between nodes: HOME_EPOCH, the 16 bytes of its extension, the parameter block. -/
def pkf (op part epoch homeEpoch : Nat) (ext b : List Byte) : Packet :=
  pk op part 0x80 0 epoch (toLe 8 homeEpoch) (padTo 16 ext ++ padTo (max 32 b.length) b)

/-- A node at work: partitions 0 and 1, partition 1 with cells 0 and 1; a queue pair each; connections 0 (fabric, to node 5,
partition 2), 1 (control), 2 (data, Standard) and 3 (data, Spray) of partition 1. -/
def up : State :=
  { State.reset with
    oracle := List.replicate 40 0
    node := { State.reset.node with phase := .active, cellsPresent := 2 ^ 24 - 1, time := 1000 }
    sec := { mstate := 1 }
    fns := [(0, { qps := [(0, { en := true, state := 1 })] }), (1, { qps := [(0, { en := true, state := 1 })] })]
    parts := [(0, { exists_ := true }), (1, { exists_ := true, mask := 3 })]
    cells := [(0, { pwr := { st := 0 } }), (1, { pwr := { st := 0 } })]
    conns := [(0, { kind := 2, mode := 1, state := 1, part := 1, peerNode := 5, peerPart := 2 }),
              (1, { kind := 1, mode := 1, state := 1, part := 1 }),
              (2, { mode := 0, state := 1, part := 1 }),
              (3, { mode := 1, state := 1, part := 1 })] }

/-- The packet's command begins at once, is of the opcode, and what is asked of it holds: the witness that a statement's
hypotheses are met together. -/
def met (op : Nat) (src : Source) (pkt : Packet) (s : State) (f : Nat → Cmd → State → Bool) : Bool :=
  match begins src pkt s with
  | some (id, c, t) => c.opcode == op && f id c t
  | none => false

theorem met_begun {op : Nat} {src : Source} {pkt : Packet} {s : State} {f : Nat → Cmd → State → Bool} (h : met op src pkt s f = true) :
    ∃ id c t, Begun op src pkt s id c t ∧ f id c t = true := by
  unfold met at h
  split at h
  · rename_i id c t e
    simp only [Bool.and_eq_true, beq_iff_eq] at h
    exact ⟨id, c, t, ⟨e, h.1⟩, h.2⟩
  · cases h

/-! ### Well-formedness: for each check, a term that it refuses -/

def okPkt : Packet := { bytes := zeros 64, replyLen := 0 }
def okPage : PageImage := { record := zeros 2048, tiles := [], poison := [] }
def okNet : NetPacket :=
  { port := 0, qpn := 0, spi := 0, espSeq := 0, auth := true, ce := false, opcode := 0, psn := 0, ackReq := false, seh := [], reth := none
    imm := none, aeth := 0, payload := [] }
def okSack : Sack := { cum := 0, ceEcho := 0, nakCode := 0, nakMsn := 0, bitmap := 0 }

theorem wf_okPkt : okPkt.wf = true ∧ (Instr.nop (.qp 24 7) okPkt).wf = true ∧ (Instr.wake).wf = true := by decide
theorem wf_okParts : okPage.wf = true ∧ okNet.wf = true ∧ okSack.wf = true ∧ RingId.event.wf = true := by decide +kernel
/-- A packet row refuses a function, a queue pair or a connection that is not there and a REPLY_LEN beyond its field. -/
def refusesBad (k : Source → Packet → Instr) : Bool :=
  !(k (.qp 25 0) okPkt).wf && !(k (.qp 1 8) okPkt).wf && !(k (.conn (2 ^ 32)) okPkt).wf && !(k (.mctp false) { okPkt with replyLen := 2 ^ 32 }).wf &&
    (k (.mctp true) okPkt).wf
/-- The check of the length of a packet, one byte past its bound. -/
theorem wf_long : ∀ p : Packet, 64 + 16777215 < p.bytes.length → p.wf = false := by
  intro p h; simp only [Packet.wf, Bool.and_eq_false_iff, decide_eq_false_iff_not]; omega
theorem wf_packetRows0 : ([.nop, .identify, .readState, .configStage, .configCommit, .partitionCreate, .partitionDestroy, .meterReport, .eventSubscribe, .seqCreate, .seqDestroy, .appendCmd, .pagePin, .pageShare, .pageMigrate, .pageLend, .pageRecall, .seqMapEdit, .poolSet, .formatTableLoad, .attend, .attendBwd, .mergeCmd, .digestBuild, .scorerLoad, .cancel, .matchInsert, .matchDelete, .matchSearch, .matchStep] : List (Source → Packet → Instr)).all refusesBad = true := by decide +kernel
theorem wf_packetRows1 : ([.matchConfig, .bankOp, .bankOpstat, .connCreate, .connModify, .connDestroy, .regionRegister, .regionRevoke, .saInstall, .srqPost, .leaseAcquire, .leaseRenew, .leaseHandoff, .leaseHandoffAtHome, .leasePrompt, .leaseRelease, .placeSet, .attestGet, .jobKeyInstall, .keyRotate, .zeroise, .powerState, .budgetSet, .resetLevel, .dumpCollect, .dumpRead, .frostArm, .fwStage, .fwActivate, .subRequest] : List (Source → Packet → Instr)).all refusesBad = true := by decide +kernel
theorem wf_packetRows2 : ([.mirrorRead, .reconstruction, .lendNeighbourAttend, .writeThrough] : List (Source → Packet → Instr)).all refusesBad = true := by decide +kernel
theorem wf_refuses0 : ([.lentPageReceive (2 ^ 32) 0 okPage [], .lentPageReceive 0 (2 ^ 64) okPage [], .lentPageReceive 0 0 { okPage with record := [] } [], .lentPageReceive 0 0 { okPage with tiles := [0] } [],
    .lendRelease (2 ^ 32) 0 0, .lendRelease 0 (2 ^ 64) 0, .lentLossReport (2 ^ 32) [], .resyncPage (2 ^ 32) 0 0 0 0 0 okPage,
    .resyncPage 0 25 0 0 0 0 okPage, .resyncPage 0 0 (2 ^ 32) 0 0 0 okPage, .resyncPage 0 0 0 (2 ^ 48) 0 0 okPage, .resyncPage 0 0 0 0 256 0 okPage,
    .resyncPage 0 0 0 0 0 (2 ^ 64) okPage, .resyncPage 0 0 0 0 0 0 { okPage with record := [] }, .resyncPage 0 0 0 0 0 0 { okPage with tiles := [0] }, .parityStream (2 ^ 32) 0 0 0 0 0 okPage false,
    .parityStream 0 25 0 0 0 0 okPage false, .parityStream 0 0 (2 ^ 32) 0 0 0 okPage false, .parityStream 0 0 0 0 0 0 { okPage with record := [] } false, .parityStream 0 0 0 0 0 0 { okPage with tiles := [0] } false,
    .memberReply 65536 0 0 0 [], .memberReply 0 0 65536 0 [], .memberReply 0 0 0 65536 [], .memberWaitExpiry 65536 0,
    .spanDeadlineExpiry 65536 0, .homeRecordExpiry 25 0, .leaseExpiry 25 0, .promptRepeat 25 0,
    .renewTimer 25 0 0 0, .renewTimer 0 (2 ^ 32) 0 0, .renewTimer 0 0 (2 ^ 48) 0, .renewTimer 0 0 0 256,
    .ownerLeaseEnd 25 0 0 0, .ownerLeaseEnd 0 (2 ^ 32) 0 0, .ownerLeaseEnd 0 0 (2 ^ 48) 0, .ownerLeaseEnd 0 0 0 256] : List Instr).all (fun i => !i.wf) = true := by decide +kernel
theorem wf_refuses1 : ([.dispatchAdmit 24, .tokenPull 24 0, .tokenPull 0 16, .pageFetch 24,
    .pageFetchDone 24 0 0 0, .pageFetchDone 0 16 0 0, .pageFetchDone 0 0 0 65536, .vTileConsumed 24 0,
    .vTileConsumed 0 16, .tokenFinish 24 0 0, .tokenFinish 0 16 0, .tokenFinish 0 0 65536,
    .cellPartialReceive 24, .deadlineExpiry 65536, .selectionDone 24 0 0, .selectionDone 0 16 0, .selectionDone 0 0 65536,
    .gsetQueueResume 25 0, .gsetQueueResume 0 256, .gradMessageDone 65536 false, .editQueueResume 25 0 0,
    .editQueueResume 0 (2 ^ 32) 0, .editQueueResume 0 0 (2 ^ 48), .epochAdvance 25, .clockSweep 25,
    .eviction 25, .poolStatUpdate 25, .scrubGranule 24 false, .scrubRewrite 24,
    .stackTempReport 24 0, .avsPoll 0 false [{ cell := 24, mv := 0, ma := 0, alert := false }], .avsVoltageReached 24 0, .avsTimeout 24,
    .cellOffDrained 24, .ctxWdTrip 65536, .coreWdTrip 24 0, .coreWdTrip 0 16] : List Instr).all (fun i => !i.wf) = true := by decide +kernel
theorem wf_refuses2 : ([.cellWdTrip 24 0, .cellWdTrip 0 6, .hubWdTrip 8, .coreSelfCheckDone 24 0 false,
    .coreSelfCheckDone 0 16 false, .coreResetTimeout 24 0, .coreResetTimeout 0 16, .partResetTimeout 25,
    .partitionResetDone 25, .dumpUnitWaitExpiry 65536, .batchClose 25 0, .sweepStart 24,
    .sweepDone 24, .patrolCompare 24, .cursorTimeout 25 0, .bankElementDone 24 0,
    .bankElementDone 0 2048, .elementWaitExpiry 24 0, .elementWaitExpiry 0 2048, .opRecordExpiry 25 0,
    .stdPacketReceive { okNet with port := 24 }, .stdPacketReceive { okNet with qpn := 2 ^ 24 }, .stdPacketReceive { okNet with spi := 2 ^ 32 }, .stdPacketReceive { okNet with opcode := 256 },
    .stdPacketReceive { okNet with psn := 2 ^ 24 }, .stdPacketReceive { okNet with payload := zeros 9217 }, .sprayPacketReceive { okNet with port := 24 }, .sprayPacketReceive { okNet with qpn := 2 ^ 24 },
    .sprayPacketReceive { okNet with spi := 2 ^ 32 }, .sprayPacketReceive { okNet with opcode := 256 }, .sprayPacketReceive { okNet with psn := 2 ^ 24 }, .sprayPacketReceive { okNet with payload := zeros 9217 },
    .sprayAckReceive (2 ^ 24) 0 false okSack, .sprayAckReceive 0 (2 ^ 32) false okSack, .sprayAckReceive 0 0 false { okSack with cum := 2 ^ 24 }, .sprayAckReceive 0 0 false { okSack with ceEcho := 2 ^ 16 }] : List Instr).all (fun i => !i.wf) = true := by decide +kernel
theorem wf_refuses3 : ([.sprayAckReceive 0 0 false { okSack with nakCode := 5 }, .sprayAckReceive 0 0 false { okSack with nakMsn := 2 ^ 32 }, .sprayAckReceive 0 0 false { okSack with bitmap := 2 ^ 1024 }, .ackDelayExpiry 65536,
    .ackTimeout 65536 0, .ackTimeout 0 (2 ^ 24), .capabilityDatagram 24 [] [], .capRetry 65536,
    .cnpReceive { qpn := 2 ^ 24 }, .cnpReceive { port := 24 }, .ccTimer 65536, .rnrNakReceive { qpn := 2 ^ 24 } 0, .rnrNakReceive { spi := 2 ^ 32 } 0, .rnrNakReceive {} (2 ^ 24),
    .cnpReceive { pkey := 2 ^ 16 }, .cnpReceive { tver := 16 }, .stdPacketReceive { okNet with pkey := 2 ^ 16 }, .stdPacketReceive { okNet with tver := 16 },
    .sprayAckReceive 0 0 false { okSack with port := 24 }, .sprayAckReceive 0 0 false { okSack with pkey := 2 ^ 16 }, .sprayAckReceive 0 0 false { okSack with tver := 16 },
    .arpNdReceive 24 false false [] [] [], .autoneg 24 0 0 false, .linkTrainingDone 24, .linkLockTimeout 24,
    .capabilityBlock 24 [], .weftTrainingDone 24 0 0, .weftTrainingDone 0 0 (2 ^ 32), .linkLoss 24,
    .lpiEntry 24, .parkReq 24, .parkAck 24, .unpark 24 false,
    .fastRetrainTimeout 24, .sqDoorbell 1 8 0, .sqDoorbell 0 64 0, .sqDoorbell 25 0 0,
    .sqDoorbell 0 0 (2 ^ 16), .cqDoorbell 1 8 0, .cqDoorbell 0 64 0, .cqDoorbell 25 0 0,
    .cqDoorbell 0 0 (2 ^ 16), .sqEntryFetch 1 8 [] [] false, .sqEntryFetch 0 64 [] [] false, .sqEntryFetch 25 0 [] [] false] : List Instr).all (fun i => !i.wf) = true := by decide +kernel
theorem wf_refuses4 : ([.completionPost 1 8 false, .completionPost 0 64 false, .completionPost 25 0 false, .coalUsExpiry 1 8,
    .coalUsExpiry 0 64, .coalUsExpiry 25 0, .qpEnable 1 8 0, .qpEnable 0 64 0,
    .qpEnable 25 0 0, .qpDisable 1 8 0, .qpDisable 0 64 0, .qpDisable 25 0 0,
    .qpQuiesceDone 1 8, .qpQuiesceDone 0 64, .qpQuiesceDone 25 0, .flr 25,
    .d3hot 25 false, .ringEnable 25 .event 0, .ringEnable 0 (.pool 64) 0, .ringHeadWrite 25 .event 0,
    .ringHeadWrite 0 .event (2 ^ 16), .ringHeadWrite 0 (.pool 64) 0, .rawApertureAccess 25 0 0 0 none, .rawApertureAccess 0 25 0 0 none,
    .rwsWrite 25 0 .full 0, .commit 25 0, .discard 25 0, .selftest 25,
    .mtrSel 25 0, .mtrSel 0 (2 ^ 32), .nodeIdWrite 25 0, .registerWrite 25 0 0 .full 0,
    .fabricReply (2 ^ 32) 0 0 0 [], .fabricReply 0 (2 ^ 32) 0 0 [], .fabricReply 0 0 65536 0 [], .fabricReply 0 0 0 65536 []] : List Instr).all (fun i => !i.wf) = true := by decide +kernel
theorem wf_refuses5 : ([.handoffTimeout 25 0 0 0, .handoffTimeout 0 (2 ^ 32) 0 0, .handoffTimeout 0 0 (2 ^ 48) 0, .handoffTimeout 0 0 0 256,
    .recallRequest (2 ^ 32) 0 0 0, .recallRequest 0 (2 ^ 32) 0 0, .recallRequest 0 0 (2 ^ 64) 0, .lendReleaseWaitExpiry 25,
    .cellOffExitDone 24, .returnToD0 25, .contextResetTimeout 65536 (.hubBlock 0), .contextResetTimeout 0 (.core 24 0),
    .contextResetTimeout 0 (.core 0 16), .contextResetTimeout 0 (.cellUnit 24 0), .contextResetTimeout 0 (.cellUnit 0 6), .contextResetTimeout 0 (.hubBlock 8),
    .rnrTimerExpiry 65536, .packetSend 65536, .meteringSecond 25, .capabilityBlockRepeat 24,
    .controlFrameReceive 24] : List Instr).all (fun i => !i.wf) = true := by decide +kernel

theorem wit_stepRunsFront : ({ up with pending := [.wake] } : State).pending = .wake :: [] := by decide
theorem wit_idle : up.pending = [] ∧ State.reset.pending = [] ∧ State.reset.node.phase = .off ∧
    (up.node.phase ≠ .off ∧ ({ up with dbg := { frozen := true } } : State).dbg.frozen = true) := by decide
theorem wit_stepKeepsInv : Inv up ∧ step up = .next (tick up) := ⟨by decide, rfl⟩
theorem wit_memoryFrame : writesMemory .i3cModeEntry = false ∧ exec .i3cModeEntry up = .next (modNode (fun n => { n with i3c := true }) up) := ⟨rfl, rfl⟩
theorem wit_handles : (31 : Nat) < 32 ∧ 2 ^ 24 - 1 < 2 ^ 24 ∧ 3 < 4 ∧ 2 ^ 26 - 1 < 2 ^ 26 := by decide
theorem wit_short : reaches (.qp 1 0) up = true ∧ up.node.phase = .active ∧ ({ bytes := zeros 63, replyLen := 0 } : Packet).bytes.length < 64 := by decide
/-- One packet for each check of R280 that decides first. -/
theorem wit_firstFailed : nodeLive up = true ∧ up.sec.mstate = 1 ∧ up.node.restart = none ∧
    (let b := (pkb 1 0 []).bytes
     b.length = 64 + u32 b 0x0C ∧ u8 b 3 = 1 ∧ (parseCmd up (.mctp false) (pkb 1 0 [])).opcode ∈ opcodes ∧ mctpAllowed 1 = true ∧
      bitsOf (u8 b 2) 2 5 = 0 ∧ u16 b 0x0A / 4 = 0) ∧
    (zeros 65).length ≠ 64 + u32 (zeros 65) 0x0C ∧ u8 (zeros 64) 3 ≠ 1 ∧ (pkb 0x0FFF 0 []).bytes.length = 64 ∧ 0x0FFF ∉ opcodes ∧
    mctpAllowed 0x0201 = false ∧ 0x0201 ∈ opcodes ∧ bitsOf (u8 (pk 1 0 4 0 0 [] []).bytes 2) 2 5 ≠ 0 ∧ u16 (pkb 1 3 []).bytes 8 ≠ 0 := by decide
theorem wit_completion : tget? ([(4, ({} : Cmd))] : Tab Cmd) 4 = some {} ∧ ({} : Cmd).src = .mctp false := by decide
theorem wit_replyLayout : 2 ^ 32 - 1 < 2 ^ 32 ∧ 2 ^ 16 - 1 < 2 ^ 16 ∧ ({ status := 65535, detail := 65535 } : Reply).status < 2 ^ 16 := by decide
theorem wit_nop : met 0x0001 (.mctp false) (pkb 1 0 []) up (fun _ c _ => blockIs c 0) = true := by decide
theorem wit_identify : met 0x0002 (.qp 1 0) (pkb 2 1 []) up (fun _ c _ => blockIs c 0 && fitsReply c 256) = true := by decide
theorem wit_readState : met 0x0003 (.qp 1 0) (pkb 3 1 (toLe 2 0x0014 ++ toLe 2 1 ++ toLe 4 0 ++ toLe 4 4)) up (fun _ c t =>
    let kind := u16 c.block 0
    let sel := slice c.block 16 16
    (kindRule kind).any (· != 0) && u16 c.block 2 == c.part && c.block.length == 32 && zeroIn c.block 12 16 && u32 c.block 8 == 4 &&
    allZero (sel.drop (selectorLen kind sel)) && u32 c.block 4 == 0 && fitsReply c 4 &&
    (stateObj t c.part kind sel).any (fun o => decide (0 < (objImage kind o).length))) = true := by decide +kernel
theorem wit_meterReport : met 0x0008 (.mctp false) (pkb 8 0 (zeros 64)) up (fun _ c _ =>
    c.block.length == 64 && zeroIn c.block 2 0x20 && u16 c.block 0 == c.part && c.part == 0 && c.src == .mctp false) = true := by decide
theorem wit_eventSubscribe : met 0x0009 (.conn 1) (pkb 9 1 (toLe 8 1 ++ [1, 0, 0, 0] ++ toLe 4 1)) up (fun _ c t =>
    blockIs c 16 && u8 c.block 8 == 1 && zeroIn c.block 9 12 && u64 c.block 0 / 65536 == 0 && u64 c.block 0 != 0 &&
    (connIdx t (u32 c.block 12)).any (fun i => (connOf t i).part == c.part && (connOf t i).kind == 1)) = true := by decide
theorem wit_configStage : met 0x0004 (.qp 1 0) (pkb 4 1 ([0, 0, 2, 0])) up (fun _ c _ =>
    u8 c.block 2 == 2 && u8 c.block 3 == 0 && u16 c.block 10 == 0 && zeroIn c.block 16 32 && c.block.length == 32 && u32 c.block 12 == 0 &&
    u32 c.block 4 == 0 && u16 c.block 8 == 0) = true := by decide
theorem wit_configStageItem : met 0x0004 (.qp 1 0) (pkb 4 1 (padTo 32 (toLe 2 0x0010 ++ zeros 10 ++ toLe 4 12) ++ toLe 4 1 ++ toLe 4 1 ++ toLe 4 0)) up (fun _ c t =>
    let item := u16 c.block 0
    let n := u32 c.block 12
    let rest := (part t c.part).staged.filter (fun g => !sameItem item 0 g)
    u8 c.block 2 == 0 && u8 c.block 3 == 0 && u16 c.block 10 == 0 && zeroIn c.block 16 32 && c.block.length == 32 + n && u32 c.block 4 == 0 &&
    u16 c.block 8 == 0 && item ∈ itemList && item != 0x0011 && !targeted item && n % 4 == 0 &&
    itemRange t c.part item ((List.range (n / 4)).map (fun i => u32 c.block (32 + 4 * i))) && !operatorOnlyItem item &&
    decide (rest.length + 1 + (part t c.part).calStaged.length ≤ 64) && decide (sumBy rest (·.size) + n ≤ 16777216)) = true := by decide
theorem wit_configCommit : met 0x0005 (.qp 1 0) (pkb 5 1 []) up (fun _ c t =>
    blockIs c 0 && c.epoch == 0 && (commitFail t c.part (part t c.part).staged (part t c.part).calStaged).isNone) = true := by decide
theorem wit_configRegisters : windowLive up 1 = true ∧ up.node.phase = .active ∧ regPlace 1 0x5000 = some (false, 0x5000) ∧
    (rwsFields false 0x5000).isSome = true ∧ commitBlock 1 0x57F8 = some (2, [0x0020, 0x0102]) ∧ commitFail up 1 [] [] = none ∧
    (part up 1).commitQ = [] ∧ commitHeld up 1 up.node.nextCmd = false := by decide
theorem wit_commitWaits : let s := modPart 1 (fun v => { v with commitQ := [(0x2F00, 3)] }) up
    windowLive s 1 = true ∧ s.node.phase = .active ∧ (part s 1).commitQ ≠ [] ∧ ∀ w ∈ (part s 1).commitQ, w.1 ≠ 0x57F8 := by decide
theorem wit_commitFails : (commitFail up 1 [{ item := 0x0020, vals := [], size := 4 }] []).isSome = true := by decide
/-- A write that touches an RWS field stages it, one that does not changes nothing: both have a register and a half. -/
theorem wit_rwsWrite : (regPlace 1 0x5000).isSome = true ∧ (rwsFields false 0x5000).any (fun e => fieldHit e.2 .full) = true ∧
    (commitFail (modPart 1 (fun v => { v with staged := [{ item := 0x0020, vals := [], size := 4 }] }) up) 1
      [{ item := 0x0020, vals := [], size := 4 }] []).isSome = true := by decide

/-- The page handle of the test sequence: cell 0, slot 0, class M. -/
def h0 : Nat := mkHandle 0 0 1

/-- The test sequence: job 9, sequence 5, BF16, 64 elements, one layer, one KV head, one whole page. -/
def sq : Seq := { job := 9, seq := 5, format := 5, dim := 0, cls := 1, layers := 1, kvHeads := 1, len := [(0, 64)], map := [(posKey 0 0 0, h0)] }

/-- The test sequence without pages. -/
def sq0 : Seq := { sq with len := [], map := [] }

/-- The page of the test sequence. -/
def pg : Page := { cls := 1, r := { format := 5, tokens := 64, job := 9, seq := 5 } }

/-- A state whose partition 1 holds a sequence and its page. -/
def holds (q : Seq) (s : State) : State :=
  modCell 0 (fun v => { v with pages := [(0, pg)] }) (modPart 1 (fun v => { v with seqs := [(seqKey 9 5, q)] }) s)

/-- Job and sequence of the test sequence. -/
def key9 : List Byte := toLe 4 9 ++ toLe 6 5
/-- The range block of its first page. -/
def rng : List Byte := key9 ++ toLe 2 0 ++ toLe 2 1 ++ toLe 2 0 ++ toLe 8 1 ++ toLe 4 0 ++ toLe 4 1

theorem wit_partitionCreate : met 0x0006 (.qp 0 0) (pkb 6 0 (toLe 2 24 ++ toLe 2 0 ++ toLe 4 (2 ^ 23) ++ zeros 12)) up (fun _ c t =>
    blockIs c 20 && zeroIn c.block 2 4 && u16 c.block 0 == 24 && u32 c.block 4 == 2 ^ 23 && layoutOk (layoutArg c.block) &&
    (bitList (2 ^ 23) 24).all (fun k => bitOf t.node.cellsPresent k && cellOwner t k == 0) && !(part t 24).exists_) = true := by decide
theorem wit_partitionDestroy : met 0x0007 (.qp 0 0) (pkb 7 0 (toLe 2 1)) up (fun _ c t =>
    blockIs c 2 && u16 c.block 0 == 1 && (part t 1).exists_ && !(part t 1).destroying) = true := by decide
theorem wit_partitionResets : let s := modPart 1 (fun v => { v with inReset := true }) (modNode (fun n => { n with time := 800000 }) up)
    (part s 1).exists_ = true ∧ (part s 1).inReset = true ∧ (part s 1).creating = false ∧ (part s 1).destroying = false ∧ s.node.phase = .active ∧ s.dbg.frozen = false ∧
    (part s 1).resetCmd = none ∧ (part s 1).resetAt + 800000 ≤ s.node.time ∧ (3, 1) ∉ s.dbg.halted ∧ releasesOut s 1 = [] := by decide
theorem wit_destroyEnds : let s := modPart 1 (fun v => { v with destroying := true, resetCmd := some 7, inReset := true }) (modNode (fun n => { n with time := 10000 }) up)
    (part s 1).destroying = true ∧ (part s 1).resetCmd = some 7 ∧ (part s 1).inReset = true ∧ releasesOut s 1 = [] ∧ nodeLive s = true ∧
    (part s 1).resetAt + 10000 ≤ s.node.time := by decide
theorem wit_striping : let s := up
    0 < (partCells s 1).length ∧ (∀ k ∈ partCells s 1, cellUp s k = true) ∧ sq.placement = 0 := by decide
theorem wit_seqCreate : met 0x0101 (.qp 1 0) (pkb 0x0101 1 (key9 ++ [5, 0, 1, 0, 1, 0, 1, 0, 0, 0])) up (fun _ c t =>
    let q := createArgs c.block
    !c.fabric && blockIs c 0x14 && createOk t 1 q && q.scaling != 2 && !thas (part t 1).seqs (seqKey q.job q.seq) && !(poolCells t 1).isEmpty &&
    decide (((part t 1).seqs.filter (fun e => e.2.hash % (partCells t 1).length == q.hash % (partCells t 1).length)).length < 131072) &&
    decide (c.pool.lowWm ≤ poolLevel t 1) && (allocBlock 1 (blockCells t 1 q 0) 1 t).isSome) = true := by decide +kernel
theorem wit_seqDestroy : met 0x0102 (.qp 1 0) (pkb 0x0102 1 key9) (holds sq up) (fun _ c t =>
    (seqOf t c.part (blockSeq c.block)).any (fun q => blockIs c 10 && !codedHere t c.part q.job q.seq && !mustQueue q c)) = true := by decide
theorem wit_poolSet : met 0x010A (.qp 1 0) (pkb 0x010A 1 (padTo 0x50 (toLe 2 500 ++ toLe 2 499 ++ toLe 2 498 ++ toLe 2 0 ++ toLe 4 60000 ++ [255, 4, 1, 0]))) up
    (fun _ c _ => c.block.length == 0x50 && u16 c.block 6 == 0 && u16 c.block 0 == 500 && u16 c.block 2 == 499 && u16 c.block 4 == 498 &&
      u32 c.block 8 == 60000 && u8 c.block 0xC == 255 && u8 c.block 0xE == 1 && u8 c.block 0xF == 0 && zeroIn c.block 0x10 0x50) = true := by decide
theorem wit_formatTableLoad : met 0x010B (.qp 1 0) (pkb 0x010B 1 (padTo 64 [3])) up (fun _ c t =>
    tableOk c.block && (loadSlot t c.part).isSome) = true := by decide
theorem wit_pagePin : met 0x0104 (.qp 1 0) (pkb 0x0104 1 (rng ++ [2])) (holds sq up) (fun _ c t =>
    (seqOf t c.part (rangeArg c.block).key).any (fun q => c.block.length == 0x21 && rangeOk q c.block false && u8 c.block 0x20 == 2 &&
      decide (q.pinCount < 0xFFFF) && (rangePos (rangeArg c.block)) == [0] && isPage (handleAt q 0) &&
      (pageOf t (handleAt q 0)).any (fun g => g.pins != 0xFFFF && g.t1Holds != 0xFFFF) &&
      (partCells t c.part).all (fun k => decide (t1Pinned t k [handleAt q 0] ≤ 4 * 2 ^ 20)))) = true := by decide

/-- The target of a share: another sequence of the same shape, without pages. -/
def tgt : Seq := { sq0 with seq := 6 }
theorem wit_pageShare : met 0x0105 (.qp 1 0) (pkb 0x0105 1 (rng ++ toLe 4 9 ++ toLe 6 6))
    (modPart 1 (fun v => { v with seqs := v.seqs ++ [(seqKey 9 6, tgt)] }) (holds sq up)) (fun _ c t =>
    let a := rangeArg c.block
    let got := (rangePos a).filter (fun k => isPage (handleAt sq k))
    let wanted : Seq := { tgt with
      map := got.foldl (fun m k => tset m k (handleAt sq k)) tgt.map
      len := (List.range a.count).foldl (fun l i =>
        tset l (a.first + i) (max (seqLen tgt (a.first + i)) (min (seqLen sq (a.first + i)) (64 * (a.page + a.pages))))) tgt.len
      age := if got.isEmpty then tgt.age else 0 }
    seqOf t 1 a.key == some sq && seqOf t 1 (blockSeq c.block 0x20) == some tgt && c.block.length == 0x2A && rangeOk sq c.block false &&
    a.kvs.all (· < tgt.kvHeads) && rangePos a == [0] && handleAt tgt 0 == 0 && !isStub (handleAt sq 0) && !mustQueue tgt c &&
    (genConflict c tgt 4).isNone && !codedIn t 1 9 6 0 0 && (pageOf t (handleAt sq 0)).any (·.refs != 16777215) &&
    !reclFull t 1 (editItems t tgt got []) && !(poolCells t 1).isEmpty && (editSwap 1 wanted got t).isSome) = true := by decide +kernel
/-- What PAGE_MIGRATE's two clauses share, over the sequence's first page. -/
def migrates (c : Cmd) (t : State) (q : Seq) : Bool :=
  let a := rangeArg c.block
  u8 c.block 0x20 ∈ partCells t 1 && migrateOk q c && !mustQueue q c && (genConflict c q 4).isNone &&
    (tableCheck t c q.format (u8 c.block 0x23)).isNone && !codedIn t 1 q.job q.seq a.page (a.page + a.pages - 1) &&
    !((List.range a.count).any (fun l => gradHolds t 1 q (a.first + l) a.kvs a.page (a.page + a.pages - 1))) && rangePos a == [0] &&
    isPage (handleAt q 0) && (pageOf t (handleAt q 0)).any (fun g => decide (g.refs ≤ 1))
theorem wit_pageMigrateStays : met 0x0106 (.qp 1 0) (pkb 0x0106 1 (rng ++ [0, 255, 255, 0, 0, 0])) (holds sq up) (fun _ c t =>
    seqOf t 1 (rangeArg c.block).key == some sq && migrates c t sq && hCell h0 == u8 c.block 0x20 &&
      (pageOf t h0).any (fun g => keepsModes g.r c.block)) = true := by decide +kernel
theorem wit_pageMigrateMoves : met 0x0106 (.qp 1 0) (pkb 0x0106 1 (rng ++ [1, 255, 255, 0, 0, 0])) (holds sq up) (fun _ c t =>
    seqOf t 1 (rangeArg c.block).key == some sq && migrates c t sq && hCell h0 != u8 c.block 0x20 && cellUp t 1 &&
      !reclFull t 1 (editItems t sq [0] [handleAt sq 0]) && decide (c.pool.hardFloor ≤ poolLevel t 1) &&
      (movePages c sq [0] t).any (fun e => (swapHandles 1 (rangeArg c.block).key e.1 e.2).isSome)) = true := by decide +kernel
theorem wit_pageLend : met 0x0107 (.qp 1 0) (pkb 0x0107 1 (rng ++ toLe 2 5 ++ toLe 2 2 ++ toLe 4 0)) (holds sq up) (fun _ c t =>
    let a := rangeArg c.block
    (seqOf t 1 a.key).any (fun q => (connIdx t (u32 c.block 0x24)) == some 0 && (connOf t 0).part == 1 && c.block.length == 0x28 && rangeOk q c.block false &&
      (connOf t 0).kind == 2 && (connOf t 0).peerNode == u16 c.block 0x20 && (connOf t 0).peerPart == u16 c.block 0x22 &&
      rangePos a == [0] && isPage (handleAt q 0) && (pageOf t (handleAt q 0)).any (fun g => g.r.tokens == 64 && !g.r.shared && g.pins == 0) &&
      !mustQueue q c && (genConflict c q 4).isNone && !codedIn t 1 q.job q.seq a.page (a.page + a.pages - 1) &&
      !((List.range a.count).any (fun l => gradHolds t 1 q (a.first + l) a.kvs a.page (a.page + a.pages - 1))))) = true := by decide
theorem wit_pageRecall : met 0x0108 (.qp 1 0) (pkb 0x0108 1 rng)
    (modCell 0 (fun v => { v with lends := [(0, { node := 5, part := 2 })] }) (holds { sq with map := [(0, mkHandle 0 0 3)] } up)) (fun _ c t =>
    let a := rangeArg c.block
    (seqOf t 1 a.key).any (fun q => c.block.length == 32 && rangeOk q c.block false && !mustQueue q c && (genConflict c q 4).isNone &&
      rangePos a == [0] && isStub (handleAt q 0) && (lendOf t (handleAt q 0)).any (fun e => !e.lost) &&
      !((List.range a.count).any (fun l => gradHolds t 1 q (a.first + l) a.kvs a.page (a.page + a.pages - 1))) &&
      !codedIn t 1 q.job q.seq a.page (a.page + a.pages - 1) && !(poolCells t 1).isEmpty)) = true := by decide
/-- What a TRUNCATE asks in the state where its epochs have been met. -/
def truncates (f : State → Seq → Cmd → Bool) (id : Nat) (c : Cmd) (t : State) : Bool :=
  let u := meetCmd c (u32 c.block 0) (u48 c.block 4) t
  let layer := u16 c.block 0xA
  let lo := ceilDiv (u32 c.block 0x10) 64
  (seqOf u 1 (blockSeq c.block)).any (fun q =>
    let gone := q.map.filter (fun e => posLayer e.1 == layer && decide (lo ≤ posPage e.1))
    u8 c.block 0xC == 0 && mapEditShape q c && (editOwner u c id q).isNone && mapEditOk q c && !mustQueue q c && (genConflict c q 0).isNone &&
    !codedIn u 1 q.job q.seq lo 65535 && !gradHolds u 1 q layer (List.range q.kvHeads) lo 65535 && !(poolCells u 1).isEmpty &&
    !reclFull u 1 (editItems u q (gone.map (·.1)) (gone.map (·.2))) && f u q c)
theorem wit_seqMapEdit : met 0x0109 (.qp 1 0) (pkb 0x0109 1 (key9 ++ toLe 2 0 ++ toLe 4 0 ++ toLe 4 0 ++ zeros 12)) (holds sq up) (truncates (fun u q c =>
    (editRoutes u q c).toOption.any List.isEmpty && (truncate 1 (blockSeq c.block) (u16 c.block 0xA) (u32 c.block 0x10) u).isSome)) = true := by decide +kernel
/-- A home that forwards the truncation to node 5, which owns the span. -/
theorem wit_seqMapEditForwards : met 0x0109 (.qp 1 0) (pkb 0x0109 1 (key9 ++ toLe 2 0 ++ toLe 4 0 ++ toLe 4 0 ++ zeros 12))
    (modPart 1 (fun v => { v with placeRecs := [(0,
      { key := placeKey 0x11 9 5 0, mask := 2 ^ 128 - 1, kind := 0x11, job := 9, seq := 5, owner := 5, mirror := 0xFFFF, lastPage := 100 })] }) (holds sq up))
    (truncates (fun u q c => (editRoutes u q c).toOption.any (fun l => !l.isEmpty))) = true := by decide +kernel
/-- The node as owner of the test sequence's span 0, synchronised with node 5. -/
def synced (q : Seq) : State := modPart 1 (fun v => { v with placeRecs := [(0,
  { key := placeKey 0x11 9 5 0, mask := 2 ^ 128 - 1, kind := 0x11, job := 9, seq := 5, owner := 0, mirror := 5, flags := 3, lastPage := 100 })] }) (holds q up)
/-- What REFILL and RECOPY of the sequence's first page ask. -/
def refills (op : Nat) (q : Seq) (id : Nat) (c : Cmd) (t : State) : Bool :=
  seqOf t 1 (blockSeq c.block) == some q && u8 c.block 0xC == op && mapEditShape q c && (editOwner t c id q).isNone && mapEditOk q c &&
    !mustQueue q c && (genConflict c q 0).isNone && !codedIn t 1 9 5 0 0 && !gradHolds t 1 q 0 [0] 0 0 && !(poolCells t 1).isEmpty
theorem wit_refill : met 0x0109 (.qp 1 0) (pkb 0x0109 1 (key9 ++ toLe 2 0 ++ [1, 0, 5, 0] ++ zeros 4 ++ zeros 4 ++ zeros 8 ++ zeros 256)) (holds { sq with len := [(0, 1)] } up)
    (fun id c t => let u := meetCmd c 9 5 t
      refills 1 { sq with len := [(0, 1)] } id c u && (editRoutes u { sq with len := [(0, 1)] } c).toOption.any List.isEmpty) = true := by decide +kernel
theorem wit_recopy : met 0x0109 (.qp 1 0) (pkb 0x0109 1 (key9 ++ toLe 2 0 ++ [2, 0, 0, 0] ++ zeros 4 ++ zeros 4 ++ zeros 8)) (synced sq)
    (fun id c t => let u := meetCmd c 9 5 t
      refills 2 sq id c u && (editRoutes u sq c).toOption.any List.isEmpty && ((spanRecs u 1 9 5).find? (fun e => spanHas e.2 0)).any (fun e =>
        spanSynced e.2 && (fabricConn u 1 e.2.mirror).isSome)) = true := by decide +kernel
theorem wit_editQueueResume : let s := holds { sq with waiting := [7] } { up with cmds := [(7, { opcode := 0x0102 })] }
    nodeLive s = true ∧ seqOf s 1 (seqKey 9 5) = some { sq with waiting := [7] } ∧ tget? s.cmds 7 = some { opcode := 0x0102 } ∧
    cutBlocks s 1 { sq with waiting := [7] } 0 0 64 = false := by decide
/-- One token appended to the test sequence. -/
def tok1 : List Byte := key9 ++ toLe 2 0 ++ toLe 4 0 ++ toLe 2 1 ++ [5] ++ zeros 13 ++ zeros 256
/-- What every clause of APPEND asks in the state `u` where its epochs have been met. -/
def appends (c : Cmd) (t u : State) : Bool :=
  let a := appendArg c.block
  (seqOf u 1 a.key).any (fun q => !(partCells t 1).isEmpty && !(poolCells t 1).isEmpty && appendOk q c && !mustQueue q c &&
    !cutBlocks u 1 q a.layer (max a.first (seqLen q a.layer)) (a.first + a.n) && decide (a.first ≤ max (seqLen q a.layer) (spanFloor u c 9 5)) &&
    (appendRun 1 q c a.first (a.first + a.n) u).1.isOk)
theorem wit_append : met 0x0103 (.qp 1 0) (pkb 0x0103 1 tok1) (holds sq0 up) (fun _ c t =>
    let h := homeCheck 1 9 5 t
    !c.fabric && h.1.isNone && appends c t h.2 && (spanRecs h.2 1 9 5).isEmpty) = true := by decide +kernel
theorem wit_appendSpans : met 0x0103 (.qp 1 0) (pkb 0x0103 1 tok1) (synced sq0) (fun _ c t =>
    let h := homeCheck 1 9 5 t
    !c.fabric && h.1.isNone && appends c t h.2 && !(spanRecs h.2 1 9 5).isEmpty) = true := by decide +kernel
/-- The node as owner of span 0 under a lease that holds, with a mirror or none. -/
def holder (mirror flags : Nat) : State := modPart 1 (fun v => { v with
  placeRecs := [(0, { key := placeKey 0x11 9 5 0, mask := 2 ^ 128 - 1, kind := 0x11, job := 9, seq := 5, owner := 0, mirror := mirror, flags := flags
                      epoch := 3, lastPage := 100 })]
  spans := [(0, { job := 9, seq := 5, valid := true, epoch := 3, endAt := 5000 })] }) (holds sq0 up)
/-- What the part of an APPEND asks at the owner. -/
def ownerPart (mirror flags : Nat) (f : State → PlaceRec → Bool) : Bool :=
  met 0x0103 (.conn 0) (pkf 0x0103 1 0 0 (toLe 8 3 ++ zeros 4) tok1) (holder mirror flags) (fun id c t =>
    let u := meetCmd c 9 5 t
    c.fabric && extRole c == 0 && appends c t u && (memberCheck u c 9 5 (some id)).isNone &&
      (let a := appendArg c.block
       let v := (appendRun 1 ((seqOf u 1 a.key).getD {}) c a.first (a.first + a.n) u).2
       ((spanRecs v 1 9 5).find? (fun e => e.2.span == extSpan c)).any (fun e => f v e.2)))
theorem wit_appendOwner : ownerPart 0xFFFF 0 (fun _ e => !bitOf e.flags 0 && e.mirror == 0xFFFF) = true := by decide +kernel
theorem wit_appendOwnerMirror : ownerPart 5 1 (fun v e => bitOf e.flags 0 && e.mirror != v.node.nodeId && e.mirror != 0xFFFF &&
    (fabricConn v 1 e.mirror).isSome) = true := by decide +kernel
/-- A mirror of the test sequence's span 0, which node 5 owns. -/
def mirrored (q : Seq) : State := modPart 1 (fun v => { v with
  placeRecs := [(0, { key := placeKey 0x11 9 5 0, mask := 2 ^ 128 - 1, kind := 0x11, job := 9, seq := 5, owner := 5, mirror := 0, flags := 3, lastPage := 100 })]
  spans := [(0, { job := 9, seq := 5, mirror := true, stream := 3 })] }) (holds q up)
theorem wit_writeThrough : met 0x0103 (.conn 0) (pkf 0x0103 1 0 0 (toLe 8 3 ++ [0, 0, 0, 1]) tok1) (mirrored sq0) (fun _ c t =>
    let u := meetCmd c 9 5 t
    c.fabric && extRole c == 1 && appends c t u && (homeBehind u c 9 5).isNone &&
      (spanSt u 1 9 5 true).any (fun x => decide (x.2.stream ≤ extEpoch c)) &&
      (spanRec u 1 9 5 (extSpan c)).any (fun e => e.2.owner == (connOf t 0).peerNode)) = true := by decide +kernel
/-- The block of an ATTEND of one query token over the test sequence. -/
def attendBlock : List Byte :=
  padTo 0x80 (key9 ++ toLe 2 0 ++ toLe 8 1 ++ toLe 2 1 ++ [1, 0, 5, 0, 0, 0, 0, 0, 0, 0] ++ toLe 4 0 ++ toLe 4 0 ++ toLe 4 64 ++ toLe 4 0x3F800000) ++ zeros 128
theorem wit_attend : met 0x0201 (.qp 1 0) (pkb 0x0201 1 attendBlock) (holds sq up) (fun _ c t =>
    let r := attendReq c.block
    match requestCheck c 9 5 t with
    | (none, u) => (seqOf u 1 (seqKey 9 5)).any (fun q => !c.fabric && c.ctx.isSome && attendOk u 1 q r c.block && r.distrib != 2 &&
        fitsReply c (reqRows r * (16 + reqDim r * 4)) && (ownSpanCheck u 1 9 5).isNone)
    | _ => false) = true := by decide +kernel
/-- The block of an ATTEND_BWD of the same shape, with FP32 dO rows and D given. -/
def bwdBlock : List Byte :=
  padTo 0x80 (key9 ++ toLe 2 0 ++ toLe 8 1 ++ toLe 2 1 ++ [1, 0, 5, 0, 0, 0, 0, 0, 0, 0] ++ toLe 4 0 ++ toLe 4 0 ++ toLe 4 64 ++ toLe 4 0x3F800000) ++
    zeros 128 ++ zeros 256 ++ zeros 32 ++ zeros 4
/-- What ATTEND_BWD asks beside its set. -/
def bwdMet (s : State) (pkt : Packet) (f : Cmd → Req → Seq → State → Bool) : Bool :=
  met 0x0202 (.qp 1 0) pkt s (fun _ c t =>
    let b := bwdReq c.block
    match requestCheck c 9 5 t with
    | (none, u) => (seqOf u 1 (seqKey 9 5)).any (fun q => !c.fabric && c.ctx.isSome && bwdOk q b c.block && b.sparse == 0 && b.distrib != 2 &&
        fitsReply c (reqRows b * (16 + reqDim b * 4)) && !bitOf (u8 c.block 0x3C) 1 && (ownSpanCheck u 1 9 5).isNone && f c b q u)
    | _ => false)
theorem wit_attendBwd : bwdMet (modPart 1 (fun v => { v with gsets := [(0, { job := 9, seq := 5, kvSet := 1 })] }) (holds sq up)) (pkb 0x0202 1 bwdBlock)
    (fun c b q u => let range := setRange u c b (seqLen q b.layer)
      !bitOf (u8 c.block 0x3C) 0 && thas (part u 1).gsets b.gset &&
      !setConflict (tget {} (part u 1).gsets b.gset) b (seqLen q b.layer) range.1 range.2) = true := by decide +kernel
theorem wit_attendBwdStart : bwdMet (holds sq up) (pkb 0x0202 1 (bwdBlock.set 0x3C 1))
    (fun c b q u => let range := setRange u c b (seqLen q b.layer)
      let pos := (reqKvs b).flatMap (fun kv => (List.range (range.2 - range.1)).map (fun k =>
        (kv, range.1 + k, handleAt q (posKey b.layer kv (range.1 + k)))))
      bitOf (u8 c.block 0x3C) 0 && !thas (part u 1).gsets b.gset && pos.length == 1 && pos.all (fun e => isPage e.2.2) &&
      (placeSet 1 b.gset u.node.nextOp (reqDim b / 2) (rawRows u 1 - heldSetting c 0x30 0 [0] - 16) (pos.map (fun e => (e.1, e.2.1, hCell e.2.2))) [] u).isSome) = true := by
  decide +kernel
theorem wit_merge : met 0x0203 (.qp 1 0) (pkb 0x0203 1 (padTo 32 ([2, 0, 0, 0] ++ toLe 4 1) ++ (zeros 272 ++ zeros 272))) up (fun _ c _ =>
    let b := c.block
    u8 b 0 == 2 && u8 b 1 == 0 && zeroIn b 2 4 && u32 b 4 == 1 && decide (u32 b 8 ≤ 10000000) && zeroIn b 0xC 0x20 && b.length == 0x20 + 2 * partSize 64 &&
    (List.range 2).all (fun k => !partBad 64 (slice b (0x20 + k * partSize 64) (partSize 64))) && fitsReply c (partSize 64)) = true := by decide
theorem wit_digestBuild : met 0x0204 (.qp 1 0) (pkb 0x0204 1 (key9 ++ toLe 2 0 ++ toLe 2 1 ++ toLe 2 0 ++ toLe 8 1 ++ zeros 8 ++ [3])) (holds sq up) (fun _ c t =>
    (seqOf t 1 (rangeArg c.block).key).any (fun q => blockIs c 0x21 && rangeOk q c.block true && u8 c.block 0x20 == 3 &&
      decide ((part t 1).pool.hardFloor ≤ poolLevel t 1))) = true := by decide +kernel
/-- A scorer bundle of one member, 16 bytes of payload. -/
def bundle : List Byte :=
  padTo 0x9C (padTo 0xA0 (toLe 2 1 ++ toLe 2 1 ++ toLe 4 9 ++ [0, 1, 1, 0, 1, 1, 0, 0] ++ toLe 8 1)) ++ toLe 4 16
theorem wit_scorerLoad : met 0x0205 (.qp 1 0) (pkb 0x0205 1 (padTo 32 [4] ++ (bundle.take 0x9C ++ toLe 4 16 ++ padTo 64 [3] ++ zeros 96 ++ zeros 16 ++ zeros 96)))
    (modPart 1 (fun v => { v with keys := [(9, {})] }) up) (fun _ c t =>
    let b := c.block.drop 0x20
    let sc := bundleScorer b
    u8 c.block 0 == 4 && zeroIn c.block 1 0x20 && bundleOk b && (tget? (part t 1).keys sc.job).isSome && decide (tget 0 (part t 1).scorerSerials sc.job ≤ sc.serial) &&
    (tget {} (part t 1).scorers 4).refs == 0) = true := by decide
theorem wit_cancel : met 0x0206 (.qp 1 0) (pkb 0x0206 1 [] 3)
    { up with cmds := [(0, { src := .qp 1 0, part := 1, tag := 3, opcode := 0x0201, ctx := some 4 })], ctxs := [(4, { kind := 0x0201, part := 1 })] }
    (fun _ c t => decide (c.objectId < 2 ^ 32) && blockIs c 0 &&
    (t.cmds.find? (fun e => e.2.src == c.src && e.2.tag == c.objectId && e.2.opcode != 0x0206)).any (fun e =>
      isDataPath e.2.opcode && e.2.opcode == 0x0201 && e.2.ctx == some 4 && !(ctxOf t 4).shipping && !appendWritten t e.2 e.1)) = true := by decide
theorem wit_deadlineExpiry : let x : Ctx := { cmd := 7, kind := 0x0201, deadline := 1000 }
    let s := { up with cmds := [(7, parseCmd up (.qp 1 0) (pkb 0x0201 1 attendBlock))], ctxs := [(0, x)] }
    nodeLive s = true ∧ tget? s.ctxs 0 = some x ∧ (tget? s.cmds x.cmd).isSome = true ∧ (deadlineField (tget {} s.cmds 7)).isSome = true ∧
    x.deadline ≠ 0 ∧ x.deadline ≤ s.node.time ∧ x.finished = false ∧ x.shipping = false := by decide

/-- An owner's record and lease of the test sequence's span 0. -/
def spanRec0 : PlaceRec :=
  { key := placeKey 0x11 9 5 0, mask := 2 ^ 128 - 1, kind := 0x11, job := 9, seq := 5, owner := 0, epoch := 3, lastPage := 100, holder := 0, leaseEnd := 5000 }
/-- The same node as owner of span 0 under a lease that holds. -/
def owned (q : Seq) : State :=
  modPart 1 (fun v => { v with placeRecs := [(0, spanRec0)]
                               spans := [(0, { job := 9, seq := 5, valid := true, epoch := 3, endAt := 5000 })] }) (holds q up)
/-- The extension of a sub-request: SPAN_EPOCH 3, span 0, its role. -/
def ext (role : Nat) : List Byte := toLe 8 3 ++ [0, 0, 0, BitVec.ofNat 8 role, 0, 0, 0, 0]
/-- A sub-request's packet. -/
def subPkt (role : Nat) : Packet := pkf 0x0201 1 0 0 (ext role) (attendBlock ++ if role = 3 then toLe 4 h0 else [])
/-- What the four roles share. -/
def sub (role : Nat) (s : State) (f : Nat → Cmd → State → Bool) : Bool :=
  met 0x0201 (.conn 0) (subPkt role) s (fun id c t =>
    let w := parseCmd s (.conn 0) (subPkt role)
    decide (80 ≤ (subPkt role).bytes.length) && w.fabric && w.opcode == 0x0201 && c.fabric && c.ctx.isSome && extRole w == role && extRole c == role &&
    !(partCells t c.part).isEmpty && f id c t)
theorem wit_subRequest : sub 0 (owned sq) (fun _ c t =>
    match requestCheck c 9 5 t with
    | (none, u) => (seqOf u 1 (seqKey 9 5)).any (fun q =>
        attendOk u 1 q (attendReq c.block) c.block && (attendReq c.block).distrib != 2 && (leaseCheck u c 9 5).isNone && fitsReply c 272)
    | _ => false) = true := by decide +kernel
theorem wit_mirrorRead : sub 1 (mirrored sq) (fun _ c t =>
    match requestCheck c 9 5 t with
    | (none, u) => (seqOf u 1 (seqKey 9 5)).any (fun q =>
        attendOk u 1 q (attendReq c.block) c.block && (attendReq c.block).distrib != 2 && (leaseCheck u c 9 5).isNone && fitsReply c 272)
    | _ => false) = true := by decide +kernel
theorem wit_reconstruction : sub 2 (modPart 1 (fun v => { v with placeRecs := [
      (0, { spanRec0 with owner := 6, flags := 4, codeGroup := 7, codeK := 2, codePos := 0, parity0 := 0 }),
      (1, { spanRec0 with span := 1, owner := 5, flags := 4, codeGroup := 7, codeK := 2, codePos := 1, parity0 := 0 })] }) (holds sq up)) (fun _ c t =>
    let u := meetCmd c 9 5 t
    let r := attendReq c.block
    (homeBehind u c 9 5).isNone && attendOk u 1 { dim := r.dim, format := 1, layers := 504, kvHeads := (reqKvs r).foldl max 0 + 1 } r c.block &&
      !attendRefused r && (lostRec u c).any (fun l => l.parity0 == u.node.nodeId && reconSources u 1 l == [(1, 0)] &&
      decide (l.codeK ≤ 2))) = true := by decide +kernel
theorem wit_lendNeighbourAttend : sub 3 (modCell 0 (fun v => { v with lent := [(0, { ownerNode := 5, ownerPart := 2, job := 9, cls := 1, r := { pg.r with lent := true } })] })
    (modPart 1 (fun v => { v with keys := [(9, {})] }) up)) (fun _ c t => c.src == .conn 0 &&
      (let u := meetCmd c 9 5 t
       let r := attendReq c.block
       (homeBehind u c 9 5).isNone && (lentMap u 1 (connOf t 0).peerNode (connOf t 0).peerPart 9 5 (namedPages r c.block)).any (fun map =>
        !map.isEmpty && attendOk u 1 (pagesSeq u r map) r (c.block.take (attendLen r)) && !attendRefused r))) = true := by decide +kernel
/-- A page of class S, all zero. -/
def page0 : PageImage := { record := zeros 2048, tiles := zeros 8192, poison := [] }
/-- A state that may take it. -/
def lender : State := modPart 1 (fun v => { v with pool := { lendAccept := true }, keys := [(0, {})] }) up
theorem wit_lentPages : nodeLive lender = true ∧ fabricIdx lender 0 = some 0 ∧ lendAllowed up 1 0 = false ∧ lendAllowed lender 1 0 = true ∧
    (∀ j ∈ partCells lender 1, cellUp lender j = true ∧ sumBy (cell lender j).lent (fun e => lentSize e.2) + (slotBytes 0 + 2048) ≤
      lendBytes (part lender 1).layout) := by decide +kernel
theorem wit_lentPageJob : (recOf page0.record).job = 0 := by decide +kernel
theorem wit_lendRelease : let s := modCell 0 (fun v => { v with lent := [(0, { ownerNode := 5, ownerPart := 2, ownerGen := 4 })] }) up
    lentOf s (mkHandle 0 0 0) = some { ownerNode := 5, ownerPart := 2, ownerGen := 4 } ∧ (connOf s 0).peerNode = 5 ∧ (connOf s 0).peerPart = 2 ∧
    hCell (mkHandle 0 0 0) ∈ partCells s (connOf s 0).part ∧ (lentOf (readLent (mkHandle 0 0 0) [] s).2 (mkHandle 0 0 0)).isSome = true := by decide +kernel
theorem wit_lendReleaseWait : let s := modPart 1 (fun v => { v with inReset := true }) (modNode (fun n => { n with time := 10000 }) up)
    nodeLive s = true ∧ (part s 1).inReset = true ∧ (part s 1).destroying = false ∧ (part s 1).resetAt + 10000 ≤ s.node.time := by decide
theorem wit_resyncPage : let s := mirrored sq0
    nodeLive s = true ∧ fabricIdx s 0 = some 0 ∧ (spanSt s 1 9 5 true).any (fun x => x.2.span == 0 && decide (x.2.stream ≤ 3)) = true ∧
    seqOf s 1 (seqKey 9 5) = some sq0 ∧ handleAt sq0 (posKey 0 0 0) = 0 ∧ (landPage (part s 1).pool.hardFloor 1 (seqKey 9 5) (posKey 0 0 0) false none page0
      (epochFence 1 9 5 0 3 0 s)).isSome = true := by decide +kernel
theorem wit_resyncLonger : let s := modCell 0 (fun v => { v with pages := [(0, { pg with r := { pg.r with tokens := 3 } })] }) up
    (pageOf s h0).any (fun g => decide (g.r.tokens < 64)) = true ∧ swapCheck s 1 sq (posKey 0 0 0) [h0] = none := by decide
theorem wit_parityStream : let s := modPart 1 (fun v => { v with parity := [(parityKey 7 0, {})] }) up
    fabricIdx s 0 = some 0 ∧ tget? (part s 1).parity (parityKey 7 0) = some {} ∧ (part s 1).placeRecs = [] := by decide
theorem wit_fabricReply : let s := modPart 1 (fun v => { v with awaits := [{ conn := 0, tag := 8, kind := 4 }] }) up
    (part s (connOf s (0 % 65536)).part).awaits.find? (fun w => w.conn == 0 && w.tag == 8) = some { conn := 0, tag := 8, kind := 4 } := by decide
/-- A context with one open part of a distributed request. -/
def parted : State := { up with ctxs := [(2, { kind := 0x0201, part := 1, r := { qTokens := 1, kvSet := 1 }, subs := [(0, {})], deadline := 1000 })] }
theorem wit_appendPart : let q : SubReq := { kind := 1, asked := true }
    let s := { up with node := { up.node with time := 60000000 }, ctxs := [(2, { kind := 0x0103, part := 1, subs := [(0, q)] })] }
    nodeLive s = true ∧ tget? (ctxOf s 2).subs 0 = some q ∧ (ctxOf s 2).kind = 0x0103 ∧ q.kind = 1 ∧ q.asked = true ∧
    q.sentAt + memberWait s (ctxOf s 2) ≤ s.node.time := by decide
theorem wit_distributedParts : nodeLive parted = true ∧ (tget? parted.ctxs 2).isSome = true ∧ (tget? (ctxOf parted 2).subs 0) = some {} ∧
    ({} : SubReq).state = 0 ∧ ({} : SubReq).kind ≤ 2 ∧ ({} : SubReq).again = false ∧ (ctxOf parted 2).kind ≠ 0x0103 ∧
    (ctxOf parted 2).deadline ≤ parted.node.time + 50 ∧
    16 + reqRows (ctxOf parted 2).r * partSize (reqDim (ctxOf parted 2).r) ≤ (zeros 288).length ∧
    ({} : SubReq).sentAt + min (memberWait parted (ctxOf parted 2)) (((ctxOf parted 2).deadline - 0) / 2) ≤ parted.node.time := by decide +kernel
/-- R223, log 90: the question for a sequence's lengths is answered with its tag, its SEQ_CREATE block and LENGTH of every layer. -/
theorem test_lengths_question : ((deliverSend 0 (questionBytes 14 [7, 9, 5]) (owned sq)).out.head?.elim false (fun o => match o with
    | .fabric 0 20 [7, 0] b => u32 b 0 == 7 && u16 b 4 == 0 && u32 b 32 == 9 && u48 b 36 == 5 &&
        b.length == 64 + 4 * ((seqOf (owned sq) 1 (seqKey 9 5)).elim 0 (·.layers)) && u32 b 8 == b.length - 32
    | _ => false)) = true := by decide +kernel

/-- What MATCH_INSERT asks of the index where it places its entry. -/
def inserts (t : State) (at_ : Nat) : Bool :=
  (entryCell t 1 at_).any (fun ci => cellUp t ci && !bankSwept t ci (at_ % 1048576) && !entryValid (cell (readIndex 1 at_ t) ci) (at_ % 1048576))
theorem wit_matchInsert : met 0x0301 (.qp 1 0) (pkb 0x0301 1 (padTo 0x20 ([2, 0, 0, 0] ++ toLe 4 0) ++ zeros 32)) up (fun _ c t =>
    let b := c.block
    u8 b 0 == 2 && u8 b 1 == 0 && u8 b 2 == 0 && u8 b 3 == 0 && zeroIn b 0x10 0x18 && zeroIn b 0x18 0x20 && b.length == 0x20 + 32 &&
    ([0, 0].zip [0, 0]).all (fun e => Nat.land e.1 (2 ^ 64 - 1 - e.2) == 0) && u64 b 0x20 == 0 && u64 b 0x28 == 0 && u64 b 0x30 == 0 && u64 b 0x38 == 0 &&
    u32 b 4 != 0xFFFFFFFF && (indexCheck t 1 (u32 b 4) 2).isNone && inserts t (u32 b 4)) = true := by decide
theorem wit_matchInsertTokens : met 0x0301 (.qp 1 0) (pkb 0x0301 1 (padTo 0x20 ([2, 1, 0, 0] ++ toLe 4 0xFFFFFFFF ++ zeros 12 ++ toLe 4 1) ++ toLe 4 7)) up (fun _ c t =>
    let b := c.block
    u8 b 0 == 2 && u8 b 1 == 1 && u8 b 2 == 0 && u8 b 3 == 0 && zeroIn b 0x18 0x20 && u32 b 0x14 == 1 && b.length == 0x20 + 4 &&
    u32 b 4 == 0xFFFFFFFF && (freeEntry t 1 2 (fun k => k < placeBank0 (part t 1).match_)).any (inserts t)) = true := by decide +kernel
/-- The node with one valid entry at index 0. -/
def entry0 : State := modCell 0 (fun v => { v with shadow := [(0, { gen := 3, width := 2, valid := true, head := true })] }) up
theorem wit_matchDelete : met 0x0302 (.qp 1 0) (pkb 0x0302 1 (toLe 4 0 ++ toLe 2 3)) entry0 (fun _ c t =>
    let k := u32 c.block 0 % 1048576
    let r := readIndex 1 (u32 c.block 0) t
    (entryCell t 1 (u32 c.block 0)).any (fun ci => blockIs c 6 && decide (unitBank k < placeBank0 (part t 1).match_) && !bankSwept t ci k && entryValid (cell r ci) k &&
      u16 c.block 4 == (shadowAt (cell r ci) k).gen)) = true := by decide
theorem wit_matchSearch : met 0x0303 (.qp 1 0) (pkb 0x0303 1 (padTo 0x20 [1, 2] ++ zeros 16)) up (fun _ c t =>
    !bitOf (u8 c.block 3) 0 && !(partCells t 1).isEmpty && (searchArgs t 1 c.block).any (fun e => !e.2.2 && e.2.1.all (fun k => !afterPlaced t 1 k.2) && fitsReply c (32 * e.2.1.length)) &&
    !((partCells t 1).filter (cellUp t)).isEmpty) = true := by decide +kernel
theorem wit_matchStep : met 0x0304 (.qp 1 0) (pkb 0x0304 1 [7, 0, 1])
    (modPart 1 (fun v => { v with cursors := [(7, { held := [{ index := 0, gen := 3 }, { index := 0, gen := 3 }] })] }) entry0) (fun _ c t =>
    let n := u8 c.block 2
    blockIs c 3 && n == 1 && fitsReply c (24 * n) && (tget? (part t 1).cursors (u16 c.block 0)).any (fun v => !v.reserved &&
      !(stepCursor t 1 65 n v.held).2.2.isEmpty && v.held.all (fun h => (entryCell t 1 h.index).all (fun ci => (cell t ci).shadow.all (fun e => e.2.cls.isEmpty))))) = true := by decide
theorem wit_matchStepEnd : met 0x0304 (.qp 1 0) (pkb 0x0304 1 [7, 0, 64])
    (modPart 1 (fun v => { v with cursors := [(7, { held := [] })] }) up) (fun _ c t =>
    blockIs c 3 && u8 c.block 2 == 64 && fitsReply c (24 * 64) && (tget? (part t 1).cursors (u16 c.block 0)).any (fun v => !v.reserved &&
      (stepCursor t 1 65 64 v.held).2.2.isEmpty && v.held.isEmpty)) = true := by decide
theorem wit_matchConfig : met 0x0305 (.qp 1 0) (pkb 0x0305 1 (toLe 2 0xFFFF ++ toLe 2 0xFFFF ++ [50])) up (fun _ c _ =>
    let b := c.block
    u16 b 0 == 0xFFFF && u16 b 2 == 0xFFFF && u8 b 4 == 50 && u8 b 5 == 0 && u8 b 6 == 0 && zeroIn b 7 0x20 && b.length == 0x20) = true := by decide
/-- A batch of partition 1 that waits for cell 0. -/
def batched : State := modCell 0 (fun v => { v with sweeps := [3] }) (modPart 1 (fun v => { v with batches := [(3, { closed := true }), (4, {})] }) up)
theorem wit_batchClose : let s := modPart 1 (fun v => { v with batches := [(4, {})] }) up
    s.dbg.frozen = false ∧ tget? (part s 1).batches 4 = some {} ∧ ({} : Batch).closed = false ∧ ({} : Batch).placement = false ∧
    (∀ e ∈ (part s 1).batches, e.1 < 4 → e.2.closed = true) ∧
    (∀ k ∈ (partCells s 1).filter (cellUp s), (cell s k).sweeping = none ∧ (cell s k).sweeps = [] ∧
      360 ≤ sweepNs s k {}) := by decide
theorem wit_sweepStart : canSweep batched 0 = true ∧ headBatch batched 0 = some (3, { closed := true }) ∧ secondSweep { closed := true } = false ∧
    ({} : Batch).placement = false := by decide
theorem wit_sweepAgain : let b : Batch := { closed := true, keys := [{ key := 0, again := true }] }
    let s := modCell 0 (fun v => { v with sweeps := [3] }) (modPart 1 (fun v => { v with batches := [(3, b)] }) up)
    canSweep s 0 = true ∧ headBatch s 0 = some (3, b) ∧ secondSweep b = true := by decide
theorem wit_sweepDone : let s := modCell 0 (fun v => { v with sweeping := some 3 }) batched
    (cell s 0).sweeping = some 3 ∧ (cell s 0).sweepAhead = [] ∧ cellOwner s 0 = 1 ∧ tget? (part s 1).batches 3 = some { closed := true } := by decide
theorem wit_patrolCompare : cellUp up 0 = true ∧ (cell up 0).sweeping = none ∧ up.node.phase = .active ∧
    minBy id (((cell up 0).units.map (·.1) ++ (cell up 0).shadow.map (·.1)).filter (fun u => decide ((cell up 0).patrolPos ≤ u))) = none ∧
    minBy id (((cell entry0 0).units.map (·.1) ++ (cell entry0 0).shadow.map (·.1)).filter (fun u => decide ((cell entry0 0).patrolPos ≤ u))) = some 0 ∧
    (shadowAt (cell entry0 0) 0).cls.any (fun x => 3 ≤ x) = false := by decide
/-- The same node with an uncorrectable record. -/
def entryBad : State := modCell 0 (fun v => { v with shadow := [(0, { gen := 3, width := 2, valid := true, head := true, cls := [3] })] }) up
theorem wit_patrolLoss : cellUp entryBad 0 = true ∧ (cell entryBad 0).sweeping = none ∧ entryBad.node.phase = .active ∧
    minBy id (((cell entryBad 0).units.map (·.1) ++ (cell entryBad 0).shadow.map (·.1)).filter (fun u => decide ((cell entryBad 0).patrolPos ≤ u))) = some 0 ∧
    (shadowAt (cell entryBad 0) 0).cls.any (fun x => 3 ≤ x) = true := by decide
theorem wit_cursorTimeout : let s := modPart 1 (fun v => { v with cursors := [(7, {})] }) (modNode (fun n => { n with time := 10000 }) up)
    nodeLive s = true ∧ tget? (part s 1).cursors 7 = some {} ∧ ({} : Cursor).used + 10000 ≤ s.node.time := by decide
theorem wit_bankOp : met 0x0401 (.qp 1 0) (pkb 0x0401 1 (padTo 0x60 (toLe 2 1) ++ ([0, 3] ++ toLe 2 2047 ++ toLe 2 496 ++ toLe 2 497 ++ toLe 2 498 ++ [0, 0, 1, 0, 0, 0])))
    (modPart 1 (fun v => { v with items := [(0x30, [16])] }) up) (fun _ c t =>
    let b := c.block
    let n := u16 b 0
    decide (((part t 1).ops.filter (fun o => !o.2.finished)).length < 64) && !(partCells t 1).isEmpty && n == 1 && u8 b 2 == 0 && zeroIn b 3 8 &&
    b.length == 0x60 + 16 * n && u32 b 8 == 0 && u32 b 0xC == 0 && !elemBad b 0 && (elemAt b 0).1 ∈ partCells t 1 && (elemAt b 0).2.2.op == 3 &&
    !elemRegion t c (elemAt b 0).2.2 && rowRegion (part t 1).layout (elemAt b 0).2.2.rowD == 0) = true := by decide
theorem wit_bankOpstat : met 0x0402 (.qp 1 0) (pkb 0x0402 1 (toLe 4 5)) (modPart 1 (fun v => { v with ops := [(5, { mode := 1 })] }) up) (fun _ c t =>
    blockIs c 5 && u8 c.block 4 == 0 && u32 c.block 0 != 0 && (tget? (part t 1).ops (u32 c.block 0)).any (fun o => o.mode != 0 && !o.released && !o.finished)) = true := by decide
/-- One element waiting on bank 9 of cell 0. -/
def banked : State := modCell 0 (fun v => { v with banks := [(9, [{ op := 3, ncol := 1, rowD := 2, opId := 5 }])] }) up
theorem wit_bankElementDone : tget [] (cell banked 0).banks 9 = [{ op := 3, ncol := 1, rowD := 2, opId := 5 }] ∧ cellUp banked 0 = true ∧
    bankFree banked 0 9 = true ∧ ({} : Elem).add = none ∧ banked.dbg.frozen = false ∧ ({} : Elem).queuedAt + 2 ≤ banked.node.time := by decide
theorem wit_bankOpstatAll : met 0x0402 (.qp 1 0) (pkb 0x0402 1 (zeros 4)) up (fun _ c _ =>
    blockIs c 5 && u8 c.block 4 == 0 && u32 c.block 0 == 0) = true := by decide
/-- An element of a gradient page's add, alone or with another of the page behind it. -/
def adding (rest : List Elem) : State :=
  modCell 0 (fun v => { v with banks := [(9, { op := 0x10, lane := 4, ncol := 1, rowD := 2, opId := 5, add := some (1, 0, 0) } :: rest)] }) up
theorem wit_bankElementAdd : (tget [] (cell (adding []) 0).banks 9).head?.map (·.add) = some (some (1, 0, 0)) ∧ cellUp (adding []) 0 = true ∧
    bankFree (adding []) 0 9 = true ∧ (adding []).dbg.frozen = false ∧
    [({ op := 0x10, opId := 5, add := some (1, 0, 0) } : Elem)].any (fun x => x.add.isSome && x.opId == 5) = true := by decide
theorem wit_opRecordExpiry : let s := modPart 1 (fun v => { v with ops := [(5, { finished := true })] }) (modNode (fun n => { n with time := 10000000 }) up)
    nodeLive s = true ∧ tget? (part s 1).ops 5 = some { finished := true } ∧ 0 + 10000000 ≤ s.node.time := by decide

/-- A partition with a connection quota of five and a key of job 9. -/
def connSt : State := modPart 1 (fun v => { v with items := [(0x100, [5])], keys := [(9, {})] }) up
/-- What the completion of CONN_CREATE asks, of a mode and a flags byte. -/
def connAsk (mode fl : Nat) (_ : Nat) (c : Cmd) (t : State) : Bool :=
  let b := c.block
  blockIs c 0x30 && u8 b 0 == mode && u8 b 1 == fl && decide (u32 b 8 < psnMod) &&
  (if bitOf fl 0 then mode == 1 && u32 b 4 != 0 && decide (u16 b 2 ≤ 0xFFF) && thas (part t 1).keys (u32 b 4) else u16 b 2 == 0 && u16 b 0xE == 0) &&
  decide (u8 b 0xC ≤ 63) && decide (u8 b 0xD ≤ 15) && decide ((t.conns.filter (fun e => e.2.part == 1)).length < connQuota t 1) &&
  decide (t.conns.length < 65536) && (findFree (thas t.conns) 65536 (t.conns.length + 1) ((draw t).1 % 65536)).isSome
/-- A Standard, a Spray and a negotiated connection, a control connection, and one over the fabric. -/
theorem wit_connCreate : met 0x0501 (.qp 1 0) (pkb 0x0501 1 (zeros 0x30)) connSt (connAsk 0 0) = true ∧
    met 0x0501 (.qp 1 0) (pkb 0x0501 1 (1 :: zeros 0x2F)) connSt (connAsk 1 0) = true ∧
    met 0x0501 (.qp 1 0) (pkb 0x0501 1 ([2, 2] ++ zeros 0x2E)) connSt (connAsk 2 2) = true ∧
    met 0x0501 (.qp 1 0) (pkb 0x0501 1 (padTo 0x30 ([1, 1] ++ toLe 2 0xFFF ++ toLe 4 9))) connSt (connAsk 1 1) = true := by decide +kernel
theorem wit_connModify : met 0x0502 (.qp 1 0) (pkb 0x0502 1 (toLe 4 2 ++ [0, 3]) 2) up (fun _ c t =>
    (connNamed t c) == some 2 && blockIs c 0x20 && u32 c.block 0 == 2 && u8 c.block 5 == 3 && zeroIn c.block 6 8 && zeroIn c.block 0xC 0x10) = true := by decide
/-- The three changes of state: INIT to READY (associations installed), READY to ERROR, ERROR to INIT. -/
theorem wit_connModifyState :
    let ask (f : Conn → List Byte → Bool) (_ : Nat) (c : Cmd) (t : State) : Bool :=
      (connNamed t c) == some 2 && blockIs c 0x20 && u32 c.block 0 == 1 && zeroIn c.block 6 8 && zeroIn c.block 0xC 0x10 && f (connOf t 2) c.block
    let pkTo (st : Nat) : Packet := pkb 0x0502 1 (toLe 4 1 ++ [BitVec.ofNat 8 st]) 2
    met 0x0502 (.qp 1 0) (pkTo 1) (modConn 2 (fun c => { c with state := 0, startSet := true, saOut := some { spi := 3 }, saIn := [{ spi := 7 }] }) up)
      (ask (fun x b => x.state == 0 && u8 b 4 == 1 && x.startSet && x.saOut.isSome && !x.saIn.isEmpty && x.capCmd.isNone)) = true ∧
    met 0x0502 (.qp 1 0) (pkTo 2) up (ask (fun x b => x.state == 1 && u8 b 4 == 2)) = true ∧
    met 0x0502 (.qp 1 0) (pkTo 0) (modConn 2 (fun c => { c with state := 2 }) up) (ask (fun x b => x.state == 2 && u8 b 4 == 0)) = true := by decide
theorem wit_connDestroy : met 0x0503 (.qp 1 0) (pkb 0x0503 1 [] 2) up (fun _ c t => (connNamed t c) == some 2 && blockIs c 0) = true := by decide
theorem wit_saInstall :
    let ask (dir : Nat) (_ : Nat) (c : Cmd) (t : State) : Bool :=
      (connNamed t c) == some 2 && blockIs c 0x40 && u8 c.block 0 == dir && zeroIn c.block 1 4 && zeroIn c.block 0xC 0x20 &&
      decide (u32 c.block 4 < 2 ^ 31) && (connOf t 2).kind != 2 && decide ((connOf t 2).saIn.length < 2)
    met 0x0506 (.qp 1 0) (pkb 0x0506 1 (zeros 4 ++ toLe 4 (2 ^ 31 - 1) ++ zeros 56) 2) up (ask 0) = true ∧
    met 0x0506 (.qp 1 0) (pkb 0x0506 1 ([1, 0, 0, 0] ++ toLe 4 5 ++ zeros 56) 2) (modConn 2 (fun c => { c with saIn := [{ spi := 4 }] }) up) (ask 1) = true := by decide
theorem wit_regionRegister : met 0x0504 (.qp 1 0) (pkb 0x0504 1 ([1, 1] ++ zeros 6 ++ toLe 8 (511 * 1024) ++ toLe 4 1024))
    (modPart 1 (fun v => { v with items := [(0x30, [16])] }) up) (fun _ c t =>
    let b := c.block
    let share := rawRows t 1 * 1024
    let off := u64 b 8
    blockIs c 0x14 && u8 b 1 == 1 && zeroIn b 2 8 && u32 b 0x10 == 1024 && decide (off < 2048 * share) &&
    decide (off % max 1 share + u32 b 0x10 ≤ share) && decide (rawRows t 1 - heldSetting c 0x30 0 [0] ≤ off % max 1 share / 1024) && u8 b 0 ∈ partCells t 1 &&
    (findFree (thas (part t 1).regions) 4096 4096 0) == some 0) = true := by decide
/-- A registered region of cell 0, key 4096. -/
def region1 : State := modPart 1 (fun v => { v with regions := [(0, { rkey := 4096, len := 4096, writable := true })] }) up
theorem wit_regionRevoke : met 0x0505 (.qp 1 0) (pkb 0x0505 1 [] 4096) region1 (fun _ c t =>
    blockIs c 0 && (regionOf t 1 c.objectId).any (fun e => !e.2.revoking)) = true := by decide
theorem wit_srqPost : met 0x0507 (.qp 1 0) (pkb 0x0507 1 (padTo 0x20 ([63, 0] ++ toLe 2 1) ++ (toLe 4 4096 ++ toLe 4 4096 ++ toLe 8 0))) region1 (fun _ c t =>
    let b := c.block
    u16 b 2 == 1 && b.length == 0x30 && u8 b 1 == 0 && zeroIn b 4 0x20 && u8 b 0 == 63 &&
    (regionOf t 1 (u32 b 0x20)).any (fun e => !e.2.revoking && decide (u64 b 0x28 + u32 b 0x24 ≤ e.2.len)) && u32 b 0x24 == 4096) = true := by decide
/-- Spray connection 3 asks its partner for the mode: command 4 waits. -/
def asking (asked tries : Nat) : State :=
  modConn 3 (fun c => { c with state := 0, asked := asked, capCmd := some 4, capDue := 1000, capTries := tries })
    { up with cmds := [(4, { items := [(0x0102, [100, 7, 10, 7, 9])] })] }
/-- Asked again; refused after nine tries; Standard after eight. -/
theorem wit_capRetry : let tries (s : State) := heldSetting (tget {} s.cmds ((connOf s 3).capCmd.getD 0)) 0x0102 4 netTimerDflt
    netLive (asking 1 8) = true ∧ (connOf (asking 1 8) 3).capCmd.isSome = true ∧ (connOf (asking 1 8) 3).capDue ≤ (asking 1 8).node.time ∧
    (connOf (asking 1 8) 3).capTries < tries (asking 1 8) ∧ ¬ (connOf (asking 2 8) 3).capTries < min (tries (asking 2 8)) 8 ∧
    (connOf (asking 1 9) 3).asked = 1 ∧ tries (asking 1 9) ≤ (connOf (asking 1 9) 3).capTries ∧ (connOf (asking 2 8) 3).asked ≠ 1 := by decide
theorem wit_connectionTimers : netLive up = true ∧ (tget? up.conns 2).isSome = true ∧ (connOf up 2).state = 1 ∧ (connOf up 2).cc.nextTimer ≤ up.node.time ∧
    outranked up 2 = false := by decide
theorem wit_ackTimeout : let s := modConn 2 (fun c => { c with unacked := [{ psn := 4 }], ackDue := some 9 }) (modNode (fun n => { n with time := 10 ^ 9 }) up)
    netLive s = true ∧ (connOf s 2).unacked.find? (fun u => u.psn == 4 && !u.marked) = some { psn := 4 } ∧ (connOf s 2).ackedAt + netTimer s 1 0 ≤ s.node.time ∧
    (connOf s 2).rnrUntil = none ∧ (connOf s 2).ackDue = some 9 ∧ 9 ≤ s.node.time := by decide
theorem wit_rnr : let s := modConn 2 (fun c => { c with rnrUntil := some 7 }) up
    (connOf s 2).rnrUntil.isSome = true ∧ (connOf s 2).state = 1 := by decide
/-- Ports up, a job key, and associations on connections 2 and 3. -/
def linked : State :=
  modConn 2 (fun c => { c with saIn := [{ spi := 7 }], unacked := [{ psn := 4 }] })
    (modConn 3 (fun c => { c with saIn := [{ spi := 7 }] }) (modPort 0 (fun p => { p with st := 3 }) up))
/-- A packet arrived on port 0. -/
theorem wit_packetReceive : netLive linked = true ∧ linked.dbg.frozen = false ∧ linked.node.phase = .active ∧ portUsable linked 0 = true ∧
    fromPartner linked 0 [] = true ∧ (connOf linked 2).mode = 0 ∧ (connOf linked 3).mode = 1 ∧ (connOf linked 2).state = 1 ∧ (connOf linked 3).state = 1 ∧
    (let s := modPort 0 (fun g => { g with st := if g.st = 5 then 3 else g.st, lastBusy := now linked }) linked
     (authPacket 2 7 true 1 s).isSome = true ∧ (authPacket 3 7 true 1 s).isSome = true) ∧
    (authPacket 2 7 true 1 linked).isSome = true ∧ (authPacket 3 7 true 1 linked).isSome = true ∧
    ({} : NetHead).fragment = false ∧ ({} : NetHead).frame ≤ 9216 ∧ ({} : NetHead).pkey % 2 ^ 15 = 2 ^ 15 - 1 ∧ ({} : NetHead).tver = 0 ∧
    qpnConn linked 0x800002 = some 2 ∧ qpnConn linked 0x700002 = none ∧ qpnConn linked 0x800009 = none := by decide
/-- The same with message 6 of one packet sent as PSN 4, and `n` RNR NAKs of it behind. -/
def waiting (n : Nat) : State :=
  modConn 2 (fun c => { c with sendQ := [{ msn := 6, start := 4, bytes := [0], sent := 1 }], rnrMsn := 6, rnrCount := n }) linked
/-- What an RNR NAK of PSN 4 meets there, and whether it is one too many. -/
def rnrCase (n : Nat) (last : Bool) : Bool := (authPacket 2 7 true 1 (waiting n)).any (fun u =>
  let v := modConn 2 (fun c => { c with ackedAt := now u }) (ackedTo 2 4 u)
  (connOf u 2).unacked.any (fun e => e.psn == 4) && (msgOfPsn (connOf v 2) 4).any (fun m =>
    decide (netTimer v (connOf v 2).part 3 ≤ rnrTries (connOf v 2) m.msn) == last))
theorem wit_rnrNak : rnrCase 0 false = true ∧ rnrCase (netTimer up 1 3) true = true := by decide +kernel
/-- A capability request over the fabric connection. -/
def capBody : List Byte := toLe 2 1 ++ [1, 2] ++ zeros 12 ++ toLe 4 0 ++ toLe 2 5 ++ toLe 2 2 ++ toLe 2 1 ++ [16, 0]
/-- The partner's acknowledgement that agrees. -/
def capAck : List Byte := toLe 2 1 ++ [2, 3] ++ zeros 12 ++ toLe 4 0 ++ toLe 2 5 ++ toLe 2 2 ++ toLe 2 1 ++ [16, 0]
theorem wit_capabilityDatagram : capOk (capBody ++ toLe 4 (crc32c capBody)) = true ∧ u8 capBody 2 = 1 ∧ portUsable linked 0 = true ∧
    fromPartner linked 0 [] = true ∧ capMatch linked [] (capBody ++ toLe 4 (crc32c capBody)) = some (0, connOf linked 0) ∧
    (connOf linked 0).capCmd = none ∧ (connOf linked 0).state = 1 ∧
    (let s := modConn 0 (fun c => { c with state := 0, capCmd := some 4 }) linked
     capOk (capAck ++ toLe 4 (crc32c capAck)) = true ∧ bitOf (u8 capAck 3) 0 = true ∧ u8 capAck 2 ≠ 1 ∧
     capMatch s [] (capAck ++ toLe 4 (crc32c capAck)) = some (0, connOf s 0) ∧ (connOf s 0).capCmd ≠ none) := by decide +kernel
theorem wit_arp : let s := modPart 0 (fun v => { v with items := [(0x0103, [9])] }) linked
    portUsable s 0 = true ∧ allZero (ownAddr s 0 false) = false ∧ netLive s = true := by decide

/-- A home's own record. -/
def homeRec0 : PlaceRec := { key := placeKey 0x10 9 5 0, mask := 2 ^ 128 - 1, kind := 0x10, job := 9, seq := 5, owner := 0, epoch := 2 }
/-- The home of the test sequence, with span 0 recorded for node 5 under a lease. -/
def home : State := modPart 1 (fun v => { v with placeRecs := [(0, { spanRec0 with owner := 5, holder := 5 }), (1, homeRec0)] }) (holds sq up)
/-- A lease command from node 5. -/
def leasePkt (op epoch : Nat) (target : Nat) : Packet := pkf op 1 epoch 2 [] (key9 ++ [0, 0] ++ toLe 2 target ++ zeros 18)
/-- What every lease command at a home asks. -/
def atHome (handoff : Bool) (f : Nat → Nat → Cmd → PlaceRec → Bool) (_ : Nat) (c : Cmd) (t : State) : Bool :=
  let a := leaseArg c.block
  c.fabric && leaseOk c handoff false && (homeFor t c.part a.job a.seq).isNone && (homeBehind t c a.job a.seq).isNone &&
    (spanRec t c.part a.job a.seq a.span).any (fun e => f (senderNode (meetCmd c a.job a.seq t) c) a.record c e.2)
theorem wit_leaseAcquire : met 0x0601 (.conn 0) (leasePkt 0x0601 3 0) home
    (atHome false (fun frm _ c r => r.owner == frm && decide (r.epoch ≤ c.epoch))) = true := by decide
theorem wit_leaseRenew : met 0x0602 (.conn 0) (leasePkt 0x0602 3 0) home
    (atHome false (fun frm rc c r => rc == 0 && r.epoch == c.epoch && r.holder == frm)) = true := by decide
theorem wit_leaseRelease : met 0x0604 (.conn 0) (leasePkt 0x0604 3 0) home (atHome false (fun _ _ c r => r.epoch == c.epoch)) = true := by decide
theorem wit_leaseHandoffAtHome : met 0x0603 (.conn 0) (leasePkt 0x0603 4 6) home
    (atHome true (fun _ _ c r => decide (r.epoch < c.epoch))) = true := by decide
/-- The operator renews the home's own record. -/
theorem wit_homeRenew : met 0x0602 (.qp 0 0) (pkb 0x0602 0 (key9 ++ [0, 1] ++ toLe 2 0 ++ toLe 2 1 ++ toLe 4 (2 ^ 32 - 1) ++ toLe 6 (2 ^ 48 - 1) ++ zeros 6) 0 2) home (fun _ c t =>
    let a := leaseArg c.block
    !c.fabric && c.part == 0 && a.record == 1 && leaseOk c false true && (homeNamed t a).any (fun e => c.epoch == e.2.epoch)) = true := by decide
theorem wit_leaseHandoff : met 0x0603 (.qp 0 0) (pkb 0x0603 0 (key9 ++ [0, 0] ++ toLe 2 5 ++ toLe 2 1 ++ zeros 16))
    (modPart 1 (fun v => { v with placeRecs := [(0, { spanRec0 with mirror := 5, flags := 3 })] }) (owned sq)) (fun _ c t =>
    let a := leaseArg c.block
    !c.fabric && c.part == 0 && leaseOk c true false && c.epoch == 0 &&
    (spanRec t a.part a.job a.seq a.span).any (fun e => e.2.mirror == a.target && spanSynced e.2) &&
    (spanSt t a.part a.job a.seq false).any (fun x => leaseValid t x.2 && x.2.span == a.span && x.2.handoff.isNone)) = true := by decide
/-- The home, node 5, prompts the owner, and the owner has a connection to ask over. -/
theorem wit_leasePrompt : met 0x0603 (.conn 0) (pkf 0x0603 1 3 2 (zeros 8 ++ toLe 2 5) (key9 ++ [0, 0] ++ toLe 2 0 ++ zeros 18)) (owned sq) (fun _ c t =>
    let a := leaseArg c.block
    let u := meetEpochs 1 a.job a.seq a.span c.epoch (extHome c) c.homeEpoch t
    c.fabric && (seqOf t 1 (seqKey a.job a.seq)).isSome && leaseOk c true false && a.target == t.node.nodeId &&
    (homeBehind t c a.job a.seq).isNone && (spanSt u 1 a.job a.seq false).any (fun e =>
      (fabricConn (modSpan 1 e.1 (fun x => { x with home := extHome c, homeEpoch := c.homeEpoch, span := a.span }) u) 1 (extHome c)).isSome)) = true := by decide
theorem wit_homeRecordExpiry : let s := modPart 1 (fun v => { v with placeRecs := [(1, { homeRec0 with flags := 16, leaseEnd := 1000 })] }) up
    nodeLive s = true ∧ s.node.phase = .active ∧ (tget? (part s 1).placeRecs 1).any (fun r => r.kind == 0x10 && bitOf r.flags 4 && r.owner == s.node.nodeId &&
      !r.expired && decide (r.leaseEnd ≤ s.node.time)) = true := by decide
theorem wit_leaseExpiry : let s := modPart 1 (fun v => { v with placeRecs := [(0, { spanRec0 with holder := 5, leaseEnd := 1000 }),
      (1, { spanRec0 with span := 1, holder := 0xFFFF, promptAt := 1000 })] }) up
    (tget? (part s 1).placeRecs 0).any (fun r => r.kind == 0x11 && r.holder != 0xFFFF && decide (r.leaseEnd ≤ s.node.time)) = true ∧
    (tget? (part s 1).placeRecs 1).any (fun r => r.kind == 0x11 && r.holder == 0xFFFF && r.promptAt != 0 && decide (r.promptAt ≤ s.node.time)) = true := by decide
/-- The home that also holds the span's lease. -/
def homeOwner : State := modPart 1 (fun v => { v with placeRecs := [(0, spanRec0), (1, homeRec0)] }) (owned sq)
theorem wit_renewTimer : (spanSt homeOwner 1 9 5 false).any (fun e => e.2.span == 0 && leaseValid homeOwner e.2 && decide (e.2.renewAt ≤ homeOwner.node.time) &&
    (let u := modSpan 1 e.1 (fun x => { x with renewAt := now homeOwner + fabricSet homeOwner 1 2 }) homeOwner
     isHome u 1 9 5 && (spanRec u 1 9 5 0).any (fun r => r.2.holder == homeOwner.node.nodeId && r.2.epoch == e.2.epoch))) = true := by decide
theorem wit_ownerLeaseEnd : let s := modNode (fun n => { n with time := 10 ^ 8 }) homeOwner
    (spanSt s 1 9 5 false).any (fun e => e.2.valid && decide (e.2.endAt + fabricSet s 1 4 ≤ s.node.time)) = true := by decide
theorem wit_handoffTimeout : let s := modSpan 1 0 (fun x => { x with handoff := some (4, 5, 0) }) (modNode (fun n => { n with time := 10 ^ 8 }) homeOwner)
    (part s 1).spans.find? (fun e => e.2.job == 9 && e.2.seq == 5 && e.2.span == 0 && e.2.handoff.isSome) =
      some (0, { job := 9, seq := 5, valid := true, epoch := 3, endAt := 5000, handoff := some (4, 5, 0) }) ∧ 0 ≤ s.node.time := by decide
/-- PLACE_SET of the home record of the test sequence. -/
def placeBlock : List Byte :=
  toLe 2 1 ++ zeros 14 ++ toLe 16 (placeKey 0x10 9 5 0) ++ toLe 16 (2 ^ 128 - 1) ++
    (key9 ++ [0x10, 0] ++ toLe 2 0 ++ toLe 2 0xFFFF ++ toLe 8 2 ++ zeros 10 ++ toLe 2 0 ++ toLe 2 0xFFFF ++ zeros 10 ++ toLe 2 0xFFFF ++ zeros 14)
theorem wit_placeSet : met 0x0605 (.qp 0 0) (pkb 0x0605 0 placeBlock) up (fun _ c t =>
    let b := c.block
    let r := placeRecOf b
    u16 b 0 == 1 && (part t 1).exists_ && blockIs c 0x70 && u8 b 2 == 0 && zeroIn b 3 0x10 && placeKeyOk r.key r.mask && placeRecOk r b &&
    ((part t 1).placeRecs.find? (fun e => e.2.key == r.key && e.2.mask == r.mask)).isNone &&
    (freeEntry t 1 2 (fun k => decide (placeBank0 (part t 1).match_ ≤ k))).any (fun i => (entryCell t 1 i).isSome) &&
    (findFree (thas (part t 1).placeRecs) 1048576 ((part t 1).placeRecs.length + 1) 0).isSome) = true := by decide +kernel
/-- The span record of the test sequence that node 6 owned at epoch 1, in its place of the match index. -/
def placedOld : State :=
  modPart 1 (fun v => { v with placeRecs := [(0, { homeRec0 with owner := 6, epoch := 1, index := 0 })] }) up
/-- A later record of the key replaces the older one; a deletion names it. -/
theorem wit_placeSetAgain :
    let ask (f : Cmd → State → Nat → PlaceRec → Bool) (_ : Nat) (c : Cmd) (t : State) : Bool :=
      let b := c.block
      let r := placeRecOf b
      let same (e : Nat × PlaceRec) : Bool := e.2.key == r.key && e.2.mask == r.mask
      u16 b 0 == 1 && (part t 1).exists_ && blockIs c 0x70 && zeroIn b 3 0x10 && placeKeyOk r.key r.mask &&
      ((part t 1).placeRecs.find? same).any (fun e => ((part (readIndex 1 e.2.index t) 1).placeRecs.find? same).any (fun o =>
        f c (readIndex 1 e.2.index t) o.1 o.2))
    met 0x0605 (.qp 0 0) (pkb 0x0605 0 placeBlock) placedOld (ask (fun c _ _ o =>
      let r := placeRecOf c.block
      decide (u8 c.block 2 ≤ 1) && placeRecOk r c.block && decide (o.epoch < r.epoch))) = true ∧
    met 0x0605 (.qp 0 0) (pkb 0x0605 0 (toLe 2 1 ++ [2] ++ zeros 13 ++ toLe 16 (placeKey 0x10 9 5 0) ++ toLe 16 (2 ^ 128 - 1) ++ zeros 64)) placedOld
      (ask (fun c v _ o => u8 c.block 2 == 2 && zeroIn c.block 0x30 0x70 && (entryCell v 1 o.index).isSome)) = true := by decide +kernel

theorem wit_attestGet : met 0x0701 (.qp 1 0) (pkb 0x0701 1 (zeros 64)) up (fun _ c _ =>
    c.block.length == 64 && u8 c.block 0 == 0 && zeroIn c.block 1 32) = true := by decide
theorem wit_attestMctp : ∀ n, fitsReply ({ src := .mctp true } : Cmd) n = true := fun _ => rfl
/-- JOB_KEY_INSTALL of job 9 with two points of the curve. Whether the wrapped secret opens depends on the identity key, which is free
(log 3): one of the two outcomes that the statement tells apart is this packet's. -/
theorem wit_jobKeyInstall : met 0x0702 (.qp 1 0) (pkb 0x0702 1
      (padTo 0x130 (toLe 4 9 ++ zeros 28 ++ ecBytes ecBase ++ zeros 15 ++ ecBytes ecBase))) up (fun _ c t =>
    let b := c.block
    b.length == 0x130 && zeroIn b 5 0x20 && zeroIn b 0x81 0x90 && zeroIn b 0xF1 0xF4 && u8 b 4 == 0 && (tget? (part t 1).keys 9).isNone &&
    (ecPoint (slice b 0x20 97)).isSome && (ecPoint (slice b 0x90 97)).isSome && decide ((part t 1).keys.length < 1024)) = true := by decide +kernel
theorem wit_jobKeyRemove : met 0x0702 (.qp 1 0) (pkb 0x0702 1 (padTo 0x130 (toLe 4 9 ++ [1]))) (modPart 1 (fun v => { v with keys := [(9, {})] }) up) (fun _ c t =>
    let b := c.block
    b.length == 0x130 && zeroIn b 5 0x20 && zeroIn b 0x81 0x90 && zeroIn b 0xF1 0xF4 && u8 b 4 == 1 && zeroIn b 0x20 0x130 &&
    (tget? (part t 1).keys 9).isSome && !jobHeld t 1 9) = true := by decide
theorem wit_keyRotate : met 0x0703 (.qp 1 0) (pkb 0x0703 1 (toLe 4 9)) (modPart 1 (fun v => { v with keys := [(9, { jkg := 1 })] }) up) (fun _ c t =>
    blockIs c 4 && (tget? (part t 1).keys 9).any (fun k => !rotationOpen t k)) = true := by decide
theorem wit_zeroise : met 0x0704 (.qp 0 0) (pkb 0x0704 0 (toLe 4 0x5A45524F)) up (fun _ c _ => blockIs c 4 && u32 c.block 0 == 0x5A45524F) = true := by decide
theorem wit_securityEvents : up.node.phase ≠ .off ∧ up.node.phase ≠ .tripped ∧ up.sec.mstate ≠ 3 ∧ up.dbg.frozen = false ∧ up.sec.mstate < 2 ∧
    barsLive up = true ∧ up.node.phase = .active ∧ up.sec.mstate = 1 ∧ up.sec.spdmAlgs = false ∧
    (let s := modSec (fun x => { x with selftest := true, spdmVersion := true, spdmCaps := true, spdmAlgs := true }) up
     s.sec.selftest = true ∧ s.sec.spdmVersion = true ∧ s.sec.spdmCaps = true ∧ s.sec.spdmAlgs = true) := by decide
theorem wit_powerDrizzle : met 0x0801 (.qp 0 0) (pkb 0x0801 0 [0, 0, 4]) up (fun _ c t =>
    let b := c.block
    blockIs c 6 && c.part == 0 && u8 b 0 == 0 && u8 b 1 == 0 && u8 b 2 == 4 && u8 b 3 == 0 && u16 b 4 == 0 &&
    (List.range 24).all (fun k => !cellMoving t k) && t.pwr.nodeCmd.isNone && t.node.drizzleCmd.isNone) = true := by decide
theorem wit_powerCell : met 0x0801 (.qp 0 0) (pkb 0x0801 0 [1, 1, 2]) up (fun _ c t =>
    let b := c.block
    blockIs c 6 && c.part == 0 && u8 b 0 == 1 && u8 b 1 == 1 && u8 b 2 == 2 && u8 b 3 == 0 && u16 b 4 == 0 && cellOwner t 1 != 0 && !cellMoving t 1 &&
    decide ((cell t 1).pwr.st ≤ 1)) = true := by decide
/-- Cell 1 already in Cell-off, and on its way out. -/
theorem wit_powerCellOff : let s := modCell 1 (fun v => { v with pwr := { st := 2 } }) up
    let ask (target : Nat) (_ : Nat) (c : Cmd) (t : State) : Bool :=
      let b := c.block
      blockIs c 6 && c.part == 0 && u8 b 0 == 1 && u8 b 1 == 1 && u8 b 2 == target && u8 b 3 == 0 && u16 b 4 == 0 && cellOwner t 1 != 0 &&
      !cellMoving t 1 && (cell t 1).pwr.st == 2
    met 0x0801 (.qp 0 0) (pkb 0x0801 0 [1, 1, 2]) s (ask 2) = true ∧ met 0x0801 (.qp 0 0) (pkb 0x0801 0 [1, 1, 0]) s (ask 0) = true := by decide
theorem wit_budgetSet : met 0x0802 (.qp 0 0) (pkb 0x0802 0 (toLe 2 0xFFFF ++ toLe 2 0 ++ toLe 2 3001)) up (fun _ c _ =>
    blockIs c 6 && zeroIn c.block 2 4 && u16 c.block 0 == 0xFFFF) = true := by decide
theorem wit_cellOffDrained : let s := modCell 1 (fun v => { v with pwr := { st := 5, target := some 2 } }) up
    nodeLive s = true ∧ (cell s 1).pwr.st = 5 ∧ cellIdle s 1 = true ∧ (cell s 1).pwr.target = some 2 ∧ (cell s 1).pwr.cmd = none := by decide
theorem wit_cellOffExitDone : let s := modCell 1 (fun v => { v with pwr := { st := 6, prev := 2 } }) up
    s.dbg.frozen = false ∧ (cell s 1).pwr.st = 6 ∧ (cell s 1).pwr.prev = 2 ∧ (cell s 1).pwr.cmd = none := by decide
theorem wit_refreshRate : sensing up = true ∧ (23 : Nat) < 24 ∧ (84 : Nat) ≤ 84 ∧ (81 : Nat) < 82 ∧ (82 : Nat) ≤ 83 ∧ (83 : Nat) < 84 := by decide
theorem wit_sensors : sensing up = true ∧ 20 < powerSet up 4 ∧ 20 < 97 ∧ bitOf up.pwr.causes 3 = false ∧ 3000 ≤ up.pwr.budget ∧
    bitOf up.pwr.causes 0 = false ∧ bitOf up.pwr.causes 1 = false ∧ bitOf up.pwr.causes 5 = false ∧ (cell up 0).pwr.pendMhz = none := by decide
/-- A loom's sensor, a peak, and a partition whose envelope is passed and kept well below. -/
theorem wit_sensorsMore : bitOf up.pwr.causes 2 = false ∧ (0 : Nat) < 24 ∧
    (let s := modPart 1 (fun v => { v with envelope := some 100 }) up
     sensing s = true ∧ (part s 1).exists_ = true ∧ (part s 1).envelope = some 100 ∧ 100 < 101 ∧ 94 * 100 < 95 * 100) := by decide
theorem wit_throttleClear : let s := modPwr (fun w => { w with causes := 6, clearing := [(1, 0)] }) (modNode (fun n => { n with time := 10000 }) up)
    tget? s.pwr.clearing 1 = some 0 ∧ bitOf s.pwr.causes 1 = true ∧ 0 + 10000 ≤ s.node.time ∧ clearBit s.pwr.causes 1 ≠ 0 := by decide
theorem wit_avsTimeout : let s := modCellPwr 0 (fun w => { w with wroteAt := some 400 }) up
    (cell s 0).pwr.wroteAt = some 400 ∧ 400 + 500 ≤ s.node.time ∧ sensing s = true := by decide
theorem wit_drizzle : let s := modNode (fun n => { n with phase := .quiescing, drizzleAt := 0, time := 10 ^ 6 }) up
    let t := modNode (fun n => { n with phase := .drizzle, drizzleWake := 1000 }) up
    s.dbg.frozen = false ∧ s.node.phase = .quiescing ∧ quiet s = true ∧ nodeLive s = true ∧ s.node.drizzleAt + powerSet s 2 ≤ s.node.time ∧
    t.node.phase = .drizzle ∧ t.node.drizzleWake ≠ 0 ∧ t.node.drizzleWake ≤ t.node.time ∧ t.dbg.frozen = false := by decide
theorem wit_resetLevel1 : met 0x0803 (.qp 1 0) (pkb 0x0803 1 ([1, 0, 0, 0] ++ toLe 4 3))
    { up with cmds := [(0, { src := .qp 1 0, part := 1, tag := 3, opcode := 0x0201, ctx := some 4 })] } (fun id c t =>
    let b := c.block
    blockIs c 10 && u8 b 1 == 0 && u8 b 0 == 1 && u16 b 2 == 0 && u16 b 8 == 0 &&
    (t.cmds.find? (fun e => e.2.src == c.src && e.2.tag == u32 b 4 && e.1 != id)).any (fun e => e.2.ctx.isSome)) = true := by decide
theorem wit_resetLevel2 : met 0x0803 (.qp 0 0) (pkb 0x0803 0 ([2, 0, 0, 0] ++ toLe 4 0 ++ toLe 2 383)) up (fun _ c t =>
    let b := c.block
    blockIs c 10 && u8 b 1 == 0 && u32 b 4 == 0 && c.part == 0 && u16 b 2 == 0 && u8 b 0 == 2 && u16 b 8 == 383 && bitOf t.node.cellsPresent 23 &&
    !bitOf (cell t 23).retiredCores 15) = true := by decide
theorem wit_resetLevel45 : met 0x0803 (.qp 0 0) (pkb 0x0803 0 [4]) up (fun _ c _ => blockIs c 10 && u8 c.block 0 == 4 && u8 c.block 1 == 0 && u16 c.block 8 == 0 &&
      u16 c.block 2 == 0 && u32 c.block 4 == 0 && c.part == 0) = true ∧
    met 0x0803 (.qp 0 0) (pkb 0x0803 0 [5]) up (fun _ c _ => blockIs c 10 && u8 c.block 0 == 5 && u8 c.block 1 == 0 && u16 c.block 8 == 0 &&
      u16 c.block 2 == 0 && u32 c.block 4 == 0 && c.part == 0) = true := by decide
theorem wit_resetLevel3 : met 0x0803 (.qp 1 0) (pkb 0x0803 1 ([3, 0] ++ toLe 2 1)) up (fun _ c t => blockIs c 10 && u8 c.block 0 == 3 && u8 c.block 1 == 0 &&
    u16 c.block 8 == 0 && c.part != 0 && u16 c.block 2 == c.part && (part t c.part).exists_ && !(part t c.part).creating && !(part t c.part).destroying) = true := by decide
/-- Partition 0 resets its own. -/
theorem wit_resetLevel3Own : met 0x0803 (.qp 0 0) (pkb 0x0803 0 ([3, 0] ++ toLe 2 0xFFFF)) up (fun _ c t => blockIs c 10 && u8 c.block 0 == 3 && u8 c.block 1 == 0 &&
    u16 c.block 8 == 0 && c.part == 0 && u16 c.block 2 == 0xFFFF && (part t c.part).exists_ && !(part t c.part).creating && !(part t c.part).destroying) = true := by decide
theorem wit_watchdogs : let s := { up with ctxs := [(2, { cmd := 3 })], cmds := [(3, {})] }
    working_ s = true ∧ s.dbg.armTrigger ≠ 3 ∧ tget? s.ctxs 2 = some { cmd := 3 } ∧ tget? s.cmds 3 = some {} ∧ ({} : Cmd).held = false ∧
    (coreOf (cell s 23) 15).st = 0 ∧ cellOwner s 0 ≠ 0 ∧ (part s (cellOwner s 0)).inReset = false ∧ s.node.restart = none := by decide
/-- A core's trip while Frost is armed on trips from level 2. -/
theorem wit_frostTrip : let s := modDbg (fun d => { d with armTrigger := 3, armLevel := 2 }) up
    working_ s = true ∧ s.dbg.armTrigger = 3 ∧ (coreOf (cell s 23) 15).st = 0 ∧ s.dbg.armLevel ≤ 2 ∧ pcieOn s = true ∧ linkLive s = true := by decide
/-- A stuck context's core, cell unit and hub block. -/
theorem wit_contextResetTimeout : working_ up = true ∧ (coreOf (cell up 0) 3).st = 0 ∧ 2 ≤ recSet up 6 ∧ cellOwner up 0 ≠ 0 ∧
    (part up (cellOwner up 0)).inReset = false := by decide
theorem wit_resetEnds : let s := modCore 0 3 (fun v => { v with st := 1 }) { up with node := { up.node with time := 2000000, restart := some {} } }
    working_ s = true ∧ (2, 3) ∉ s.dbg.halted ∧ (coreOf (cell s 0) 3).st = 1 ∧ (coreOf (cell s 0) 3).cmd = none ∧ (coreOf (cell s 0) 3).checkAt + 2000 ≤ s.node.time ∧
    cellOwner s 0 ≠ 0 ∧ (part s (cellOwner s 0)).inReset = false ∧ s.node.restart = some {} ∧ ({} : Restart).activate = false ∧ 0 + 2000000 ≤ s.node.time := by decide
/-- A core reset that a RESET_LEVEL waits for. -/
theorem wit_coreResetCmd : let s := modCore 0 3 (fun v => { v with st := 1, cmd := some 7 }) up
    (coreOf (cell s 0) 3).st = 1 ∧ (coreOf (cell s 0) 3).cmd = some 7 ∧ (2, 3) ∉ s.dbg.halted := by decide
theorem wit_nodeResetEnds : let s := modNode (fun n => { n with phase := .level4, time := 6000000 }) up
    s.node.phase = .level4 ∧ s.node.resetHeld = false ∧ s.dbg.frozen = false ∧ s.node.level4At + 6000000 ≤ s.node.time := by decide
theorem wit_dumpCollect : met 0x0804 (.qp 0 0) (pkb 0x0804 0 (toLe 4 (2 ^ 24 - 1) ++ [3])) up (fun _ c t => blockIs c 5 && decide (u32 c.block 0 < 2 ^ 24) &&
    u8 c.block 4 == 3 && t.dbg.dumps == [] && t.dbg.collect.isNone) = true := by decide
theorem wit_dumpRead : met 0x0805 (.qp 0 0) (pkb 0x0805 0 (toLe 4 6 ++ toLe 4 0 ++ toLe 4 4032)) (modDbg (fun g => { g with dumps := [{ id := 6 }] }) up) (fun _ c t =>
    let n := u32 c.block 8
    (t.dbg.dumps.find? (fun d => d.id == u32 c.block 0)).any (fun d => blockIs c 13 && u8 c.block 12 == 0 && n == 4032 &&
      decide (u32 c.block 4 < dumpLen d) && fitsReply c (min n (dumpLen d)))) = true := by decide
theorem wit_dumpReadDiscard : met 0x0805 (.mctp false) (pkb 0x0805 0 (toLe 4 6 ++ toLe 4 0 ++ toLe 4 1 ++ [1])) (modDbg (fun g => { g with dumps := [{ id := 6 }] }) up) (fun _ c t =>
    let n := u32 c.block 8
    (t.dbg.dumps.find? (fun d => d.id == u32 c.block 0)).any (fun d => blockIs c 13 && u8 c.block 12 == 1 && n == 1 &&
      decide (u32 c.block 4 < dumpLen d) && fitsReply c (min n (dumpLen d)))) = true := by decide
theorem wit_dumps : let s := modDbg (fun g => { g with collect := some { dump := { recs := [{ unit := 4 }] } } }) (modNode (fun n => { n with time := 100000 }) up)
    let t := modNode (fun n => { n with phase := .held, holdUntil := 1000 }) up
    s.dbg.collect.isSome = true ∧ 0 + 100000 ≤ s.node.time ∧ s.dbg.frozen = false ∧ t.node.phase = .held ∧ t.node.pwrcyc = false ∧
    t.node.holdUntil ≤ t.node.time := by decide
theorem wit_frostArm : met 0x0806 (.qp 0 0) (pkb 0x0806 0 ([3, 0, 0, 0] ++ toLe 4 1000000)) up (fun _ c _ => blockIs c 8 && u8 c.block 0 == 3 &&
    u32 c.block 4 == 1000000) = true := by decide
theorem wit_frost : let s := modDbg (fun g => { g with armTrigger := 1, fired := some 1000 }) up
    let t := modDbg (fun g => { g with frozen := true }) up
    canFreeze s = true ∧ s.dbg.fired = some 1000 ∧ 1000 ≤ s.node.time ∧ s.dbg.armTrigger ≠ 0 ∧ t.dbg.frozen = true ∧ t.dbg.driving = false ∧
    t.dbg.tripped = none ∧ s.node.phase ≠ .off := by decide
/-- A core's trip froze the node. -/
theorem wit_frostTripped : let t := modDbg (fun g => { g with frozen := true, tripped := some (2, 0, 3) }) up
    t.dbg.frozen = true ∧ t.dbg.driving = false ∧ t.dbg.tripped = some (2, 0, 3) := by decide
theorem wit_fwStage : met 0x0807 (.qp 0 0) (pkb 0x0807 0 (padTo 32 (toLe 4 0 ++ toLe 4 4 ++ [1, 0, 0, 0] ++ toLe 4 4) ++ zeros 4)) up (fun _ c _ =>
    c.block.length == 32 + u32 c.block 12 && u8 c.block 8 == 1 && zeroIn c.block 9 12 && zeroIn c.block 16 32) = true := by decide
theorem wit_fwActivate : met 0x0808 (.qp 0 0) (pkb 0x0808 0 []) up (fun _ c _ => blockIs c 0) = true := by decide
theorem wit_fwEnds : let s := modNode (fun n => { n with restart := some { activate := true }, time := 2000000 }) up
    s.node.restart = some { activate := true } ∧ ({ activate := true } : Restart).cmd = none ∧ s.dbg.frozen = false ∧ 0 + 2000000 ≤ s.node.time := by decide
/-- An activation that FW_ACTIVATE waits for. -/
theorem wit_fwEndsCmd : let s := modNode (fun n => { n with restart := some { activate := true, cmd := some 7 }, time := 2000000 }) up
    s.node.restart = some { activate := true, cmd := some 7 } ∧ s.dbg.frozen = false ∧ 0 + 2000000 ≤ s.node.time := by decide
theorem wit_boot : let s := modNode (fun n => { n with phase := .booting }) up
    State.reset.node.phase = .off ∧ s.node.phase = .booting ∧ s.node.resetHeld = false ∧ s.sec.mstate ≠ 3 ∧ s.dbg.frozen = false ∧ up.node.phase = .active ∧
    (modNode (fun n => { n with resetHeld := true }) up).node.resetHeld = true := by decide

/-- The node with Weftlink port 16 on the first two lane groups. -/
def weft (st : Nat) : State :=
  modPort 16 (fun p => { p with st := st }) (modPart 0 (fun v => { v with items := [(0x01F0, [2, 15, 1, 3, 1, 0, 2, 15, 1, 3, 1, 0])] }) up)
/-- Ethernet port 3 in a state. -/
def eth (st : Nat) : State := modPort 3 (fun p => { p with st := st, eeeOn := true }) up
theorem wit_ethernetPorts : linkLive (eth 2) = true ∧ portExists (eth 2) 3 = true ∧ (portOf (eth 2) 3).st = 2 ∧ portUp (portOf (eth 3) 3) = true ∧
    (portOf (eth 3) 3).st = 3 ∧ (portOf (eth 3) 3).eeeOn = true ∧ laneSet (eth 1) 3 2 ≠ 0 ∧ portUp (portOf (eth 1) 3) = false ∧ (portOf (eth 1) 3).st ≠ 2 ∧
    ((List.range 4).filter (fun k => bitOf (laneSet (eth 1) 3 1) k && bitOf 255 (4 * laneSet (eth 1) 3 5 + k))).getLast? = some 3 ∧
    (portOf (eth 3) 3).lastBusy + 2 ≤ (eth 3).node.time := by decide
/-- A port that carries traffic goes down before it negotiates; a partner without a common rate; the session that the port has stored. -/
theorem wit_autoneg : (portUp (portOf (eth 3) 3) || (portOf (eth 3) 3).st == 2) = true ∧
    ((List.range 4).filter (fun k => bitOf (laneSet (eth 1) 3 1) k && bitOf 0 (4 * laneSet (eth 1) 3 5 + k))).getLast? = none ∧
    (let s := modPort 3 (fun p => { p with coef := true, page := 6 }) (eth 1)
     ((portOf s 3).coef && (portOf s 3).page == 6) = true ∧ linkLive s = true ∧ portExists s 3 = true) := by decide
/-- A capability block. -/
def capBlock : List Byte := ([1, 15, 3, 7] ++ toLe 2 0 ++ toLe 2 5 ++ zeros 4)
theorem wit_capabilityBlock : let b := capBlock ++ toLe 4 (crc32c capBlock)
    let s := modPort 16 (fun p => { p with block := b }) (weft 1)
    let t := modPort 16 (fun p => { p with block := b }) (weft 2)
    blockOk b = true ∧ portUp (portOf s 16) = false ∧ (portOf s 16).st ≠ 2 ∧ (portOf s 16).block = b ∧ (portOf s 16).run + 1 < 3 ∧
    (portOf s 16).blockAt = none ∧ (portOf t 16).st = 2 ∧ (portOf t 16).block = b := by decide +kernel
/-- A block whose CRC is wrong. -/
theorem wit_capabilityBlockBad : blockKnown (capBlock ++ zeros 4) = true ∧ blockOk (capBlock ++ zeros 4) = false := by decide +kernel
/-- The third equal block: the node's own one, the partner's with a common mode, one with none, and one of the stored session. -/
theorem wit_thirdBlock :
    let ask (b : List Byte) (f : State → Bool) : Bool :=
      let s := modPort 16 (fun p => { p with block := b, run := 2 }) (weft 1)
      let u := modPort 16 (fun p => { p with block := b, run := 3 }) (checkStored s)
      blockOk b && !portUp (portOf s 16) && (portOf s 16).st != 2 && (portOf s 16).block == b && (portOf s 16).run == 2 && f u
    let same (b : List Byte) (u : State) : Bool :=
      bitOf (Nat.land (u16 (ownBlock u 0) 4) (u16 b 4)) 1 && u16 b 6 == (portOf u 16).partner && u8 b 8 == (portOf u 16).page &&
        u16 b 0xA == (portOf u 16).tag && (portOf u 16).tag != 0
    let sealed (b : List Byte) : List Byte := b ++ toLe 4 (crc32c b)
    ask (sealed ([1, 15, 3, 7] ++ toLe 2 0 ++ toLe 2 0 ++ zeros 4)) (fun u => u.node.nodeId == 0) = true ∧
    ask (sealed capBlock) (fun u => u.node.nodeId != 5 && !same (sealed capBlock) u && (commonMode (ownBlock u 0) (sealed capBlock)).isSome) = true ∧
    ask (sealed ([1, 15, 0, 7] ++ toLe 2 0 ++ toLe 2 5 ++ zeros 4)) (fun u =>
      u.node.nodeId != 5 && (commonMode (ownBlock u 0) (sealed ([1, 15, 0, 7] ++ toLe 2 0 ++ toLe 2 5 ++ zeros 4))).isNone) = true ∧
    (let b := sealed ([1, 15, 3, 7] ++ toLe 2 2 ++ toLe 2 5 ++ zeros 2 ++ toLe 2 9)
     ask b (fun u => same b (modPort 16 (fun p => { p with partner := 5, tag := 9 }) (modNode (fun n => { n with linkChecked := true }) u)))) = true :=
    by decide +kernel
theorem wit_weftPorts : linkLive (weft 1) = true ∧ portExists (weft 1) 16 = true ∧ (portOf (weft 1) 16).st = 1 ∧ (portOf (weft 2) 16).st = 2 ∧
    (portOf (weft 2) 16).partner ≤ (weft 2).node.nodeId ∧ portUp (portOf (weft 4) 16) = true ∧ (portOf (weft 4) 16).st = 4 := by decide
/-- A partner of a greater number leads; a port at 4 lanes with a failed lane. -/
theorem wit_weftTraining : let s := modPort 16 (fun p => { p with partner := 5, width4 := true }) (weft 2)
    (portOf s 16).st = 2 ∧ s.node.nodeId < (portOf s 16).partner ∧ (portOf s 16).width4 = true ∧ (portOf s 16).goodGroup = none ∧
    1 % 256 ≠ 0 := by decide
/-- One lane group of 8 lanes failed, and both sides allow 4 lanes. -/
theorem wit_weftDegraded : let s := modPort 16 (fun p => { p with block := capBlock ++ zeros 4 }) (weft 2)
    (portOf s 16).st = 2 ∧ (portOf s 16).width4 = false ∧ weftSet s 0 1 = 1 ∧ bitOf (u8 (portOf s 16).block 2) 1 = true ∧
    (portOf s 16).partner ≤ s.node.nodeId ∧ 16 % 256 ≠ 0 ∧ 16 % 256 % 16 = 0 ∧ 1 % 256 / 16 = 0 := by decide
theorem wit_park : let s := modPort 16 (fun p => { p with park := true, parkAsked := true }) (weft 3)
    (portOf s 16).park = true ∧ (portOf s 16).parkAsked = true ∧ portUp (portOf s 16) = true ∧
    (portOf s 16).st ≠ 4 := by decide
theorem wit_fastRetrain : let s := modNode (fun n => { n with time := 200000 }) (modPort 16 (fun p => { p with fastAt := some 0 }) (weft 1))
    portUp (portOf s 16) = false ∧ (portOf s 16).fastAt = some 0 ∧ 0 + 200000 ≤ s.node.time := by decide
theorem wit_queuePairs : let s := modQp 1 0 (fun v => { v with state := 0 }) up
    let t := modQp 1 0 (fun v => { v with state := 3 }) up
    barsLive up = true ∧ up.node.phase = .active ∧ qpExists 1 0 = true ∧ (qpOf up 1 0).state = 1 ∧ 255 < 2 ^ ((qpOf up 1 0).sqLog + 4) ∧
    2 ^ ((qpOf up 1 0).sqLog + 4) ≤ 256 ∧ windowLive up 1 = true ∧ (qpOf s 1 0).state = 0 ∧ (qpOf t 1 0).state = 3 ∧ (qpOf t 1 0).ready = [] ∧
    t.cmds = [] ∧ t.dbg.frozen = false := by decide
theorem wit_qpEnable : let n := setBit (0x8BCC : BitVec 64).toNat 15
    bitsOf n 0 4 ≤ 12 ∧ bitsOf n 4 4 ≤ 12 ∧ bitsOf n 8 7 ≤ vecMax 1 ∧ 12 < bitsOf (setBit (0x8BCD : BitVec 64).toNat 15) 0 4 := by decide
theorem wit_sqEntryFetch : let s := modQp 1 0 (fun v => { v with sqTail := 1 }) up
    nodeLive s = true ∧ srcLive s (.qp 1 0) = true ∧ (qpOf s 1 0).sqHead % 256 ≠ (qpOf s 1 0).sqTail % 256 ∧
    isDataPath (u16 (entryPacket (toLe 2 0x0201) []).bytes 0) = true := by decide
theorem wit_completionPost : let s := modQp 1 0 (fun v => { v with ready := [{ notify := true }], coalCount := 2, coalesced := 1, coalAt := 1000 }) up
    (qpOf s 1 0).ready = [{ notify := true }] ∧ (qpOf s 1 0).state = 1 ∧ (qpOf s 1 0).err ≠ 3 ∧ (fnOf s 1).d0 = true ∧ (fnOf s 1).bme = true ∧
    barsLive s = true ∧ (qpOf s 1 0).coalCount ≠ 0 ∧ 0 < (qpOf s 1 0).coalesced ∧ (qpOf s 1 0).coalAt ≤ s.node.time := by decide
/-- The control command that a ring may still take, and replies that ask for no interrupt: no coalescing, below the count, at it. -/
theorem wit_ringTraffic : let s := modQp 1 0 (fun v => { v with sqTail := 1 }) up
    let r (count n : Nat) : State := modQp 1 0 (fun v => { v with ready := [{}], coalCount := count, coalesced := n }) up
    ringsFetched s = true ∧ s.node.restart = none ∧ (s.cmds.filter (fun e => e.2.src == .qp 1 0 && !isDataPath e.2.opcode)).length < 32 ∧
    (qpOf (r 0 0) 1 0).ready = [{}] ∧ (qpOf (r 0 0) 1 0).coalCount = 0 ∧ (qpOf (r 3 1) 1 0).coalesced + 1 < (qpOf (r 3 1) 1 0).coalCount ∧
    (qpOf (r 2 1) 1 0).coalCount ≠ 0 ∧ (qpOf (r 2 1) 1 0).coalCount ≤ (qpOf (r 2 1) 1 0).coalesced + 1 := by decide
theorem wit_pcieEvents : pcieOn up = true ∧ up.dbg.frozen = false ∧ (part up 1).poolRings = [] ∧ (fnOf up 1).evt.waiting = [] ∧ (fnOf up 1).pending = [] := by decide
theorem wit_registers : windowLive up 1 = true ∧ (fnOf up 1).evt.en = false ∧ (let n := setBit (6 : BitVec 64).toNat 5
    bitOf n 5 = true ∧ 6 ≤ bitsOf n 0 5 ∧ bitsOf n 0 5 ≤ 16) ∧ (fnOf up 1).evt.waiting = [] ∧ regPlace 1 0x10000 = none ∧
    regPlace 1 0xFFF8 = some (false, 0xFFF8) ∧ regPlace 0 0 = some (true, 0) ∧ (halfBits .low).1 = 0 := by decide
theorem wit_rawAperture : let s := modPart 1 (fun v => { v with items := [(0x30, [16])] }) up
    barsLive s = true ∧ s.node.phase = .active ∧
    (tget [] (cell s (bitsOf (apertureOf s 1 1) 0 5)).banks (bitsOf (apertureOf s 1 1) 8 11)).head?.map (·.first) ≠ some true ∧
    apertureByte s 1 (apertureOf s 1 1) 507904 = some (rawKey 0 0 496 0) ∧ (zeros 4).length ≤ 8 ∧ Inv s := by decide
theorem wit_poolWork : partRuns up 1 = true ∧ (part up 1).epsAt + 10 ≤ up.node.time ∧ (poolCells up 1).isEmpty = false ∧
    (let s := modNode (fun n => { n with time := 10 ^ 9 }) up
     (part s 1).sweepAt + 1000 * (part s 1).pool.sweepMs ≤ s.node.time) := by decide
theorem wit_eviction : let s := modPart 1 (fun v => { v with pool := { highWm := 1001 }, seqs := [(seqKey 9 5, { sq0 with age := 2 })] }) up
    (poolCells s 1).isEmpty = false ∧ poolLevel s 1 < (part s 1).pool.highWm ∧ projectedLevel s 1 < (part s 1).pool.highWm ∧
    maxBy (fun e => leastAge s e.2) ((part s 1).seqs.filter (fun e => evictable s 1 e.2)) = some (seqKey 9 5, { sq0 with age := 2 }) := by decide +kernel
/-- A granule to come, the end of the pass, and rewrites of a page's granule and of a record's. -/
theorem wit_scrub : let s := modCell 0 (fun v => { v with rewriteQ := [4] }) { up with pmem := [(4, {})] }
    let t := modCell 0 (fun v => { v with rewriteQ := [2 ^ 40 + 3] }) up
    scrubRuns s 0 = true ∧ scrubNext s 0 = some 4 ∧ scrubNext up 0 = none ∧ (cell s 0).rewriteQ = [4] ∧ 4 < 2 ^ 40 ∧
    (cell t 0).rewriteQ = [2 ^ 40 + 3] ∧ 2 ^ 40 + 3 < 2 ^ 41 := by decide
/-- Rewrites of a lent page's granule, of a shadow granule, and of a lent page's record. -/
theorem wit_rewriteRanges : let r (g : Nat) : State := modCell 0 (fun v => { v with rewriteQ := [g] }) up
    scrubRuns (r (lentKey 3 5)) 0 = true ∧ 2 ^ 41 ≤ lentKey 3 5 ∧ lentKey 3 5 < 2 ^ 42 ∧ (cell (r (2 ^ 42 + 1)) 0).rewriteQ = [2 ^ 42 + 1] ∧
    2 ^ 42 ≤ 2 ^ 42 + 1 ∧ 2 ^ 42 + 1 < 2 ^ 43 ∧ 2 ^ 43 ≤ lentRecKey 3 5 := by decide
/-- A core that holds a token with one place in a state, and a ring with one token. -/
def cored (st : Nat) (h : Nat) : State :=
  modCore 0 0 (fun v => { v with held := [{ places := [{ idx := 6, handle := h, st := st }] }] })
    (modCell 0 (fun v => { v with ring := [{ tok := { pages := [(0, h0)] } }], reports := [{}] }) { up with ctxs := [(0, { part := 1 })] })
theorem wit_cellWork : cellWorks (cored 1 h0) 0 = true ∧ (coreOf (cell (cored 1 h0) 0) 0).st = 0 ∧ (nextCore (cell (cored 1 h0) 0)).isSome = true ∧
    (((List.range 16).map (fun i => ((cell (cored 1 h0) 0).lastFetch + 1 + i) % 16)).find? (fun n => (nextCredit (coreOf (cell (cored 1 h0) 0) n)).isSome)) = some 0 ∧
    (nextCredit (coreOf (cell (cored 1 h0) 0) 0)).isSome = true ∧ 1 ≠ (cell (cored 1 h0) 0).inc ∧ (cell (cored 1 h0) 0).reports = [{}] ∧
    ({} : CellReport).inc = (cell (cored 1 h0) 0).inc := by decide
/-- A place whose page lands, one whose page is poisoned, and no credit to fetch. -/
theorem wit_pageFetchDone : let s := holds sq (cored 2 h0)
    let t := modPage h0 (fun g => { g with r := { g.r with poisoned := true } }) s
    let u := modCore 0 0 (fun v => { v with held := [] }) (cored 1 h0)
    cellWorks (fetchAccess 0 { places := [{ idx := 6, handle := h0, st := 2 }] } { idx := 6, handle := h0, st := 2 } s) 0 = true ∧
    placeOwner (coreOf (cell s 0) 0) 9 = none ∧ ((placeOwner (coreOf (cell s 0) 0) 6).any (fun e =>
      let s := fetchAccess 0 e.2.1 e.2.2 s
      (placeOwner (coreOf (cell s 0) 0) 6).isSome &&
      let x := ctxOf s e.2.1.tok.ctx
      let grans := fetchGrans (walkRec s e.2.2.handle) (walkCls s e.2.2.handle) (min 64 (x.len - 64 * e.2.2.page))
      !(if isLent e.2.2.handle then readLent e.2.2.handle grans s else commitRead e.2.2.handle grans s).1 && !(walkRec s e.2.2.handle).poisoned)) = true ∧
    ((placeOwner (coreOf (cell t 0) 0) 6).any (fun e =>
      (placeOwner (coreOf (cell (fetchAccess 0 e.2.1 e.2.2 t) 0) 0) 6).isSome && (walkRec (fetchAccess 0 e.2.1 e.2.2 t) e.2.2.handle).poisoned)) = true ∧
    (((List.range 16).map (fun i => ((cell u 0).lastFetch + 1 + i) % 16)).find? (fun n => (nextCredit (coreOf (cell u 0) n)).isSome)) = none := by decide +kernel
theorem wit_gradientQueue : let s := modPart 1 (fun v => { v with gsets := [(0, { queue := [7] })] }) { up with cmds := [(7, { ctx := some 2 })] }
    nodeLive s = true ∧ (tget {} (part (modGset 1 0 (fun w => { w with queue := w.queue.filter (fun id => thas s.cmds id) }) s) 1).gsets 0 : GSet).queue = [7] ∧
    tget? s.cmds 7 = some { ctx := some 2 } := by decide
/-- A flush that ships, with one page left. -/
def shipSt : State :=
  modPart 1 (fun v => { v with gsets := [(0, { pages := [{}] })] })
    { up with ctxs := [(2, { part := 1, kind := 0x0202, shipping := true, r := { bwd := true } })] }
theorem wit_gradShipping : nodeLive shipSt = true ∧ (ctxOf shipSt 2).shipping = true ∧ (ctxOf shipSt 2).r.bwd = true ∧
    gradOrder (tget {} (part shipSt (ctxOf shipSt 2).part).gsets (ctxOf shipSt 2).r.gset) = [{}] := by decide
theorem wit_sideband : nodeLive up = true ∧ up.node.phase = .active ∧ up.dbg.frozen = false ∧ up.node.restart = none ∧ up.sec.mstate < 2 := by decide

/-! Values worked out in the spec. -/

/-- CRC-32C of "123456789": the check value published for the polynomial of the assumption log's row 7. -/
theorem test_crc32c : crc32c [0x31, 0x32, 0x33, 0x34, 0x35, 0x36, 0x37, 0x38, 0x39] = 0xE3069283 := by decide +kernel

/-- The handle of the Spanish prompt's page 93: cell 7, slot 6,694, class M (spec/02, its example). -/
theorem test_handle : mkHandle 7 6694 1 = 0x3800D133 ∧ hCell 0x3800D133 = 7 ∧ hSlot 0x3800D133 = 6694 ∧ isPage 0x3800D133 = true := by decide

/-- The scale and zero point of the K group whose extremes are 0.5 and −0.49609375 (spec/04, its INT8 example). -/
theorem test_rangeRule : rangeRule 3 fFP16 [1 / 2, -127 / 256] = (0x1C00, 127) ∧ zeroByte 3 127 = 0xFF ∧
    quantise 3 (1 / 2) (1 / 256) 127 = 255 ∧ quantise 3 (-127 / 256) (1 / 256) 127 = 0 := by decide +kernel

/-- Packing group 5 of a 4:1 sparse V tile whose block 21 escaped (spec/04, its example): places in the slot. -/
theorem test_blockPlace : (List.range 4).map (fun i => (fun e => (e.1 + 8192, e.2)) (blockPlace 1 3 (· == 21) (20 + i))) =
    [(9472, 16), (9536, 64), (9504, 16), (9520, 16)] := by decide

/-- The largest finite values of the two 8-bit formats. -/
theorem test_fp8 : fVal fE4M3 0x7E = 448 ∧ fVal fE5M2 0x7B = 57344 := by decide +kernel

/-- A deletion that meets an uncorrectable shadow record loses the entry (spec/09, R253): LOST counts, the entry is gone and
its generation starts again. -/
theorem test_lostEntry :
    let s := readIndex 1 0 entryBad
    (cell s 0).lostEntries = 1 ∧ (cell s 0).lostEvt = true ∧ entryValid (cell s 0) 0 = false ∧ (shadowAt (cell s 0) 0).gen = 0 := by
  decide +kernel

end Sys2Proof.Tests
end

/-! The registers of the configuration: writes of RWS fields, COMMIT and DISCARD (R290, R292, R293). -/

namespace Sys2Proof.Proofs

open Sys2Proof Sys2Proof.Machine

/-! ### A TLP that finds the node awake -/

/-- In Active there is nothing to wake (R416). -/
theorem latchWake_of_active {s : State} (h : s.node.phase = .active) : latchWake s = s := by
  simp [latchWake, h]

theorem tlp_of_active {s : State} (h : s.node.phase = .active) : tlp s = s := by
  simp [tlp, latchWake_of_active h]

/-! ### The three rows where the function's window is live -/

section
variable {fn off : Nat} {s : State} (hw : windowLive s fn = true) (ha : s.node.phase = .active)
include hw ha

theorem exec_rwsWrite_of_live (half : Half) (val : BitVec 64) :
    exec (.rwsWrite fn off half val) s = .next (rwsWrite fn off half val s) := by
  change execRwsWrite fn off half val s = _
  simp [execRwsWrite, tlp_of_active ha, hw]

theorem exec_commit_of_live : exec (.commit fn off) s = .next (commitReg fn off s) := by
  change execCommit fn off s = _
  simp [execCommit, tlp_of_active ha, hw]

theorem exec_discard_of_live : exec (.discard fn off) s = .next (discardReg fn off s) := by
  change execDiscard fn off s = _
  simp [execDiscard, tlp_of_active ha, hw]

end

/-! ### What each register does -/

/-- A write that reaches a field stages the item, any other leaves the state (R8, R290). -/
theorem rwsWrite_of_fields {fn off o item : Nat} {glob : Bool} {fs : List (Nat × Nat × Nat × Nat)} (half : Half) (val : BitVec 64)
    (s : State) (hp : regPlace fn off = some (glob, o)) (hf : rwsFields glob o = some (item, fs)) :
    rwsWrite fn off half val s = if fieldHit fs half then
      stageItem fn item 0 (writeFields (seenVals s fn item) fs half val) (4 * (seenVals s fn item).length) s else s := by
  cases hit : fieldHit fs half <;> simp [rwsWrite, hp, hf, hit]

section
variable {fn off k : Nat} {items : List Nat} {s : State} (hb : commitBlock fn off = some (k, items))
include hb

/-- Where the checks of R291 pass, the block's staged items take effect. -/
theorem commitNow_of_ok (h : commitFail s fn ((part s fn).staged.filter (fun g => g.item ∈ items)) [] = none) :
    commitNow fn off s = commitItems fn ((part s fn).staged.filter (fun g => g.item ∈ items)) [] s := by
  simp only [commitNow, hb, h]

/-- Where a check fails, COMMIT_ERR and ERR_ITEM alone change. -/
theorem commitNow_of_fail {i : Nat} {o : Bool}
    (h : commitFail s fn ((part s fn).staged.filter (fun g => g.item ∈ items)) [] = some (i, o)) :
    commitNow fn off s = modPart fn (fun v => { v with commits := tset v.commits k { err := true, errItem := i } }) s := by
  simp only [commitNow, hb, h]

theorem discardReg_of_block :
    discardReg fn off s = modPart fn (fun v => { v with staged := v.staged.filter (fun g => g.item ∉ items) }) s := by
  simp only [discardReg, hb]

end

/-- No commit of the partition waits: COMMIT acts at once (R293). -/
theorem commitReg_of_clear {fn off : Nat} {s : State}
    (h : (part s fn).commitQ = [] ∧ commitHeld s fn s.node.nextCmd = false) : commitReg fn off s = commitNow fn off s := by
  obtain ⟨hq, hh⟩ := h
  simp [commitReg, hq, hh]

/-- Behind commits that wait, a COMMIT bit that does not wait already joins them at the end (R293). -/
theorem commitReg_of_waiting {fn off : Nat} {s : State}
    (h : ¬((part s fn).commitQ = [] ∧ commitHeld s fn s.node.nextCmd = false)) (hn : ∀ w ∈ (part s fn).commitQ, w.1 ≠ off) :
    commitReg fn off s = modPart fn (fun v => { v with commitQ := v.commitQ ++ [(off, s.node.nextCmd)] }) s := by
  have hclear : ((part s fn).commitQ.isEmpty && !commitHeld s fn s.node.nextCmd) = false := by
    simpa using h
  have hnew : (part s fn).commitQ.any (fun w => w.1 == off) = false := by
    simpa using hn
  simp [commitReg, hclear, hnew]

/-- Settles O16: in a live window of an Active node each row is its register's own effect, which the block and the commits that
wait decide. -/
theorem configRegisters : Obligations.ConfigRegisters := by
  unfold Obligations.ConfigRegisters
  intro fn off s hw ha
  refine ⟨fun half val glob o item fs hp hf => ?_, fun k items hb => ⟨fun hc hok => ?_, fun hc hn => ?_, fun hc i o hfail => ?_, ?_⟩⟩
  · rw [exec_rwsWrite_of_live hw ha, rwsWrite_of_fields half val s hp hf]
  · rw [exec_commit_of_live hw ha, commitReg_of_clear hc, commitNow_of_ok hb hok]
  · rw [exec_commit_of_live hw ha, commitReg_of_waiting hc hn]
  · rw [exec_commit_of_live hw ha, commitReg_of_clear hc, commitNow_of_fail hb hfail]
  · rw [exec_discard_of_live hw ha, discardReg_of_block hb]

end Sys2Proof.Proofs

/-! A cell at work: the group admitted, the token pulled, the fetches and the words of cores and cells (R21 to R26, R141, R175, R266,
R435). -/

namespace Sys2Proof.Proofs

open Sys2Proof Sys2Proof.Machine Sys2Proof.Laws

/-! ### The words of a cell -/

/-- A word of an earlier incarnation is discarded and counted (R435). -/
def dropStale (k : Nat) (s : State) : State := modCell k (fun v => { v with staleDrops := satAdd 0xFFFF v.staleDrops 1 }) s

/-- The incarnation of a cell outlives what its merge unit sends. -/
@[simp] theorem sendWords_inc (n : Nat) (v : Cell) : (sendWords n v).inc = v.inc := by
  induction n generalizing v with
  | zero => rfl
  | succ n ih =>
    unfold sendWords
    split
    · rfl
    · split
      · rw [ih]
      · rfl

@[simp] theorem takeWord_inc (v : Cell) : (takeWord v).inc = v.inc := by simp [takeWord]

/-! ### A fetch that ends -/

/-- What the fetch of a place's page reads: whether it met a bad word, and the state that the read leaves (R22, R41). -/
def fetchRead (ht : HTok) (pl : Place) (s : State) : Bool × State :=
  let grans := fetchGrans (walkRec s pl.handle) (walkCls s pl.handle) (min 64 ((ctxOf s ht.tok.ctx).len - 64 * pl.page))
  if isLent pl.handle then readLent pl.handle grans s else commitRead pl.handle grans s

/-- The held token with the place that was being read replaced. -/
def replacePlace (place : Nat) (pl : Place) (ht : HTok) : HTok :=
  { ht with places := ht.places.set (ht.places.takeWhile (fun p => p.idx != place || p.st != 2)).length pl }

/-- A core's held token is replaced and brought forward. -/
def resumeHeld (k j n : Nat) (ht : HTok) (s : State) : State :=
  advanceHeld k j n (modCore k j (fun w => { w with held := w.held.set n ht, progress := now s }) s)

section
variable {k j place : Nat} {s : State} (hw : cellWorks s k = true)
include hw

theorem fetchDone_of_stale {inc : Nat} (h : inc ≠ (cell s k).inc) : fetchDone k j place inc s = dropStale k s := by
  simp [fetchDone, dropStale, hw, h]

/-- No held token waits for the place: the page is one that a run-ahead fetch asked for (R175). -/
theorem fetchDone_of_ahead (h : placeOwner (coreOf (cell s k) j) place = none) :
    fetchDone k j place (cell s k).inc s = aheadLands k j place s := by
  simp [fetchDone, hw, h]

variable {n : Nat} {ht : HTok} {pl : Place} (ho : placeOwner (coreOf (cell s k) j) place = some (n, ht, pl))
include ho

/-- A page of good words lands in its place, and T1 takes it where it was promoted (R22, R88). -/
theorem fetchDone_of_good (hr : (fetchRead ht pl s).1 = false) (hp : (walkRec s pl.handle).poisoned = false) :
    let t := (fetchRead ht pl s).2
    fetchDone k j place (cell s k).inc s =
      resumeHeld k j n (replacePlace place
          { pl with st := 3, promote := false, data := loadPlace t (ctxOf s ht.tok.ctx).part pl.handle } ht)
        (if pl.promote then t1Take pl.handle t else t) := by
  unfold fetchRead at hr ⊢
  simp [fetchDone, resumeHeld, replacePlace, hw, ho, hr, hp]

/-- A page with a bad word or a poisoned one is left out, and the rows that it serves are flagged (R41, R44). -/
theorem fetchDone_of_bad (h : (fetchRead ht pl s).1 = true ∨ (walkRec s pl.handle).poisoned = true) :
    let x := ctxOf s ht.tok.ctx
    fetchDone k j place (cell s k).inc s =
      resumeHeld k j n (flagRows x (tget {} x.groups ht.tok.grp) pl.page (replacePlace place { pl with st := 6 } ht))
        (excludePage ht.tok.ctx ht.tok.grp pl.page pl.handle (fetchRead ht pl s).2) := by
  unfold fetchRead at h ⊢
  simp [fetchDone, resumeHeld, replacePlace, hw, ho, h]

end

theorem exec_pageFetchDone_of_noOwner {k j place : Nat} {s : State} (inc : Nat)
    (h : placeOwner (coreOf (cell s k) j) place = none) :
    exec (.pageFetchDone k j place inc) s = .next (fetchDone k j place inc s) := by
  change execPageFetchDone k j place inc s = _
  simp [execPageFetchDone, h]

/-- An element that took a bank which the fetch reads runs before the fetch ends (R266). -/
theorem exec_pageFetchDone_of_owner {k j place n : Nat} {ht : HTok} {pl : Place} {s : State} (inc : Nat)
    (h : placeOwner (coreOf (cell s k) j) place = some (n, ht, pl)) :
    exec (.pageFetchDone k j place inc) s = .next (fetchDone k j place inc (fetchAccess k ht pl s)) := by
  change execPageFetchDone k j place inc s = _
  simp [execPageFetchDone, h]

/-! ### The other rows of a cell that works -/

/-- The cores in the order of the memory controller's round robin, from the core after the last served (R22). -/
def fetchTurn (v : Cell) : List Nat := (List.range 16).map (fun i => (v.lastFetch + 1 + i) % 16)

/-- The first core of the turn that holds a granted credit (R22). -/
def creditCore (v : Cell) : Option Nat := (fetchTurn v).find? (fun n => (nextCredit (coreOf v n)).isSome)

section
variable {k j : Nat} {s : State} (hw : cellWorks s k = true)
include hw

theorem exec_dispatchAdmit_of_works : exec (.dispatchAdmit k) s = .next (admitTokens k s) := by
  change execDispatchAdmit k s = _
  simp [execDispatchAdmit, hw]

theorem exec_tokenPull_of_next (h : nextCore (cell s k) = some j) : exec (.tokenPull k j) s = .next (pull k j s) := by
  change execTokenPull k j s = _
  simp [execTokenPull, hw, h]

theorem exec_pageFetch_of_credit {i : Nat} {pl : Place} (hi : creditCore (cell s k) = some i)
    (hp : nextCredit (coreOf (cell s k) i) = some pl) :
    exec (.pageFetch k) s = .next (modPlace k i pl.idx (fun p => if p.order = pl.order && p.st = 1 then { p with st := 2 } else p)
      (modCell k (fun v => { v with lastFetch := i }) s)) := by
  unfold creditCore fetchTurn at hi
  change execPageFetch k s = _
  simp only [execPageFetch, hw, hi, hp]
  rfl

/-- No core of the cell holds a credit: the turn goes to a run-ahead fetch (R175). -/
theorem exec_pageFetch_of_noCredit (h : creditCore (cell s k) = none) :
    exec (.pageFetch k) s = .next (runAhead k (fetchTurn (cell s k)) s) := by
  unfold creditCore fetchTurn at h
  change execPageFetch k s = _
  simp only [execPageFetch, hw, h]
  rfl

theorem exec_tokenFinish_of_stale {inc : Nat} (h : inc ≠ (coreOf (cell s k) j).inc) :
    exec (.tokenFinish k j inc) s = .next (dropStale k s) := by
  change execTokenFinish k j inc s = _
  simp [execTokenFinish, dropStale, hw, h]

theorem exec_selectionDone_of_stale {inc : Nat} (h : inc ≠ (coreOf (cell s k) j).inc) :
    exec (.selectionDone k j inc) s = .next (dropStale k s) := by
  change execSelectionDone k j inc s = _
  simp [execSelectionDone, dropStale, hw, h]

section
variable (hc : (coreOf (cell s k) j).st = 0)
include hc

theorem exec_vTileConsumed_of_inService : exec (.vTileConsumed k j) s = .next (consume k j s) := by
  change execVTileConsumed k j s = _
  simp [execVTileConsumed, hw, hc]

theorem exec_tokenFinish_of_inService : exec (.tokenFinish k j (coreOf (cell s k) j).inc) s = .next (finishToken k j s) := by
  change execTokenFinish k j _ s = _
  simp [execTokenFinish, hw, hc]

theorem exec_selectionDone_of_inService : exec (.selectionDone k j (coreOf (cell s k) j).inc) s = .next (select k j s) := by
  change execSelectionDone k j _ s = _
  simp [execSelectionDone, hw, hc]

end

section
variable {r : CellReport} {rest : List CellReport} (hr : (cell s k).reports = r :: rest)
include hr

theorem exec_cellPartialReceive_of_fresh (h : r.inc = (cell s k).inc) :
    exec (.cellPartialReceive k) s = .next (arrive r.ctx r.grp k r.lowPage r.rows (modCell k takeWord s)) := by
  change execCellPartialReceive k s = _
  simp [execCellPartialReceive, hr, hw, h]

theorem exec_cellPartialReceive_of_stale (h : r.inc ≠ (cell s k).inc) :
    exec (.cellPartialReceive k) s = .next (dropStale k (modCell k takeWord s)) := by
  change execCellPartialReceive k s = _
  simp [execCellPartialReceive, dropStale, hr, hw, h]

end
end

/-- Settles O58: each row at a cell that works is its one effect, which the words' incarnations, the credits and the reads of the
fetches decide. -/
theorem cellWork : Obligations.CellWork := by
  unfold Obligations.CellWork
  intro k j s hw
  refine ⟨exec_dispatchAdmit_of_works hw, exec_tokenPull_of_next hw, fun i pl => exec_pageFetch_of_credit hw,
    exec_pageFetch_of_noCredit hw, fun place inc ho => ⟨fun hi => ?stale, fun hi => ?ahead⟩,
    fun place n0 h0 p0 n ht pl ho0 hwa ho => ⟨fun inc hi => ?staleOwned, fun hr hp => ?good, fun hbad => ?bad⟩,
    fun hc => ⟨exec_vTileConsumed_of_inService hw hc, exec_tokenFinish_of_inService hw hc, exec_selectionDone_of_inService hw hc⟩,
    fun inc hi => ⟨exec_tokenFinish_of_stale hw hi, exec_selectionDone_of_stale hw hi⟩,
    fun r rest hr => ⟨exec_cellPartialReceive_of_fresh hw hr, exec_cellPartialReceive_of_stale hw hr⟩⟩
  case stale => exact (exec_pageFetchDone_of_noOwner inc ho).trans (congrArg _ (fetchDone_of_stale hw hi))
  case ahead => exact hi ▸ (exec_pageFetchDone_of_noOwner _ ho).trans (congrArg _ (fetchDone_of_ahead hw ho))
  case staleOwned => exact (exec_pageFetchDone_of_owner inc ho0).trans (congrArg _ (fetchDone_of_stale hwa hi))
  case good => exact (exec_pageFetchDone_of_owner _ ho0).trans (congrArg _ (fetchDone_of_good hwa ho hr hp))
  case bad => exact (exec_pageFetchDone_of_owner _ ho0).trans (congrArg _ (fetchDone_of_bad hwa ho hbad))

end Sys2Proof.Proofs

/-! The refresh rate of a stack (R50): a report of its sensor sets it and leaves the rate of every other stack. -/

namespace Sys2Proof.Proofs

open Sys2Proof Sys2Proof.Machine Sys2Proof.Laws

/-! ### What leaves every refresh rate -/

/-- Which stacks refresh at double rate. -/
def refreshOf (s : State) (j : Nat) : Bool := (cell s j).dblRefresh

theorem refreshOf_of_cells {s t : State} (h : t.cells = s.cells) : refreshOf t = refreshOf s := by
  unfold refreshOf cell
  rw [h]

/-- A loop keeps what each of its rounds keeps. -/
theorem foldl_same {α β : Type} (obs : State → β) {f : State → α → State} (h : ∀ s x, obs (f s x) = obs s) (l : List α) (s : State) :
    obs (l.foldl f s) = obs s :=
  foldl_keep (Q := fun t => obs t = obs s) (fun t x ht => (h t x).trans ht) rfl

/-- A change of a cell that leaves its rate leaves every rate. -/
theorem refreshOf_modCell {c : Nat} {f : Cell → Cell} {s : State} (h : (f (cell s c)).dblRefresh = (cell s c).dblRefresh) :
    refreshOf (modCell c f s) = refreshOf s := by
  funext j
  unfold refreshOf
  by_cases hj : j = c
  · subst hj; rw [cell_modCell, h]
  · rw [cell_modCell_ne f s hj]

/-! ### Events, interrupts and replies touch no cell -/

@[simp] theorem raiseMsi_cells (fn vec : Nat) (s : State) : (raiseMsi fn vec s).cells = s.cells := by
  unfold raiseMsi
  split <;> simp

@[simp] theorem raiseOf_cells (p v w : Nat) (s : State) : (raiseOf p v w s).cells = s.cells := raiseMsi_cells p _ s

@[simp] theorem postEventRing_cells (fn : Nat) (rec : List Byte) (s : State) : (postEventRing fn rec s).cells = s.cells := by
  unfold postEventRing
  dsimp only
  split
  · simp
  · split
    · simp
    · split <;> simp

@[simp] theorem sendMsg_cells (ci : Nat) (m : MsgOut) (s : State) : (sendMsg ci m s).cells = s.cells := rfl

@[simp] theorem deliverEvent_cells (code tp : Nat) (rec : List Byte) (s : State) : (deliverEvent code tp rec s).cells = s.cells := by
  refine foldl_same State.cells (fun t sub => ?_) _ s
  split
  · split
    · simp
    · split <;> simp
  · rfl

@[simp] theorem postEvent_cells (code p tp : Nat) (data : List Byte) (s : State) : (postEvent code p tp data s).cells = s.cells := by
  unfold postEvent
  dsimp only
  split <;> simp

@[simp] theorem handReply_cells (src : Source) (tag p cls : Nat) (notify discard : Bool) (r : Reply) (s : State) :
    (handReply src tag p cls notify discard r s).cells = s.cells := by
  cases src with
  | qp f q => cases discard <;> simp [handReply]
  | conn id =>
    simp only [handReply]
    split
    · split <;> simp
    · simp
  | mctp e => rfl

@[simp] theorem complete_cells (id : Nat) (r : Reply) (s : State) : (complete id r s).cells = s.cells := by
  unfold complete
  split
  · rfl
  · simp

/-! ### The end of a command leaves every rate -/

@[simp] theorem countRequest_cells (c : Cmd) (r : Reply) (s : State) : (countRequest c r s).cells = s.cells := by
  unfold countRequest
  split
  · split <;> rfl
  · rfl

@[simp] theorem dropTable_cells (p id : Nat) (s : State) : (dropTable p id s).cells = s.cells := rfl

@[simp] theorem dropHolds_cells (c : Cmd) (s : State) : (dropHolds c s).cells = s.cells := by
  cases ht : c.tref <;> cases hn : c.scorer <;> simp [dropHolds, modScorer, ht, hn]

@[simp] theorem widenEntry_cells (c : Cmd) (job layer kv : Nat) (cl : Clips) (s : State) :
    (widenEntry c job layer kv cl s).cells = s.cells := by
  unfold widenEntry
  split <;> rfl

@[simp] theorem widenAll_cells (c : Cmd) (s : State) : (widenAll c s).cells = s.cells := by
  unfold widenAll
  split
  · exact foldl_same State.cells (fun t e => widenEntry_cells c _ _ _ _ t) _ s
  · rfl

@[simp] theorem endEdit_cells (c : Cmd) (s : State) : (endEdit c s).cells = s.cells := by
  unfold endEdit
  split <;> rfl

/-- The lookup in a table whose values are all changed. -/
theorem tget?_map {α : Type} (f : α → α) (k : Nat) : ∀ t : Tab α, tget? (t.map (fun e => (e.1, f e.2))) k = (tget? t k).map f
  | [] => rfl
  | (j, v) :: t => by
    by_cases h : j = k <;> simp [tget?, h, tget?_map f k t]

/-- The cell without the lent pages that a reconstruction took. -/
def withoutRecon (i : Nat) (v : Cell) : Cell := { v with lent := v.lent.filter (fun l => l.2.recon != some i) }

@[simp] theorem refreshOf_dropRecon (c : Cmd) (i : Nat) (s : State) : refreshOf (dropRecon c i s) = refreshOf s := by
  unfold dropRecon
  split
  · funext j
    change ((tget? (s.cells.map (fun e => (e.1, withoutRecon i e.2))) j).getD {}).dblRefresh = ((tget? s.cells j).getD {}).dblRefresh
    rw [tget?_map]
    cases tget? s.cells j <;> rfl
  · rfl

@[simp] theorem refreshOf_freeBlock (h : Nat) (s : State) : refreshOf (freeBlock h s) = refreshOf s := refreshOf_modCell rfl

@[simp] theorem refreshOf_dropT1 (h : Nat) (s : State) : refreshOf (dropT1 h s) = refreshOf s := refreshOf_modCell rfl

/-- Freeing a poisoned page may retire its slot (R46), which leaves every rate too. -/
@[simp] theorem refreshOf_freePage (p h : Nat) (s : State) : refreshOf (freePage p h s) = refreshOf s := by
  unfold freePage
  split
  · rfl
  · have table (id : Nat) (t : State) : refreshOf (dropTable p id t) = refreshOf t := refreshOf_of_cells rfl
    have cleared (u : Nat) (t : State) : refreshOf (draw (zeroSlot h u t)).2 = refreshOf t := refreshOf_of_cells (draw_cells _)
    simp [apply_ite refreshOf, refreshOf_modCell, table, cleared]

@[simp] theorem refreshOf_reclaim (p : Nat) (s : State) : refreshOf (reclaim p s) = refreshOf s := by
  unfold reclaim
  dsimp only
  rw [foldl_same refreshOf]
  · rfl
  · intro t r
    cases r.page <;> simp

@[simp] theorem refreshOf_conclude (id : Nat) (r : Reply) (s : State) : refreshOf (conclude id r s) = refreshOf s := by
  unfold conclude
  split
  · rfl
  · rename_i c _
    have ended : (endEdit c (widenAll c (dropHolds c (countRequest c r s)))).cells = s.cells := by simp
    rw [refreshOf_reclaim, refreshOf_of_cells (complete_cells ..)]
    split
    · rw [refreshOf_dropRecon]
      exact refreshOf_of_cells ended
    · exact refreshOf_of_cells ended

/-- A wake may abandon the entry into Drizzle, whose command then ends (R414, R416). -/
@[simp] theorem refreshOf_latchWake (s : State) : refreshOf (latchWake s) = refreshOf s := by
  unfold latchWake abandonDrizzle
  split
  · rfl
  · split
    · exact refreshOf_conclude _ _ _
    · rfl

/-! ### The throttle, the warnings and the trip leave every rate -/

@[simp] theorem refreshOf_modCellPwr (c : Nat) (f : CellPwr → CellPwr) (s : State) : refreshOf (modCellPwr c f s) = refreshOf s :=
  refreshOf_modCell rfl

@[simp] theorem refreshOf_writeVdd (c mv : Nat) (s : State) : refreshOf (writeVdd c mv s) = refreshOf s := by
  unfold writeVdd
  split
  · rfl
  · exact (refreshOf_of_cells (emit_cells _ _)).trans (refreshOf_modCellPwr c _ s)

@[simp] theorem refreshOf_applyClock (c : Nat) (s : State) : refreshOf (applyClock c s) = refreshOf s := by
  unfold applyClock
  dsimp only
  split
  · split
    · simp
    · split
      · simp
      · split <;> simp
  · rfl

@[simp] theorem refreshOf_applyClocks (s : State) : refreshOf (applyClocks s) = refreshOf s :=
  foldl_same refreshOf (fun t c => refreshOf_applyClock c t) _ s

@[simp] theorem announceThrottle_cells (on : Bool) (s : State) : (announceThrottle on s).cells = s.cells := by
  refine foldl_same State.cells (fun t p => ?_) _ s
  cases (part t p).throttleEvt <;> simp

@[simp] theorem refreshOf_setCause (k : Nat) (s : State) : refreshOf (setCause k s) = refreshOf s := by
  unfold setCause
  have woken (f : Pwr → Pwr) : refreshOf (latchWake (modPwr f s)) = refreshOf s :=
    (refreshOf_latchWake _).trans (refreshOf_of_cells (modPwr_cells f s))
  dsimp only
  split
  · exact woken _
  · rw [refreshOf_applyClocks, refreshOf_of_cells (announceThrottle_cells _ _), refreshOf_of_cells (modPwr_cells _ _)]
    exact woken _

@[simp] theorem clearCond_cells (k : Nat) (ok : Bool) (s : State) : (clearCond k ok s).cells = s.cells := by
  unfold clearCond
  split <;> rfl

@[simp] theorem setWarn_cells (over_ : Bool) (s : State) : (setWarn over_ s).cells = s.cells := by
  unfold setWarn
  dsimp only
  split
  · split <;> simp
  · split <;> simp

@[simp] theorem tripThermal_cells (s : State) : (tripThermal s).cells = s.cells := by
  unfold tripThermal assertFault drivePin
  dsimp only
  split
  · rfl
  · split <;> rfl

/-! ### The report of a stack's sensor -/

/-- The refresh rate that a reading asks for, of a stack that had rate `old` (R50). -/
def refreshAt (temp : Nat) (old : Bool) : Bool := if 84 ≤ temp then true else if temp < 82 then false else old

/-- A stack's reading is stored and sets its rate. -/
def readStack (temp : Nat) (v : Cell) : Cell := { v with pwr := { v.pwr with temp := temp }, dblRefresh := refreshAt temp v.dblRefresh }

/-- What a reading does besides: the warning, the throttle's cause or its clear condition, and the trip (R424, R426, R427). -/
def heatAlarms (temp : Nat) (s : State) : State :=
  let warned := if powerSet s 5 ≤ temp then setWarn false s else s
  let hottest := (List.range 24).foldl (fun m c => max m (cell warned c).pwr.temp) 0
  let caused := if 93 ≤ temp then setCause 4 warned else clearCond 4 (decide (hottest < 90)) warned
  if 100 ≤ temp then tripThermal caused else caused

theorem refreshOf_heatAlarms (temp : Nat) (s : State) : refreshOf (heatAlarms temp s) = refreshOf s := by
  have warn (t : State) : refreshOf (setWarn false t) = refreshOf t := refreshOf_of_cells (setWarn_cells _ _)
  have clear (b : Bool) (t : State) : refreshOf (clearCond 4 b t) = refreshOf t := refreshOf_of_cells (clearCond_cells _ _ _)
  have trip (t : State) : refreshOf (tripThermal t) = refreshOf t := refreshOf_of_cells (tripThermal_cells _)
  simp [heatAlarms, apply_ite refreshOf, warn, clear, trip]

theorem exec_stackTempReport_of_sensing {k temp : Nat} {s : State} (hs : sensing s = true) (hk : k < 24) :
    exec (.stackTempReport k temp) s = .next (heatAlarms temp (modCell k (readStack temp) s)) := by
  change execStackTempReport k temp s = _
  have on : ¬(!sensing s || decide (24 ≤ k)) = true := by simp [hs, hk]
  exact congrArg Host.Outcome.next (if_neg on)

/-- The reading sets the rates, and no alarm changes them again. -/
theorem exec_stackTempReport_rates {k temp : Nat} {s : State} (hs : sensing s = true) (hk : k < 24) :
    ∃ t, exec (.stackTempReport k temp) s = .next t ∧ refreshOf t = refreshOf (modCell k (readStack temp) s) :=
  ⟨_, exec_stackTempReport_of_sensing hs hk, refreshOf_heatAlarms temp _⟩

/-- Settles O40: of the rates a report changes the stack's own alone, by the thresholds of R50. -/
theorem refreshRate : Obligations.RefreshRate := by
  unfold Obligations.RefreshRate
  intro k temp s hs hk
  obtain ⟨t, ht, rates⟩ := exec_stackTempReport_rates (temp := temp) hs hk
  have own : (cell t k).dblRefresh = refreshAt temp (cell s k).dblRefresh :=
    (congrFun rates k).trans (by simp [refreshOf, readStack])
  refine ⟨t, ht, fun hot => ?hot, fun cool => ?cool, fun low high => ?between, fun j hj => ?others⟩
  case hot => simp [own, refreshAt, hot]
  case cool => simp [own, refreshAt, cool, show ¬84 ≤ temp by omega]
  case between => simp [own, refreshAt, show ¬84 ≤ temp by omega, show ¬temp < 82 by omega]
  case others => exact (congrFun rates j).trans (congrArg Cell.dblRefresh (cell_modCell_ne _ s hj))

end Sys2Proof.Proofs

/-! The pool's own work and the patrol scrub (R43, R47, R48, R72, R84, R86, R230, R490). -/

namespace Sys2Proof.Proofs

open Sys2Proof Sys2Proof.Machine Sys2Proof.Laws

/-! ### The pool of a partition that runs -/

/-- A sweep makes every page and lend of a cell one period older and counts its reads anew (R84, R88). -/
def ageCell (v : Cell) : Cell := { v with
  pages := v.pages.map (fun e => (e.1, { e.2 with age := satAdd 255 e.2.age 1, reads := 0 }))
  lends := v.lends.map (fun e => (e.1, { e.2 with age := satAdd 255 e.2.age 1 })) }

/-- The sweep of a partition's cells. -/
def ageCells (p : Nat) (s : State) : State := (partCells s p).foldl (fun s c => modCell c ageCell s) s

/-- SEQ_AGE of each sequence after the sweep of the cells: its least page's, or its own one period older while it has no page (R84). -/
def sweptAges (p : Nat) (s : State) : Tab Nat :=
  (part s p).seqs.map (fun e => (e.1, if e.2.map.isEmpty then satAdd 255 e.2.age 1 else leastAge s e.2))

/-- A second of a cell's use metered: of its pages, then of the pages it holds for other nodes (R230). -/
def meterCell (p c : Nat) (s : State) : State :=
  let pages := (cell s c).pages.foldl (fun s e => meter p e.2.r.job (fun m => { m with pageS := sat64 m.pageS (slotUnits e.2.cls) }) s) s
  (cell pages c).lent.foldl (fun s e => meter p e.2.job (fun m => { m with lendPageS := sat64 m.lendPageS (slotUnits e.2.cls) }) s) pages

section
variable {p : Nat} {s : State} (hr : partRuns s p = true)
include hr

theorem exec_epochAdvance_of_due (hd : (part s p).epsAt + 10 ≤ now s) : exec (.epochAdvance p) s =
    .next (reclaim p (modPart p (fun v => { v with eps := (v.eps + 1) % 2 ^ 64, epsAt := now s }) s)) := by
  change execEpochAdvance p s = _
  simp [execEpochAdvance, hr, hd]

theorem exec_clockSweep_of_due (hd : (part s p).sweepAt + 1000 * (part s p).pool.sweepMs ≤ now s) :
    let u := ageCells p s
    exec (.clockSweep p) s = .next (modPart p (fun v => { v with
      seqs := v.seqs.map (fun e => (e.1, { e.2 with age := tget e.2.age (sweptAges p u) e.1 })), sweepAt := now u }) u) := by
  change execClockSweep p s = _
  have due : ¬(!partRuns s p || decide (now s < (part s p).sweepAt + 1000 * (part s p).pool.sweepMs)) = true := by simp [hr, hd]
  exact congrArg Host.Outcome.next (if_neg due)

/-- Below the high watermark, projected level included, the oldest sequence that may go is evicted (R86). -/
theorem exec_eviction_of_oldest {key : Nat} {q : Seq} (hc : (poolCells s p).isEmpty = false)
    (hl : poolLevel s p < (part s p).pool.highWm) (hp : projectedLevel s p < (part s p).pool.highWm)
    (hm : maxBy (fun e => leastAge s e.2) ((part s p).seqs.filter (fun e => evictable s p e.2)) = some (key, q)) :
    exec (.eviction p) s = .next (postEvent 0 p p (toLe 4 q.job ++ toLe 6 q.seq) (destroySeq p key s)) := by
  change execEviction p s = _
  simp [execEviction, hr, hc, hl, hp, hm]

/-- What POOL_STAT shows: a mark counts only while a cell of the pool is up (R490). -/
theorem exec_poolStatUpdate_of_runs :
    let below (mark : Nat) : Bool := !(poolCells s p).isEmpty && decide (poolLevel s p < mark)
    exec (.poolStatUpdate p) s = .next (modPart p (fun v => { v with stat := {
      level := poolLevel s p, evicting := below (part s p).pool.highWm, admitStop := below (part s p).pool.lowWm
      allocStop := below (part s p).pool.hardFloor, freeUnits := min (2 ^ 32 - 1) (freeUnits s p) } }) s) := by
  change execPoolStatUpdate p s = _
  simp [execPoolStatUpdate, hr]

theorem exec_meteringSecond_of_runs :
    exec (.meteringSecond p) s = .next ((partCells s p).foldl (fun s c => meterCell p c s) s) := by
  change execMeteringSecond p s = _
  simp [execMeteringSecond, meterCell, hr]

end

/-! ### The patrol scrub of a cell whose stack works -/

section
variable {k : Nat} {s : State} (hw : scrubRuns s k = true)
include hw

theorem exec_scrubGranule_of_next {g : Nat} (raced : Bool) (hg : scrubNext s k = some g) :
    exec (.scrubGranule k raced) s = .next (scrubAt k g raced (modCell k (fun v => { v with scrubPos := g + 1 }) s)) := by
  change execScrubGranule k raced s = _
  simp [execScrubGranule, hw, hg]

theorem exec_scrubGranule_of_end (raced : Bool) (hg : scrubNext s k = none) :
    exec (.scrubGranule k raced) s = .next (modCell k (fun v => { v with scrubPos := 0, scrubLap := true }) s) := by
  change execScrubGranule k raced s = _
  simp [execScrubGranule, hw, hg]

theorem exec_scrubRewrite_of_head {g : Nat} {rest : List Nat} (hq : (cell s k).rewriteQ = g :: rest) :
    exec (.scrubRewrite k) s = .next (rewriteGran k g (modCell k (fun v => { v with rewriteQ := rest }) s)) := by
  change execScrubRewrite k s = _
  simp [execScrubRewrite, hw, hq]

end

/-! ### The granule at each place of the rewrite queue -/

section
variable {c g : Nat} {s : State}

theorem rewriteGran_of_page (h : g < 2 ^ 40) :
    rewriteGran c g s = setGran g { gran s g with cls := rewritten (gran s g).cls } s := by
  rw [rewriteGran, if_pos h]

theorem rewriteGran_of_meta (h : 2 ^ 40 ≤ g) (h' : g < 2 ^ 41) :
    rewriteGran c g s = setMeta c (g - 2 ^ 40) (rewritten (metaClsOf (cell s c) (g - 2 ^ 40))) s := by
  rw [rewriteGran, if_neg (by omega), if_pos h']

theorem rewriteGran_of_lent (h : 2 ^ 41 ≤ g) (h' : g < 2 ^ 42) :
    let i := g - 2 ^ 41
    rewriteGran c g s = modCell c (fun v => { v with lent := tmod v.lent (i / 512) (fun x => { x with
      grans := tmod x.grans (i % 512) (fun y => { y with cls := rewritten y.cls }) }) }) s := by
  rw [rewriteGran, if_neg (by omega), if_neg (by omega), if_pos h']

theorem rewriteGran_of_shadow (h : 2 ^ 42 ≤ g) (h' : g < 2 ^ 43) :
    let j := 2 * (g - 2 ^ 42)
    rewriteGran c g s = modCell c (fun v => { v with
      shadow := [j, j + 1].foldl (fun t e => tmod t e (fun x => { x with cls := rewritten x.cls })) v.shadow }) s := by
  rw [rewriteGran, if_neg (by omega), if_neg (by omega), if_neg (by omega), if_pos h']

theorem rewriteGran_of_lentRec (h : 2 ^ 43 ≤ g) :
    let n := g - 2 ^ 43
    rewriteGran c g s = modCell c (fun v => { v with
      lent := tmod v.lent (n / 32) (fun x => { x with recCls := tmod x.recCls (n % 32) rewritten }) }) s := by
  rw [rewriteGran, if_neg (by omega), if_neg (by omega), if_neg (by omega), if_neg (by omega)]

end

/-- No corrected word is left where a granule was rewritten (R43). -/
theorem rewritten_not_corrected {cls : List Nat} {x : Nat} (hx : x ∈ rewritten cls) : x ≠ 1 ∧ x ≠ 2 := by
  unfold rewritten at hx
  dsimp only at hx
  split at hx
  · nomatch hx
  · obtain ⟨y, -, rfl⟩ := List.mem_map.mp hx
    by_cases hy : y = 1 ∨ y = 2
    · simp [hy]
    · rw [not_or] at hy
      simp [hy]

/-- Settles O57: each row's one effect, and the five regions of the rewrite queue. -/
theorem poolWork : Obligations.PoolWork := by
  unfold Obligations.PoolWork
  refine ⟨fun p s hr => ⟨exec_epochAdvance_of_due hr, exec_clockSweep_of_due hr, fun key q => exec_eviction_of_oldest hr, ?stat,
      exec_meteringSecond_of_runs hr⟩,
    fun k s hw => ⟨fun raced => ⟨fun g => exec_scrubGranule_of_next hw raced, exec_scrubGranule_of_end hw raced⟩, fun g rest hq => ?rewrite,
      fun cls x => rewritten_not_corrected⟩⟩
  case stat =>
    refine ⟨_, exec_poolStatUpdate_of_runs hr, ?_, fun hc => ?_⟩
    · simp
    · simp [hc]
  case rewrite =>
    exact ⟨_, exec_scrubRewrite_of_head hw hq, rewriteGran_of_page, rewriteGran_of_meta, rewriteGran_of_lent, rewriteGran_of_shadow,
      rewriteGran_of_lentRec⟩

end Sys2Proof.Proofs

/-! Page handles and block handles as numbers in mixed radix (R60, R61). -/

namespace Sys2Proof.Proofs

open Sys2Proof Sys2Proof.Machine

/-! ### The fields of a handle (R60, R61) -/

section
variable {cell slot cls : Nat} (hs : slot < 2 ^ 24) (hc : cls < 4)
include hs hc

theorem mkHandle_lt (hcell : cell < 32) : mkHandle cell slot cls < 2 ^ 32 := by
  unfold mkHandle
  omega

theorem hCell_mkHandle (hcell : cell < 32) : hCell (mkHandle cell slot cls) = cell := by
  unfold hCell bitsOf mkHandle
  omega

theorem hSlot_mkHandle : hSlot (mkHandle cell slot cls) = slot := by
  unfold hSlot bitsOf mkHandle
  omega

end

theorem hCls_mkHandle {cls : Nat} (cell slot : Nat) (hc : cls < 4) : hCls (mkHandle cell slot cls) = cls := by
  unfold hCls bitsOf mkHandle
  omega

theorem mkHandle_valid (cell slot cls : Nat) : mkHandle cell slot cls % 2 = 1 := by
  unfold mkHandle
  omega

/-- A handle is a lend stub where its class says so. -/
theorem isStub_of_valid {h : Nat} (hv : h % 2 = 1) : isStub h = decide (hCls h = 3) := by
  rw [Bool.eq_iff_iff]
  simp [isStub, bitOf, hv]

/-- Settles O8: a handle is a number in mixed radix, whose digits are its fields. -/
theorem handles : Obligations.Handles := by
  unfold Obligations.Handles
  intro cell slot cls blk hcell hslot hcls hblk
  have hlt := mkHandle_lt hslot hcls hcell
  have hC := hCell_mkHandle hslot hcls hcell
  have hS := hSlot_mkHandle (cell := cell) hslot hcls
  have hK := hCls_mkHandle cell slot hcls
  have hV := mkHandle_valid cell slot cls
  refine ⟨hlt, ?_, hS, hK, hV, hC, hS, hK, by rw [isStub_of_valid hV, hK], ?_, ?_, ?_, ?_, rfl, rfl⟩
  · unfold mkHandle
    omega
  all_goals
    unfold mkBlock
    omega

end Sys2Proof.Proofs

/-! Striped placement: where a sequence's pages and blocks are sought first, and how evenly (R75). -/

namespace Sys2Proof.Proofs

open Sys2Proof Sys2Proof.Machine

/-! ### Rotated cells (R75) -/

/-- A rotated list begins at the rotation's place. -/
theorem head?_rotate (l : List Nat) (i : Nat) : (rotate l i).head? = l[i % l.length]? := by
  cases l with
  | nil => simp [rotate]
  | cons c l =>
    have hi : i % (c :: l).length < (c :: l).length := Nat.mod_lt _ (by simp)
    have hm : max 1 (c :: l).length = (c :: l).length := max_eq_right (by simp)
    rw [rotate, hm, List.head?_append, List.head?_drop, List.getElem?_eq_getElem hi]
    rfl

/-- Where no cell is off, what rotates to a cell is sought there first. -/
theorem head?_filter_rotate {s : State} {l : List Nat} (hl : ∀ k ∈ l, cellUp s k = true) (i : Nat) :
    ((rotate l i).filter (cellUp s)).head? = l[i % l.length]? := by
  have hr : ∀ k ∈ rotate l i, cellUp s k = true := by
    intro k hk
    rcases List.mem_append.mp hk with hd | ht
    · exact hl k (List.mem_of_mem_drop hd)
    · exact hl k (List.mem_of_mem_take ht)
  rw [List.filter_eq_self.mpr hr, head?_rotate]

theorem partCells_sorted (s : State) (p : Nat) : (partCells s p).Pairwise (· < ·) :=
  (List.pairwise_lt_range).filter _

theorem length_partCells_le (s : State) (p : Nat) : (partCells s p).length ≤ 24 := by
  have := List.length_filter_le (bitOf (part s p).mask) (List.range 24)
  rwa [List.length_range] at this

section
variable {s : State} {p : Nat} (hup : ∀ k ∈ partCells s p, cellUp s k = true)
include hup

/-- A striped page's cell turns with its index, whatever its layer and KV head. -/
theorem head?_pageCells_of_striped {q : Seq} (hq : q.placement = 0) (layer kv page : Nat) :
    (pageCells s p q layer kv page).head? = (partCells s p)[(page + q.hash) % (partCells s p).length]? := by
  rw [pageCells, if_neg (by simp [hq]), head?_filter_rotate hup]

theorem head?_blockCells_root (q : Seq) :
    (blockCells s p q 0).head? = (partCells s p)[q.hash % (partCells s p).length]? := by
  simp only [blockCells, if_true, head?_filter_rotate hup]

theorem head?_blockCells_layer (q : Seq) {l : Nat} (hl : l < 1023) :
    (blockCells s p q (1 + l)).head? = (partCells s p)[(q.hash + l) % (partCells s p).length]? := by
  have hk : 1 + l ≠ 0 ∧ 1 + l < 1024 ∧ 1 + l - 1 = l := by omega
  simp only [blockCells, hk, if_true, if_false, head?_filter_rotate hup]

theorem head?_blockCells_map (q : Seq) (l : Nat) {j k : Nat} (hj : j < 64) (hk : k < 64) :
    (blockCells s p q (1024 + 64 * (64 * l + j) + k)).head? =
      (partCells s p)[(q.hash + l + j + k) % (partCells s p).length]? := by
  generalize hx : 1024 + 64 * (64 * l + j) + k = x
  have hkey : x ≠ 0 ∧ ¬x < 1024 ∧ (x - 1024) / 64 / 64 = l ∧ (x - 1024) / 64 % 64 = j ∧ (x - 1024) % 64 = k := by omega
  simp only [blockCells, hkey, if_false, head?_filter_rotate hup]

end

/-! ### The balance of a range of pages -/

/-- Numbers of a range that meet a residue are those congruent to one fixed number. -/
theorem add_mod_eq_iff_modEq {n i : Nat} (hi : i < n) (a k : Nat) : (a + k) % n = i ↔ k ≡ i + (n - a % n) [MOD n] := by
  have hn : 0 < n := by omega
  have ha : a + (n - a % n) ≡ 0 [MOD n] := by
    have h : a + (n - a % n) = n * (a / n + 1) := by
      have := Nat.div_add_mod a n
      have := Nat.mod_lt a hn
      rw [Nat.mul_add]
      omega
    rw [h]
    exact (Nat.modEq_zero_iff_dvd).mpr (dvd_mul_right _ _)
  have hk : a + k + (n - a % n) ≡ k [MOD n] := by
    have := ha.add_right k
    rwa [Nat.zero_add, Nat.add_right_comm] at this
  calc (a + k) % n = i
    _ ↔ a + k ≡ i [MOD n] := by rw [Nat.ModEq, Nat.mod_eq_of_lt hi]
    _ ↔ a + k + (n - a % n) ≡ i + (n - a % n) [MOD n] :=
      ⟨fun h => h.add_right _, fun h => Nat.ModEq.add_right_cancel' _ h⟩
    _ ↔ k ≡ i + (n - a % n) [MOD n] := ⟨hk.symm.trans, hk.trans⟩

/-- How many of `m` consecutive numbers from `a` meet a residue of `n`. -/
def residueCount (n i a m : Nat) : Nat := ((List.range m).filter (fun k => decide ((a + k) % n = i))).length

/-- Each residue is met by the quotient or by one more. -/
theorem residueCount_eq {n i : Nat} (hi : i < n) (a m : Nat) :
    residueCount n i a m = m / n + if (i + (n - a % n)) % n < m % n then 1 else 0 := by
  rw [← Nat.count_modEq_card m (by omega : 0 < n), Nat.count, List.countP_eq_length_filter, residueCount]
  simp only [add_mod_eq_iff_modEq hi]

theorem residueCount_le_succ {n i j : Nat} (hi : i < n) (hj : j < n) (a m : Nat) :
    residueCount n i a m ≤ residueCount n j a m + 1 := by
  rw [residueCount_eq hi, residueCount_eq hj]
  split <;> omega

theorem residueCount_pos {n i m : Nat} (hi : i < n) (hm : n ≤ m) (a : Nat) : 1 ≤ residueCount n i a m := by
  have := Nat.div_pos hm (by omega)
  rw [residueCount_eq hi]
  omega

/-- The pages of a range in the cell at place `i` are those that meet its residue. -/
theorem count_pageCells_of_striped {s : State} {p : Nat} {q : Seq} (hup : ∀ k ∈ partCells s p, cellUp s k = true)
    (hq : q.placement = 0) {i : Nat} (hi : i < (partCells s p).length) (layer kv lo m : Nat) :
    ((List.range m).filter (fun k => decide ((pageCells s p q layer kv (lo + k)).head? = some (partCells s p)[i]))).length =
      residueCount (partCells s p).length i (lo + q.hash) m := by
  have hcell (k : Nat) : (pageCells s p q layer kv (lo + k)).head? = some (partCells s p)[i] ↔
      (lo + q.hash + k) % (partCells s p).length = i := by
    have hlt : (lo + k + q.hash) % (partCells s p).length < (partCells s p).length := Nat.mod_lt _ (by omega)
    have hnd : (partCells s p).Nodup := (partCells_sorted s p).imp Nat.ne_of_lt
    rw [head?_pageCells_of_striped hup hq, List.getElem?_eq_getElem hlt, Option.some_inj, hnd.getElem_inj_iff, Nat.add_right_comm]
  simp only [residueCount, hcell]

/-- Settles O18: a list rotated by an offset begins at the offset's residue, and each residue is met equally often to within one. -/
theorem striping : Obligations.Striping := by
  unfold Obligations.Striping
  refine ⟨fun b => rfl, fun s p q hn hup hq => ⟨partCells_sorted s p, head?_pageCells_of_striped hup hq, head?_blockCells_root hup q,
    fun l hl => head?_blockCells_layer hup q hl, fun l j k hj hk => head?_blockCells_map hup q l hj hk, fun layer kv lo m => ⟨?_, ?_⟩⟩⟩
  · intro c hc d hd
    obtain ⟨i, hi, rfl⟩ := List.getElem_of_mem hc
    obtain ⟨j, hj, rfl⟩ := List.getElem_of_mem hd
    simp only [count_pageCells_of_striped hup hq hi, count_pageCells_of_striped hup hq hj]
    exact residueCount_le_succ hi hj _ m
  · intro hm c hc
    obtain ⟨i, hi, rfl⟩ := List.getElem_of_mem hc
    simp only [count_pageCells_of_striped hup hq hi]
    exact residueCount_pos hi (by have := length_partCells_le s p; omega) _

end Sys2Proof.Proofs

/-! SEQ_DESTROY, POOL_SET, FORMAT_TABLE_LOAD and PAGE_PIN in their turn (R82, R83, R89, R122, R123, R319). -/

namespace Sys2Proof.Proofs

open Sys2Proof Sys2Proof.Machine Sys2Proof.Laws

/-! ### SEQ_DESTROY and POOL_SET -/

/-- A sequence with no edit before its SEQ_DESTROY is destroyed (R71, R82). -/
theorem cmdSeqDestroy_of_free {id : Nat} {c : Cmd} {t : State} {q : Seq} (hq : seqOf t c.part (blockSeq c.block) = some q)
    (hb : blockIs c 10 = true) (hcode : codedHere t c.part q.job q.seq = false) (hturn : mustQueue q c = false) :
    cmdSeqDestroy id c t = (destroySeq c.part (blockSeq c.block) t, some (okRet [])) := by
  simp [cmdSeqDestroy, hq, hb, hcode, hturn]

/-- The settings of a POOL_SET that names no job (R83, R319). -/
def poolArgs (b : List Byte) : PoolCfg :=
  { highWm := u16 b 0, lowWm := u16 b 2, hardFloor := u16 b 4, sweepMs := u32 b 8
    minEvictAge := u8 b 0xC, t1Promote := u8 b 0xD, lendAccept := u8 b 0xE == 1, lendJobs := [] }

/-- The ranges of R83 and R319 for a POOL_SET that names no job. -/
structure PoolArgsOk (b : List Byte) : Prop where
  length : b.length = 0x50
  reserved : u16 b 6 = 0
  highLo : 2 ≤ u16 b 0
  highHi : u16 b 0 ≤ 500
  lowLo : 1 ≤ u16 b 2
  lowHigh : u16 b 2 < u16 b 0
  floorLow : u16 b 4 < u16 b 2
  sweepLo : 10 ≤ u32 b 8
  sweepHi : u32 b 8 ≤ 60000
  age : u8 b 0xC ≠ 0
  accept : u8 b 0xE ≤ 1
  jobs : u8 b 0xF = 0

theorem cmdPoolSet_of_ok {id : Nat} {c : Cmd} {t : State} (h : PoolArgsOk c.block) :
    cmdPoolSet id c t = (modPart c.part (fun q => { q with pool := poolArgs c.block }) t, some (okRet [])) := by
  obtain ⟨hlen, hres, h1, h2, h3, h4, h5, h6, h7, h8, h9, h10⟩ := h
  have hlow : ¬499 < u16 c.block 2 ∧ ¬498 < u16 c.block 4 := by omega
  simp [cmdPoolSet, poolArgs, hlen, hres, h4, h5, h8, h10, hlow, Nat.not_lt.mpr h1, Nat.not_lt.mpr h2, Nat.not_lt.mpr h3,
    Nat.not_lt.mpr h6, Nat.not_lt.mpr h7, Nat.not_lt.mpr h9]

/-! ### FORMAT_TABLE_LOAD -/

/-- The state with a decode table in its slot, under the next tag (R122, R123). -/
def loadTable (p i : Nat) (b : List Byte) (t : State) : State :=
  modTable p i (fun x => { x with loaded := true, bytes := b, loadCount := (x.loadCount + 1) % 65536, zeroAt := t.node.nextTag })
    (modNode (fun n => { n with nextTag := n.nextTag + 1 }) t)

/-- What the slot holds after the load. -/
theorem tables_loadTable (p i : Nat) (b : List Byte) (t : State) :
    tget {} (part (loadTable p i b t) p).tables i =
      { tget {} (part t p).tables i with
        loaded := true, bytes := b, loadCount := ((tget {} (part t p).tables i).loadCount + 1) % 65536, zeroAt := t.node.nextTag } := by
  simp only [loadTable, modTable, part_modPart, tget_tset_self]
  rfl

theorem cmdFormatTableLoad_of_slot {id i : Nat} {c : Cmd} {t : State} (hb : tableOk c.block = true) (hi : loadSlot t c.part = some i) :
    cmdFormatTableLoad id c t = (loadTable c.part i c.block t, some (okRet ([BitVec.ofNat 8 i, 0] ++
      toLe 2 (tget {} (part (loadTable c.part i c.block t) c.part).tables i).loadCount))) := by
  simp only [cmdFormatTableLoad, hb, hi, Bool.not_true, Bool.false_eq_true, if_false]
  rfl

/-! ### PAGE_PIN -/

/-- The mapped positions of a PAGE_PIN's range. -/
def pinPos (q : Seq) (b : List Byte) : List Nat := (rangePos (rangeArg b)).filter (fun k => isPage (handleAt q k))

/-- A PAGE_PIN of a range that holds a page, with every count below its limit, pins each page once (R89). -/
theorem cmdPagePin_of_room {id : Nat} {c : Cmd} {t : State} {q : Seq} (hq : seqOf t c.part (rangeArg c.block).key = some q)
    (hlen : c.block.length = 0x21) (hr : rangeOk q c.block false = true) (hfl : u8 c.block 0x20 < 4)
    (hpin : bitOf (u8 c.block 0x20) 0 = false) (hcount : q.pinCount < 0xFFFF)
    (hfull : ∀ k ∈ rangePos (rangeArg c.block), isPage (handleAt q k) = true → ∀ g, pageOf t (handleAt q k) = some g →
      g.pins ≠ 0xFFFF ∧ (bitOf (u8 c.block 0x20) 1 = true → g.t1Holds ≠ 0xFFFF))
    (hpos : pinPos q c.block ≠ [])
    (ht1 : bitOf (u8 c.block 0x20) 1 = true → ∀ k ∈ partCells t c.part,
      t1Pinned t k ((pinPos q c.block).map (handleAt q)) ≤ 4 * 2 ^ 20) :
    cmdPagePin id c t = (modSeq c.part (rangeArg c.block).key (fun v => { v with
        pinCount := q.pinCount + 1, pins := v.pins ++ [{ t1 := bitOf (u8 c.block 0x20) 1, pos := pinPos q c.block }] })
      (((pinPos q c.block).map (handleAt q)).foldl (fun s h => pinPage h (bitOf (u8 c.block 0x20) 1) s) t),
      some (okRet (toLe 4 (pinPos q c.block).length ++ toLe 2 (q.pinCount + 1)))) := by
  have hroom : ∀ h ∈ (pinPos q c.block).map (handleAt q),
      (pageOf t h).elim false (fun g => g.pins == 0xFFFF || (bitOf (u8 c.block 0x20) 1 && g.t1Holds == 0xFFFF)) = false := by
    intro h hh
    obtain ⟨k, hk, rfl⟩ := List.mem_map.mp hh
    obtain ⟨hk, hp⟩ := List.mem_filter.mp hk
    cases hg : pageOf t (handleAt q k) with
    | none => rfl
    | some g =>
      obtain ⟨h1, h2⟩ := hfull k hk hp g hg
      simpa [h1] using h2
  have hspace : (bitOf (u8 c.block 0x20) 1 && (partCells t c.part).any (fun k =>
      decide (4 * 2 ^ 20 < t1Pinned t k ((pinPos q c.block).map (handleAt q))))) = false := by
    simpa using ht1
  have hempty : (pinPos q c.block).isEmpty = false := by simpa using hpos
  have hbusy : (decide (q.pinCount = 0xFFFF) || ((pinPos q c.block).map (handleAt q)).any (fun h =>
      (pageOf t h).elim false (fun g => g.pins == 0xFFFF || (bitOf (u8 c.block 0x20) 1 && g.t1Holds == 0xFFFF))) ||
      (bitOf (u8 c.block 0x20) 1 && (partCells t c.part).any (fun k =>
        decide (4 * 2 ^ 20 < t1Pinned t k ((pinPos q c.block).map (handleAt q)))))) = false := by
    rw [hspace, List.any_eq_false.mpr (fun h hh => by simp [hroom h hh])]
    simpa using Nat.ne_of_lt hcount
  unfold pinPos at *
  simp only [cmdPagePin, hq, hlen, hr, Nat.not_le.mpr hfl, hpin, hbusy, hempty, ne_eq, not_true_eq_false, decide_false, Bool.not_true,
    Bool.or_self, Bool.false_eq_true, if_false]

/-- Settles O20: each of the four commands passes its checks, and its meaning then is the effect that the statement names. -/
theorem sequenceCommands : Obligations.SequenceCommands := by
  unfold Obligations.SequenceCommands
  intro src pkt s t id c
  refine ⟨fun q hb hq hblk hcode hturn => ?_, fun hb h1 h2 h3 h4 h5 h6 h7 h8 h9 h10 h11 h12 _ => ?_, fun i hb hok hi => ?_, ?_⟩
  · exact row_reply cmdSeqDestroy hb rfl (cmdSeqDestroy_of_free hq hblk hcode hturn)
  · exact row_reply cmdPoolSet hb rfl (cmdPoolSet_of_ok ⟨h1, h2, h3, h4, h5, h6, h7, h8, h9, h10, h11, h12⟩)
  · refine ⟨loadTable c.part i c.block t, _, row_reply cmdFormatTableLoad hb rfl (cmdFormatTableLoad_of_slot hok hi), ?_⟩
    simp [tables_loadTable]
  · intro q hb hq hlen hr hfl hpin hcount t1 hfull pos hpos ht1
    have hn : (seqOf t c.part (rangeArg c.block).key).elim 0 (·.pinCount) = q.pinCount := by rw [hq]; rfl
    rw [hn]
    exact row_reply cmdPagePin hb rfl (cmdPagePin_of_room hq hlen hr hfl hpin hcount hfull hpos ht1)

end Sys2Proof.Proofs

/-! Edits of a sequence's map that R71 lets begin (R71, R73, R90, R91, R93, R317, R318). -/

namespace Sys2Proof.Proofs

open Sys2Proof Sys2Proof.Machine Sys2Proof.Laws

/-! ### PAGE_SHARE (R78) -/

/-- The positions of a range at which a sequence maps a page. -/
def mappedIn (q : Seq) (a : RangeArg) : List Nat := (rangePos a).filter (fun k => isPage (handleAt q k))

/-- The target of a PAGE_SHARE with the source's handles and lengths. -/
def shareTarget (a : RangeArg) (q tq : Seq) : Seq :=
  { tq with
    map := (mappedIn q a).foldl (fun m k => tset m k (handleAt q k)) tq.map
    len := (List.range a.count).foldl (fun l i =>
      tset l (a.first + i) (max (seqLen tq (a.first + i)) (min (seqLen q (a.first + i)) (64 * (a.page + a.pages))))) tq.len
    age := if (mappedIn q a).isEmpty then tq.age else 0 }

/-- The state with one more reference on each page that is shared. -/
def shareRefs (a : RangeArg) (q : Seq) (s : State) : State :=
  (mappedIn q a).foldl (fun s k => modPage (handleAt q k) (fun g => { g with
    refs := g.refs + 1, age := 0
    r := { g.r with shared := true, gen := if g.r.shared then g.r.gen else (g.r.gen + 1) % 2 ^ 32 } }) s) s

/-- What PAGE_SHARE asks of its source and its target (R78, R317). -/
structure Shares (c : Cmd) (q tq : Seq) : Prop where
  length : c.block.length = 0x2A
  range : rangeOk q c.block false = true
  layers : (rangeArg c.block).first + (rangeArg c.block).count ≤ tq.layers
  kvs : (rangeArg c.block).kvs.all (· < tq.kvHeads) = true
  format : q.format = tq.format
  dim : q.dim = tq.dim
  cls : q.cls = tq.cls
  scaling : q.scaling = tq.scaling
  holes : ∀ k ∈ rangePos (rangeArg c.block), handleAt tq k = 0 ∧ isStub (handleAt q k) = false

/-- No page of the list has as many references as a page can have. -/
theorem no_full_refs {s : State} {q : Seq} {l : List Nat}
    (h : ∀ k ∈ l, ∀ g, pageOf s (handleAt q k) = some g → g.refs ≠ 16777215) :
    l.any (fun k => (pageOf s (handleAt q k)).elim false (fun g => g.refs == 16777215)) = false := by
  rw [List.any_eq_false]
  intro k hk
  cases hg : pageOf s (handleAt q k) with
  | none => simp
  | some g => simpa using h k hk g hg

theorem cmdPageShare_of_turn {id : Nat} {c : Cmd} {t u : State} {q tq tq' : Seq}
    (hq : seqOf t c.part (rangeArg c.block).key = some q) (htq : seqOf t c.part (blockSeq c.block 0x20) = some tq)
    (hsh : Shares c q tq) (hturn : mustQueue tq c = false) (hgen : genConflict c tq 4 = none)
    (hcode : codedIn t c.part tq.job tq.seq (rangeArg c.block).page
      ((rangeArg c.block).page + (rangeArg c.block).pages - 1) = false)
    (hrefs : ∀ k ∈ mappedIn q (rangeArg c.block), ∀ g, pageOf t (handleAt q k) = some g → g.refs ≠ 16777215)
    (hrecl : reclFull t c.part (editItems t tq (mappedIn q (rangeArg c.block)) []) = false)
    (hcells : (poolCells t c.part).isEmpty = false)
    (hswap : editSwap c.part (shareTarget (rangeArg c.block) q tq) (mappedIn q (rangeArg c.block)) t = some (tq', u)) :
    cmdPageShare id c t = (reclaim c.part (modSeq c.part (rangeArg c.block).key
        (fun q' => { q' with prefixed := true, age := if (mappedIn q (rangeArg c.block)).isEmpty then q'.age else 0 })
        (setSeq c.part (blockSeq c.block 0x20) tq' (shareRefs (rangeArg c.block) q u))),
      some (okRet (toLe 4 (mappedIn q (rangeArg c.block)).length ++ toLe 4 tq'.gen))) := by
  obtain ⟨hlen, hr, hlay, hkvs, hfmt, hdim, hcls, hscal, hholes⟩ := hsh
  have hempty : (rangePos (rangeArg c.block)).any (fun k => decide (handleAt tq k ≠ 0)) = false := by
    simpa using fun k hk => (hholes k hk).1
  have hstubs : (rangePos (rangeArg c.block)).any (fun k => isStub (handleAt q k)) = false := by
    simpa using fun k hk => (hholes k hk).2
  have hfull := no_full_refs hrefs
  unfold shareTarget at hswap
  unfold mappedIn at *
  simp only [cmdPageShare, shareRefs, mappedIn, hq, htq, hlen, hr, hlay, hkvs, hfmt, hdim, hcls, hscal, hempty, hstubs, hfull, hturn, hgen, hcode,
    hrecl, hcells, hswap, ne_eq, not_true_eq_false, decide_true, decide_false, Bool.and_self, Bool.not_true, Bool.or_self,
    Bool.false_eq_true, if_false]

/-! ### PAGE_MIGRATE (R90, R121) -/

/-- A page stays where it is in the target cell and keeps its modes. -/
def migrateStays (t : State) (b : List Byte) (h : Nat) : Bool :=
  hCell h == u8 b 0x20 && (pageOf t h).elim true (fun g => keepsModes g.r b)

/-- The positions of a PAGE_MIGRATE whose pages do not stay. -/
def migrateTodo (t : State) (b : List Byte) (q : Seq) : List Nat :=
  ((rangePos (rangeArg b)).filter (fun k => handleAt q k ≠ 0)).filter (fun k => !migrateStays t b (handleAt q k))

/-- What lets a PAGE_MIGRATE begin (R90, R121, R192, R228). -/
structure Migrates (c : Cmd) (t : State) (q : Seq) : Prop where
  found : seqOf t c.part (rangeArg c.block).key = some q
  cell : u8 c.block 0x20 ∈ partCells t c.part
  ok : migrateOk q c = true
  turn : mustQueue q c = false
  gen : genConflict c q 4 = none
  table : tableCheck t c q.format (u8 c.block 0x23) = none
  uncoded : codedIn t c.part q.job q.seq (rangeArg c.block).page ((rangeArg c.block).page + (rangeArg c.block).pages - 1) = false
  ungraded : (List.range (rangeArg c.block).count).any (fun l => gradHolds t c.part q ((rangeArg c.block).first + l)
    (rangeArg c.block).kvs (rangeArg c.block).page ((rangeArg c.block).page + (rangeArg c.block).pages - 1)) = false
  own : ∀ k ∈ (rangePos (rangeArg c.block)).filter (fun k => handleAt q k ≠ 0),
    isStub (handleAt q k) = false ∧ ∀ g, pageOf t (handleAt q k) = some g → g.refs ≤ 1

/-- Neither a stub nor a shared page stands in the way. -/
theorem Migrates.unblocked {c : Cmd} {t : State} {q : Seq} (h : Migrates c t q) :
    ((rangePos (rangeArg c.block)).filter (fun k => handleAt q k ≠ 0)).any (fun k => isStub (handleAt q k) ||
      (pageOf t (handleAt q k)).elim false (fun g => decide (1 < g.refs))) = false := by
  rw [List.any_eq_false]
  intro k hk
  obtain ⟨hs, hg⟩ := h.own k hk
  cases hp : pageOf t (handleAt q k) with
  | none => simp [hs]
  | some g => simpa [hs] using hg g hp

section
variable {id : Nat} {c : Cmd} {t : State} {q : Seq} (h : Migrates c t q)
include h

/-- Where every page stays, nothing moves. -/
theorem cmdPageMigrate_of_stay (hstay : migrateTodo t c.block q = []) :
    cmdPageMigrate id c t = (t, some (okRet (toLe 4 0 ++ toLe 4 q.gen))) := by
  have hblk := h.unblocked
  obtain ⟨hq, hcell, hok, hturn, hgen, htab, hcode, hgrad, _⟩ := h
  unfold migrateTodo migrateStays at hstay
  simp only [cmdPageMigrate, hq, hcell, hok, hturn, hgen, htab, hcode, hgrad, hblk, hstay, Option.orElse_none, not_true_eq_false,
    Bool.not_true, Bool.or_self, Bool.false_eq_true, List.isEmpty_nil, if_true, if_false]

/-- With room for them the others move, their handles are swapped, and their old slots lose their reference. -/
theorem cmdPageMigrate_of_moves {l : List (Nat × Nat)} {u v : State} (hsome : migrateTodo t c.block q ≠ [])
    (hup : cellUp t (u8 c.block 0x20) = true)
    (hrecl : reclFull t c.part (editItems t q (migrateTodo t c.block q) ((migrateTodo t c.block q).map (handleAt q))) = false)
    (hfloor : c.pool.hardFloor ≤ poolLevel t c.part) (hmove : movePages c q (migrateTodo t c.block q) t = some (l, u))
    (hswap : swapHandles c.part (rangeArg c.block).key l u = some v) :
    cmdPageMigrate id c t =
      (let w := (migrateTodo t c.block q).foldl (fun s k => dropRef c.part (handleAt q k) s) v
       (reclaim c.part w, some (okRet (toLe 4 (migrateTodo t c.block q).length ++
         toLe 4 ((seqOf w c.part (rangeArg c.block).key).elim 0 (·.gen)))))) := by
  have hblk := h.unblocked
  have hne : (migrateTodo t c.block q).isEmpty = false := by simpa using hsome
  have hlevel : belowFloor t c = false := by simpa [belowFloor] using hfloor
  obtain ⟨hq, hcell, hok, hturn, hgen, htab, hcode, hgrad, _⟩ := h
  unfold migrateTodo migrateStays at *
  simp only [cmdPageMigrate, hq, hcell, hok, hturn, hgen, htab, hcode, hgrad, hblk, hne, hup, hrecl, hlevel, hmove, hswap,
    Option.orElse_none, not_true_eq_false, Bool.not_true, Bool.or_self, Bool.false_eq_true, if_false]

end

/-! ### PAGE_LEND and PAGE_RECALL at the owner (R91, R93) -/

/-- A page may be lent: full, unshared and unpinned (R91). -/
def lendFit (t : State) (h : Nat) : Bool :=
  isPage h && (pageOf t h).elim false (fun g => g.r.tokens == 64 && !g.r.shared && g.pins == 0)

theorem lendFit_of_page {t : State} {h : Nat}
    (hp : isPage h = true ∧ ∃ g, pageOf t h = some g ∧ g.r.tokens = 64 ∧ g.r.shared = false ∧ g.pins = 0) : lendFit t h = true := by
  obtain ⟨hpage, g, hg, htok, hsh, hpin⟩ := hp
  simp [lendFit, hpage, hg, htok, hsh, hpin]

/-- What lets an edit over a range go on: its turn, its generation, and neither a code nor a gradient set over it (R71, R192, R228). -/
structure RangeFree (c : Cmd) (t : State) (q : Seq) : Prop where
  found : seqOf t c.part (rangeArg c.block).key = some q
  range : rangeOk q c.block false = true
  turn : mustQueue q c = false
  gen : genConflict c q 4 = none
  uncoded : codedIn t c.part q.job q.seq (rangeArg c.block).page ((rangeArg c.block).page + (rangeArg c.block).pages - 1) = false
  ungraded : (List.range (rangeArg c.block).count).any (fun l => gradHolds t c.part q ((rangeArg c.block).first + l)
    (rangeArg c.block).kvs (rangeArg c.block).page ((rangeArg c.block).page + (rangeArg c.block).pages - 1)) = false

section
variable {id : Nat} {c : Cmd} {t : State} {q : Seq} (h : RangeFree c t q)
include h

theorem cmdPageLend_of_fit {ci : Nat} (hci : connIdx t (u32 c.block 0x24) = some ci) (hpart : (connOf t ci).part = c.part)
    (hlen : c.block.length = 0x28) (hkind : (connOf t ci).kind = 2) (hnode : (connOf t ci).peerNode = u16 c.block 0x20)
    (hpeer : (connOf t ci).peerPart = u16 c.block 0x22) (hfit : ∀ k ∈ rangePos (rangeArg c.block), lendFit t (handleAt q k) = true) :
    cmdPageLend id c t = lendNext c.part id (modSeq c.part (rangeArg c.block).key (fun q => { q with editing := true })
      (modPart c.part (fun v => { v with jobs := v.jobs ++ [{ cmd := id, kind := 0, seqKey := (rangeArg c.block).key
                                                              conn := u32 c.block 0x24, todo := rangePos (rangeArg c.block)
                                                              eps := v.eps }] }) t)) := by
  have hall : (rangePos (rangeArg c.block)).any (fun k => !lendFit t (handleAt q k)) = false := by
    simpa using hfit
  obtain ⟨hq, hr, hturn, hgen, hcode, hgrad⟩ := h
  unfold lendFit at hall
  simp only [cmdPageLend, hq, hci, hpart, hlen, hr, hkind, hnode, hpeer, hturn, hall, hgen, hcode, hgrad, ne_eq, not_true_eq_false,
    decide_false, Bool.not_true, Bool.or_self, Bool.false_eq_true, if_false]

theorem cmdPageRecall_of_stubs (hlen : c.block.length = 32)
    (hstub : ∀ k ∈ rangePos (rangeArg c.block), isStub (handleAt q k) = true ∧ ∃ e, lendOf t (handleAt q k) = some e ∧ e.lost = false)
    (hcells : (poolCells t c.part).isEmpty = false) :
    cmdPageRecall id c t = recallNext c.part id (modSeq c.part (rangeArg c.block).key (fun q => { q with editing := true })
      (modPart c.part (fun v => { v with jobs := v.jobs ++ [{ cmd := id, kind := 1, seqKey := (rangeArg c.block).key
                                                              todo := rangePos (rangeArg c.block) }] }) t)) := by
  have hall : (rangePos (rangeArg c.block)).any (fun k => !isStub (handleAt q k)) = false := by
    simpa using fun k hk => (hstub k hk).1
  have hkept : (rangePos (rangeArg c.block)).any (fun k => (lendOf t (handleAt q k)).elim true (·.lost)) = false := by
    rw [List.any_eq_false]
    intro k hk
    obtain ⟨_, e, he, hl⟩ := hstub k hk
    simp [he, hl]
  obtain ⟨hq, hr, hturn, hgen, hcode, hgrad⟩ := h
  simp only [cmdPageRecall, hq, hlen, hr, hturn, hgen, hcode, hall, hgrad, hkept, hcells, ne_eq, not_true_eq_false,
    decide_false, Bool.not_true, Bool.or_self, Bool.false_eq_true, if_false]

end

/-! ### SEQ_MAP_EDIT (R318) -/

/-- What lets a SEQ_MAP_EDIT reach its turn at this node (R71, R318). -/
structure EditTurn (id : Nat) (c : Cmd) (t : State) (q : Seq) : Prop where
  found : seqOf t c.part (blockSeq c.block) = some q
  shape : mapEditShape q c = true
  owner : editOwner t c id q = none
  ok : mapEditOk q c = true
  turn : mustQueue q c = false
  gen : genConflict c q 0 = none

section
variable {id : Nat} {c : Cmd} {t t' : State} {q : Seq}

theorem cmdSeqMapEdit_of_turn (h : EditTurn id c t' q) (ht : t' = meetCmd c (u32 c.block 0) (u48 c.block 4) t) :
    cmdSeqMapEdit id c t = mapEdit id c.part (blockSeq c.block) q c t' := by
  subst ht
  obtain ⟨hq, hshape, howner, hok, hturn, _⟩ := h
  simp only [cmdSeqMapEdit, hq, hshape, howner, hok, hturn, Bool.not_true, Bool.false_eq_true, if_false]

/-- An edit goes to the owners of the spans that it meets, and holds EDITING until they have answered. -/
def forwardAll (id : Nat) (c : Cmd) (q : Seq) (routes : List (PlaceRec × Nat)) (s : State) : State :=
  routes.foldl (fun s e => forwardEdit id c.part c q e.1 e.2 s) (holdEdit c.part (blockSeq c.block) id s)

section
variable {key : Nat} (hgen : genConflict c q 0 = none)
include hgen

/-- An edit of one page in another node's span is forwarded before the checks that its owner makes. -/
theorem mapEdit_of_routes {x : PlaceRec × Nat} {rest : List (PlaceRec × Nat)} (hop : u8 c.block 0xC ≠ 0)
    (hx : editRoutes t q c = .ok (x :: rest)) :
    mapEdit id c.part (blockSeq c.block) q c t = (forwardAll id c q (x :: rest) t, none) := by
  simp [mapEdit, hx, hgen, hop, forwardAll]

/-- The positions and handles of a layer that a truncation cuts off (R73). -/
def cutPages (q : Seq) (b : List Byte) : Tab Nat :=
  q.map.filter (fun e => posLayer e.1 == u16 b 0xA && decide (ceilDiv (u32 b 0x10) 64 ≤ posPage e.1))

section
variable {r : List (PlaceRec × Nat)} (hop : u8 c.block 0xC = 0) (hr : editRoutes t q c = .ok r)
  (hcode : codedIn t c.part q.job q.seq (ceilDiv (u32 c.block 0x10) 64) 65535 = false)
  (hgrad : gradHolds t c.part q (u16 c.block 0xA) (List.range q.kvHeads) (ceilDiv (u32 c.block 0x10) 64) 65535 = false)
  (hcells : (poolCells t c.part).isEmpty = false)
  (hrecl : reclFull t c.part (editItems t q ((cutPages q c.block).map (·.1)) ((cutPages q c.block).map (·.2))) = false)
include hop hr hcode hgrad hcells hrecl

/-- A truncation that no other node's span meets is made here; one that spans meet goes to their owners. -/
theorem mapEdit_of_truncation :
    mapEdit id c.part (blockSeq c.block) q c t = if r.isEmpty then
      ((truncateHere c.part (blockSeq c.block) c t).1, some (truncateHere c.part (blockSeq c.block) c t).2)
    else (forwardAll id c q r t, none) := by
  unfold cutPages at hrecl
  cases r with
  | nil => simp [mapEdit, hr, hgen, hop, hcode, hgrad, hcells, hrecl]
  | cons x rest => simp [mapEdit, hr, hgen, hop, hcode, hgrad, hcells, hrecl, forwardAll]

end

section
variable (hr : editRoutes t q c = .ok [])
  (hcode : codedIn t c.part q.job q.seq (u32 c.block 0x14) (u32 c.block 0x14) = false)
  (hgrad : gradHolds t c.part q (u16 c.block 0xA) [u8 c.block 0xD] (u32 c.block 0x14) (u32 c.block 0x14) = false)
  (hcells : (poolCells t c.part).isEmpty = false)
include hr hcode hgrad hcells

theorem mapEdit_of_refill (hop : u8 c.block 0xC = 1) : mapEdit id c.part key q c t = refill c.part key q c t := by
  simp [mapEdit, hr, hgen, hop, hcode, hgrad, hcells]

theorem mapEdit_of_recopy (hop : u8 c.block 0xC = 2) :
    mapEdit id c.part key q c t = recopy id c.part key (posKey (u16 c.block 0xA) (u8 c.block 0xD) (u32 c.block 0x14)) q t := by
  simp [mapEdit, hr, hgen, hop, hcode, hgrad, hcells]

end
end

/-- A truncation with room for its blocks. -/
theorem truncateHere_of_room {p key : Nat} {u : State} (h : truncate p key (u16 c.block 0xA) (u32 c.block 0x10) t = some u) :
    truncateHere p key c t = (u, editRet u p key) := by
  simp only [truncateHere, h]

end

/-- The question for a page that its span's synced mirror is asked (R318; log 90). -/
theorem recopy_of_mirror {id p key pos ci : Nat} {q : Seq} {s : State} {e : Nat × PlaceRec}
    (he : (spanRecs s p q.job q.seq).find? (fun e => spanHas e.2 (posPage pos)) = some e) (hs : spanSynced e.2 = true)
    (hci : fabricConn s p e.2.mirror = some ci) : recopy id p key pos q s =
    (askNode ci 11 [(newTag s).1, q.job, q.seq, posLayer pos, posKv pos, posPage pos] (modPart p (fun v => { v with
      awaits := v.awaits ++ [{ conn := connId (newTag s).2 ci, tag := (newTag s).1, kind := 11, job := q.job, seq := q.seq, span := e.2.span
                               arg := pos, cmd := some id, at_ := now (newTag s).2 }] }) (holdEdit p key id (newTag s).2)), none) := by
  obtain ⟨i, r⟩ := e
  simp only [recopy, he, hs, hci, if_true]

/-! ### The edit that waits (R71, R73) -/

/-- The oldest waiting edit begins once none is under way, an APPEND once its slots are free of cuts. -/
theorem exec_editQueueResume_of_turn {s : State} {p job seq n : Nat} {rest : List Nat} {q : Seq} {d : Cmd} (hlive : nodeLive s = true)
    (hq : seqOf s p (seqKey job seq) = some q) (hw : q.waiting = n :: rest) (hd : tget? s.cmds n = some d) (he : q.editing = false)
    (hcut : d.opcode = 0x0103 → cutBlocks s p q (appendArg d.block).layer
      (max (appendArg d.block).first (seqLen q (appendArg d.block).layer)) ((appendArg d.block).first + (appendArg d.block).n) = false) :
    exec (.editQueueResume p job seq) s = .next (handoffsGo p (begin_ (editHandler d.opcode) n
      (modSeq p (seqKey job seq) (fun q => { q with waiting := rest }) (modCmd n (fun c => { c with rerun := true }) s)))) := by
  have hfree : (q.editing || (decide (d.opcode = 0x0103) && cutBlocks s p q (appendArg d.block).layer
      (max (appendArg d.block).first (seqLen q (appendArg d.block).layer)) ((appendArg d.block).first + (appendArg d.block).n))) = false := by
    simpa [he] using hcut
  change execEditQueueResume p job seq s = _
  simp only [execEditQueueResume, hlive, hq, hw, hd, hfree, Bool.not_true, Bool.false_eq_true, if_false]

/-- A row of an opcode, given a packet whose command begins, runs the opcode's meaning. -/
theorem row_after {op : Nat} {x : Instr} {src : Source} {pkt : Packet} {s t : State} {id : Nat} {c : Cmd} {y : State × Option Reply}
    (hd : Handler) (h : Begun op src pkt s id c t) (hx : exec x s = .next (submitOp op src pkt hd s)) (hy : hd id c t = y) :
    exec x s = .next (after id y) := by
  rw [hx, submitOp_of_begins hd h.1 h.2, hy]

/-- Settles O21: each edit passes the checks of its turn, and its meaning then is the effect that the statement names. -/
theorem editCommands : Obligations.EditCommands := by
  unfold Obligations.EditCommands
  intro src pkt s t id c q a p
  refine ⟨?share, ?migrate, ?lend, ?recalling, ?truncate, ?page, ?resume⟩
  case share =>
    intro tq tq' u tk pos got wanted hb hq htq hlen hr hlay hkvs hfmt hdim hcls hscal hholes hturn hgen hcode hrefs hrecl hcells hswap v
    exact row_reply cmdPageShare hb rfl (cmdPageShare_of_turn hq htq ⟨hlen, hr, hlay, hkvs, hfmt, hdim, hcls, hscal, hholes⟩
      hturn hgen hcode hrefs hrecl hcells hswap)
  case migrate =>
    intro pos cell todo hb hq hcell hok hturn hgen htab hcode hgrad hown
    have h : Migrates c t q := ⟨hq, hcell, hok, hturn, hgen, htab, hcode, hgrad, hown⟩
    exact ⟨fun hstay => row_reply cmdPageMigrate hb rfl (cmdPageMigrate_of_stay h hstay),
      fun l u v hsome hup hrecl hfloor hmove hswap =>
        row_reply cmdPageMigrate hb rfl (cmdPageMigrate_of_moves h hsome hup hrecl hfloor hmove hswap)⟩
  case lend =>
    intro ci hb hq hci hpart hlen hr hkind hnode hpeer hfit hturn hgen hcode hgrad u
    exact row_after cmdPageLend hb rfl (cmdPageLend_of_fit ⟨hq, hr, hturn, hgen, hcode, hgrad⟩ hci hpart hlen hkind hnode hpeer
      (fun k hk => lendFit_of_page (hfit k hk)))
  case recalling =>
    intro hb hq hlen hr hturn hgen hcode hstub hgrad hcells u
    exact row_after cmdPageRecall hb rfl (cmdPageRecall_of_stubs ⟨hq, hr, hturn, hgen, hcode, hgrad⟩ hlen hstub hcells)
  case truncate =>
    intro t' u key layer lo gone hb ht hq hop hshape howner hok hturn hgen hcode hgrad hcells hrecl
    have hcmd := cmdSeqMapEdit_of_turn ⟨hq, hshape, howner, hok, hturn, hgen⟩ ht
    refine ⟨fun hr hu => ?_, fun x rest hr => ?_⟩
    · refine row_reply cmdSeqMapEdit hb rfl (hcmd.trans ?_)
      rw [mapEdit_of_truncation hgen hop hr hcode hgrad hcells hrecl, truncateHere_of_room hu]
      rfl
    · exact row_later cmdSeqMapEdit hb rfl (hcmd.trans (mapEdit_of_truncation hgen hop hr hcode hgrad hcells hrecl))
  case page =>
    intro t' key layer kv k op hb ht hq hop hshape howner hok hturn hgen
    have hcmd := cmdSeqMapEdit_of_turn ⟨hq, hshape, howner, hok, hturn, hgen⟩ ht
    refine ⟨fun x rest hr => row_later cmdSeqMapEdit hb rfl (hcmd.trans (mapEdit_of_routes hgen hop hr)),
      fun hr hcode hgrad hcells => ⟨fun h1 => ?_, ?_⟩⟩
    · exact row_after cmdSeqMapEdit hb rfl (hcmd.trans (mapEdit_of_refill hgen hr hcode hgrad hcells h1))
    · intro i r ci h h2 he hs hci n w
      exact row_later cmdSeqMapEdit hb rfl (hcmd.trans ((mapEdit_of_recopy hgen hr hcode hgrad hcells h2).trans
        (recopy_of_mirror he hs hci)))
  case resume =>
    intro job seq n rest d hlive hq hw hd he hcut
    exact exec_editQueueResume_of_turn hlive hq hw hd he hcut

end Sys2Proof.Proofs

/-! Sub-requests between nodes by their role (R92, R208, R225, R229). -/

namespace Sys2Proof.Proofs

open Sys2Proof Sys2Proof.Machine Sys2Proof.Laws

/-! ### The meaning of an ATTEND by its role -/

theorem subHandler_of_attend {c : Cmd} (ho : c.opcode = 0x0201) (id : Nat) (t : State) : subHandler id c t = cmdAttendAny id c t := by
  simp only [subHandler, ho, if_true]

section
variable {c : Cmd} (hf : c.fabric = true)
include hf

/-- In an owner's or a mirror's role it is attended as at the home. -/
theorem cmdAttendAny_of_member (h3 : extRole c ≠ 3) (h2 : extRole c ≠ 2) (id : Nat) (t : State) :
    cmdAttendAny id c t = cmdAttend id c t := by
  simp [cmdAttendAny, hf, h3, h2]

theorem cmdAttendAny_of_reconstructor (h : extRole c = 2) (id : Nat) (t : State) :
    cmdAttendAny id c t = cmdReconstruct id c t := by
  simp [cmdAttendAny, hf, h]

theorem cmdAttendAny_of_neighbour (h : extRole c = 3) (id : Nat) (t : State) : cmdAttendAny id c t = cmdNeighbour id c t := by
  simp [cmdAttendAny, hf, h]

end

/-- Token-parallel work of a shape that ATTEND takes is not refused (R149). -/
theorem attendRefused_of_shape {r : Req} (h : r.distrib = 2 → r.dim ≤ 1 ∧ r.qTokens ≤ 16 ∧ r.sparse = 0) : attendRefused r = false := by
  rw [attendRefused, Bool.and_eq_false_imp]
  intro hd
  obtain ⟨hdim, htok, hsp⟩ := h (by simpa using hd)
  simp [hdim, htok, hsp]

/-- The reply bytes of an ATTEND's rows at its OUT_FORMAT (R282). -/
def attendRows (r : Req) : Nat := reqRows r * (16 + reqDim r * (if r.outFormat = 0 then 4 else 2))

/-- A member's request that passes the checks of R144 and of its lease begins over what the node holds, its rows marked where that
is short (R208). -/
theorem cmdAttend_of_member {id i : Nat} {c : Cmd} {t u : State} {q : Seq} (hf : c.fabric = true) (hi : c.ctx = some i)
    (hreq : requestCheck c (u32 c.block 0) (u48 c.block 4) t = (none, u))
    (hq : seqOf u c.part (seqKey (u32 c.block 0) (u48 c.block 4)) = some q)
    (hok : attendOk u c.part q (attendReq c.block) c.block = true)
    (hshape : (attendReq c.block).distrib = 2 →
      q.placement = 1 ∧ (attendReq c.block).dim ≤ 1 ∧ (attendReq c.block).qTokens ≤ 16 ∧ (attendReq c.block).sparse = 0)
    (hconn : (attendReq c.block).reply = 1 → dataConn u c.part (attendReq c.block).replyConn = none)
    (hlease : leaseCheck u c (u32 c.block 0) (u48 c.block 4) = none)
    (hrows : fitsReply c (attendRows (attendReq c.block)) = true) :
    cmdAttend id c t = (memberShort i (attendReq c.block) q (launch i c (attendReq c.block) q u), none) := by
  have hplace : (!attendOk u c.part q (attendReq c.block) c.block ||
      decide ((attendReq c.block).distrib = 2) && decide (q.placement ≠ 1)) = false := by
    simpa [hok] using fun hd => (hshape hd).1
  have hreply : (if (attendReq c.block).reply = 1 then dataConn u c.part (attendReq c.block).replyConn else none) = none := by
    split
    · exact hconn ‹_›
    · rfl
  have hnot := attendRefused_of_shape (fun hd => (hshape hd).2)
  unfold attendRows at hrows
  simp only [cmdAttend, hreq, hq, hi, hplace, hrows, hnot, hreply, hlease, hf, Option.orElse_none, Bool.not_true, Bool.false_eq_true,
    if_true, if_false]

/-- The reconstructor that the span's record names asks the members that it reaches; where it needs none it recovers the span alone
(R229). -/
theorem cmdReconstruct_of_lost {id i : Nat} {c : Cmd} {t u : State} {lost : PlaceRec} (hi : c.ctx = some i)
    (hu : u = meetCmd c (attendReq c.block).job (attendReq c.block).seq t) (hcells : (partCells u c.part).isEmpty = false)
    (hhome : homeBehind u c (attendReq c.block).job (attendReq c.block).seq = none)
    (hok : attendOk u c.part
      { dim := (attendReq c.block).dim, format := 1, layers := 504, kvHeads := (reqKvs (attendReq c.block)).foldl max 0 + 1 }
      (attendReq c.block) c.block = true)
    (hnot : attendRefused (attendReq c.block) = false) (hlost : lostRec u c = some lost) (hme : lost.parity0 = u.node.nodeId)
    (hk : lost.codeK ≤ (reconSources u c.part lost).length + 1) :
    cmdReconstruct id c t =
      (let v := (reconSources u c.part lost).foldl (fun s e => fetchFrom id i c lost e.1 e.2 s)
        (modCtx i (fun x => { x with r := attendReq c.block }) u)
       if (reconSources u c.part lost).isEmpty then reconstruct i c lost [] v else v, none) := by
  subst hu
  simp only [cmdReconstruct, hi, hcells, hhome, hok, hnot, hlost, hme, Nat.not_lt.mpr hk, ne_eq, not_true_eq_false, Bool.not_true,
    Bool.false_eq_true, if_false]
  split <;> rfl

/-- A lending neighbour that holds every page named attends those of the request's range (R92). -/
theorem cmdNeighbour_of_map {id i n : Nat} {c : Cmd} {t u : State} {map : Tab Nat} (hi : c.ctx = some i)
    (hu : u = meetCmd c (u32 c.block 0) (u48 c.block 4) t) (hsrc : c.src = .conn n)
    (hmap : lentMap u c.part (connOf t (n % 65536)).peerNode (connOf t (n % 65536)).peerPart (u32 c.block 0) (u48 c.block 4)
      (namedPages (attendReq c.block) c.block) = some map) (hne : map ≠ [])
    (hcells : (partCells u c.part).isEmpty = false) (hhome : homeBehind u c (u32 c.block 0) (u48 c.block 4) = none)
    (hok : attendOk u c.part (pagesSeq u (attendReq c.block) map) (attendReq c.block) (c.block.take (attendLen (attendReq c.block))) = true)
    (hnot : attendRefused (attendReq c.block) = false) :
    cmdNeighbour id c t =
      (startRequest i c (subReq c) (pagesSeq u (attendReq c.block) map)
        (walkMap (pagesSeq u (attendReq c.block) map) (subReq c) (subReq c).keyHi) (min (subReq c).keyHi 4194304) [] [] [] 0
        (modCtx i (fun x => { x with named := namedPages (attendReq c.block) c.block }) u), none) := by
  subst hu
  have hempty : map.isEmpty = false := by simpa using hne
  simp only [cmdNeighbour, hi, hsrc, hmap, hempty, hcells, hhome, hok, hnot, Bool.not_true, Bool.false_eq_true, if_false]

/-- A sub-request's row, given an ATTEND of its role that goes on. -/
theorem exec_subRow_later {ok : Cmd → Bool} {x : Instr} {src : Source} {pkt : Packet} {s t u : State} {id : Nat} {c w : Cmd}
    (hx : exec x s = .next (subRow ok subHandler src pkt s)) (hb : Begun 0x0201 src pkt s id c t) (hl : 80 ≤ pkt.bytes.length)
    (hw : parseCmd s src pkt = w) (hf : w.fabric = true) (ho : ok w = true) (hh : cmdAttendAny id c t = (u, none)) :
    exec x s = .next u := by
  subst hw
  rw [hx, subRow_of_begins subHandler hb hl hf ho, subHandler_of_attend hb.2, hh]
  rfl

/-- Settles O24: the row's role is the role of its command, whose checks pass, and its meaning goes on without a reply. -/
theorem subRequests : Obligations.SubRequests := by
  unfold Obligations.SubRequests
  intro src pkt s t id c i u w r rows
  have hpar : parseCmd s src pkt = w := rfl
  clear_value w
  intro hb hl hwf hwo hf hi
  refine ⟨fun q hreq hq hok hshape hconn hlease hrows => ?member, ?reconstructor, ?neighbour⟩
  case member =>
    have hgo := cmdAttend_of_member (id := id) hf hi hreq hq hok hshape hconn hlease hrows
    refine ⟨fun hw hc => exec_subRow_later rfl hb hl hpar hwf (by simp [hwo, hw]) ?_,
      fun hw hc => exec_subRow_later rfl hb hl hpar hwf (by simp [hwo, hw]) ?_⟩ <;>
      rw [cmdAttendAny_of_member hf (by simp [hc]) (by simp [hc]), hgo]
  case reconstructor =>
    intro lost hu hw hc hcells hhome hok hnot hlost hme live hk v
    refine exec_subRow_later rfl hb hl hpar hwf (by simp [hwo, hw]) ?_
    rw [cmdAttendAny_of_reconstructor hf hc, cmdReconstruct_of_lost hi hu hcells hhome hok hnot hlost hme hk]
  case neighbour =>
    intro n map hu hsrc hmap hne q hw hc hcells hhome hok hnot r'
    refine exec_subRow_later rfl hb hl hpar hwf (by simp [hwo, hw]) ?_
    rw [cmdAttendAny_of_neighbour hf hc, cmdNeighbour_of_map hi hu hsrc hmap hne hcells hhome hok hnot]

end Sys2Proof.Proofs

/-! Lent pages at the neighbour: arrival, release, recall and loss (R91, R93, R94, R95). -/

namespace Sys2Proof.Proofs

open Sys2Proof Sys2Proof.Machine Sys2Proof.Laws

/-! ### A page that arrives (R91) -/

/-- Of a lent page its class alone decides where it has room. -/
theorem lendPlace_of_cls {x y : LentPage} (h : x.cls = y.cls) (s : State) (p : Nat) : lendPlace s p x = lendPlace s p y := by
  unfold lendPlace lentSize
  rw [h]

/-- Where every cell has room for a page of its size, one of them gets it. -/
theorem lendPlace_isSome {s : State} {p k : Nat} {x : LentPage} (hk : k ∈ partCells s p)
    (hroom : ∀ j ∈ partCells s p, cellUp s j = true ∧
      sumBy (cell s j).lent (fun e => lentSize e.2) + lentSize x ≤ lendBytes (part s p).layout) :
    (lendPlace s p x).isSome = true := by
  rw [lendPlace, Option.isSome_map, List.find?_isSome]
  exact ⟨k, hk, by simpa using hroom k hk⟩

section
variable {conn i : Nat} {s : State} (hlive : nodeLive s = true) (hi : fabricIdx s conn = some i)
include hlive hi

theorem exec_lentPageReceive_of_refused (gen : Nat) (page : PageImage) (table : List Byte)
    (hr : lendAllowed s (connOf s i).part (recOf page.record).job = false) :
    exec (.lentPageReceive conn gen page table) s = .next (answerFabric conn [stAuth] [] s) := by
  change execLentPageReceive conn gen page table s = _
  simp [execLentPageReceive, hlive, hi, hr]

/-- The page that a neighbour keeps names its owner and its job, keeps its decode table, and is marked lent. -/
structure KeptFor (v : Conn) (gen : Nat) (page : PageImage) (table : List Byte) (x : LentPage) : Prop where
  node : x.ownerNode = v.peerNode
  part : x.ownerPart = v.peerPart
  gen : x.ownerGen = gen
  job : x.job = (recOf page.record).job
  table : x.table = table
  lent : x.r.lent = true

theorem exec_lentPageReceive_of_place {gen j slot : Nat} {page : PageImage} {table : List Byte}
    (ha : lendAllowed s (connOf s i).part (recOf page.record).job = true)
    (hp : lendPlace s (connOf s i).part { cls := tileClass page.tiles.length } = some (j, slot)) :
    ∃ x, KeptFor (connOf s i) gen page table x ∧ exec (.lentPageReceive conn gen page table) s =
      .next (answerFabric conn [stOk, mkHandle j slot (tileClass page.tiles.length)] []
        (modCell j (fun v => { v with lent := tset v.lent slot x }) s)) := by
  have hroom (x : LentPage) (hx : x.cls = tileClass page.tiles.length) : lendPlace s (connOf s i).part x = some (j, slot) :=
    (lendPlace_of_cls (y := { cls := tileClass page.tiles.length }) hx _ _).trans hp
  refine ⟨?page, ?kept, ?step⟩
  case step =>
    change execLentPageReceive conn gen page table s = _
    simp only [execLentPageReceive, hlive, hi, ha, hroom, Bool.not_true, Bool.false_eq_true, if_false]
    rfl
  case kept => exact ⟨rfl, rfl, rfl, rfl, rfl, rfl⟩

/-! ### Releases, recalls and losses (R93, R94) -/

section
variable {gen handle : Nat} {x : LentPage} (hx : lentOf s handle = some x) (hn : x.ownerNode = (connOf s i).peerNode)
  (hp : x.ownerPart = (connOf s i).peerPart) (hg : x.ownerGen = gen) (hc : hCell handle ∈ partCells s (connOf s i).part)
include hx hn hp hg hc

/-- A release by the page's owner frees it. -/
theorem exec_lendRelease_of_owner : exec (.lendRelease conn gen handle) s =
    .next (answerFabric conn [stOk, handle] [] (freeLent handle s)) := by
  change execLendRelease conn gen handle s = _
  simp [execLendRelease, hlive, hi, hx, hn, hp, hg, hc]

/-- A recall by the page's owner answers what the committed read leaves. -/
theorem exec_recallRequest_of_owner (tag : Nat) {y : LentPage} {u : State} (hu : (readLent handle (x.grans.map (·.1)) s).2 = u)
    (hy : lentOf u handle = some y) : exec (.recallRequest conn tag gen handle) s =
    .next (answerFabric conn [stOk, tag] (recBytes { y.r with lent := false } ++
      y.grans.flatMap (fun e => lentData u (connOf u i).part handle y e.1) ++ (lentPoison y).flatMap (toLe 4)) u) := by
  change execRecallRequest conn tag gen handle s = _
  simp [execRecallRequest, hlive, hi, hx, hn, hp, hg, hc, hu, hy]

end

theorem exec_lentLossReport_of_ready (handles : List Nat) : exec (.lentLossReport conn handles) s =
    .next (loseLent (connOf s i).part (connOf s i).peerNode
      (fun e => e.node == (connOf s i).peerNode && e.part == (connOf s i).peerPart && e.handle ∈ handles) s) := by
  change execLentLossReport conn handles s = _
  simp only [execLentLossReport, hlive, hi, Bool.not_true, Bool.false_eq_true, if_false]

end

/-- 10 ms after a partition's reset no release is waited for, and its connections go (R95). -/
theorem exec_lendReleaseWaitExpiry_of_due {s : State} {p : Nat} (hlive : nodeLive s = true) (hr : (part s p).inReset = true)
    (hd : (part s p).destroying = false) (ht : (part s p).resetAt + 10000 ≤ s.node.time) : exec (.lendReleaseWaitExpiry p) s =
    .next (destroyConns p (modPart p (fun v => { v with awaits := v.awaits.filter (fun w => w.kind != 4) }) s)) := by
  change execLendReleaseWaitExpiry p s = _
  simp only [execLendReleaseWaitExpiry, hlive, hr, now, ht, part_modPart, hd, decide_true, Bool.and_self, Bool.not_true,
    Bool.false_eq_true, if_true, if_false]

/-- Settles O25: each message of a lend is answered by its one effect at the partition that the connection names. -/
theorem lentPages : Obligations.LentPages := by
  unfold Obligations.LentPages
  intro conn i s hlive hi v
  refine ⟨fun gen page table => ⟨exec_lentPageReceive_of_refused hlive hi gen page table, fun k hk ha hroom => ?_⟩,
    fun gen handle x hx hn hp hg hc => ⟨exec_lendRelease_of_owner hlive hi hx hn hp hg hc, fun tag y hy =>
      exec_recallRequest_of_owner hlive hi hx hn hp hg hc tag rfl hy⟩,
    exec_lentLossReport_of_ready hlive hi, fun p => exec_lendReleaseWaitExpiry_of_due hlive⟩
  obtain ⟨⟨j, slot⟩, hplace⟩ := Option.isSome_iff_exists.mp
    (lendPlace_isSome (x := { cls := tileClass page.tiles.length }) hk hroom)
  obtain ⟨x, ⟨hnode, hpart, hgen, hjob, htable, hlent⟩, hstep⟩ := exec_lentPageReceive_of_place hlive hi (gen := gen) (table := table) ha hplace
  exact ⟨j, slot, x, _, hstep, by simp, hnode, hpart, hgen, hjob, htable, hlent, rfl⟩

end Sys2Proof.Proofs

/-! Attention at the home: ATTEND and ATTEND_BWD begun, MERGE, DIGEST_BUILD, SCORER_LOAD, CANCEL and deadlines (R144, R151, R156 to
R160, R182, R192, R198, R286, R309). -/

namespace Sys2Proof.Proofs

open Sys2Proof Sys2Proof.Machine Sys2Proof.Laws

/-! ### ATTEND and ATTEND_BWD (R144, R198) -/

/-- The lease that a request at the home needs is that of the home's own span (R217). -/
theorem leaseCheck_of_home {c : Cmd} (hf : c.fabric = false) (s : State) (job seq : Nat) :
    leaseCheck s c job seq = ownSpanCheck s c.part job seq := by
  simp [leaseCheck, hf]

/-- An optional connection, checked where the request names one. -/
theorem dataConn_of_named {named : Prop} [Decidable named] {s : State} {p conn : Nat} (h : named → dataConn s p conn = none) :
    (if named then dataConn s p conn else none) = none := by
  split
  · exact h ‹_›
  · rfl

/-- A request at the home that passes the checks of R144 is launched over the sequence's map. -/
theorem cmdAttend_of_home {id i : Nat} {c : Cmd} {t u : State} {q : Seq} (hf : c.fabric = false) (hi : c.ctx = some i)
    (hreq : requestCheck c (u32 c.block 0) (u48 c.block 4) t = (none, u))
    (hq : seqOf u c.part (seqKey (u32 c.block 0) (u48 c.block 4)) = some q)
    (hok : attendOk u c.part q (attendReq c.block) c.block = true)
    (hshape : (attendReq c.block).distrib = 2 →
      q.placement = 1 ∧ (attendReq c.block).dim ≤ 1 ∧ (attendReq c.block).qTokens ≤ 16 ∧ (attendReq c.block).sparse = 0)
    (hrows : fitsReply c (attendRows (attendReq c.block)) = true)
    (hconn : (attendReq c.block).reply = 1 → dataConn u c.part (attendReq c.block).replyConn = none)
    (hlease : ownSpanCheck u c.part (u32 c.block 0) (u48 c.block 4) = none) :
    cmdAttend id c t = (launch i c (attendReq c.block) q u, none) := by
  have hplace : (!attendOk u c.part q (attendReq c.block) c.block ||
      decide ((attendReq c.block).distrib = 2) && decide (q.placement ≠ 1)) = false := by
    simpa [hok] using fun hd => (hshape hd).1
  have hnot := attendRefused_of_shape (fun hd => (hshape hd).2)
  unfold attendRows at hrows
  simp only [cmdAttend, hreq, hq, hi, hplace, hrows, hnot, dataConn_of_named hconn, leaseCheck_of_home hf, hlease, hf, Option.orElse_none,
    Bool.not_true, Bool.false_eq_true, if_false, id_eq]

/-- The positions of the pages [lo, hi) of an ATTEND_BWD, with their handles. -/
def setPositions (q : Seq) (b : Req) (range : Nat × Nat) : List (Nat × Nat × Nat) :=
  (reqKvs b).flatMap (fun kv => (List.range (range.2 - range.1)).map (fun k =>
    (kv, range.1 + k, handleAt q (posKey b.layer kv (range.1 + k)))))

/-- The gradient set that START makes over placed pages (R191, R192). -/
def startedSet (c : Cmd) (b : Req) (range : Nat × Nat) (pages : List GPage) (serial : Nat) : GSet :=
  { job := u32 c.block 0, seq := u48 c.block 4, layer := b.layer, kvSet := b.kvSet
    lo := if range.1 < range.2 then range.1 else 1, hi := if range.1 < range.2 then range.2 - 1 else 0, dim := b.dim
    pages := pages, adds := pages.length, serial := serial }

/-- An ATTEND_BWD at the home that passes the checks of R198 which do not speak of its gradient set. -/
structure BwdPasses (i : Nat) (c : Cmd) (q : Seq) (t u : State) : Prop where
  home : c.fabric = false
  request : requestCheck c (u32 c.block 0) (u48 c.block 4) t = (none, u)
  sequence : seqOf u c.part (seqKey (u32 c.block 0) (u48 c.block 4)) = some q
  context : c.ctx = some i
  fields : bwdOk q (bwdReq c.block) c.block = true
  dense : (bwdReq c.block).sparse = 0
  whole : (bwdReq c.block).distrib ≠ 2
  rows : fitsReply c (attendRows (bwdReq c.block)) = true
  connection : bitOf (u8 c.block 0x3C) 1 = true → dataConn u c.part (bwdReq c.block).gradConn = none
  lease : ownSpanCheck u c.part (u32 c.block 0) (u48 c.block 4) = none

section
variable {id i : Nat} {c : Cmd} {q : Seq} {t u : State} {range : Nat × Nat} (h : BwdPasses i c q t u)
  (hr : setRange u c (bwdReq c.block) (seqLen q (bwdReq c.block).layer) = range)
include h hr

/-- Without START it begins on the set that it names, where that is for it (R192). -/
theorem cmdAttendBwd_of_set (hmode : bitOf (u8 c.block 0x3C) 0 = false)
    (hset : thas (part u c.part).gsets (u8 c.block 0x37) = true)
    (hfree : setConflict (tget {} (part u c.part).gsets (u8 c.block 0x37)) (bwdReq c.block) (seqLen q (bwdReq c.block).layer)
      range.1 range.2 = false) :
    cmdAttendBwd id c t = (beginBwd id i c (bwdReq c.block) q u, none) := by
  obtain ⟨hf, hreq, hq, hi, hok, hsp, hd, hrows, hconn, hlease⟩ := h
  unfold attendRows at hrows
  simp only [cmdAttendBwd, hreq, hq, hi, hok, hsp, hd, hrows, hr, hmode, hset, hfree, dataConn_of_named hconn, leaseCheck_of_home hf,
    hlease, ne_eq, not_true_eq_false, decide_false, Bool.or_self, Bool.not_true, Bool.and_false, Bool.false_eq_true, if_false]

/-- START makes the set over pages that the node has placed, and the request begins on it (R191, R192). -/
theorem cmdAttendBwd_of_start {pages : List GPage} {v : State} (hmode : bitOf (u8 c.block 0x3C) 0 = true)
    (hset : thas (part u c.part).gsets (u8 c.block 0x37) = false) (hroom : (part u c.part).gsets.length < 256)
    (hpages : ∀ e ∈ setPositions q (bwdReq c.block) range, isPage e.2.2 = true)
    (hplace : placeSet c.part (u8 c.block 0x37) u.node.nextOp (reqDim (bwdReq c.block) / 2)
      (rawRows u c.part - heldSetting c 0x30 0 [0] - 16)
      ((setPositions q (bwdReq c.block) range).map (fun e => (e.1, e.2.1, hCell e.2.2))) [] u = some (pages, v)) :
    cmdAttendBwd id c t = (beginBwd id i c (bwdReq c.block) q
      (modPart c.part (fun x => { x with
        gsets := tset x.gsets (u8 c.block 0x37) (startedSet c (bwdReq c.block) range pages u.node.nextOp) }) v), none) := by
  obtain ⟨hf, hreq, hq, hi, hok, hsp, hd, hrows, hconn, hlease⟩ := h
  have hmapped : (setPositions q (bwdReq c.block) range).any (fun e => !isPage e.2.2) = false :=
    List.any_eq_false.mpr (fun e he => by simp [hpages e he])
  unfold attendRows at hrows
  unfold setPositions at hmapped hplace
  simp only [cmdAttendBwd, hreq, hq, hi, hok, hsp, hd, hrows, hr, hmode, hset, hmapped, hplace, Nat.not_le.mpr hroom,
    dataConn_of_named hconn, leaseCheck_of_home hf, hlease, startedSet, ne_eq, not_true_eq_false, decide_false, Bool.or_self, Bool.not_true,
    Bool.false_and, Bool.false_eq_true, if_true, if_false]

end

/-! ### MERGE (R151, R309) -/

/-- A row of a MERGE folded over its sets, in their order (R140, R151). -/
def mergedRow (b : List Byte) (k : Nat) : Part :=
  foldParts (dimOf (u8 b 1)) ((List.range (u8 b 0)).map (fun j =>
    readPart (dimOf (u8 b 1)) (slice b (0x20 + (j * u32 b 4 + k) * partSize (dimOf (u8 b 1))) (partSize (dimOf (u8 b 1))))))

/-- The ranges and sizes of R309, every partial of the sets a good one. -/
structure MergeOk (b : List Byte) : Prop where
  setsLo : 2 ≤ u8 b 0
  setsHi : u8 b 0 ≤ 64
  dim : u8 b 1 ≤ 2
  reserved : zeroIn b 2 4 = true
  rows : u32 b 4 ≠ 0
  deadline : u32 b 8 ≤ 10000000
  tail : zeroIn b 0xC 0x20 = true
  length : b.length = 0x20 + u8 b 0 * u32 b 4 * partSize (dimOf (u8 b 1))
  parts : ∀ k < u8 b 0 * u32 b 4,
    partBad (dimOf (u8 b 1)) (slice b (0x20 + k * partSize (dimOf (u8 b 1))) (partSize (dimOf (u8 b 1)))) = false

theorem cmdMerge_of_ok {id : Nat} {c : Cmd} {t : State} (h : MergeOk c.block)
    (hfit : fitsReply c (u32 c.block 4 * partSize (dimOf (u8 c.block 1))) = true) :
    cmdMerge id c t = (t, some (okPay (toLe 4 (u32 c.block 4))
      (((List.range (u32 c.block 4)).map (mergedRow c.block)).flatMap (partBytes 0 0 0)))) := by
  obtain ⟨hlo, hhi, hdim, hres, hrows, hdl, htail, hlen, hparts⟩ := h
  have hgood : (List.range (u8 c.block 0 * u32 c.block 4)).any (fun k => partBad (dimOf (u8 c.block 1))
      (slice c.block (0x20 + k * partSize (dimOf (u8 c.block 1))) (partSize (dimOf (u8 c.block 1))))) = false :=
    List.any_eq_false.mpr (fun k hk => by simp [hparts k (List.mem_range.mp hk)])
  simp only [cmdMerge, hres, hrows, htail, hlen, hgood, hfit, Nat.not_lt.mpr hlo, Nat.not_lt.mpr hhi, Nat.not_lt.mpr hdim,
    Nat.not_lt.mpr hdl, ne_eq, not_true_eq_false, decide_false, Bool.or_self, Bool.not_true, Bool.false_eq_true, if_false]
  rfl

/-! ### DIGEST_BUILD (R156 to R160) -/

/-- The layers of a range block. -/
def rangeLayers (a : RangeArg) : List Nat := (List.range a.count).map (· + a.first)

/-- The positions of a range at which the sequence maps a page of this node. -/
def digestPages (q : Seq) (a : RangeArg) : Tab Nat :=
  q.map.filter (fun e => posLayer e.1 ∈ rangeLayers a && posKv e.1 ∈ a.kvs && isPage e.2)

/-- The full pages of a list that lack a digest, are not shared and lie in cells that are up (R156). -/
def lackDigest (s : State) (l : Tab Nat) : Tab Nat :=
  l.filter (fun e =>
    let r := walkRec s e.2
    r.tokens == 64 && !r.shared && !r.digestValid && cellUp s (hCell e.2))

/-- The digests of a DIGEST_BUILD rebuilt, where it asks for them. -/
def rebuildAll (p what : Nat) (todo : Tab Nat) (s : State) : State :=
  if bitOf what 0 then todo.foldl (fun s e => rebuildDigest p e.2 s) s else s

/-- The group objects of a DIGEST_BUILD built, where it asks for them. -/
def groupAll (p what : Nat) (q : Seq) (a : RangeArg) (s : State) : (Nat × Nat × Bool) × State :=
  if bitOf what 1 then buildGroups p q (rangeLayers a) a.kvs s else ((0, 0, false), s)

/-- The reply of a DIGEST_BUILD that has rebuilt `done` digests: partial where an object found no room or a page's cell is off. -/
def digestReply (done : Nat) (mine : Tab Nat) (w : (Nat × Nat × Bool) × State) : Reply :=
  let short := w.1.2.2 || mine.any (fun e => !cellUp w.2 (hCell e.2))
  { status := if short then stPartial else stOk, detail := if short then min 0xFFFF done else 0
    ret := toLe 4 done ++ toLe 4 w.1.1 ++ toLe 4 w.1.2.1 }

/-- A DIGEST_BUILD in range and above the hard floor rebuilds and builds what it asks for. -/
theorem cmdDigestBuild_of_range {id : Nat} {c : Cmd} {t : State} {q : Seq} (hq : seqOf t c.part (rangeArg c.block).key = some q)
    (hb : blockIs c 0x21 = true) (hr : rangeOk q c.block true = true) (hlo : 1 ≤ u8 c.block 0x20) (hhi : u8 c.block 0x20 ≤ 3)
    (hfloor : c.pool.hardFloor ≤ poolLevel t c.part) :
    cmdDigestBuild id c t =
      (let what := u8 c.block 0x20
       let mine := digestPages q (rangeArg c.block)
       let todo := lackDigest t mine
       let w := groupAll c.part what q (rangeArg c.block) (rebuildAll c.part what todo t)
       (w.2, some (digestReply (if bitOf what 0 then todo.length else 0) mine w))) := by
  have habove : belowFloor t c = false := by simpa [belowFloor] using hfloor
  simp only [cmdDigestBuild, hq, hb, hr, habove, Nat.ne_of_gt hlo, Nat.not_lt.mpr hhi, decide_false, Bool.or_self, Bool.not_true,
    Bool.false_eq_true, if_false]
  unfold rebuildAll groupAll
  cases h0 : bitOf (u8 c.block 0x20) 0 <;> cases h1 : bitOf (u8 c.block 0x20) 1 <;> rfl

/-! ### SCORER_LOAD (R182) -/

/-- A bundle of good form, with its slot's number in range, of a job whose owner's key is installed (R182 order 1, and what
order 2 asks of the job). -/
structure BundleMeets (c : Cmd) (t : State) (k : JobKey) : Prop where
  slotLo : 1 ≤ u8 c.block 0
  slotHi : u8 c.block 0 ≤ 4
  reserved : zeroIn c.block 1 0x20 = true
  form : bundleOk (c.block.drop 0x20) = true
  key : tget? (part t c.part).keys (bundleScorer (c.block.drop 0x20)).job = some k

/-- The bundle's signature is its job owner's. -/
def bundleSigned (k : JobKey) (b : List Byte) : Bool := ecdsaVerify k.owner (b.take (b.length - 96)) (b.drop (b.length - 96))

section
variable {id : Nat} {c : Cmd} {t : State} {k : JobKey} (h : BundleMeets c t k)
include h

theorem cmdScorerLoad_of_unsigned (hsig : bundleSigned k (c.block.drop 0x20) = false) :
    cmdScorerLoad id c t = (t, some (err stAuth)) := by
  obtain ⟨hlo, hhi, hres, hform, hkey⟩ := h
  unfold bundleSigned at hsig
  simp only [cmdScorerLoad, hres, hform, thas, tget, hkey, hsig, Nat.not_lt.mpr hlo, Nat.not_lt.mpr hhi, Option.getD_some, decide_false,
    Bool.or_self, Bool.or_true, Bool.not_true, Bool.not_false, Bool.false_eq_true, if_true, if_false]

/-- A bundle that verifies and unwraps for this node, no older than the last of its job, fills a slot that no request holds. -/
theorem cmdScorerLoad_of_verified {n : Nat} {pay : List Byte} (hsig : bundleSigned k (c.block.drop 0x20) = true)
    (hserial : tget 0 (part t c.part).scorerSerials (bundleScorer (c.block.drop 0x20)).job ≤ (bundleScorer (c.block.drop 0x20)).serial)
    (hmember : (List.range (u16 (c.block.drop 0x20) 2)).find? (fun j => slice (c.block.drop 0x20) (0xE0 + 48 * j) 48 == fingerprint) =
      some n)
    (hopen : unwrapScorer n (c.block.drop 0x20) = some pay) (hpay : payloadOk (bundleScorer (c.block.drop 0x20)) pay = true)
    (hfree : (tget {} (part t c.part).scorers (u8 c.block 0) : Scorer).refs = 0) :
    cmdScorerLoad id c t =
      (modPart c.part (fun v => { v with
        scorers := tset v.scorers (u8 c.block 0) { bundleScorer (c.block.drop 0x20) with payload := pay }
        scorerSerials := tset v.scorerSerials (bundleScorer (c.block.drop 0x20)).job (bundleScorer (c.block.drop 0x20)).serial }) t,
        some (okRet (toLe 8 (bundleScorer (c.block.drop 0x20)).serial))) := by
  obtain ⟨hlo, hhi, hres, hform, hkey⟩ := h
  have hkept : thas (part t c.part).keys (bundleScorer (c.block.drop 0x20)).job = true := by simp [thas, hkey]
  have howner : tget ({} : JobKey) (part t c.part).keys (bundleScorer (c.block.drop 0x20)).job = k := by simp [tget, hkey]
  unfold bundleSigned at hsig
  simp only [cmdScorerLoad, hres, hform, hkept, howner, hsig, hmember, hopen, hpay, hfree, Nat.not_lt.mpr hserial, Nat.not_lt.mpr hlo,
    Nat.not_lt.mpr hhi, Nat.lt_irrefl, decide_false, Bool.or_self, Bool.not_true, Bool.false_eq_true, if_false]

end

/-! ### CANCEL and deadlines (R145, R286) -/

/-- CANCEL ends the command of its source and TAG, of a kind that it may cancel, while no APPEND has written, no
search is swept and no reply of an ATTEND is on its way (R286, log 24). -/
theorem cmdCancel_of_target {id n : Nat} {c d : Cmd} {t : State} (htag : c.objectId < 2 ^ 32) (hb : blockIs c 0 = true)
    (hfind : t.cmds.find? (fun e => e.2.src == c.src && e.2.tag == c.objectId && e.2.opcode != 0x0206) = some (n, d))
    (hkind : isDataPath d.opcode = true ∨ d.opcode = 0x0401) (happend : appendWritten t d n = false)
    (hsearch : d.opcode = 0x0303 → d.held = false → ∀ x, d.ctx = some x → searchSwept t x = false)
    (hship : d.opcode = 0x0201 → ∀ x, d.ctx = some x → (ctxOf t x).shipping = false) :
    cmdCancel id c t = (abortCmd n (err stCancelled) t, some (okRet [])) := by
  have hcan : (isDataPath d.opcode || d.opcode == 0x0401) = true := by simpa using hkind
  have hunswept : (d.opcode == 0x0303 && !d.held && d.ctx.elim false (searchSwept t)) = false := by
    cases hx : d.ctx with
    | none => simp
    | some x => simpa using fun ho hh => hsearch ho hh x hx
  have hunsent : (d.opcode == 0x0201 && d.ctx.elim false (fun i => (ctxOf t i).shipping)) = false := by
    cases hx : d.ctx with
    | none => simp
    | some x => simpa using fun ho => hship ho x hx
  simp only [cmdCancel, Nat.mod_eq_of_lt htag, Nat.not_le.mpr htag, hb, hfind, hcan, happend, hunswept, hunsent, decide_false, Bool.or_self,
    Bool.not_true, Bool.false_eq_true, if_false]

/-- A request whose deadline has passed, and whose reply is not yet on its way, ends with TIMEOUT (R145). -/
theorem exec_deadlineExpiry_of_due {s : State} {i : Nat} {x : Ctx} {d : Cmd} (hlive : nodeLive s = true) (hx : tget? s.ctxs i = some x)
    (hd : tget? s.cmds x.cmd = some d) (hfield : (deadlineField d).isSome = true) (hset : x.deadline ≠ 0)
    (hdue : x.deadline ≤ s.node.time) (hopen : x.finished = false) (hship : x.kind = 0x0201 → x.shipping = false) :
    exec (.deadlineExpiry i) s = .next (abortCmd x.cmd (err stTimeout) s) := by
  have hrec : tget ({} : Cmd) s.cmds x.cmd = d := by simp [tget, hd]
  have hunsent : (x.shipping && x.kind == 0x0201) = false := by
    rw [Bool.and_comm]
    simpa using hship
  change execDeadlineExpiry i s = _
  simp [execDeadlineExpiry, hlive, hx, hrec, hfield, hset, now, hdue, hopen, hunsent]

/-- Settles O23: each packet command passes its checks, and its meaning then is the effect that the statement names; a deadline's row
acts by itself. -/
theorem attentionCommands : Obligations.AttentionCommands := by
  unfold Obligations.AttentionCommands
  intro src pkt s t id c q i u r
  refine ⟨?attend, ?backward, ?merge, ?digest, ?scorer, ?cancel, ?deadline⟩
  case attend =>
    intro hb hf hreq hq hi hok hshape hrows hconn hlease
    exact row_later cmdAttend hb rfl (cmdAttend_of_home hf hi hreq hq hok hshape hrows hconn hlease)
  case backward =>
    rintro b rfl hb hf hreq hq hi hok hsp hd hrows hconn hlease range
    have hpass : BwdPasses i c q t u := ⟨hf, hreq, hq, hi, hok, hsp, hd, hrows, hconn, hlease⟩
    refine ⟨fun hmode hset hfree => ?_, fun pages v hmode hset hroom hpages hplace => ?_⟩
    · exact row_later cmdAttendBwd hb rfl (cmdAttendBwd_of_set hpass rfl hmode hset hfree)
    · exact row_later cmdAttendBwd hb rfl (cmdAttendBwd_of_start hpass rfl hmode hset hroom hpages hplace)
  case merge =>
    intro b sets d rows sz hb h1 h2 h3 h4 h5 h6 h7 h8 h9 hfit out
    exact row_reply cmdMerge hb rfl (cmdMerge_of_ok ⟨h1, h2, h3, h4, h5, h6, h7, h8, h9⟩ hfit)
  case digest =>
    intro a what layers mine todo v w hb hq hblk hr hlo hhi hfloor short done
    exact row_reply cmdDigestBuild hb rfl (cmdDigestBuild_of_range hq hblk hr hlo hhi hfloor)
  case scorer =>
    intro k n pay b sc hb hlo hhi hres hform hkey
    have hmeets : BundleMeets c t k := ⟨hlo, hhi, hres, hform, hkey⟩
    refine ⟨fun hsig => ?_, fun hsig hserial hmember hopen hpay hfree => ?_⟩
    · exact row_reply cmdScorerLoad hb rfl (cmdScorerLoad_of_unsigned hmeets hsig)
    · exact row_reply cmdScorerLoad hb rfl (cmdScorerLoad_of_verified hmeets hsig hserial hmember hopen hpay hfree)
  case cancel =>
    intro n d hb htag hblk hfind hkind happend hsearch hship
    exact row_reply cmdCancel hb rfl (cmdCancel_of_target htag hblk hfind hkind happend hsearch hship)
  case deadline =>
    intro x d hlive hx hd hfield hset hdue hopen hship
    exact exec_deadlineExpiry_of_due hlive hx hd hfield hset hdue hopen hship

end Sys2Proof.Proofs

/-! The queue of a gradient set (R192, R196): the oldest live request runs on, and a flush sends its pages one after another. -/

namespace Sys2Proof.Proofs

open Sys2Proof Sys2Proof.Machine Sys2Proof.Laws

/-! ### Updates of a gradient set -/

/-- A change of a table's value is what it makes of the value that stands there. -/
theorem tmod_congr {α : Type} {d : α} {t : Tab α} {k : Nat} {f f' : α → α} (h : f (tget d t k) = f' (tget d t k)) :
    tmod t k f = tmod t k f' := by
  unfold tmod
  cases hv : tget? t k with
  | none => rfl
  | some v =>
    have hfv : f v = f' v := by simpa [tget, hv] using h
    simp [hfv]

theorem modGset_congr {p g : Nat} {f f' : GSet → GSet} {s : State}
    (h : f (tget {} (part s p).gsets g) = f' (tget {} (part s p).gsets g)) : modGset p g f s = modGset p g f' s := by
  simp only [modGset, modPart, tmod_congr h]

/-! ### The turn of a request (R192, R194) -/

/-- A gradient set's queue without the requests that have ended. -/
def liveQueue (p g : Nat) (s : State) : State :=
  modGset p g (fun w => { w with queue := w.queue.filter (fun id => thas s.cmds id) }) s

/-- The oldest live request of a set leaves its wait and goes on as far as it can. -/
theorem exec_gsetQueueResume_of_front {p g id i : Nat} {rest : List Nat} {cm : Cmd} {s : State} (hlive : nodeLive s = true)
    (hfront : (tget {} (part (liveQueue p g s) p).gsets g : GSet).queue = id :: rest) (hcmd : tget? s.cmds id = some cm)
    (hctx : cm.ctx = some i) :
    exec (.gsetQueueResume p g) s =
      .next (pump (settle i (modCtx i (fun x => { x with waiting := false }) (liveQueue p g s)))) := by
  have hfound : (tget? (liveQueue p g s).cmds id).bind (·.ctx) = some i := by
    change (tget? s.cmds id).bind (·.ctx) = some i
    rw [hcmd, Option.bind_some, hctx]
  unfold liveQueue at hfront hfound ⊢
  change execGsetQueueResume p g s = _
  simp only [execGsetQueueResume, hlive, Bool.not_true, Bool.false_eq_true, if_false, hfront, hfound]

/-! ### The messages of a flush (R196) -/

section
variable {i : Nat} {s : State} (hlive : nodeLive s = true) (hship : (ctxOf s i).shipping = true) (hbwd : (ctxOf s i).r.bwd = true)
include hlive hship hbwd

/-- A connection that fails ends the request; the pages that have not gone stay in the closed set. -/
theorem exec_gradMessageDone_of_failed : exec (.gradMessageDone i false) s = .next (endCtx i (err stInternal) s) := by
  change execGradMessageDone i false s = _
  simp [execGradMessageDone, gradSent, hlive, hship, hbwd]

/-- A page that has gone out leaves the set, and the next one goes. -/
theorem exec_gradMessageDone_of_sent {q : GPage} {rest : List GPage}
    (hfirst : gradOrder (tget {} (part s (ctxOf s i).part).gsets (ctxOf s i).r.gset) = q :: rest) :
    exec (.gradMessageDone i true) s = .next (shipNext i (modCtx i (fun x => { x with shipped := x.shipped + 1 })
      (modGset (ctxOf s i).part (ctxOf s i).r.gset (fun w => { w with
        shipped := w.shipped + 1, pages := w.pages.filter (fun y => !(y.kv == q.kv && y.page == q.page)) }) s))) := by
  change execGradMessageDone i true s = _
  simp only [execGradMessageDone, gradSent, hlive, hship, hbwd, Bool.not_true, Bool.or_self, Bool.false_eq_true, if_false]
  congr 3
  exact modGset_congr (by simp only [hfirst])

end

/-- Settles O59: the set's stored pages are those whose first has gone out, so the update that the row makes is the stated one. -/
theorem gradientQueue : Obligations.GradientQueue := by
  unfold Obligations.GradientQueue
  intro p g s hlive
  refine ⟨fun id rest i cm hfront hcmd hctx => exec_gsetQueueResume_of_front hlive hfront hcmd hctx, fun i hship hbwd => ?_⟩
  exact ⟨exec_gradMessageDone_of_failed hlive hship hbwd, fun q rest hfirst => exec_gradMessageDone_of_sent hlive hship hbwd hfirst⟩

end Sys2Proof.Proofs

/-! APPEND and the write-through of a mirror (R215, R216, R225). -/

namespace Sys2Proof.Proofs

open Sys2Proof Sys2Proof.Machine Sys2Proof.Laws

/-! ### An APPEND that begins -/

/-- A home that a lookup confirms meets no epochs: only a FABRIC command carries them (R206). -/
theorem meetCmd_of_local {c : Cmd} (hf : c.fabric = false) (job seq : Nat) (s : State) : meetCmd c job seq s = s := by
  simp [meetCmd, hf]

/-- What an APPEND of a command block passes, met in `t` and checked in `u`, before it writes (R71, R73, R215, R308; log 89). -/
structure AppendReady (c : Cmd) (t u : State) (q : Seq) : Prop where
  cells : (partCells t c.part).isEmpty = false
  pool : (poolCells t c.part).isEmpty = false
  found : seqOf u c.part (appendArg c.block).key = some q
  ok : appendOk q c = true
  turn : mustQueue q c = false
  uncut : cutBlocks u c.part q (appendArg c.block).layer (max (appendArg c.block).first (seqLen q (appendArg c.block).layer))
    ((appendArg c.block).first + (appendArg c.block).n) = false
  start : (appendArg c.block).first ≤ max (seqLen q (appendArg c.block).layer) (spanFloor u c (u32 c.block 0) (u48 c.block 4))

/-- The run of an APPEND's own tokens writes `w` and finds `m` in place, ending in `v`. -/
abbrev Appended (c : Cmd) (q : Seq) (u : State) (w m : Nat) (v : State) : Prop :=
  appendRun c.part q c (appendArg c.block).first ((appendArg c.block).first + (appendArg c.block).n) u = (.ok (w, m), v)

/-- What an APPEND that has written answers from `v`. -/
abbrev appended (c : Cmd) (w m : Nat) (v : State) : Reply :=
  appendRet v c.part (appendArg c.block).key (appendArg c.block).layer w m

section
variable {id : Nat} {c : Cmd} {t u : State} {q : Seq} (h : AppendReady c t u q)
include h

/-! ### At the home -/

section
variable (hf : c.fabric = false) (hhome : homeCheck c.part (u32 c.block 0) (u48 c.block 4) t = (none, u))
include hf hhome

/-- A sequence that one node holds is written here. -/
theorem cmdAppend_of_whole {w m : Nat} {v : State} (hrecs : spanRecs u c.part (u32 c.block 0) (u48 c.block 4) = [])
    (hrun : Appended c q u w m v) : cmdAppend id c t = (v, some (appended c w m v)) := by
  obtain ⟨hcells, hpool, hq, hok, hturn, hcut, hstart⟩ := h
  simp only [cmdAppend, hcells, hpool, hf, hhome, meetCmd_of_local hf, hq, hok, hturn, hcut, Nat.not_lt.mpr hstart, hrecs, hrun,
    List.isEmpty_nil, Bool.not_true, Bool.not_false, Bool.and_false, Bool.or_self, Bool.false_eq_true, if_false]

/-- One to a sequence in spans runs its parts. -/
theorem cmdAppend_of_spans (hrecs : spanRecs u c.part (u32 c.block 0) (u48 c.block 4) ≠ []) :
    cmdAppend id c t = runParts id c 66 (appendArg c.block).first 0 0 u := by
  have hspans : (spanRecs u c.part (u32 c.block 0) (u48 c.block 4)).isEmpty = false := by simpa using hrecs
  obtain ⟨hcells, hpool, hq, hok, hturn, hcut, hstart⟩ := h
  simp only [cmdAppend, hcells, hpool, hf, hhome, meetCmd_of_local hf, hq, hok, hturn, hcut, Nat.not_lt.mpr hstart, hspans,
    Bool.not_true, Bool.not_false, Bool.and_self, Bool.or_self, Bool.false_eq_true, if_true, if_false]

end

/-! ### At the owner of a span -/

/-- A part at its span's owner is written there, and answered at once unless it is sent on to the mirror. -/
theorem cmdAppend_of_owner {w m k sent : Nat} {v v' : State} {e : PlaceRec} (hf : c.fabric = true)
    (hu : u = meetCmd c (u32 c.block 0) (u48 c.block 4) t)
    (hmember : memberCheck u c (u32 c.block 0) (u48 c.block 4) (some id) = none) (hrun : Appended c q u w m v)
    (hrec : (spanRecs v c.part (u32 c.block 0) (u48 c.block 4)).find? (fun e => e.2.span == extSpan c) = some (k, e))
    (hsend : writeThroughSend c.part q c e (extEpoch c) (appendArg c.block).first
      ((appendArg c.block).first + (appendArg c.block).n) id v = (sent, v')) :
    cmdAppend id c t =
      if sent = 1 then (modCtx (c.ctx.getD 0) (fun x => { x with skipped := w, shipped := m }) v', none)
      else (if sent = 2 then mirrorGone c.part (u32 c.block 0) (u48 c.block 4) e.span v' else v',
        some { appended c w m v' with detail := if sent = 2 then 1 else 0 }) := by
  subst hu
  obtain ⟨hcells, hpool, hq, hok, hturn, hcut, hstart⟩ := h
  simp only [cmdAppend, hcells, hpool, hf, hq, hok, hmember, hturn, hcut, Nat.not_lt.mpr hstart, hrun, hrec,
    hsend, Bool.not_true, Bool.false_and, Bool.or_self, Bool.false_eq_true, if_true, if_false]

/-! ### At the mirror of a span -/

/-- A write-through from the owner that the span's record names appends the same and advances the mirror's stream. -/
theorem cmdWriteThrough_of_owner {n i w m : Nat} {x : SpanSt} {e : Nat × PlaceRec} {v : State}
    (hu : u = meetCmd c (u32 c.block 0) (u48 c.block 4) t) (hsrc : c.src = .conn n)
    (hhome : homeBehind u c (u32 c.block 0) (u48 c.block 4) = none)
    (hx : spanSt u c.part (u32 c.block 0) (u48 c.block 4) true = some (i, x))
    (he : spanRec u c.part (u32 c.block 0) (u48 c.block 4) (extSpan c) = some e)
    (howner : e.2.owner = (connOf t (n % 65536)).peerNode) (hstream : x.stream ≤ extEpoch c) (hrun : Appended c q u w m v) :
    cmdWriteThrough id c t = (modSpan c.part i (fun x => { x with stream := extEpoch c }) v, some (appended c w m v)) := by
  subst hu
  obtain ⟨hcells, hpool, hq, hok, hturn, hcut, hstart⟩ := h
  simp only [cmdWriteThrough, hcells, hpool, hsrc, hhome, hq, hx, he, howner, hok, hturn, hcut, Nat.not_lt.mpr hstart,
    Nat.not_lt.mpr hstream, hrun, Option.elim_some, bne_self_eq_false, decide_false, Bool.not_true, Bool.or_self, Bool.false_eq_true, if_false]

end

/-- Without a mirror nothing is sent on (R216). -/
theorem writeThroughSend_of_unmirrored {r : PlaceRec} (h : bitOf r.flags 0 = false ∨ r.mirror = 0xFFFF) (p : Nat) (q : Seq) (c : Cmd)
    (epoch lo hi id : Nat) (s : State) : writeThroughSend p q c r epoch lo hi id s = (0, s) := by
  unfold writeThroughSend
  obtain h | h := h <;> simp [h]

/-- The tokens go on to a mirror on another node that a fabric connection reaches (R216). -/
theorem writeThroughSend_of_mirror {p ci : Nat} {r : PlaceRec} {s : State} (hm : bitOf r.flags 0 = true) (hn : r.mirror ≠ 0xFFFF)
    (hme : r.mirror ≠ s.node.nodeId) (hci : fabricConn s p r.mirror = some ci) (q : Seq) (c : Cmd) (epoch lo hi id : Nat) :
    writeThroughSend p q c r epoch lo hi id s =
      (1, askFabric p ci 0x0103 0 (myHomeEpoch s p q.job q.seq) epoch s.node.nodeId r.span 1 0 (partBlock q c lo hi)
        { kind := 6, job := q.job, seq := q.seq, span := r.span, cmd := some id } s) := by
  simp [writeThroughSend, hm, hn, hme, hci]

/-- Under ROLE 1 an APPEND is a write-through (R225). -/
theorem cmdAppendAny_of_mirror {c : Cmd} (hf : c.fabric = true) (hr : extRole c = 1) (id : Nat) (t : State) :
    cmdAppendAny id c t = cmdWriteThrough id c t := by
  simp [cmdAppendAny, hf, hr]

/-- Settles O22: once the APPEND's turn has come, its run ends its command at a home and at an owner without a mirror, and goes on to the
mirror, or to the owners of the spans, elsewhere. -/
theorem appends : Obligations.Appends := by
  unfold Obligations.Appends
  intro src pkt s t id c q u v a p job sq hi hb hcells hpool hq hok hturn hcut hstart
  have h : AppendReady c t u q := ⟨hcells, hpool, hq, hok, hturn, hcut, hstart⟩
  refine ⟨fun hf hhome => ⟨fun w m hrecs hrun => ?whole, fun hrecs => ?spans⟩, fun hf hu => ⟨?owner, ?mirror⟩⟩
  case whole => exact row_reply cmdAppend hb rfl (cmdAppend_of_whole h hf hhome hrecs hrun)
  case spans => exact row_after cmdAppend hb rfl (cmdAppend_of_spans h hf hhome hrecs)
  case owner =>
    intro w m k e _ hmember hrun hrec
    refine ⟨fun hnone => ?_, fun ci hm hn hme hci => ?_⟩
    · exact row_reply cmdAppend hb rfl
        (cmdAppend_of_owner h hf hu hmember hrun hrec (writeThroughSend_of_unmirrored hnone _ _ _ _ _ _ _ _))
    · exact row_after cmdAppend hb rfl
        (cmdAppend_of_owner h hf hu hmember hrun hrec (writeThroughSend_of_mirror hm hn hme hci _ _ _ _ _ _))
  case mirror =>
    intro n i x e w m hrole hsrc hhome hx he howner hstream hrun
    exact row_reply cmdAppendAny hb rfl ((cmdAppendAny_of_mirror hf hrole id t).trans
      (cmdWriteThrough_of_owner h hu hsrc hhome hx he howner hstream hrun))

end Sys2Proof.Proofs

/-! The copies of a span: resynchronisation pages, parity streams and answers (R224, R227, R228). -/

namespace Sys2Proof.Proofs

open Sys2Proof Sys2Proof.Machine Sys2Proof.Laws

/-! ### A resynchronisation page at the mirror (R224; log 97) -/

/-- The position that a page's record names. -/
def pagePos (page : PageImage) : Nat :=
  posKey (recOf page.record).layer (recOf page.record).kvHead (recOf page.record).pageIndex

/-- The mirror's sequence has nothing at the page's position, or a page of fewer tokens that may be swapped for it. -/
def Newer (s : State) (p : Nat) (q : Seq) (page : PageImage) : Prop :=
  handleAt q (pagePos page) = 0 ∨ ∃ g, pageOf s (handleAt q (pagePos page)) = some g ∧ g.r.tokens < (recOf page.record).tokens ∧
    swapCheck s p q (pagePos page) [handleAt q (pagePos page)] = none

/-- A newer page is not one that the mirror has already. -/
theorem Newer.unwritten {s : State} {p : Nat} {q : Seq} {page : PageImage} (h : Newer s p q page) :
    (pageOf s (handleAt q (pagePos page))).elim (handleAt q (pagePos page) != 0)
      (fun g => decide ((recOf page.record).tokens ≤ g.r.tokens)) = false := by
  obtain h | ⟨g, hg, hlt, _⟩ := h
  · rw [h]
    rfl
  · simpa [hg] using hlt

/-- Neither a code, a gradient set nor a full RECLAIM list keeps a newer page out. -/
theorem Newer.swappable {s : State} {p : Nat} {q : Seq} {page : PageImage} (h : Newer s p q page) :
    ¬(handleAt q (pagePos page) ≠ 0 ∧ (swapCheck s p q (pagePos page) [handleAt q (pagePos page)]).isSome = true) := by
  obtain h | ⟨g, _, _, hswap⟩ := h
  · simp [h]
  · simp [hswap]

/-- A page that has landed raises its layer's LENGTH to its last token. -/
def lengthen (r : PRec) (q : Seq) : Seq :=
  { q with len := tset q.len r.layer (max (seqLen q r.layer) (64 * r.pageIndex + r.tokens)) }

/-- A newer page lands in the mirror's sequence and advances its stream. -/
theorem exec_resyncPage_of_newer {conn i p job seq span epoch k : Nat} {page : PageImage} {x : SpanSt} {q : Seq} {s u : State}
    (hlive : nodeLive s = true) (hi : fabricIdx s conn = some i) (hp : (connOf s i).part = p)
    (hx : spanSt s p job seq true = some (k, x)) (hq : seqOf s p (seqKey job seq) = some q) (hspan : x.span = span)
    (hepoch : x.stream ≤ epoch) (hnew : Newer s p q page)
    (hland : landPage (part s p).pool.hardFloor p (seqKey job seq) (pagePos page) (handleAt q (pagePos page) != 0) none page
      (epochFence p job seq span epoch 0 s) = some u) :
    exec (.resyncPage conn p job seq span epoch page) s = .next (modSpan p k (fun x => { x with stream := epoch })
      (modSeq p (seqKey job seq) (lengthen (recOf page.record)) u)) := by
  have hunwritten := hnew.unwritten
  have hswap := hnew.swappable
  unfold pagePos at hunwritten hswap hland
  change execResyncPage conn p job seq span epoch page s = _
  simp only [execResyncPage, hlive, hi, hp, hx, hq, hspan, Nat.not_lt.mpr hepoch, hunwritten, hland, ne_eq, not_true_eq_false,
    decide_false, Bool.not_true, Bool.or_self, Bool.false_eq_true, if_false]
  rw [if_neg (by simpa using hswap)]
  rfl

/-! ### A page of a parity stream (R227, R228) -/

section
variable {conn i : Nat} {s : State} (hlive : nodeLive s = true) (hi : fabricIdx s conn = some i)
include hlive hi

/-- A page that is not the last of its stream is added in. -/
theorem exec_parityStream_of_more (job group codePos pos : Nat) (page : PageImage) :
    exec (.parityStream conn (connOf s i).part job group codePos pos page false) s =
      .next (addParity (connOf s i).part job group codePos pos page s) := by
  change execParityStream conn (connOf s i).part job group codePos pos page false s = _
  simp [execParityStream, hlive, hi]

/-- The last page also completes its member's stream, unless a page of it found no place. -/
theorem exec_parityStream_of_last (job group codePos pos : Nat) (page : PageImage) :
    exec (.parityStream conn (connOf s i).part job group codePos pos page true) s =
      .next (markCoded (connOf s i).part group (answerCoded (connOf s i).part group
        (modGroup (connOf s i).part group
          (fun r => if codePos ∈ r.codedShort then r else { r with codedStreams := addOnce codePos r.codedStreams })
          (addParity (connOf s i).part job group codePos pos page s)))) := by
  change execParityStream conn (connOf s i).part job group codePos pos page true s = _
  simp [execParityStream, hlive, hi]

end

/-- A parity page with a member's page added in. -/
def addedPage (page : PageImage) (x : ParityPage) : ParityPage :=
  { x with
    bytes := xorBytes x.bytes (page.tiles ++ page.record)
    heads := max x.heads ((recOf page.record).kvHead + 1)
    bad := (x.bad ++ page.poison).dedup }

/-- At a member that no record of the group names as its second parity node the page is added in as it is (R227). -/
theorem tget?_parity_addParity_of_first {p job group codePos pos : Nat} {page : PageImage} {s : State} {x : ParityPage}
    (hx : tget? (part s p).parity (parityKey group pos) = some x)
    (hfirst : ∀ e ∈ (part s p).placeRecs, e.2.codeGroup = group → e.2.parity1 ≠ s.node.nodeId) :
    tget? (part (addParity p job group codePos pos page s) p).parity (parityKey group pos) = some (addedPage page x) := by
  have hsecond : ((part s p).placeRecs.filter (fun e => e.2.codeGroup == group && (bitOf e.2.flags 3 || bitOf e.2.flags 2))).any
      (fun e => e.2.parity1 == s.node.nodeId) = false := by
    rw [List.any_eq_false]
    intro e he
    obtain ⟨hmem, hgroup⟩ := List.mem_filter.mp he
    simp only [Bool.and_eq_true, beq_iff_eq] at hgroup
    simpa using hfirst e hmem hgroup.1
  simp only [addParity, hx, hsecond, part_modPart, tget?_tset_self, Bool.false_eq_true, if_false]
  rfl

/-! ### An answer -/

/-- An answer to what is awaited ends the wait, tells of a new home where it names one, and has the effect of its kind. -/
theorem exec_fabricReply_of_awaited {conn tag status detail : Nat} {ret : List Byte} {w : Await} {s : State} (hlive : nodeLive s = true)
    (hw : (part s (connOf s (conn % 65536)).part).awaits.find? (fun w => w.conn == conn && w.tag == tag) = some w) :
    exec (.fabricReply conn tag status detail ret) s =
      (let p := (connOf s (conn % 65536)).part
       let u := modPart p (fun v => { v with awaits := v.awaits.filter (fun x => !(x.conn == conn && x.tag == tag)) }) s
       .next (answered p w status detail ret
        (if status = stStale && detail = 1 && w.kind ∉ [1, 3, 4, 5] then movedReply p w ret u else u))) := by
  change execFabricReply conn tag status detail ret s = _
  simp only [execFabricReply, fabricReply, hlive, hw, Bool.not_true, Bool.false_eq_true, if_false]

/-- Settles O26: a page that is newer than the mirror's lands, a page of a stream is added in, and an answer finds its wait. -/
theorem spanCopies : Obligations.SpanCopies := by
  unfold Obligations.SpanCopies
  intro conn i s hlive
  refine ⟨?resync, ?parity, fun tag status detail ret w hw => exec_fabricReply_of_awaited hlive hw⟩
  case resync =>
    intro job seq span epoch page k x q u hi p r pos hx hq hspan hepoch hnew hland
    exact exec_resyncPage_of_newer hlive hi rfl hx hq hspan hepoch hnew hland
  case parity =>
    intro job group codePos pos page hi p u
    exact ⟨exec_parityStream_of_more hlive hi job group codePos pos page, exec_parityStream_of_last hlive hi job group codePos pos page,
      fun x hx hfirst => ⟨_, tget?_parity_addParity_of_first hx hfirst, rfl, rfl, rfl⟩⟩

end Sys2Proof.Proofs

/-! The lease commands at a home and at an owner (R217, R219, R220, R221, R325; log 31, 115, 116). -/

namespace Sys2Proof.Proofs

open Sys2Proof Sys2Proof.Machine Sys2Proof.Laws

/-! ### At the home, for the sender's record -/

/-- A node-to-node lease command of an acceptable form for a span whose record this node holds as the sequence's home. -/
structure AtHome (c : Cmd) (handoff : Bool) (t : State) (ri : Nat) (r : PlaceRec) : Prop where
  fabric : c.fabric = true
  held : spanRec t c.part (leaseArg c.block).job (leaseArg c.block).seq (leaseArg c.block).span = some (ri, r)
  home : homeFor t c.part (leaseArg c.block).job (leaseArg c.block).seq = none
  met : homeBehind t c (leaseArg c.block).job (leaseArg c.block).seq = none
  ok : leaseOk c handoff false = true

/-- The state in which such a command acts: the epochs that it carries have been taken note of. -/
abbrev metLease (c : Cmd) (t : State) : State := meetCmd c (leaseArg c.block).job (leaseArg c.block).seq t

section
variable {id ri : Nat} {c : Cmd} {t : State} {r : PlaceRec}

theorem atHome_of_rec {handoff : Bool} (h : AtHome c handoff t ri r) (act : Nat → PlaceRec → State → State × Reply) :
    atHome c handoff act t = ((act ri r (metLease c t)).1, some (act ri r (metLease c t)).2) := by
  obtain ⟨hf, hrec, hhome, hmet, hok⟩ := h
  simp only [atHome, hf, hrec, hhome, hmet, hok, Option.orElse_none, Bool.not_true, Bool.false_eq_true, if_false]

section
variable (h : AtHome c false t ri r)
include h

/-- The record's owner acquires at its epoch or above (R219). -/
theorem cmdLeaseAcquire_of_owner (ho : r.owner = senderNode (metLease c t) c) (he : r.epoch ≤ c.epoch) :
    cmdLeaseAcquire id c t = (learnWhenHeld c.part r.job r.seq (grantRec c.part ri r.owner c.epoch (heldLease c) (metLease c t)),
      some (leaseRet c.epoch (heldOwner c))) := by
  simp only [cmdLeaseAcquire, atHome_of_rec h, Nat.not_lt.mpr he, ho, ne_eq, not_true_eq_false, if_false]

/-- The holder renews (R219). -/
theorem cmdLeaseRenew_of_holder (hr : (leaseArg c.block).record = 0) (he : r.epoch = c.epoch)
    (ho : r.holder = senderNode (metLease c t) c) :
    cmdLeaseRenew id c t = (grantRec c.part ri r.holder r.epoch (heldLease c) (metLease c t), some (leaseRet r.epoch (heldOwner c))) := by
  simp only [cmdLeaseRenew, atHome_of_rec h, hr, he, ho, zero_ne_one, ne_eq, not_true_eq_false, decide_false, Bool.or_self,
    Bool.false_eq_true, if_false]

/-- A release under the record's epoch drops the lease; of LEASE_RELEASE R219 checks nothing else. -/
theorem cmdLeaseRelease_of_epoch (he : r.epoch = c.epoch) :
    cmdLeaseRelease id c t = (dropLease c.part ri (metLease c t), some (leaseRet r.epoch 0)) := by
  simp only [cmdLeaseRelease, atHome_of_rec h, he, ne_eq, not_true_eq_false, if_false]

end

/-- An owner hands its span over at a greater epoch (R219). -/
theorem cmdHandoffAtHome_of_greater (h : AtHome c true t ri r) (he : r.epoch < c.epoch) :
    cmdHandoffAtHome id c t =
      (handOver c.part ri (leaseArg c.block).target (senderNode (metLease c t) c) c.epoch r (metLease c t),
        some (leaseRet c.epoch 0)) := by
  simp only [cmdHandoffAtHome, atHome_of_rec h, Nat.not_le.mpr he, if_false]

/-! ### The operator's commands -/

/-- A home record of which a renewal sets LEASE_END (R217). -/
def renewHome (p ri : Nat) (t : State) : State :=
  modRec p ri (fun r => { r with leaseEnd := now t + fabricSet t p 1, expired := false }) t

/-- The operator renews a home record, one that has expired too (R217; log 31). -/
theorem cmdLeaseRenew_of_operator (hf : c.fabric = false) (hp : c.part = 0) (hr : (leaseArg c.block).record = 1)
    (hn : homeNamed t (leaseArg c.block) = some (ri, r)) (hok : leaseOk c false true = true) (he : c.epoch = r.epoch) :
    cmdLeaseRenew id c t = (let u := renewHome (leaseArg c.block).part ri t
      (if r.expired then promptAll (leaseArg c.block).part u else u,
        some (leaseRet r.epoch (fabricSet u (leaseArg c.block).part 1)))) := by
  simp only [cmdLeaseRenew, hf, hp, hr, hn, hok, he, ne_eq, not_true_eq_false, decide_false, Bool.not_true, Bool.or_self,
    Bool.false_eq_true, if_true, if_false]
  rfl

/-- The operator has the holder of a span's lease hand it to its synced mirror (R219, R220; log 115, 116). -/
theorem cmdLeaseHandoff_of_operator {i : Nat} {x : SpanSt} (hf : c.fabric = false) (hp : c.part = 0)
    (hrec : spanRec t (leaseArg c.block).part (leaseArg c.block).job (leaseArg c.block).seq (leaseArg c.block).span = some (ri, r))
    (hok : leaseOk c true false = true) (he : c.epoch = 0 ∨ c.epoch = x.epoch) (hm : r.mirror = (leaseArg c.block).target)
    (hs : spanSynced r = true)
    (hx : spanSt t (leaseArg c.block).part (leaseArg c.block).job (leaseArg c.block).seq false = some (i, x))
    (hv : leaseValid t x = true) (hspan : x.span = (leaseArg c.block).span) (hh : x.handoff = none) :
    cmdLeaseHandoff id c t = (handoffsGo (leaseArg c.block).part (modSpan (leaseArg c.block).part i (fun x => { x with
      handoff := some (id, (leaseArg c.block).target, c.at_ + fabricSet t (leaseArg c.block).part 1) }) t), none) := by
  have hepoch : (decide (c.epoch ≠ 0) && decide (c.epoch ≠ x.epoch)) = false := by
    obtain he | he := he <;> simp [he]
  simp only [cmdLeaseHandoff, cmdHandoff, hf, hp, hrec, hok, hm, hs, hx, hv, hspan, hh, hepoch, ne_eq, not_true_eq_false, decide_false,
    Option.isSome_none, Bool.not_true, Bool.not_false, Bool.or_self, Bool.false_eq_true, if_true, if_false]

/-! ### The home's prompt at an owner -/

/-- A span's owner notes the home that prompts it, under the home's epoch (R221, R222). -/
def notePrompt (c : Cmd) (i : Nat) (u : State) : State :=
  modSpan c.part i (fun x => { x with home := extHome c, homeEpoch := c.homeEpoch, span := (leaseArg c.block).span }) u

/-- LEASE_ACQUIRE of a prompted owner at its home, over the connection `ci`, for the epoch `e` (R219, R221). -/
def askLease (c : Cmd) (ci e : Nat) (v : State) : State :=
  let a := leaseArg c.block
  askFabric c.part ci 0x0601 e c.homeEpoch e (extHome c) a.span 0 0 (toLe 4 a.job ++ toLe 6 a.seq ++ [BitVec.ofNat 8 a.span, 0] ++ zeros 20)
    { kind := 2, job := a.job, seq := a.seq, span := a.span, arg := e, homeEpoch := c.homeEpoch, us := heldOwner c } v

/-- A prompt of a home that is not behind is answered, and the owner asks for its lease. -/
theorem cmdPrompt_of_owner {i ci : Nat} {q : Seq} {x : SpanSt} {u : State}
    (hq : seqOf t c.part (seqKey (leaseArg c.block).job (leaseArg c.block).seq) = some q) (hok : leaseOk c true false = true)
    (htarget : (leaseArg c.block).target = t.node.nodeId) (hmet : homeBehind t c (leaseArg c.block).job (leaseArg c.block).seq = none)
    (hu : meetEpochs c.part (leaseArg c.block).job (leaseArg c.block).seq (leaseArg c.block).span c.epoch (extHome c) c.homeEpoch t = u)
    (hx : spanSt u c.part (leaseArg c.block).job (leaseArg c.block).seq false = some (i, x))
    (hci : fabricConn (notePrompt c i u) c.part (extHome c) = some ci) :
    cmdPrompt id c t = (askLease c ci
      (acquireEpoch (notePrompt c i u) c.part (leaseArg c.block).job (leaseArg c.block).seq c.epoch) (notePrompt c i u),
      some (leaseRet c.epoch 0)) := by
  subst hu
  unfold notePrompt at *
  simp only [cmdPrompt, hq, hok, htarget, hmet, hx, hci, Option.isNone_some, ne_eq, not_true_eq_false, decide_false, Bool.not_true,
    Bool.or_self, Bool.false_eq_true, if_false]
  rfl

end

/-- Settles O34: each command passes the checks of its form at the node that it names, and has its one effect there. -/
theorem leaseCommands : Obligations.LeaseCommands := by
  unfold Obligations.LeaseCommands
  intro src pkt s t id c a p
  refine ⟨?home, ?renew, ?handoff, ?prompted⟩
  case home =>
    intro ri r hf hrec hhome hmet u from_
    refine ⟨fun hok => ?_, fun hok hb he => ?_⟩
    · have h : AtHome c false t ri r := ⟨hf, hrec, hhome, hmet, hok⟩
      exact ⟨fun hb ho he => row_reply cmdLeaseAcquire hb rfl (cmdLeaseAcquire_of_owner h ho he),
        fun hb hr he ho => row_reply cmdLeaseRenew hb rfl (cmdLeaseRenew_of_holder h hr he ho),
        fun hb he => row_reply cmdLeaseRelease hb rfl (cmdLeaseRelease_of_epoch h he)⟩
    · have h : AtHome c true t ri r := ⟨hf, hrec, hhome, hmet, hok⟩
      exact row_reply _ hb rfl ((if_pos hf).trans (cmdHandoffAtHome_of_greater h he))
  case renew =>
    intro ri r hf hp hb hr hn hok he u
    exact row_reply cmdLeaseRenew hb rfl (cmdLeaseRenew_of_operator hf hp hr hn hok he)
  case handoff =>
    intro ri r i x hf hp hb hrec hok he hm hs hx hv hspan hh
    exact row_later cmdLeaseHandoff hb rfl (cmdLeaseHandoff_of_operator hf hp hrec hok he hm hs hx hv hspan hh)
  case prompted =>
    intro q i x ci hf hb hq hok htarget hmet u hx v e hci
    exact row_reply _ hb rfl ((if_pos hf).trans (cmdPrompt_of_owner hq hok htarget hmet rfl hx hci))

end Sys2Proof.Proofs

/-! The timers of ownership (R208, R213, R217 to R221). -/

namespace Sys2Proof.Proofs

open Sys2Proof Sys2Proof.Machine Sys2Proof.Laws

/-! ### At the home -/

/-- The sequences, held here or named by a span record, whose winning home record is the one given (R201). -/
def seqsOfHome (s : State) (p ri : Nat) : List (Nat × Nat) :=
  ((part s p).seqs.map (fun e => (e.2.job, e.2.seq)) ++
    ((part s p).placeRecs.filter (fun e => e.2.kind == 0x11)).map (fun e => (e.2.job, e.2.seq))).filter
    (fun e => (homeRec s p e.1 e.2).elim false (fun h => h.1 == ri))

section
variable {p ri : Nat} {s : State} {r : PlaceRec} (hlive : nodeLive s = true) (hphase : s.node.phase = .active)
  (hr : tget? (part s p).placeRecs ri = some r)
include hlive hphase hr

/-- A home record with HOME_LEASE whose time has come expires, and its sequences lose their home (R217). -/
theorem exec_homeRecordExpiry_of_due (hk : r.kind = 0x10) (hl : bitOf r.flags 4 = true) (ho : r.owner = s.node.nodeId)
    (he : r.expired = false) (hd : r.leaseEnd ≤ s.node.time) :
    exec (.homeRecordExpiry p ri) s = .next ((seqsOfHome s p ri).foldl (fun s e => loseHome p e.1 e.2 0 0 s)
      (modRec p ri (fun r => { r with expired := true }) s)) := by
  change execHomeRecordExpiry p ri s = _
  simp only [execHomeRecordExpiry, hlive, hr, hk, hl, ho, he, now, hd, latchWake_of_active hphase, decide_true, Bool.not_true,
    Bool.not_false, Bool.and_self, Bool.false_eq_true, if_true, if_false]
  rfl

/-- A lease that has run out is dropped, and the owner prompted (R221). -/
theorem exec_leaseExpiry_of_due (hk : r.kind = 0x11) (hh : r.holder ≠ 0xFFFF) (hd : r.leaseEnd ≤ s.node.time) :
    exec (.leaseExpiry p ri) s = .next (dropLease p ri s) := by
  change execLeaseExpiry p ri s = _
  simp [execLeaseExpiry, hlive, hr, hk, hh, now, hd, latchWake_of_active hphase]

/-- A prompt that has brought no holder is repeated (R221). -/
theorem exec_promptRepeat_of_due (hk : r.kind = 0x11) (hh : r.holder = 0xFFFF) (ha : r.promptAt ≠ 0) (hd : r.promptAt ≤ s.node.time) :
    exec (.promptRepeat p ri) s = .next (prompt p ri s) := by
  change execPromptRepeat p ri s = _
  simp [execPromptRepeat, hlive, hr, hk, hh, ha, now, hd, latchWake_of_active hphase]

end

/-! ### At the owner -/

section
variable {p job seq span i : Nat} {s : State} {x : SpanSt} (hlive : nodeLive s = true)
  (hx : spanSt s p job seq false = some (i, x)) (hspan : x.span = span)
include hlive hx hspan

/-- A home that owns the span renews its lease itself (R219). -/
theorem exec_renewTimer_of_home {u : State} {ri : Nat} {r : PlaceRec} (hphase : s.node.phase = .active)
    (hu : modSpan p i (fun x => { x with renewAt := now s + fabricSet s p 2 }) s = u) (hv : leaseValid s x = true)
    (hd : x.renewAt ≤ s.node.time) (hhome : isHome u p job seq = true) (hrec : spanRec u p job seq span = some (ri, r))
    (hh : r.holder = s.node.nodeId) (he : r.epoch = x.epoch) :
    exec (.renewTimer p job seq span) s = .next (holdLease p job seq span x.epoch (now u) (ownerTime u p) (myHomeEpoch u p job seq)
      (grantRec p ri r.holder r.epoch (fabricSet u p 1) u)) := by
  have hnode : r.holder = u.node.nodeId := by
    rw [hh, ← hu]
    rfl
  have hnow : ¬now s < x.renewAt := Nat.not_lt.mpr hd
  change execRenewTimer p job seq span s = _
  simp only [execRenewTimer, hlive, hx, hspan, hv, hnow, latchWake_of_active hphase, hu, hhome, hrec, hnode, he, ne_eq, not_true_eq_false,
    decide_false, decide_true, Bool.not_true, Bool.or_self, Bool.and_self, Bool.false_eq_true, if_true, if_false]

/-- GRACE after an owner's lease has ended, its reads end too (R208, R218). -/
theorem exec_ownerLeaseEnd_of_due (hv : x.valid = true) (hd : x.endAt + fabricSet s p 4 ≤ s.node.time) :
    exec (.ownerLeaseEnd p job seq span) s = .next (modSpan p i (fun x => { x with valid := false }) s) := by
  change execOwnerLeaseEnd p job seq span s = _
  simp [execOwnerLeaseEnd, hlive, hx, hspan, hv, now, hd]

end

/-- A handoff that its home has not answered in time ends with TIMEOUT (R219). -/
theorem exec_handoffTimeout_of_due {p job seq span i cmd node due : Nat} {s : State} {x : SpanSt} (hlive : nodeLive s = true)
    (hx : (part s p).spans.find? (fun e => e.2.job == job && e.2.seq == seq && e.2.span == span && e.2.handoff.isSome) = some (i, x))
    (hh : x.handoff = some (cmd, node, due)) (hd : due ≤ s.node.time) :
    exec (.handoffTimeout p job seq span) s =
      .next (conclude cmd (err stTimeout) (modSpan p i (fun x => { x with handoff := none }) s)) := by
  change execHandoffTimeout p job seq span s = _
  simp only [execHandoffTimeout, hlive, hx, hh, now, hd, Bool.not_true, Bool.false_eq_true, if_true, if_false]

/-- Settles O35: each timer finds its record or its lease due, on a node that has nothing to wake. -/
theorem leaseTimers : Obligations.LeaseTimers := by
  unfold Obligations.LeaseTimers
  intro p ri job seq span s hlive hphase
  refine ⟨fun r hr => ⟨?_, fun hk => ⟨?_, ?_⟩⟩, fun i x hx hspan => ⟨?_, ?_⟩, fun i x cmd node due => exec_handoffTimeout_of_due hlive⟩
  · exact exec_homeRecordExpiry_of_due hlive hphase hr
  · exact exec_leaseExpiry_of_due hlive hphase hr hk
  · exact exec_promptRepeat_of_due hlive hphase hr hk
  · exact fun ri r hv hd hhome hrec hh he => exec_renewTimer_of_home hlive hx hspan hphase rfl hv hd hhome hrec hh he
  · exact exec_ownerLeaseEnd_of_due hlive hx hspan

end Sys2Proof.Proofs

/-! The commands of the match index: entries, searches, cursors, the duty cap (R236, R238, R239, R247, R249, R320, R321). -/

namespace Sys2Proof.Proofs

open Sys2Proof Sys2Proof.Machine Sys2Proof.Laws

/-! ### MATCH_INSERT (R238, R320) -/

/-- The values of an inserted entry's units: as given, or the fingerprint of the token sequence (R241). -/
def insertVals (s : State) (p : Nat) (b : List Byte) : List Nat :=
  if u8 b 1 = 0 then (List.range (u8 b 0)).map (fun i => u64 b (0x20 + 8 * i))
  else fpUnits s p (u32 b 0x10) ((List.range (u32 b 0x14)).map (fun i => u32 b (0x20 + 4 * i))) (u32 b 0x14)

/-- The masks of an inserted entry's units: as given, or every bit of a fingerprint. -/
def insertMasks (b : List Byte) : List Nat :=
  if u8 b 1 = 0 then (List.range (u8 b 0)).map (fun i => u64 b (0x20 + 8 * u8 b 0 + 8 * i)) else [2 ^ 64 - 1, 2 ^ 64 - 1]

/-- A parameter block that MATCH_INSERT takes (R320). -/
structure InsertShape (s : State) (p : Nat) (b : List Byte) : Prop where
  width : u8 b 0 = 1 ∨ u8 b 0 = 2 ∨ u8 b 0 = 4
  flags : u8 b 2 ≤ 1
  hole : u8 b 3 = 0
  zero : zeroIn b 0x18 0x20 = true
  source :
    u8 b 1 = 0 ∧ b.length = 0x20 + 16 * u8 b 0 ∧ zeroIn b 0x10 0x18 = true ∧
      ((insertVals s p b).zip (insertMasks b)).all (fun e => Nat.land e.1 (2 ^ 64 - 1 - e.2) == 0) = true ∨
    u8 b 1 = 1 ∧ u8 b 0 = 2 ∧ 1 ≤ u32 b 0x14 ∧ u32 b 0x14 ≤ 4194304 ∧ b.length = 0x20 + 4 * u32 b 0x14

/-- The index at which an entry is to be placed: the one that the command names, or the lowest free one (R238). -/
def InsertIndex (s : State) (p : Nat) (b : List Byte) (idx : Nat) : Prop :=
  u32 b 4 ≠ 0xFFFFFFFF ∧ idx = u32 b 4 ∧ indexCheck s p idx (u8 b 0) = none ∨
    u32 b 4 = 0xFFFFFFFF ∧ freeEntry s p (u8 b 0) (fun k => k < placeBank0 (part s p).match_) = some idx

section
variable {s : State} {p : Nat} {b : List Byte}

/-- A block of the right shape passes the form check of its source. -/
theorem InsertShape.form (h : InsertShape s p b) :
    ((u8 b 0 = 1 || u8 b 0 = 2 || u8 b 0 = 4) && u8 b 1 ≤ 1 && u8 b 2 ≤ 1 && u8 b 3 == 0 && zeroIn b 0x18 0x20 &&
      (if u8 b 1 = 0 then b.length == 0x20 + 16 * u8 b 0 && zeroIn b 0x10 0x18
       else u8 b 0 == 2 && 1 ≤ u32 b 0x14 && u32 b 0x14 ≤ 4194304 && b.length == 0x20 + 4 * u32 b 0x14)) = true := by
  obtain ⟨hw, hf, hh, hz, hs⟩ := h
  rcases hs with ⟨h0, hlen, hz', _⟩ | ⟨h1, hw2, hn, hn', hlen⟩
  · simp [h0, hlen, hz', hf, hh, hz, hw, or_assoc]
  · simp [h1, hlen, hw2, hn, hn', hf, hh, hz]

/-- No value has a bit outside its mask (R232): the block was checked for it, and a fingerprint's mask has every bit. -/
theorem InsertShape.masked (h : InsertShape s p b) :
    ((insertVals s p b).zip (insertMasks b)).any (fun e => Nat.land e.1 (2 ^ 64 - 1 - e.2) != 0) = false := by
  rcases h.source with ⟨_, _, _, hin⟩ | ⟨h1, _⟩
  · rw [List.any_eq_false]
    intro e he
    simpa using List.all_eq_true.mp hin e he
  · simp [insertVals, insertMasks, fpUnits, h1]

end

section
variable {id ci : Nat} {c : Cmd} {t : State}

/-- An entry of a good block is written at its index where the cell is up, its bank at rest, and no entry there is to be kept; the
shadow records there have been read before (R238, R253; log 62, log 108). -/
theorem cmdMatchInsert_of_index {idx : Nat} (hshape : InsertShape t c.part c.block) (hidx : InsertIndex t c.part c.block idx)
    (hci : entryCell t c.part idx = some ci) (hup : cellUp t ci = true) (hrest : bankSwept t ci (idx % 1048576) = false)
    (hfree : entryValid (cell (readIndex c.part idx t) ci) (idx % 1048576) = false ∨ bitOf (u8 c.block 2) 0 = true) :
    cmdMatchInsert id c t =
      let u := putEntry ci (idx % 1048576) (u8 c.block 0) (insertVals t c.part c.block) (insertMasks c.block) (u64 c.block 8)
        (readIndex c.part idx t)
      (u, some (okRet (toLe 4 idx ++ toLe 2 (shadowAt (cell u ci) (idx % 1048576)).gen))) := by
  have hform := hshape.form
  have hmask := hshape.masked
  have hkeep : (entryValid (cell (readIndex c.part idx t) ci) (idx % 1048576) && !bitOf (u8 c.block 2) 0) = false := by
    rcases hfree with h | h <;> simp [h]
  unfold insertVals insertMasks at hmask ⊢
  rcases hidx with ⟨hnamed, rfl, hcheck⟩ | ⟨hany, hfound⟩
  · simp only [cmdMatchInsert, hform, hmask, hnamed, hcheck, hci, hup, hrest, hkeep, Bool.not_true, Bool.or_self, Bool.false_eq_true,
      if_false]
  · simp only [cmdMatchInsert, hform, hmask, hany, hfound, hci, hup, hrest, hkeep, Bool.not_true, Bool.or_self, Bool.false_eq_true,
      if_true, if_false]

/-! ### MATCH_DELETE (R239) -/

/-- A valid tenant entry of the generation named is deleted once its shadow records have been read (R239, R253; log 62). -/
theorem cmdMatchDelete_of_valid (hci : entryCell t c.part (u32 c.block 0) = some ci) (hlen : blockIs c 6 = true)
    (hten : unitBank (u32 c.block 0 % 1048576) < placeBank0 (part t c.part).match_)
    (hrest : bankSwept t ci (u32 c.block 0 % 1048576) = false)
    (hval : entryValid (cell (readIndex c.part (u32 c.block 0) t) ci) (u32 c.block 0 % 1048576) = true)
    (hgen : u16 c.block 4 = 0 ∨
      u16 c.block 4 = (shadowAt (cell (readIndex c.part (u32 c.block 0) t) ci) (u32 c.block 0 % 1048576)).gen) :
    cmdMatchDelete id c t =
      let r := readIndex c.part (u32 c.block 0) t
      (dropEntry ci (u32 c.block 0 % 1048576) (shadowAt (cell r ci) (u32 c.block 0 % 1048576)).width r, some (okRet [])) := by
  have hsame : (u16 c.block 4 ≠ 0 &&
      u16 c.block 4 ≠ (shadowAt (cell (readIndex c.part (u32 c.block 0) t) ci) (u32 c.block 0 % 1048576)).gen) = false := by
    rcases hgen with h | h <;> simp [h]
  simp only [cmdMatchDelete, hci, hlen, Nat.not_le.mpr hten, hrest, hval, hsame, Bool.not_true, Bool.false_eq_true, if_false]

end

/-! ### MATCH_SEARCH (R249) -/

/-- A search in its context, its cursors reserved before the keys join their batch (R247, R249). -/
def openSearch (id : Nat) (c : Cmd) (w n : Nat) (st : Bool) (t : State) : State :=
  let cur := if st then (cursorsFree t c.part).take n else []
  let u := modPart c.part (fun v => { v with cursors := cur.foldl (fun t i => tset t i { reserved := true }) v.cursors }) t
  modCtx (c.ctx.getD 0) (fun v => { v with
    cmd := id, search := { width := w, step := st, keys := n, cursors := cur }
    deadline := now u + heldSetting c 1 0 [10000] }) u

/-- The keys of a search as its batch holds them (R242). -/
def batchKeys (c : Cmd) (keys : List (List Nat × Nat)) : List BKey :=
  keys.zipIdx.map (fun e => { ctx := c.ctx.getD 0, key := e.2, parts := e.1.1, after := e.1.2 })

/-- A search that finds its cursors, a cell that is up and room for its reply joins its batch (R242, R249). -/
theorem cmdMatchSearch_of_args {id w : Nat} {c : Cmd} {t : State} {keys : List (List Nat × Nat)} {st : Bool}
    (hcur : bitOf (u8 c.block 3) 0 = true → min (u8 c.block 0) 32 ≤ (cursorsFree t c.part).length)
    (hcells : (partCells t c.part).isEmpty = false) (hargs : searchArgs t c.part c.block = some (w, keys, st))
    (hafter : ∀ k ∈ keys, afterPlaced t c.part k.2 = false) (hup : (partCells t c.part).filter (cellUp t) ≠ [])
    (hfits : fitsReply c (32 * keys.length) = true) :
    cmdMatchSearch id c t = (joinBatch c.part w (batchKeys c keys) (openSearch id c w keys.length st t), none) := by
  have hroom : (bitOf (u8 c.block 3) 0 && decide ((cursorsFree t c.part).length < min (u8 c.block 0) 32)) = false := by
    simpa only [Bool.and_eq_false_imp, decide_eq_false_iff_not, Nat.not_lt] using hcur
  have htenant : keys.any (fun k => afterPlaced t c.part k.2) = false := by
    simpa using hafter
  have hsome : ((partCells t c.part).filter (cellUp t)).isEmpty = false := List.isEmpty_eq_false_iff.mpr hup
  simp only [cmdMatchSearch, hroom, hcells, hargs, htenant, hsome, hfits, Bool.not_true, Bool.false_eq_true, if_false]
  rfl

/-! ### MATCH_STEP (R247, R311) -/

/-- Over good shadow records no read of an entry has a loss to report. -/
theorem lossWaits_of_good {s : State} {k : Nat} (h : ∀ u, ∀ x ∈ (shadowAt (cell s k) u).cls, x = 0) (p u : Nat) :
    lossWaits s p k u = false := by
  have hgood (w : Nat) : shadowBad (cell s k) u w = false := by
    rw [shadowBad, List.any_eq_false]
    intro i _ hbad
    obtain ⟨x, hx, h3⟩ := List.any_eq_true.mp hbad
    simp [h i x hx] at h3
  simp [lossWaits, hgood]

section
variable {id : Nat} {c : Cmd} {t : State} {v : Cursor} {recs : List (List Byte)} {sk : Nat} {left : List Hit}

/-- A cursor of the partition whose held entries have good shadow records: what a MATCH_STEP of `u8 c.block 2` matches finds. -/
structure Steps (c : Cmd) (t : State) (v : Cursor) (recs : List (List Byte)) (sk : Nat) (left : List Hit) : Prop where
  len : blockIs c 3 = true
  pos : 1 ≤ u8 c.block 2
  most : u8 c.block 2 ≤ 64
  found : tget? (part t c.part).cursors (u16 c.block 0) = some v
  mine : v.reserved = false
  fits : fitsReply c (24 * u8 c.block 2) = true
  taken : stepCursor t c.part 65 (u8 c.block 2) v.held = (recs, sk, left)
  good : ∀ h ∈ v.held, ∀ ci, entryCell t c.part h.index = some ci → ∀ u, ∀ x ∈ (shadowAt (cell t ci) u).cls, x = 0

/-- The cursor gives its matches with what is left of it, or with its end and where the search went on (R247, R311). -/
theorem cmdMatchStep_of_good (h : Steps c t v recs sk left) :
    cmdMatchStep id c t =
      (modPart c.part (fun q => { q with cursors :=
          (if left.isEmpty then tdel q.cursors (u16 c.block 0)
            else tset q.cursors (u16 c.block 0) { v with held := left, used := now t }) }) t,
        some (okPay (toLe 2 recs.length ++ toLe 2 sk ++ toLe 2 (b2n left.isEmpty + if left.isEmpty && v.more then 4 else 0) ++
          zeros 2 ++ toLe 8 (if left.isEmpty then v.restart else 0)) recs.flatten)) := by
  obtain ⟨hlen, hpos, hmost, hfound, hmine, hfits, htaken, hgood⟩ := h
  have hread : ∀ x ∈ v.held.take (v.held.length - left.length), x ∈ v.held := fun x => List.mem_of_mem_take
  have hwait : (v.held.take (v.held.length - left.length)).findSome?
      (fun h => (entryCell t c.part h.index).filter (fun k => lossWaits t c.part k (h.index % 1048576))) = none := by
    rw [List.findSome?_eq_none_iff]
    intro x hx
    rw [Option.filter_eq_none_iff]
    intro k hk
    simp [lossWaits_of_good (hgood x (hread x hx) k hk)]
  have hform : (!blockIs c 3 || decide (u8 c.block 2 = 0) || decide (64 < u8 c.block 2)) = false := by
    simp [hlen, hmost, Nat.ne_of_gt hpos]
  have hheld : tget v (part t c.part).cursors (u16 c.block 0) = v := by
    simp [tget, hfound]
  simp only [cmdMatchStep, hform, hfound, hmine, hfits, htaken, hwait,
    readIndex_fold_good _ (fun x hx => hgood x (hread x hx)), hheld, Bool.not_true, Bool.false_eq_true, if_false]

/-- A cursor with matches left keeps them and its time (R247). -/
theorem cmdMatchStep_of_more (h : Steps c t v recs sk left) (hleft : left ≠ []) :
    cmdMatchStep id c t =
      (modPart c.part (fun q => { q with cursors := tset q.cursors (u16 c.block 0) { v with held := left, used := now t } }) t,
        some (okPay (toLe 2 recs.length ++ toLe 2 sk ++ toLe 2 0 ++ zeros 2 ++ toLe 8 0) recs.flatten)) := by
  simp [cmdMatchStep_of_good h, hleft, b2n]

/-- A cursor at its end is freed, its end flagged with whether the search has more matches (R247, R311). -/
theorem cmdMatchStep_of_end (h : Steps c t v recs sk left) (hleft : left = []) :
    cmdMatchStep id c t =
      (modPart c.part (fun q => { q with cursors := tdel q.cursors (u16 c.block 0) }) t,
        some (okPay (toLe 2 recs.length ++ toLe 2 sk ++ toLe 2 (if v.more then 5 else 1) ++ zeros 2 ++ toLe 8 v.restart)
          recs.flatten)) := by
  rw [cmdMatchStep_of_good h, hleft]
  cases v.more <;> rfl

end

/-! ### MATCH_CONFIG (R236, R321) -/

/-- A tenant's configuration names no partition, no placement banks and no widths: the duty cap alone changes, each cell's buckets
filled up to now at the cap that held (R243, R321). -/
theorem cmdMatchConfig_of_dutyCap {id : Nat} {c : Cmd} {t : State} (htarget : u16 c.block 0 = 0xFFFF) (hbanks : u16 c.block 2 = 0xFFFF)
    (hcap : u8 c.block 4 ≤ 50) (hwidths : u8 c.block 5 = 0) (hplace : u8 c.block 6 = 0) (hz : zeroIn c.block 7 0x20 = true)
    (hlen : c.block.length = 0x20) :
    cmdMatchConfig id c t =
      (modPart c.part (fun v => { v with
        match_ := { (part t c.part).match_ with
          dutyCap := if u8 c.block 4 = 0 then (part t c.part).match_.dutyCap else u8 c.block 4 } })
        ((partCells t c.part).foldl (fun s k => modCell k (settleDuty s c.part) s) t), some (okRet [])) := by
  simp [cmdMatchConfig, htarget, hbanks, Nat.not_lt.mpr hcap, hwidths, hplace, hz, hlen]

/-- Settles O28: each command passes its checks, which leave its one effect; the entry and the cursor are read before they are
used. -/
theorem matchCommands : Obligations.MatchCommands := by
  unfold Obligations.MatchCommands
  intro src pkt s t id c b p
  refine ⟨?insert, ?delete, ?search, ?step, ?config⟩
  case insert =>
    intro idx ci w n vals masks hb hw hflags hhole hzero hsource hidx hci hup hrest r hfree u
    exact row_reply cmdMatchInsert hb rfl (cmdMatchInsert_of_index ⟨hw, hflags, hhole, hzero, hsource⟩ hidx hci hup hrest hfree)
  case delete =>
    intro ci k hb hci hlen hten hrest r hval hgen
    exact row_reply cmdMatchDelete hb rfl (cmdMatchDelete_of_valid hci hlen hten hrest hval hgen)
  case search =>
    intro w keys st hb hcur hcells hargs hafter hup hfits cur u x
    exact row_later cmdMatchSearch hb rfl (cmdMatchSearch_of_args hcur hcells hargs hafter hup hfits)
  case step =>
    intro v recs sk left n hb hlen hpos hmost hfound hmine hfits htaken hgood
    have h : Steps c t v recs sk left := ⟨hlen, hpos, hmost, hfound, hmine, hfits, htaken, hgood⟩
    exact ⟨fun hleft => row_reply cmdMatchStep hb rfl (cmdMatchStep_of_more h hleft),
      fun hleft => row_reply cmdMatchStep hb rfl (cmdMatchStep_of_end h hleft)⟩
  case config =>
    intro hb htarget hbanks hcap hwidths hplace hz hlen
    exact row_reply cmdMatchConfig hb rfl (cmdMatchConfig_of_dutyCap htarget hbanks hcap hwidths hplace hz hlen)

end Sys2Proof.Proofs

/-! Batches, sweeps and the patrol of the match array (R242 to R244, R247, R251 to R253). -/

namespace Sys2Proof.Proofs

open Sys2Proof Sys2Proof.Machine Sys2Proof.Laws

/-! ### Batches and their sweeps -/

section
variable {s : State} (hgo : s.dbg.frozen = false)
include hgo

/-- The oldest open batch of its bank set and width closes when a sweep of it can start in every cell that is up (R242). -/
theorem exec_batchClose_of_free {p i : Nat} {b : Batch} (hb : tget? (part s p).batches i = some b) (hopen : b.closed = false)
    (hfree : ∀ k ∈ (partCells s p).filter (cellUp s), (cell s k).sweeping = none ∧ (cell s k).sweeps = [] ∧ 360 ≤ sweepNs s k b)
    (hfirst : ∀ e ∈ (part s p).batches, e.1 < i → e.2.closed = true ∨ e.2.width ≠ b.width ∨ e.2.placement ≠ b.placement) :
    exec (.batchClose p i) s = .next (closeBatch p i s) := by
  have hcells : ((partCells s p).filter (cellUp s)).all (fun k =>
      (cell s k).sweeping.isNone && (cell s k).sweeps.isEmpty && decide (360 ≤ sweepNs s k b)) = true := by
    rw [List.all_eq_true]
    intro k hk
    obtain ⟨hsweep, hlist, hns⟩ := hfree k hk
    simp [hsweep, hlist, hns]
  have holdest : (part s p).batches.all (fun e =>
      decide (i ≤ e.1) || e.2.closed || e.2.width != b.width || e.2.placement != b.placement) = true := by
    rw [List.all_eq_true]
    intro e he
    rcases Nat.lt_or_ge e.1 i with hlt | hge
    · simpa [Nat.not_le.mpr hlt, or_assoc] using hfirst e he hlt
    · simp [hge]
  change execBatchClose p i s = _
  simp only [execBatchClose, hb, hgo, hopen, hcells, holdest, Bool.not_false, Bool.and_self, if_true]

section
variable {k i : Nat} {b : Batch}

/-- A cell under a sweep, its elements of the swept banks ahead of it, its bucket drawn on by a first sweep (R243, R265). -/
def underSweep (s : State) (k i : Nat) (b : Batch) (v : Cell) : Cell :=
  let v := { v with
    sweeping := some i
    sweepAhead := (v.banks.filter (fun e => sweepCovers (part s (cellOwner s k)).match_ b e.1 && !e.2.isEmpty)).map
      (fun e => (e.1, e.2.length)) }
  if secondSweep b then v
  else if b.placement then { v with placeDuty := { ns := sweepNs s k b - 360, at_ := now s } }
  else { v with tenantDuty := { ns := sweepNs s k b - 360, at_ := now s } }

/-- A sweep that may start takes the batch at the head of the cell's list (R243). -/
theorem exec_sweepStart_of_can (hcan : canSweep s k = true) (hhead : headBatch s k = some (i, b)) :
    exec (.sweepStart k) s = .next (modCell k (underSweep s k i b) s) := by
  change execSweepStart k s = _
  simp only [execSweepStart, hgo, hcan, hhead, Bool.not_true, Bool.or_self, Bool.false_eq_true, if_false]
  rfl

/-- What a cell reports for each key of a batch, with its failing candidates and all that their verification read (R244, R251). -/
def sweepReports (s : State) (k : Nat) (b : Batch) : List (KeyReport × List Nat × List Nat) :=
  b.keys.map (cellReport s k (((partCells s (cellOwner s k)).findIdx? (· == k)).getD 0) b)

/-- The shadow records that a sweep's verification read are counted, and failing candidates are rewritten (R49, R251). -/
def settleReports (k w : Nat) (rs : List (KeyReport × List Nat × List Nat)) (s : State) : State :=
  ((rs.flatMap (·.2.1)).dedup).foldl (fun s u => repairEntry k u w s) ((rs.flatMap (·.2.2)).foldl (fun s u => readFixed k u w s) s)

/-- A sweep that is done reports for its cell, and the writes that waited for it go (R240, R244, R251). -/
theorem exec_sweepDone_of_batch {u : State} (hsweep : (cell s k).sweeping = some i) (hahead : (cell s k).sweepAhead = [])
    (hu : modCell k (fun v => { v with sweeping := none, sweeps := v.sweeps.filter (· != i) }) s = u)
    (hb : tget? (part u (cellOwner s k)).batches i = some b) :
    exec (.sweepDone k) s = .next (writesGo k (reportBatch (cellOwner s k) i k (some ((sweepReports u k b).map (·.1)))
      (settleReports k b.width (sweepReports u k b) u))) := by
  have howner : cellOwner u k = cellOwner s k := by
    rw [← hu]
    rfl
  unfold settleReports sweepReports
  change execSweepDone k s = _
  simp only [execSweepDone, hgo, hsweep, hahead, hu, hb, howner, List.isEmpty_nil, Bool.not_true, Bool.false_eq_true, if_false]

end

/-! ### The patrol (R252, R253) -/

/-- The unit positions of a cell that the patrol has yet to compare. -/
def patrolAhead (v : Cell) : List Nat :=
  (v.units.map (·.1) ++ v.shadow.map (·.1)).filter (fun u => decide (v.patrolPos ≤ u))

/-- The unit that a shadow record stands for: its own, or the empty marker. -/
def vouchedUnit (sh : Shadow) : MUnit := if sh.valid then { value := sh.value, mask := sh.mask } else {}

/-- The patrol past a unit, its shadow record read. -/
def patrolPast (k u : Nat) (s : State) : State := readFixed k u 1 (modCell k (fun v => { v with patrolPos := u + 1 }) s)

/-- The patrol at a unit: compared with its shadow record, or its entry given up where the record cannot be read (R252, R253). -/
def patrolUnit (k u : Nat) (s : State) : State :=
  let sh := shadowAt (cell s k) u
  let w := max 1 sh.width
  if sh.cls.any (fun x => 3 ≤ x) then loseEntry k (u / w * w) w (patrolPast k u s)
  else if unitAt (cell s k) u = vouchedUnit sh then patrolPast k u s else repairEntry k u 1 (patrolPast k u s)

section
variable {k : Nat} (hup : cellUp s k = true) (hidle : (cell s k).sweeping = none) (hactive : s.node.phase = .active)
include hup hidle hactive

/-- The patrol runs in a powered cell that no sweep holds, on an Active node (R252). -/
theorem patrol_runs : (s.dbg.frozen || !cellUp s k || (cell s k).sweeping.isSome || s.node.phase != .active) = false := by
  simp [hgo, hup, hidle, hactive]

/-- With no unit left to compare the patrol has made its lap. -/
theorem exec_patrolCompare_of_end (h : minBy id (patrolAhead (cell s k)) = none) :
    exec (.patrolCompare k) s = .next (modCell k (fun v => { v with patrolPos := 0, patrolLap := true }) s) := by
  unfold patrolAhead at h
  change execPatrolCompare k s = _
  simp only [execPatrolCompare, patrol_runs hgo hup hidle hactive, h, Bool.false_eq_true, if_false]

theorem exec_patrolCompare_of_unit {u : Nat} (h : minBy id (patrolAhead (cell s k)) = some u) :
    exec (.patrolCompare k) s = .next (patrolUnit k u s) := by
  unfold patrolAhead at h
  change execPatrolCompare k s = _
  simp only [execPatrolCompare, patrol_runs hgo hup hidle hactive, h, Bool.false_eq_true, if_false]
  rfl

end
end

section
variable {k u : Nat} {s : State}

/-- A unit that differs from its shadow record is repaired from it. -/
theorem patrolUnit_of_good (h : (shadowAt (cell s k) u).cls.any (fun x => 3 ≤ x) = false) :
    patrolUnit k u s = if unitAt (cell s k) u = vouchedUnit (shadowAt (cell s k) u) then patrolPast k u s
      else repairEntry k u 1 (patrolPast k u s) := by
  simp only [patrolUnit, h, Bool.false_eq_true, if_false]

/-- The entry of a shadow record that cannot be read is given up whole. -/
theorem patrolUnit_of_bad (h : (shadowAt (cell s k) u).cls.any (fun x => 3 ≤ x) = true) :
    patrolUnit k u s = loseEntry k (u / max 1 (shadowAt (cell s k) u).width * max 1 (shadowAt (cell s k) u).width)
      (max 1 (shadowAt (cell s k) u).width) (patrolPast k u s) := by
  simp only [patrolUnit, h, if_true]

end

/-- A cursor that no command has reserved and none has used for 10 ms is freed (R247). -/
theorem exec_cursorTimeout_of_idle {p i : Nat} {s : State} {v : Cursor} (hlive : nodeLive s = true)
    (hv : tget? (part s p).cursors i = some v) (hmine : v.reserved = false) (hdue : v.used + 10000 ≤ s.node.time) :
    exec (.cursorTimeout p i) s = .next (modPart p (fun q => { q with cursors := tdel q.cursors i }) s) := by
  change execCursorTimeout p i s = _
  simp [execCursorTimeout, hlive, hv, hmine, now, hdue]

/-- Settles O29: each row finds its batch, its cell or its cursor ready, and a sweep that starts draws on one bucket at most. -/
theorem matchSweeps : Obligations.MatchSweeps := by
  unfold Obligations.MatchSweeps
  intro p i k s hgo
  refine ⟨fun b => exec_batchClose_of_free hgo, ?start, ?done, ?patrol, fun v => exec_cursorTimeout_of_idle⟩
  case start =>
    intro b hcan hhead
    refine ⟨_, exec_sweepStart_of_can hgo hcan hhead, ?_⟩
    rw [cell_modCell, underSweep]
    cases secondSweep b <;> cases b.placement <;> simp
  case done =>
    intro b hsweep hahead u hb rs
    exact exec_sweepDone_of_batch hgo hsweep hahead rfl hb
  case patrol =>
    intro hup hidle hactive pos
    refine ⟨exec_patrolCompare_of_end hgo hup hidle hactive, ?_, ?_⟩
    · intro u h hgood sh want v
      exact (exec_patrolCompare_of_unit hgo hup hidle hactive h).trans (congrArg _ (patrolUnit_of_good hgood))
    · intro u h hbad w
      exact (exec_patrolCompare_of_unit hgo hup hidle hactive h).trans (congrArg _ (patrolUnit_of_bad hbad))

end Sys2Proof.Proofs

/-! The frame of the addressed memory, and where it fails (R57, R95, R314). -/

namespace Sys2Proof.Proofs

open Sys2Proof Sys2Proof.Machine Sys2Proof.Laws

/-- 10 ms after a partition began to end no release of its lent pages is waited for, and its destruction ends (R95, R314). -/
theorem exec_lendReleaseWaitExpiry_of_destroying {s : State} {p : Nat} (hlive : nodeLive s = true) (hr : (part s p).inReset = true)
    (hd : (part s p).destroying = true) (ht : (part s p).resetAt + 10000 ≤ s.node.time) : exec (.lendReleaseWaitExpiry p) s =
    .next (finishDestroy p (modPart p (fun v => { v with awaits := v.awaits.filter (fun w => w.kind != 4) }) s)) := by
  change execLendReleaseWaitExpiry p s = _
  simp only [execLendReleaseWaitExpiry, hlive, hr, now, ht, part_modPart, hd, decide_true, Bool.and_self, Bool.not_true,
    Bool.false_eq_true, if_true, if_false]

/-- Partition 1 has been ending for 10 ms, the confirmation of a release still outstanding; the first byte of its cell's raw region
holds 7. -/
def endingPartition : State :=
  { State.reset with
    node := { State.reset.node with phase := .active, time := 10000 }
    parts := [(1, { exists_ := true, mask := 1, inReset := true, destroying := true, awaits := [{ kind := 4 }] })]
    cells := [(0, { pwr := { st := 0 } })]
    raw := [(0, 7)] }

/-- Refutes O7: LEND_RELEASE_WAIT_EXPIRY is not among the rows of `writesMemory`, yet where it ends a destruction R57 clears the
partition's raw rows (R95, R314): the byte 7 becomes 0. -/
theorem not_memoryFrame : ¬ Obligations.MemoryFrame := by
  unfold Obligations.MemoryFrame
  intro h
  have hstep := exec_lendReleaseWaitExpiry_of_destroying (s := endingPartition) (p := 1) (by decide) (by decide) (by decide) (by decide)
  have hsame := h (.lendReleaseWaitExpiry 1) endingPartition _ 0 rfl hstep
  exact absurd hsame (by decide)

end Sys2Proof.Proofs

/-! Bank-side work: BANK_OP, the elements of a bank's queue, BANK_OPSTAT (R256, R263 to R266, R269, R322). -/

namespace Sys2Proof.Proofs

open Sys2Proof Sys2Proof.Machine Sys2Proof.Laws

/-! ### BANK_OP (R263, R264) -/

/-- No element is the lowest that meets a condition where none meets it. -/
theorem firstElem_eq_none {n : Nat} {f : Nat → Bool} (h : ∀ j < n, f j = false) : firstElem n f = none := by
  simpa [firstElem, List.find?_eq_none] using h

/-- A BANK_OP that passes the checks of R264, in their order. -/
structure BankOpPasses (t : State) (c : Cmd) : Prop where
  room : ((part t c.part).ops.filter (fun o => !o.2.finished)).length < 64
  cells : (partCells t c.part).isEmpty = false
  some_ : 1 ≤ u16 c.block 0
  most : u16 c.block 0 ≤ 4096
  mode : u8 c.block 2 ≤ 1
  zero : zeroIn c.block 3 8 = true
  len : c.block.length = 0x60 + 16 * u16 c.block 0
  bounds : u32 c.block 8 = 0 ∧ u32 c.block 0xC = 0 ∨ ∃ j < u16 c.block 0, (elemAt c.block j).2.2.op = 0x13
  elems : ∀ j < u16 c.block 0, elemBad c.block j = false ∧ (elemAt c.block j).1 ∈ partCells t c.part ∧
    (elemAt c.block j).2.2.op ≠ 8 ∧ elemRegion t c (elemAt c.block j).2.2 = false ∧
    (3 ≤ (elemAt c.block j).2.2.op → rowRegion (part t c.part).layout (elemAt c.block j).2.2.rowD = 0)

/-- The state with element j of a BANK_OP at the end of its bank's queue. -/
def queueElem (b : List Byte) (op j : Nat) (s : State) : State :=
  modCell (elemAt b j).1 (fun v => { v with
    banks := tset v.banks (elemAt b j).2.1 (tget [] v.banks (elemAt b j).2.1 ++ [{ (elemAt b j).2.2 with opId := op, queuedAt := now s }]) }) s

/-- The state with a BANK_OP's elements queued in their order and its record made under the next number (R263). -/
def queueOp (id : Nat) (c : Cmd) (t : State) : State :=
  modPart c.part (fun v => { v with
      ops := tset v.ops (nextOpId t)
        { mode := u8 c.block 2, cmd := some id, ctx := c.ctx.getD 0, total := u16 c.block 0 } })
    ((List.range (u16 c.block 0)).foldl (fun s j => queueElem c.block (nextOpId t) j s)
      (modNode (fun v => { v with nextOp := v.nextOp + 1 }) t))

/-- In mode 1 a BANK_OP replies with its number once it is queued, and its record no longer names the command (R263). -/
def answerQueued (id : Nat) (c : Cmd) (op : Nat) (s : State) : State :=
  if u8 c.block 2 = 1 then modPart c.part (fun v => { v with ops := tmod v.ops op (fun o => { o with cmd := none }) })
    (complete id (okRet (toLe 4 op)) s)
  else s

/-- A BANK_OP that passes its checks is queued and answered as its mode says; its cells then meet its elements. -/
theorem cmdBankOp_of_passes {id : Nat} {c : Cmd} {t : State} (h : BankOpPasses t c) :
    cmdBankOp id c t = ((((List.range (u16 c.block 0)).map (fun j => (elemAt c.block j).1)).dedup).foldl (fun s k => meetCell k s)
      (answerQueued id c (nextOpId t) (queueOp id c t)), none) := by
  obtain ⟨hroom, hcells, hsome, hmost, hmode, hzero, hlen, hbounds, helems⟩ := h
  have hform : (u16 c.block 0 = 0 || 4096 < u16 c.block 0 || 1 < u8 c.block 2 || !zeroIn c.block 3 8 ||
      c.block.length ≠ 0x60 + 16 * u16 c.block 0) = false := by
    simp [Nat.ne_of_gt hsome, hmost, hmode, hzero, hlen]
  have hrange : ((u32 c.block 8 ≠ 0 || u32 c.block 0xC ≠ 0) &&
      !(List.range (u16 c.block 0)).any (fun i => (elemAt c.block i).2.2.op == 0x13)) = false := by
    rcases hbounds with ⟨hlo, hhi⟩ | ⟨j, hj, hop⟩
    · simp [hlo, hhi]
    · have hany : (List.range (u16 c.block 0)).any (fun i => (elemAt c.block i).2.2.op == 0x13) = true :=
        List.any_eq_true.mpr ⟨j, List.mem_range.mpr hj, by simp [hop]⟩
      simp [hany]
  have hgood := firstElem_eq_none fun j hj => (helems j hj).1
  have hmine : firstElem (u16 c.block 0) (fun i => (elemAt c.block i).1 ∉ partCells t c.part) = none :=
    firstElem_eq_none fun j hj => by simp [(helems j hj).2.1]
  have hknown : firstElem (u16 c.block 0) (fun i => (elemAt c.block i).2.2.op == 8) = none :=
    firstElem_eq_none fun j hj => by simp [(helems j hj).2.2.1]
  have hregion := firstElem_eq_none fun j hj => (helems j hj).2.2.2.1
  have hraw : firstElem (u16 c.block 0) (fun i => 3 ≤ (elemAt c.block i).2.2.op &&
      rowRegion (part t c.part).layout (elemAt c.block i).2.2.rowD ≠ 0) = none :=
    firstElem_eq_none fun j hj => by simpa using (helems j hj).2.2.2.2
  simp only [cmdBankOp, Nat.not_le.mpr hroom, hcells, hform, hrange, hgood, hmine, hknown, hregion, hraw, Bool.false_eq_true, if_false]
  rfl

/-! ### BANK_OPSTAT (R269, R322) -/

/-- The banks that still hold elements of an operation. -/
def busyBanks (t : State) (p op : Nat) : Nat :=
  sumBy (partCells t p) (fun k => ((cell t k).banks.filter (fun b => b.2.any (fun e => e.opId == op))).length)

/-- An operation has begun to run: an element of it has ended, or heads the queue of a bank that may execute it. -/
def opRuns (t : State) (p op : Nat) (o : BankOp) : Bool :=
  decide (0 < o.done) || (partCells t p).any (fun k => cellUp t k && (cell t k).banks.any (fun b =>
    (b.2.head?.map (·.opId)) == some op && bankFree t k b.1))

/-- What BANK_OPSTAT returns of an operation (R322). -/
def opStatus (t : State) (p op : Nat) (o : BankOp) : List Byte :=
  toLe 1 (if o.finished then 2 else if opRuns t p op o then 1 else 0) ++ toLe 1 o.flags ++ toLe 2 (if o.finished then o.status else 0) ++
    toLe 2 (if o.finished then o.detail else 0) ++ toLe 2 o.done ++ toLe 2 (busyBanks t p op)

/-- The state with an operation's record given up: gone where the operation has ended, else when it ends (R269). -/
def releaseOp (p op : Nat) (o : BankOp) (t : State) : State :=
  modPart p (fun v => { v with
    ops := if o.finished then tdel v.ops op else tmod v.ops op (fun o => { o with released := true }) }) t

section
variable {id : Nat} {c : Cmd} {t : State} (hlen : blockIs c 5 = true) (hflags : u8 c.block 4 ≤ 1)
include hlen hflags

/-- Asked for operation 0, BANK_OPSTAT counts the operations that have not ended. -/
theorem cmdBankOpstat_of_all (hop : u32 c.block 0 = 0) :
    cmdBankOpstat id c t =
      (t, some (okRet (zeros 10 ++ toLe 2 ((part t c.part).ops.filter (fun o => !o.2.finished)).length))) := by
  simp [cmdBankOpstat, hlen, Nat.not_lt.mpr hflags, hop]

/-- The record of a mode 1 operation is read, and given up where the command asks for it. -/
theorem cmdBankOpstat_of_op {o : BankOp} (hop : u32 c.block 0 ≠ 0) (ho : tget? (part t c.part).ops (u32 c.block 0) = some o)
    (hmode : o.mode ≠ 0) (hheld : o.released = false) :
    cmdBankOpstat id c t = (if u8 c.block 4 = 1 then releaseOp c.part (u32 c.block 0) o t else t,
      some (okRet (opStatus t c.part (u32 c.block 0) o))) := by
  have hform : (!blockIs c 5 || decide (1 < u8 c.block 4)) = false := by
    simp [hlen, hflags]
  simp only [cmdBankOpstat, hform, hop, ho, hmode, hheld, decide_false, Bool.or_self, Bool.false_eq_true, if_false]
  rfl

end

/-! ### The elements of a bank's queue (R265, R266) -/

/-- The queue of a bank with its head gone: the next element waits at the head from now on, and one fewer stands before a sweep. -/
def dropHead (k bank : Nat) (rest : List Elem) (u : State) : State :=
  modCell k (fun v => { v with
    banks := if rest.isEmpty then tdel v.banks bank else tset v.banks bank (headAt (now u) rest)
    sweepAhead := stepAhead bank v.sweepAhead }) u

/-- The state after an element of a gradient page's add, whose increment row waits for the last of the page (R193). -/
def noteIncrement (k bank : Nat) (e : Elem) (s : State) : State :=
  modCell k (fun v => { v with incDone := v.incDone ++ [(e.opId, bank, e.rowB)] }) s

/-- A page's add has elements left on the cell. -/
def addLeft (s : State) (k op : Nat) : Bool := (cell s k).banks.any (fun b => b.2.any (fun x => x.add.isSome && x.opId == op))

/-- The increment rows of a page's add are given back to their banks. -/
def freeIncrements (k op : Nat) (s : State) : State :=
  modCell k (fun v => { v with
    incRows := (v.incDone.filter (fun x => x.1 == op)).foldl (fun t x => tset t x.2.1 ((tget [] t x.2.1).erase x.2.2)) v.incRows
    incDone := v.incDone.filter (fun x => x.1 != op) }) s

/-- The page's add counts as done in its gradient set, where the set is still the one that began it. -/
def countAdd (q gs serial : Nat) (s : State) : State :=
  modGset q gs (fun g => if g.serial = serial then { g with adds := g.adds - 1, done := g.done + 1 } else g) s

/-- Nothing stops an element: the node is not frozen, its cell is powered, no sweep holds its bank (R265, R411). -/
theorem bankStep_unstopped {k bank : Nat} {s : State} (hgo : s.dbg.frozen = false) (hup : cellUp s k = true ∨ (cell s k).pwr.st = 5)
    (hfree : bankFree s k bank = true) :
    (s.dbg.frozen || !cellUp s k && decide ((cell s k).pwr.st ≠ 5) || !bankFree s k bank) = false := by
  rcases hup with h | h <;> simp [hgo, hfree, h]

section
variable {k bank fl : Nat} {s u : State} {e : Elem} {rest : List Elem} (hq : tget [] (cell s k).banks bank = e :: rest)
  (hgo : s.dbg.frozen = false)
include hq hgo

section
variable (hup : cellUp s k = true ∨ (cell s k).pwr.st = 5) (hfree : bankFree s k bank = true) (hrun : runElement k bank e s = (u, fl))
include hup hfree hrun

/-- An element of a BANK_OP runs and is counted by its operation (R269). -/
theorem exec_bankElementDone_of_op (hadd : e.add = none) :
    exec (.bankElementDone k bank) s = .next (endOp (cellOwner s k) e.opId
      (modOp (cellOwner s k) e.opId (fun o => { o with done := o.done + 1, flags := Nat.lor o.flags fl }) (dropHead k bank rest u))) := by
  change execBankElementDone k bank s = _
  simp only [execBankElementDone, bankStep, hq, bankStep_unstopped hgo hup hfree, hrun, hadd, Bool.false_eq_true, if_false]
  rfl

/-- An element of a page's add runs, and the last of the page gives back the page's increment rows and counts the add. -/
theorem exec_bankElementDone_of_add {q gs serial : Nat} (hadd : e.add = some (q, gs, serial)) :
    exec (.bankElementDone k bank) s = .next (
      let v := noteIncrement k bank e (dropHead k bank rest u)
      if addLeft v k e.opId then v else countAdd q gs serial (freeIncrements k e.opId v)) := by
  change execBankElementDone k bank s = _
  simp only [execBankElementDone, bankStep, hq, bankStep_unstopped hgo hup hfree, hrun, hadd, Bool.false_eq_true, if_false]
  rfl

end

/-- An element that has waited 2 µs at the head of its queue takes its bank (R266). -/
theorem exec_elementWaitExpiry_of_due (hup : cellUp s k = true) (hdue : e.queuedAt + 2 ≤ s.node.time) :
    exec (.elementWaitExpiry k bank) s =
      .next (modCell k (fun v => { v with banks := tset v.banks bank ({ e with first := true } :: rest) }) s) := by
  change execElementWaitExpiry k bank s = _
  simp [execElementWaitExpiry, hq, hgo, hup, now, Nat.not_lt.mpr hdue]

end

/-- A record goes 10 s after its operation's last element ended (R269). -/
theorem exec_opRecordExpiry_of_due {p op : Nat} {s : State} {o : BankOp} (hlive : nodeLive s = true)
    (ho : tget? (part s p).ops op = some o) (hdone : o.finished = true) (hdue : o.endAt + 10000000 ≤ s.node.time) :
    exec (.opRecordExpiry p op) s = .next (modPart p (fun v => { v with ops := tdel v.ops op }) s) := by
  change execOpRecordExpiry p op s = _
  simp [execOpRecordExpiry, hlive, ho, hdone, now, hdue]

/-- Settles O30: both commands pass their checks, and an element that may run leaves its bank to the next. -/
theorem bankOperations : Obligations.BankOperations := by
  unfold Obligations.BankOperations
  intro src pkt s t id c p k bank
  refine ⟨?op, ?stat, ?element, ?add, ?wait, fun op o => exec_opRecordExpiry_of_due⟩
  case op =>
    intro b n hb hroom hcells hsome hmost hmode hzero hlen hbounds helems u v
    exact row_later cmdBankOp hb rfl
      (cmdBankOp_of_passes ⟨hroom, hcells, hsome, hmost, hmode, hzero, hlen, hbounds, helems⟩)
  case stat =>
    intro fl op hb hlen hflags
    exact ⟨fun hop => row_reply cmdBankOpstat hb rfl (cmdBankOpstat_of_all hlen hflags hop),
      fun o hop ho hmode hheld => row_reply cmdBankOpstat hb rfl (cmdBankOpstat_of_op hlen hflags hop ho hmode hheld)⟩
  case element =>
    intro e rest fl u hq hgo hup hfree hadd hrun
    exact exec_bankElementDone_of_op hq hgo hup hfree hrun hadd
  case add =>
    intro e rest q gs serial fl u hq hgo hup hfree hadd hrun v left
    have hstep := exec_bankElementDone_of_add hq hgo hup hfree hrun hadd
    exact ⟨fun hleft => hstep.trans (congrArg _ (if_pos hleft)),
      fun hleft => hstep.trans (congrArg _ (if_neg (Bool.eq_false_iff.mp hleft)))⟩
  case wait =>
    intro e rest hq hgo hup hdue
    exact exec_elementWaitExpiry_of_due hq hgo hup hdue

end Sys2Proof.Proofs

/-! Command packets and the configuration commands: the packets that fail a check (R272, R280), the status reply and the completion that
sends it (R281), CONFIG_STAGE and CONFIG_COMMIT (R289, R291, R313). -/

namespace Sys2Proof.Proofs

open Sys2Proof Sys2Proof.Machine Sys2Proof.Laws

/-! ### A packet shorter than its header -/

/-- No check that follows order 1 is reached, whichever row the packet came to. -/
theorem submitOp_of_short {op : Nat} {src : Source} {pkt : Packet} {s : State} (hd : Handler) (hr : reaches src s = true)
    (ha : s.node.phase = .active) (hlen : pkt.bytes.length < 64) : submitOp op src pkt hd s = countMalformed src s := by
  simp [submitOp, submit, hr, hlen, latchWake_of_active ha]

/-- Settles O10: the row submits the packet, whose source counts it. -/
theorem shortPacketsAreDropped : Obligations.ShortPacketsAreDropped := by
  unfold Obligations.ShortPacketsAreDropped
  intro f q pkt s hr ha hlen
  exact congrArg _ (submitOp_of_short cmdNop hr ha hlen)

/-! ### The checks of the header, in the order of R280 -/

section
variable {s : State} {c : Cmd} {b : List Byte}

theorem headerCheck_of_wrongLength (h : b.length ≠ 64 + u32 b 0x0C ∨ pathLimit c.src < u32 b 0x0C) :
    headerCheck s c b = some (err stInvalid 0xFFF0) :=
  if_pos (by simpa using h)

variable (hlen : b.length = 64 + u32 b 0x0C) (harea : u32 b 0x0C ≤ pathLimit c.src)
include hlen harea

theorem headerCheck_of_otherVersion (h : u8 b 3 ≠ 1) : headerCheck s c b = some (err stUnsupported 1) := by
  simp [headerCheck, ← hlen, Nat.not_lt.mpr harea, h]

variable (hver : u8 b 3 = 1)
include hver

theorem headerCheck_of_unlisted (h : c.opcode ∉ opcodes) : headerCheck s c b = some (err stUnsupported 2) := by
  simp [headerCheck, ← hlen, Nat.not_lt.mpr harea, hver, h]

variable (hop : c.opcode ∈ opcodes)
include hop

/-- An opcode that an MCTP endpoint may not send (R272). -/
theorem headerCheck_of_offPath (hsrc : isMctp c.src = true) (h : mctpAllowed c.opcode = false) :
    headerCheck s c b = some (err stUnsupported 3) := by
  simp [headerCheck, ← hlen, Nat.not_lt.mpr harea, hver, hop, hsrc, h]

variable (hpath : (isMctp c.src && !mctpAllowed c.opcode) = false)
include hpath

theorem headerCheck_of_reservedFlags (h : bitsOf (u8 b 2) 2 5 ≠ 0) : headerCheck s c b = some (err stInvalid 0xFFF1) := by
  simp [headerCheck, ← hlen, Nat.not_lt.mpr harea, hver, hop, hpath, h]

/-- A packet of no FABRIC form from a source of none passes order 6 on its reserved bits alone, and names its issuer's partition. -/
theorem headerCheck_of_otherPartition (hflags : bitsOf (u8 b 2) 2 5 = 0) (hclass : u16 b 0x0A / 4 = 0) (hfab : c.fabric = false)
    (hsrc : srcFabric s c.src = false) (h : u16 b 8 ≠ c.part) : headerCheck s c b = some (err stNotFound) := by
  simp [headerCheck, ← hlen, Nat.not_lt.mpr harea, hver, hop, hpath, hflags, hclass, hfab, hsrc, h]

end

/-! ### The reply to a packet that fails a check -/

/-- The header's checks come before those of the module, the object and the reply buffer. -/
theorem firstCheck_of_header {s : State} {c : Cmd} {b : List Byte} {r : Reply} (h : headerCheck s c b = some r) :
    firstCheck c b s = some r := by
  simp [firstCheck, h]

/-- A packet that fails a check is answered, and its command never enrolled; RETRY_LATER alone draws a time (R280). -/
theorem submit_of_failed {src : Source} {pkt : Packet} {s : State} {r : Reply} (hd : Handler) (hr : reaches src s = true)
    (ha : s.node.phase = .active) (hlen : 64 ≤ pkt.bytes.length) (hf : firstCheck (parseCmd s src pkt) pkt.bytes s = some r)
    (hst : r.status ≠ stRetry) :
    submit src pkt hd s = handReply src (parseCmd s src pkt).tag (parseCmd s src pkt).part (parseCmd s src pkt).qos
      (parseCmd s src pkt).notify false r s := by
  simp [submit, hr, Nat.not_lt.mpr hlen, latchWake_of_active ha, hf, hst]

/-- An MCTP packet reaches the decoders of an Active node (R272). -/
theorem reaches_mctp {pcie : Bool} {s : State} (hlive : nodeLive s = true) (ha : s.node.phase = .active) :
    reaches (.mctp pcie) s = true := by
  simp [reaches, srcLive, hlive, ha]

/-- An MCTP packet's failing header check is answered as an MCTP response in the name of partition 0. -/
theorem submit_mctp_of_failed {pcie : Bool} {pkt : Packet} {s : State} {r : Reply} (hd : Handler) (hlive : nodeLive s = true)
    (ha : s.node.phase = .active) (hlen : 64 ≤ pkt.bytes.length)
    (hf : headerCheck s (parseCmd s (.mctp pcie) pkt) pkt.bytes = some r) (hst : r.status ≠ stRetry) :
    submit (.mctp pcie) pkt hd s = emit (.reply (.mctp pcie)
      (replyBytes (parseCmd s (.mctp pcie) pkt).tag (part s 0).inc s.node.nodeInc r) r.payload) s :=
  submit_of_failed hd (reaches_mctp hlive ha) ha hlen (firstCheck_of_header hf) hst

/-- Settles O11: each clause is its order's header check, answered. -/
theorem firstFailedCheckReplies : Obligations.FirstFailedCheckReplies := by
  unfold Obligations.FirstFailedCheckReplies
  intro pcie pkt s hlive ha _ _ hlen c b fails
  have answered {st detail : Nat} (hst : st ≠ stRetry) (hf : headerCheck s c b = some (err st detail)) : fails st detail :=
    submit_mctp_of_failed runOp hlive ha hlen hf hst
  have allowed (h : mctpAllowed c.opcode = true) : (isMctp c.src && !mctpAllowed c.opcode) = false := by simp [h]
  refine ⟨fun h => answered (by decide) (headerCheck_of_wrongLength h), fun hl hp =>
    ⟨fun hv => ?version, fun hv ho => ?opcode, fun hv ho hm => ?path, fun hv ho hm hf => ?reserved,
      fun hv ho hm hf hc hfab hpart => ?partition⟩⟩
  case version => exact answered (by decide) (headerCheck_of_otherVersion hl hp hv)
  case opcode => exact answered (by decide) (headerCheck_of_unlisted hl hp hv ho)
  case path => exact answered (by decide) (headerCheck_of_offPath hl hp hv ho rfl hm)
  case reserved => exact answered (by decide) (headerCheck_of_reservedFlags hl hp hv ho (allowed hm) hf)
  case partition =>
    exact answered (by decide) (headerCheck_of_otherPartition hl hp hv ho (allowed hm) hf hc hfab rfl hpart)

/-! ### Completion -/

/-- A command of an MCTP endpoint leaves the table, and its reply is handed over at once (R281, R284). -/
theorem complete_of_mctp {pcie : Bool} {id : Nat} {c : Cmd} {s : State} (r : Reply) (hc : tget? s.cmds id = some c)
    (hsrc : c.src = .mctp pcie) :
    complete id r s = emit (.reply (.mctp pcie) (replyBytes c.tag (part s c.part).inc s.node.nodeInc r) r.payload)
      { s with cmds := tdel s.cmds id } := by
  simp only [complete, hc, hsrc]
  rfl

/-- Settles O12: completion deletes the command's entry and emits its reply. -/
theorem completionReplies : Obligations.CompletionReplies := by
  unfold Obligations.CompletionReplies
  intro pcie id c r s hc hsrc
  rw [complete_of_mctp r hc hsrc]
  exact ⟨rfl, tget?_tdel_self _ _, fun j hj => tget?_tdel_ne _ hj⟩

/-! ### Little-endian fields of a byte string (R4) -/

@[simp] theorem toLe_length (n v : Nat) : (toLe n v).length = n := by
  induction n generalizing v with
  | zero => rfl
  | succ n ih => simp [toLe, ih]

/-- The bytes of a value read back as the value, cut to their number. -/
theorem leVal_toLe (n v : Nat) : leVal (toLe n v) = v % 256 ^ n := by
  induction n generalizing v with
  | zero => simp [toLe, leVal, Nat.mod_one]
  | succ n ih =>
    have hcut : v % 256 ^ (n + 1) = v % 256 + 256 * (v / 256 % 256 ^ n) := by rw [Nat.pow_succ', Nat.mod_mul]
    rw [toLe, leVal, ih, BitVec.toNat_ofNat, hcut]

/-- Bytes behind a field at the front of a string. -/
theorem slice_toLe_append {n off : Nat} (h : n ≤ off) (v len : Nat) (b : List Byte) :
    slice (toLe n v ++ b) off len = slice b (off - n) len := by
  simp [slice, List.drop_append, List.drop_eq_nil_of_le, h]

/-- A field behind another one at the front of a string. -/
theorem leAt_toLe_append {n off : Nat} (h : n ≤ off) (v len : Nat) (b : List Byte) :
    leAt (toLe n v ++ b) off len = leAt b (off - n) len :=
  congrArg leVal (slice_toLe_append h v len b)

/-- The field at the front of a string holds the value that was put there, where that fits. -/
theorem leAt_toLe_append_zero {n v : Nat} (h : v < 256 ^ n) (b : List Byte) : leAt (toLe n v ++ b) 0 n = v := by
  have hslice : slice (toLe n v ++ b) 0 n = toLe n v := by simp [slice]
  rw [leAt, hslice, leVal_toLe, Nat.mod_eq_of_lt h]

@[simp] theorem padTo_length (n : Nat) (b : List Byte) : (padTo n b).length = n := by
  simp only [padTo, zeros, List.length_append, List.length_take, List.length_replicate]
  omega

/-- A string that has its length already is not padded. -/
theorem padTo_of_length {n : Nat} {b : List Byte} (h : b.length = n) : padTo n b = b := by
  simp [padTo, zeros, ← h]

/-! ### The bytes of a status reply -/

/-- A status reply from its first field on. -/
theorem replyBytes_fields (tag pi ni : Nat) (r : Reply) :
    replyBytes tag pi ni r = toLe 4 tag ++ (toLe 2 r.status ++ (toLe 2 r.detail ++ (toLe 4 r.payload.length ++
      (toLe 2 pi ++ (toLe 2 ni ++ padTo 16 r.ret))))) := by
  simp [replyBytes, List.append_assoc]

/-- Settles O13: each field is read past those before it. -/
theorem replyLayout : Obligations.ReplyLayout := by
  unfold Obligations.ReplyLayout
  intro tag pi ni r htag hstatus hdetail hpay hpi hni b
  have hb : b = _ := replyBytes_fields tag pi ni r
  have field4 {v : Nat} (h : v < 2 ^ 32) (l : List Byte) : leAt (toLe 4 v ++ l) 0 4 = v := leAt_toLe_append_zero h l
  have field2 {v : Nat} (h : v < 2 ^ 16) (l : List Byte) : leAt (toLe 2 v ++ l) 0 2 = v := leAt_toLe_append_zero h l
  have hret (h : r.ret.length = 16) : slice (padTo 16 r.ret) 0 16 = r.ret := by
    rw [padTo_of_length h, ← h]
    simp [slice]
  rw [hb]
  refine ⟨by simp, ?fields⟩
  simpa [u16, u32, leAt_toLe_append, slice_toLe_append, field4 htag, field2 hstatus, field2 hdetail, field4 hpay, field2 hpi,
    field2 hni] using hret

/-! ### CONFIG_STAGE (R289, R313) -/

/-- The settings that a CONFIG_STAGE carries behind its 32 bytes. -/
def carriedVals (c : Cmd) : List Nat := (List.range (u32 c.block 12 / 4)).map (fun i => u32 c.block (32 + 4 * i))

/-- The entries of the staging set that the staging of an untargeted item leaves. -/
def otherStaged (t : State) (c : Cmd) : List Staged :=
  (part t c.part).staged.filter (fun g => !sameItem (u16 c.block 0) 0 g)

/-- What a CONFIG_STAGE passes to stage the settings of an untargeted item other than a calibration set (R289). -/
structure SettingsPass (t : State) (c : Cmd) : Prop where
  item : u16 c.block 0 ∈ itemList
  notCal : u16 c.block 0 ≠ 0x0011
  untargeted : targeted (u16 c.block 0) = false
  words : u32 c.block 12 % 4 = 0
  range : itemRange t c.part (u16 c.block 0) (carriedVals c) = true
  issuer : operatorOnlyItem (u16 c.block 0) = true → c.part = 0
  count : (otherStaged t c).length + 1 + (part t c.part).calStaged.length ≤ 64
  bytes : sumBy (otherStaged t c) (·.size) + u32 c.block 12 ≤ 16777216

section
variable {id : Nat} {c : Cmd} {t : State} (hzero3 : u8 c.block 3 = 0) (hzero10 : u16 c.block 10 = 0)
  (hzero : zeroIn c.block 16 32 = true) (hjob : u32 c.block 4 = 0) (htarget : u16 c.block 8 = 0)
include hzero3 hzero10 hzero hjob htarget

/-- ACTION 2 discards the partition's staging set. -/
theorem cmdConfigStage_of_discard (haction : u8 c.block 2 = 2) (hlen : c.block.length = 32) (hn : u32 c.block 12 = 0) :
    cmdConfigStage id c t =
      let u := bumpSerial c.part (modPart c.part (fun v => { v with staged := [], calStaged := [] }) t)
      (u, some (okRet (toLe 4 (part u c.part).stageSerial))) := by
  simp [cmdConfigStage, hzero3, hzero10, hzero, hjob, htarget, haction, hlen, hn]

/-- ACTION 0 stages the settings that the command carries, where they pass. -/
theorem cmdConfigStage_of_settings (haction : u8 c.block 2 = 0) (hlen : c.block.length = 32 + u32 c.block 12)
    (h : SettingsPass t c) :
    cmdConfigStage id c t =
      let u := stageItem c.part (u16 c.block 0) 0 (carriedVals c) (u32 c.block 12) t
      (u, some (okRet (toLe 4 (part u c.part).stageSerial))) := by
  obtain ⟨hitem, hcal, huntargeted, hwords, hrange, hissuer, hcount, hbytes⟩ := h
  have hauth : ¬(operatorOnlyItem (u16 c.block 0) = true ∧ ¬c.part = 0) := fun h => h.2 (hissuer h.1)
  unfold otherStaged at hcount hbytes
  unfold carriedVals at hrange ⊢
  simp [cmdConfigStage, hzero3, hzero10, hzero, hjob, htarget, haction, hlen, hitem, hcal, huntargeted, hwords, hrange, hauth,
    Nat.not_lt.mpr hcount, Nat.not_lt.mpr hbytes]

end

/-! ### CONFIG_COMMIT (R291, R313) -/

/-- The staging set is committed whole, where the serial is the one expected and no check of R291 fails. -/
theorem cmdConfigCommit_of_ok {id : Nat} {c : Cmd} {t : State} (hblock : blockIs c 0 = true)
    (hepoch : c.epoch = 0 ∨ c.epoch = (part t c.part).stageSerial)
    (hok : commitFail t c.part (part t c.part).staged (part t c.part).calStaged = none) :
    cmdConfigCommit id c t =
      let u := commitItems c.part (part t c.part).staged (part t c.part).calStaged t
      (u, some (okRet (toLe 4 (part u c.part).configGen ++ toLe 4 (part u c.part).stageSerial))) := by
  have hserial : (c.epoch ≠ 0 && c.epoch ≠ (part t c.part).stageSerial) = false := by
    rcases hepoch with h | h <;> simp [h]
  simp only [cmdConfigCommit, hblock, hserial, hok]
  rfl

/-- Settles O15: the meaning of each command on what it is given, then its conclusion. -/
theorem configCommands : Obligations.ConfigCommands := by
  unfold Obligations.ConfigCommands
  intro src pkt s t id c
  refine ⟨?discard, ?stage, ?commit⟩
  case discard =>
    intro hb haction hzero3 hzero10 hzero hlen hn hjob htarget
    refine ⟨_, row_reply cmdConfigStage hb rfl (cmdConfigStage_of_discard hzero3 hzero10 hzero hjob htarget haction hlen hn), ?_⟩
    simp [bumpSerial]
  case stage =>
    intro item n vals rest hb haction hzero3 hzero10 hzero hlen hjob htarget hitem hcal huntargeted hwords hrange hissuer hcount
      hbytes u
    exact row_reply cmdConfigStage hb rfl (cmdConfigStage_of_settings hzero3 hzero10 hzero hjob htarget haction hlen
      ⟨hitem, hcal, huntargeted, hwords, hrange, hissuer, hcount, hbytes⟩)
  case commit =>
    intro hb hblock hepoch hok u
    exact row_reply cmdConfigCommit hb rfl (cmdConfigCommit_of_ok hblock hepoch hok)

end Sys2Proof.Proofs

/-! Node commands: NOP, IDENTIFY, READ_STATE, METER_REPORT, EVENT_SUBSCRIBE (R303, R312, R315). -/

namespace Sys2Proof.Proofs

open Sys2Proof Sys2Proof.Machine Sys2Proof.Laws

/-! ### NOP and IDENTIFY (R312) -/

theorem cmdNop_of_block {id : Nat} {c : Cmd} {t : State} (hblock : blockIs c 0 = true) :
    cmdNop id c t = (t, some (okRet (toLe 8 t.node.time))) :=
  if_pos hblock

theorem cmdIdentify_of_room {id : Nat} {c : Cmd} {t : State} (hblock : blockIs c 0 = true) (hfit : fitsReply c 256 = true) :
    cmdIdentify id c t = (t, some (okPay [] (identity t))) := by
  simp [cmdIdentify, hblock, hfit]

/-! ### READ_STATE, METER_REPORT and EVENT_SUBSCRIBE (R303, R312, R315) -/

/-- What a READ_STATE of an object of the issuer's own partition passes before the window that it asks for (R312). -/
structure OwnObject (t : State) (c : Cmd) (rule : Nat) (o : StateObj) : Prop where
  kind : kindRule (u16 c.block 0) = some rule
  target : u16 c.block 2 = c.part ∨ u16 c.block 2 = 0xFFFF
  operator : rule = 0 → c.part = 0
  found : stateObj t c.part (u16 c.block 0) (slice c.block 16 16) = some o
  selector : allZero ((slice c.block 16 16).drop (selectorLen (u16 c.block 0) (slice c.block 16 16))) = true

theorem cmdReadState_of_own {id rule : Nat} {c : Cmd} {t : State} {o : StateObj} (h : OwnObject t c rule o)
    (hlen : c.block.length = 32) (hzero : zeroIn c.block 12 16 = true) (hpos : 0 < u32 c.block 8)
    (hmost : if isMctp c.src = true then u32 c.block 8 ≤ 4032 else u32 c.block 8 ≤ 1048576)
    (hoff : u32 c.block 4 < (objImage (u16 c.block 0) o).length) (hfit : fitsReply c (u32 c.block 8) = true) :
    cmdReadState id c t = (t, some (okPay (toLe 4 (objImage (u16 c.block 0) o).length ++ zeros 4 ++ toLe 8 o.version)
      (slice (objImage (u16 c.block 0) o) (u32 c.block 4)
        (min (u32 c.block 8) ((objImage (u16 c.block 0) o).length - u32 c.block 4))))) := by
  obtain ⟨hkind, htarget, hop, hfound, hsel⟩ := h
  have hpart : (if u16 c.block 2 = 0xFFFF then c.part else u16 c.block 2) = c.part := by
    split
    · rfl
    · exact htarget.resolve_right ‹_›
  have hseen : (if rule = 0 then c.part == 0 && c.part == 0 else c.part == c.part ||
      (c.part == 0 && rule == 1 && decide (c.part ≤ 24) && (part t c.part).exists_)) = true := by
    split
    · simp [hop ‹_›]
    · simp
  have hlimit : ¬(if isMctp c.src = true then 4032 else 1048576) < u32 c.block 8 := by
    cases hsrc : isMctp c.src <;> simpa [hsrc] using hmost
  simp only [cmdReadState, hkind, hpart, hseen, hfound, hsel, hlen, hzero, hfit, hlimit, Nat.ne_of_gt hpos, Nat.not_le.mpr hoff, if_true]
  rfl

theorem cmdMeterReport_of_own {id : Nat} {c : Cmd} {t : State} (hlen : c.block.length = 64) (hzero : zeroIn c.block 2 0x20 = true)
    (hpart : u16 c.block 0 = c.part) (hex : c.part = 0 ∨ (part t c.part).exists_ = true)
    (hfit : fitsReply c ((meterBody t c.part (t.node.reportSerial + 1) (slice c.block 0x20 32)).length + 96) = true) :
    cmdMeterReport id c t =
      let body := meterBody t c.part (t.node.reportSerial + 1) (slice c.block 0x20 32)
      (modNode (fun n => { n with reportSerial := t.node.reportSerial + 1 }) (signed body t).2,
        some (okPay [] (body ++ (signed body t).1))) := by
  have hknown : (c.part ≠ 0 && !(part t c.part).exists_) = false := by
    rcases hex with h | h <;> simp [h]
  simp only [cmdMeterReport, hlen, hzero, hpart, hknown, hfit]
  simp

/-- A subscription to a connection takes the place of its source's former one (R303, R315). -/
theorem cmdEventSubscribe_of_conn {id i : Nat} {c : Cmd} {t : State} (hblock : blockIs c 16 = true) (hkind : u8 c.block 8 = 1)
    (hzero : zeroIn c.block 9 12 = true) (hopen : u64 c.block 0 / 65536 = 0) (hmask : u64 c.block 0 ≠ 0)
    (hconn : connIdx t (u32 c.block 12) = some i) (hown : (connOf t i).part = c.part) (hcontrol : (connOf t i).kind = 1) :
    cmdEventSubscribe id c t = (modPart c.part (fun v => { v with
      subs := v.subs.filter (fun q => q.src != c.src) ++
        [{ src := c.src, part := c.part, mask := u64 c.block 0, conn := some (u32 c.block 12) }] }) t, some (okRet [])) := by
  simp [cmdEventSubscribe, hblock, hkind, hzero, hopen, hmask, hconn, hown, hcontrol]

/-- Settles O14: each command passes its checks, and its meaning then is the effect that the statement names. -/
theorem nodeCommands : Obligations.NodeCommands := by
  unfold Obligations.NodeCommands
  intro src pkt s t id c
  refine ⟨?nop, ?identify, ?readState, ?meterReport, ?eventSubscribe⟩
  case nop => exact fun hb hblock => row_reply cmdNop hb rfl (cmdNop_of_block hblock)
  case identify => exact fun hb hblock hfit => row_reply cmdIdentify hb rfl (cmdIdentify_of_room hblock hfit)
  case readState =>
    intro rule o kind sel off n b hb hkind htarget hop hfound hlen hzero hpos hmost hsel hoff hfit
    exact row_reply cmdReadState hb rfl (cmdReadState_of_own ⟨hkind, htarget, hop, hfound, hsel⟩ hlen hzero hpos hmost hoff hfit)
  case meterReport =>
    intro hb hlen hzero hpart hex serial body hfit
    exact row_reply cmdMeterReport hb rfl (cmdMeterReport_of_own hlen hzero hpart hex hfit)
  case eventSubscribe =>
    intro i hb hblock hkind hzero hopen hmask hconn hown hcontrol
    exact row_reply cmdEventSubscribe hb rfl (cmdEventSubscribe_of_conn hblock hkind hzero hopen hmask hconn hown hcontrol)

end Sys2Proof.Proofs

/-! Partitions made, destroyed and reset (R95, R314, R413, R440, R444; log 15, 33). -/

namespace Sys2Proof.Proofs

open Sys2Proof Sys2Proof.Machine Sys2Proof.Laws

/-! ### PARTITION_CREATE (R314) -/

@[simp] theorem part_setPart (p : Nat) (v : Partn) (s : State) : part (setPart p v s) p = v := by
  simp [part]

/-- A partition as its creation sets it up: in reset, with its cells, its layout and what its number keeps from before. -/
def newPart (id p : Nat) (c : Cmd) (t : State) : Partn :=
  { exists_ := true, inReset := true, creating := true, resetCmd := some id, resetAt := now t, mask := u32 c.block 4
    inc := (part t p).inc, gen := (part t p).gen, layout := layoutArg c.block, items := (part t p).items, log := (part t p).log
    resets := (part t p).resets, emerg := t.pwr.emerg }

/-- The partition with the default of its quota, where it has none. -/
def withQuota (p : Nat) (t : State) : State :=
  modPart p (fun v => { v with items := if thas v.items 0x0100 then v.items else tset v.items 0x0100 [quotaDefault t p] }) t

/-- Those of the cells that are off begin to come up (R413). -/
def wakeCells (cells : List Nat) (t : State) : State :=
  cells.foldl (fun s k => if cellUp s k then s else leaveCellOff k 0 0 none s) t

theorem wakeCells_parts (cells : List Nat) (t : State) : (wakeCells cells t).parts = t.parts := by
  refine foldl_same State.parts (fun s k => ?_) cells t
  split <;> rfl

/-- The state in which a new partition awaits its cells. -/
def created (id p : Nat) (c : Cmd) (t : State) : State :=
  wakeCells (bitList (u32 c.block 4) 24) (withQuota p (setPart p (newPart id p c t) t))

/-- Of what the creation sets up the quota alone is changed before the cells are up. -/
theorem part_created (id p : Nat) (c : Cmd) (t : State) :
    part (created id p c t) p = { newPart id p c t with items := (part (created id p c t) p).items } := by
  simp only [created, withQuota, part, wakeCells_parts, modPart_parts, tget_tset_self, setPart_parts]

theorem cmdPartitionCreate_of_free {id : Nat} {c : Cmd} {t : State} (hblock : blockIs c 20 = true) (hzero : zeroIn c.block 2 4 = true)
    (hlo : 1 ≤ u16 c.block 0) (hhi : u16 c.block 0 ≤ 24) (hmask : u32 c.block 4 ≠ 0) (hlt : u32 c.block 4 < 2 ^ 24)
    (hlayout : layoutOk (layoutArg c.block) = true)
    (hcells : ∀ k ∈ bitList (u32 c.block 4) 24, bitOf t.node.cellsPresent k = true ∧ cellOwner t k = 0)
    (hfree : (part t (u16 c.block 0)).exists_ = false) :
    cmdPartitionCreate id c t = (createReady (u16 c.block 0) (created id (u16 c.block 0) c t), none) := by
  have hpresent : (bitList (u32 c.block 4) 24).any (fun k => !bitOf t.node.cellsPresent k) = false :=
    List.any_eq_false.mpr (fun k hk => by simp [(hcells k hk).1])
  have howned : (bitList (u32 c.block 4) 24).any (fun k => cellOwner t k != 0) = false :=
    List.any_eq_false.mpr (fun k hk => by simp [(hcells k hk).2])
  simp only [cmdPartitionCreate, hblock, hzero, hmask, hlayout, hpresent, howned, hfree, Nat.ne_of_gt hlo, Nat.not_lt.mpr hhi,
    Nat.not_le.mpr hlt, decide_false, Bool.not_true, Bool.or_self, Bool.false_eq_true, if_false]
  rfl

/-! ### PARTITION_DESTROY (R314) -/

/-- A destruction marks the partition as one in reset that its command destroys, and fences it. -/
theorem destroyPart_begins (p id : Nat) (t : State) :
    ∃ u, destroyPart p id t = destroyGo p (fencePart p none u) ∧ (part u p).destroying = true ∧ (part u p).resetCmd = some id ∧
      (part u p).inReset = true :=
  ⟨_, rfl, by simp⟩

theorem cmdPartitionDestroy_of_exists {id : Nat} {c : Cmd} {t : State} (hblock : blockIs c 2 = true) (hlo : 1 ≤ u16 c.block 0)
    (hhi : u16 c.block 0 ≤ 24) (hex : (part t (u16 c.block 0)).exists_ = true) (hnew : (part t (u16 c.block 0)).destroying = false) :
    cmdPartitionDestroy id c t = (destroyPart (u16 c.block 0) id t, none) := by
  simp only [cmdPartitionDestroy, hblock, hex, hnew, Nat.ne_of_gt hlo, Nat.not_lt.mpr hhi, decide_false, Bool.not_true, Bool.or_self,
    Bool.false_eq_true, if_false]

/-- The end of a destruction completes its command, and the partition is no more. -/
theorem finishDestroy_of_cmd {p id : Nat} {s : State} (hcmd : (part s p).resetCmd = some id) :
    ∃ v, finishDestroy p s = conclude id (okRet []) v ∧ (part v p).exists_ = false := by
  simp only [finishDestroy, hcmd]
  exact ⟨_, rfl, by simp⟩

theorem destroyGo_of_released {p : Nat} {s : State} (hd : (part s p).destroying = true) (hr : releasesOut s p = []) :
    destroyGo p s = finishDestroy p s := by
  simp [destroyGo, hd, hr]

/-! ### The reset of a partition (R440, R444) -/

section
variable {p : Nat} {s : State} (hex : (part s p).exists_ = true) (hreset : (part s p).inReset = true)
  (hcreate : (part s p).creating = false) (hdestroy : (part s p).destroying = false) (hactive : s.node.phase = .active)
  (hfrozen : s.dbg.frozen = false) (hhalt : (3, p) ∉ s.dbg.halted)
include hex hreset hcreate hdestroy hactive hfrozen hhalt

/-- A reset that no command awaits takes the partition out of reset and tells of it. -/
theorem exec_partitionResetDone_of_released (hcmd : (part s p).resetCmd = none)
    (hrel : releasesOut s p = [] ∨ (part s p).resetAt + 10000 ≤ s.node.time) :
    let u := modPart p (fun v => { resetPartn v with inReset := false, resetCmd := none })
      (eraseP p (modFn p (fun f => { f with evt := {} }) (destroyConns p (closeDump false s))))
    exec (.partitionResetDone p) s = .next (postRecovery 3 0 (part s p).resetCause p (part u p).inc p u) := by
  have hrel : ((releasesOut s p).isEmpty || decide ((part s p).resetAt + 10000 ≤ now s)) = true := by
    rcases hrel with h | h <;> simp [h, now]
  have hgo : canFreeze s = true := by simp [canFreeze, hfrozen, hactive]
  change execPartitionResetDone p s = _
  simp only [execPartitionResetDone, hex, hreset, hcreate, hdestroy, hactive, hgo, hhalt, hcmd, hrel]
  rfl

theorem exec_partResetTimeout_of_due (hdue : (part s p).resetAt + 800000 ≤ s.node.time) :
    exec (.partResetTimeout p) s = .next (climb4 3 p (part s p).inc p (some p) s) := by
  have hwork : working_ s = true := by simp [working_, hfrozen, hactive]
  change execPartResetTimeout p s = _
  simp [execPartResetTimeout, hex, hreset, hcreate, hdestroy, hwork, hhalt, now, hdue]

end

/-- Settles O17: each command passes its checks and leaves the partition marked; a row finds its partition's reset done, its releases
late or its time over. -/
theorem partitionCommands : Obligations.PartitionCommands := by
  unfold Obligations.PartitionCommands
  intro src pkt s t id c p
  refine ⟨?create, ?destroy, ?released, ?late, ?done, ?timeout⟩
  case create =>
    rintro _ hb hblock hzero rfl hlo hhi rfl hmask hlt hlayout hcells hfree
    refine ⟨_, row_later cmdPartitionCreate hb rfl (cmdPartitionCreate_of_free hblock hzero hlo hhi hmask hlt hlayout hcells hfree), ?_⟩
    rw [part_created]
    exact ⟨rfl, rfl, rfl, rfl, rfl, rfl⟩
  case destroy =>
    rintro hb hblock rfl hlo hhi hex hnew
    obtain ⟨u, hu, hmarked⟩ := destroyPart_begins (u16 c.block 0) id t
    rw [row_later cmdPartitionDestroy hb rfl (cmdPartitionDestroy_of_exists hblock hlo hhi hex hnew), hu]
    exact ⟨u, rfl, hmarked⟩
  case released =>
    intro hd hcmd hr
    rw [destroyGo_of_released hd hr]
    exact finishDestroy_of_cmd hcmd
  case late =>
    intro hd hcmd hreset hlive hdue
    rw [exec_lendReleaseWaitExpiry_of_destroying hlive hreset hd hdue]
    have hleft : (part (modPart p (fun v => { v with awaits := v.awaits.filter (fun w => w.kind != 4) }) s) p).resetCmd = some id := by
      simpa using hcmd
    obtain ⟨v, hv, hgone⟩ := finishDestroy_of_cmd hleft
    exact ⟨v, congrArg _ hv, hgone⟩
  case done =>
    intro hex hreset hcreate hdestroy hactive hfrozen hcmd hhalt hrel u
    exact ⟨exec_partitionResetDone_of_released hex hreset hcreate hdestroy hactive hfrozen hhalt hcmd hrel, by simp [u]⟩
  case timeout =>
    intro hex hreset hcreate hdestroy hactive hfrozen hhalt hdue
    exact exec_partResetTimeout_of_due hex hreset hcreate hdestroy hactive hfrozen hhalt hdue

end Sys2Proof.Proofs

/-! SEQ_CREATE at a home (R58, R75, R200, R316). -/

namespace Sys2Proof.Proofs

open Sys2Proof Sys2Proof.Machine Sys2Proof.Laws

/-! ### SEQ_CREATE (R75, R316) -/

/-- What a sequence's parameter block passes at a home to begin the sequence (R316). -/
structure CreatePasses (t : State) (c : Cmd) : Prop where
  block : blockIs c 0x14 = true
  args : createOk t c.part (createArgs c.block) = true
  calibrated : (createArgs c.block).scaling = 2 → thas (part t c.part).cal (createArgs c.block).job = true
  fresh : thas (part t c.part).seqs (seqKey (createArgs c.block).job (createArgs c.block).seq) = false
  cells : (poolCells t c.part).isEmpty = false
  count : ((part t c.part).seqs.filter (fun e => e.2.hash % (partCells t c.part).length ==
    (createArgs c.block).hash % (partCells t c.part).length)).length < 131072
  level : c.pool.lowWm ≤ poolLevel t c.part

/-- A home makes the members that its placed spans name (R200). -/
def makeMembers (p : Nat) (q : Seq) (s : State) : State :=
  if isHome s p q.job q.seq then (spanRecs s p q.job q.seq).foldl (fun s e => createMembers p q e.2 (fun _ => true) s) s else s

theorem cmdSeqCreate_of_home {id : Nat} {c : Cmd} {t u : State} {b : Blk} (hf : c.fabric = false) (h : CreatePasses t c)
    (hroot : allocBlock c.part (blockCells t c.part (createArgs c.block) 0) 1 t = some (b, u)) :
    cmdSeqCreate id c t =
      let q := createArgs c.block
      (makeMembers c.part q (setSeq c.part (seqKey q.job q.seq) { q with blocks := [(0, b)], member := false } u),
        some (okRet (toLe 4 (seqHash q.job q.seq) ++ toLe 4 1))) := by
  obtain ⟨hblock, hargs, hcal, hfresh, hcells, hcount, hlevel⟩ := h
  have hbehind (job seq : Nat) : homeBehind t c job seq = none := by simp [homeBehind, hf]
  have hscale : (decide ((createArgs c.block).scaling = 2) && !thas (part t c.part).cal (createArgs c.block).job) = false := by
    by_cases h2 : (createArgs c.block).scaling = 2
    · simp [hcal h2]
    · simp [h2]
  simp only [cmdSeqCreate, hbehind, hblock, hargs, hscale, hfresh, hcells, Nat.not_le.mpr hcount, Nat.not_lt.mpr hlevel, hroot, hf,
    Option.isSome_none, Bool.not_true, Bool.or_self, Bool.false_and, Bool.false_eq_true, if_false]
  rfl

/-- Settles O19: at a home the command passes its checks and takes a place for the root block. -/
theorem sequenceCreation : Obligations.SequenceCreation := by
  unfold Obligations.SequenceCreation
  intro src pkt s t id c b u q p hb hf hblock hargs hcal hfresh hcells hcount hlevel hroot v
  have hdone := row_reply cmdSeqCreate hb (i := .seqCreate src pkt) rfl
    (cmdSeqCreate_of_home hf ⟨hblock, hargs, hcal, hfresh, hcells, hcount, hlevel⟩ hroot)
  refine ⟨hdone, ?_, rfl, rfl⟩
  simp [v, seqOf, setSeq]

end Sys2Proof.Proofs

/-! The transport commands: connections, associations, regions and receive buffers (R323, R324, R354, R355, R370, R371). -/

namespace Sys2Proof.Proofs

open Sys2Proof Sys2Proof.Machine Sys2Proof.Laws

/-! ### CONN_CREATE (R323, R355) -/

/-- What a connection's parameter block passes where its partition may have one more connection (R323). -/
structure ConnPasses (t : State) (c : Cmd) : Prop where
  block : blockIs c 0x30 = true
  mode : u8 c.block 0 ≤ 2
  flags : u8 c.block 1 < 4
  peerQpn : u32 c.block 8 < psnMod
  fabric : bitOf (u8 c.block 1) 0 = true →
    u8 c.block 0 = 1 ∧ u32 c.block 4 ≠ 0 ∧ u16 c.block 2 ≤ 0xFFF ∧ thas (part t c.part).keys (u32 c.block 4) = true
  plain : bitOf (u8 c.block 1) 0 = false → u16 c.block 2 = 0 ∧ u16 c.block 0xE = 0
  pool : u8 c.block 0xC ≤ 63
  port : u8 c.block 0xD ≤ 15
  quota : (t.conns.filter (fun e => e.2.part == c.part)).length < connQuota t c.part
  room : t.conns.length < 65536

/-- A connection as its creation sets it up, in INIT. -/
def newConn (c : Cmd) (reuse psn : Nat) : Conn :=
  { reuse := reuse, kind := if bitOf (u8 c.block 1) 0 then 2 else if bitOf (u8 c.block 1) 1 then 1 else 0
    mode := if u8 c.block 0 = 0 then 0 else 1, asked := u8 c.block 0, part := c.part, job := u32 c.block 4, peerQpn := u32 c.block 8
    peerNode := u16 c.block 2, peerPart := u16 c.block 0xE, pool := u8 c.block 0xC, port := u8 c.block 0xD
    peerAddr := slice c.block 0x10 16, localAddr := slice c.block 0x20 16, initPsn := psn % psnMod, startSet := u8 c.block 0 != 0
    cc := useCc (tget [256, 65535, 400, 55, 50, 1000] c.items 0x0101) {} }

/-- The state with the new connection at its index, whose reuse count has risen. -/
def openConn (c : Cmd) (ci psn : Nat) (t : State) : State :=
  { t with
    conns := tset t.conns ci (newConn c ((tget 0 t.reuse ci + 1) % 65536) psn)
    reuse := tset t.reuse ci ((tget 0 t.reuse ci + 1) % 65536) }

/-- The new connection asks its partner for its mode, on behalf of the command that waits for the answer (R355). -/
def askPartner (id ci : Nat) (t : State) : State :=
  let u := modConn ci (fun c => { c with capCmd := some id, capTries := 1, capDue := now t + 1000 }) t
  capSend ci 1 (peerIp u ci) u

@[simp] theorem connOf_openConn (c : Cmd) (ci psn : Nat) (t : State) :
    connOf (openConn c ci psn t) ci = newConn c ((tget 0 t.reuse ci + 1) % 65536) psn := by
  simp [connOf, openConn]

theorem thas_openConn (c : Cmd) (ci psn : Nat) (t : State) : thas (openConn c ci psn t).conns ci = true := by
  simp [thas, openConn]

@[simp] theorem capSend_conns (ci typ : Nat) (dst : List Byte) (t : State) : (capSend ci typ dst t).conns = t.conns := by
  unfold capSend
  split <;> rfl

theorem connOf_askPartner {id ci : Nat} {t : State} (h : thas t.conns ci = true) :
    connOf (askPartner id ci t) ci = { connOf t ci with capCmd := some id, capTries := 1, capDue := now t + 1000 } := by
  rw [← connOf_modConn ci (fun c => { c with capCmd := some id, capTries := 1, capDue := now t + 1000 }) t h]
  simp [connOf, askPartner]

/-- A connection in Standard mode is there at once; of any other the partner is asked first. -/
theorem cmdConnCreate_of_free {id ci : Nat} {c : Cmd} {t : State} (h : ConnPasses t c)
    (hci : findFree (thas t.conns) 65536 (t.conns.length + 1) ((draw t).1 % 65536) = some ci) :
    cmdConnCreate id c t = if u8 c.block 0 = 0 then
        let u := openConn c ci 0 (draw t).2
        (u, some (connRet u ci))
      else (askPartner id ci (openConn c ci (draw (draw t).2).1 (draw (draw t).2).2), none) := by
  obtain ⟨hblock, hmode, hflags, hqpn, hfab, hplain, hpool, hport, hquota, hroom⟩ := h
  have hform : (if bitOf (u8 c.block 1) 0 = true then u8 c.block 0 != 1 || u32 c.block 4 == 0 || decide (u16 c.block 2 > 0xFFF)
      else u16 c.block 2 != 0 || u16 c.block 0xE != 0) = false := by
    cases hf : bitOf (u8 c.block 1) 0 with
    | true =>
      obtain ⟨h1, h2, h3, _⟩ := hfab hf
      simp [h1, h2, h3]
    | false =>
      obtain ⟨h1, h2⟩ := hplain hf
      simp [h1, h2]
  have hkey : (bitOf (u8 c.block 1) 0 && !thas (part t c.part).keys (u32 c.block 4)) = false := by
    cases hf : bitOf (u8 c.block 1) 0 with
    | true => simp [(hfab hf).2.2.2]
    | false => rfl
  simp only [cmdConnCreate, hblock, Nat.not_lt.mpr hmode, Nat.not_le.mpr hflags, ge_iff_le, Nat.not_le.mpr hqpn, hform, hkey,
    Nat.not_lt.mpr hpool, Nat.not_lt.mpr hport, Nat.not_le.mpr hquota, Nat.not_le.mpr hroom, draw_conns, hci, decide_false, Bool.not_true,
    Bool.or_self, Bool.false_eq_true, if_false]
  split
  next h0 =>
    simp only [openConn, newConn, h0]
    rfl
  next h0 =>
    simp only [askPartner, openConn, newConn, h0]
    rfl

/-! ### CONN_MODIFY, CONN_DESTROY and SA_INSTALL (R323, R354) -/

section
variable {id ci : Nat} {c : Cmd} {t : State} (hci : connNamed t c = some ci)
include hci

section
variable (hblock : blockIs c 0x20 = true) (hzero6 : zeroIn c.block 6 8 = true) (hzeroC : zeroIn c.block 0xC 0x10 = true)
include hblock hzero6 hzeroC

/-- MASK 2 changes the class alone. -/
theorem cmdConnModify_of_class (hmask : u32 c.block 0 = 2) (hcls : u8 c.block 5 ≤ 3) :
    cmdConnModify id c t =
      let u := modConn ci (fun x => { x with cls := u8 c.block 5 }) t
      (u, some (okRet [BitVec.ofNat 8 (connOf u ci).state])) := by
  have hbits : bitOf 2 0 = false ∧ bitOf 2 1 = true ∧ bitOf 2 2 = false ∧ bitOf 2 3 = false := by decide
  obtain ⟨hb0, hb1, hb2, hb3⟩ := hbits
  simp [cmdConnModify, hci, hblock, hzero6, hzeroC, hmask, hb0, hb1, hb2, hb3, Nat.not_lt.mpr hcls]

/-- The connection after a change of its state: READY, ERROR or INIT again (R354). -/
def changeState (new ci : Nat) (t : State) : State :=
  if new = 1 then readyConn ci t else if new = 2 then failConn ci t else initConn ci t

/-- The changes of state that R354 lets a CONN_MODIFY make. -/
def mayChange (x : Conn) (new : Nat) : Bool :=
  (x.state == 0 && new == 1 && (x.mode != 0 || x.startSet) && (x.kind == 2 || (x.saOut.isSome && !x.saIn.isEmpty)) && x.capCmd.isNone) ||
    (x.state == 1 && new == 2) || (x.state == 2 && new == 0)

/-- MASK 1 changes the state alone. -/
theorem cmdConnModify_of_state (hmask : u32 c.block 0 = 1) (hmay : mayChange (connOf t ci) (u8 c.block 4) = true) :
    cmdConnModify id c t =
      let u := changeState (u8 c.block 4) ci t
      (u, some (okRet [BitVec.ofNat 8 (connOf u ci).state])) := by
  have hbits : bitOf 1 0 = true ∧ bitOf 1 1 = false ∧ bitOf 1 2 = false ∧ bitOf 1 3 = false := by decide
  obtain ⟨hb0, hb1, hb2, hb3⟩ := hbits
  unfold mayChange at hmay
  simp only [cmdConnModify, hci, hblock, hzero6, hzeroC, hmask, hb0, hb1, hb2, hb3, hmay, changeState, Nat.reduceLeDiff, decide_false,
    Bool.or_false, Bool.false_and, Bool.true_and, Bool.not_true, Bool.or_self, Bool.false_eq_true, if_true, if_false]

end

theorem cmdConnDestroy_of_named (hblock : blockIs c 0 = true) : cmdConnDestroy id c t = (destroyConn ci t, some (okRet [])) := by
  simp [cmdConnDestroy, hci, hblock]

/-- The association that an SA_INSTALL carries. -/
def carriedSa (c : Cmd) : Sa := { spi := u32 c.block 4, kcv := kcvOf (slice c.block 0x20 32) }

section
variable (hblock : blockIs c 0x40 = true) (hzero1 : zeroIn c.block 1 4 = true) (hzeroC : zeroIn c.block 0xC 0x20 = true)
  (hspi : u32 c.block 4 < 2 ^ 31) (hkind : (connOf t ci).kind ≠ 2)
include hblock hzero1 hzeroC hspi hkind

theorem cmdSaInstall_of_outbound (hdir : u8 c.block 0 = 0) :
    cmdSaInstall id c t =
      (modConn ci (fun x => { x with saOut := some (carriedSa c) }) t, some (okRet (toLe 4 (carriedSa c).kcv))) := by
  simp only [cmdSaInstall, carriedSa, hci, hblock, hzero1, hzeroC, Nat.not_le.mpr hspi, hkind, hdir]
  simp

theorem cmdSaInstall_of_inbound (hdir : u8 c.block 0 = 1) (hroom : (connOf t ci).saIn.length < 2) :
    cmdSaInstall id c t =
      (modConn ci (fun x => { x with saIn := x.saIn ++ [carriedSa c] }) t, some (okRet (toLe 4 (carriedSa c).kcv))) := by
  simp only [cmdSaInstall, carriedSa, hci, hblock, hzero1, hzeroC, Nat.not_le.mpr hspi, hkind, hdir, Nat.not_le.mpr hroom]
  simp

end
end

/-! ### Regions and receive buffers (R324, R370, R371) -/

/-- What a region's parameter block passes in the raw region of its partition's cells (R324). -/
structure RegionPasses (t : State) (c : Cmd) : Prop where
  block : blockIs c 0x14 = true
  access : u8 c.block 1 ≤ 1
  zero : zeroIn c.block 2 8 = true
  length : 0 < u32 c.block 0x10
  start : u64 c.block 8 < 2048 * (rawRows t c.part * 1024)
  inside : u64 c.block 8 % max 1 (rawRows t c.part * 1024) + u32 c.block 0x10 ≤ rawRows t c.part * 1024
  slots : rawRows t c.part - heldSetting c 0x30 0 [0] ≤ u64 c.block 8 % max 1 (rawRows t c.part * 1024) / 1024
  cell : u8 c.block 0 ∈ partCells t c.part

/-- The region of a block, under the key that its entry and a drawn number make. -/
def newRegion (c : Cmd) (i drawn : Nat) : Region :=
  { rkey := (drawn % (2 ^ 20 - 1) + 1) * 4096 + i, cell := u8 c.block 0, off := u64 c.block 8, len := u32 c.block 0x10
    writable := u8 c.block 1 == 1 }

/-- The state with the new region at its entry. -/
def registered (c : Cmd) (i : Nat) (t : State) : State :=
  modPart c.part (fun v => { v with regions := tset v.regions i (newRegion c i (draw t).1) }) (draw t).2

theorem region_registered (c : Cmd) (i : Nat) (t : State) :
    tget? (part (registered c i t) c.part).regions i = some (newRegion c i (draw t).1) := by
  simp [registered]

theorem cmdRegionRegister_of_free {id i : Nat} {c : Cmd} {t : State} (h : RegionPasses t c)
    (hi : findFree (thas (part t c.part).regions) 4096 4096 0 = some i) :
    cmdRegionRegister id c t =
      (registered c i t, some (okRet (toLe 4 (newRegion c i (draw t).1).rkey))) := by
  obtain ⟨hblock, haccess, hzero, hlen, hstart, hend, hslots, hcell⟩ := h
  simp only [cmdRegionRegister, hblock, Nat.not_lt.mpr haccess, hzero, Nat.ne_of_gt hlen, Nat.not_le.mpr hstart, Nat.not_lt.mpr hend,
    Nat.not_lt.mpr hslots, hcell, hi, decide_false, Bool.not_true, Bool.or_self, Bool.false_eq_true, not_true_eq_false, if_false]
  rfl

theorem cmdRegionRevoke_of_named {id i : Nat} {c : Cmd} {t : State} {r : Region} (hr : regionOf t c.part c.objectId = some (i, r))
    (hblock : blockIs c 0 = true) (hlive : r.revoking = false) :
    cmdRegionRevoke id c t = (revokeCheck c.part i (modRegion c.part i (fun r => { r with
        revoking := true, refused := 0, revokeCmd := some id })
      (modPart c.part (fun v => { v with
        pools := v.pools.map (fun e => (e.1, { e.2 with bufs := e.2.bufs.filter (fun q => q.rkey != r.rkey) })) }) t)), none) := by
  simp [cmdRegionRevoke, hr, hblock, hlive]

/-- The buffers that an SRQ_POST carries. -/
def carriedBufs (c : Cmd) : List Buf :=
  (List.range (u16 c.block 2)).map (fun i =>
    { rkey := u32 c.block (0x20 + 16 * i), len := u32 c.block (0x24 + 16 * i), off := u64 c.block (0x28 + 16 * i) })

/-- The buffer length of the pool that an SRQ_POST names: that of the first buffer posted (R324). -/
def postLen (t : State) (c : Cmd) : Nat :=
  if (tget {} (part t c.part).pools (u8 c.block 0)).posted = 0 then ((carriedBufs c).headD {}).len
  else (tget {} (part t c.part).pools (u8 c.block 0)).bufLen

theorem cmdSrqPost_of_room {id : Nat} {c : Cmd} {t : State} (hlo : 1 ≤ u16 c.block 2) (hhi : u16 c.block 2 ≤ 4096)
    (hlen : c.block.length = 0x20 + 16 * u16 c.block 2) (hzero1 : u8 c.block 1 = 0) (hzero4 : zeroIn c.block 4 0x20 = true)
    (hpool : u8 c.block 0 ≤ 63)
    (hgood : ∀ q ∈ carriedBufs c, q.len = postLen t c ∧ 1 ≤ q.len ∧
      ∃ e, regionOf t c.part q.rkey = some e ∧ e.2.revoking = false ∧ q.off + q.len ≤ e.2.len)
    (hroom : (tget {} (part t c.part).pools (u8 c.block 0)).bufs.length + u16 c.block 2 ≤ 16384) :
    cmdSrqPost id c t =
      (modPool c.part (u8 c.block 0) (fun v => { v with
        bufLen := postLen t c
        bufs := v.bufs ++ carriedBufs c
        posted := v.posted + u16 c.block 2 }) t, some (okRet (toLe 4 (u16 c.block 2)))) := by
  unfold postLen carriedBufs at *
  simp only [cmdSrqPost, Nat.ne_of_gt hlo, Nat.not_lt.mpr hhi, hlen, hzero1, hzero4, Nat.not_lt.mpr hpool, Nat.not_lt.mpr hroom, ne_eq,
    not_true_eq_false, decide_false, Bool.not_true, Bool.or_self, if_false, Bool.false_or]
  rw [if_neg]
  simp only [Bool.not_eq_true', Bool.not_eq_false, List.all_eq_true]
  intro q hq
  obtain ⟨hwant, hone, ⟨j, r⟩, hr, hfree, hin⟩ := hgood q hq
  simp only at hfree hin
  simp only [hr, hfree, hin, ← hwant, hone]
  simp

/-- Settles O31: each command passes its checks on what it names, and its meaning then is the effect that the statement names. -/
theorem connectionCommands : Obligations.ConnectionCommands := by
  unfold Obligations.ConnectionCommands
  intro src pkt s t id c b p
  refine ⟨?create, ?named, ?register, ?revoke, ?post⟩
  case create =>
    intro ci mode fab hb hblock hmode hflags hqpn hfab hplain hpool hport hquota hroom hci
    have hdone := row_after (x := .connCreate src pkt) cmdConnCreate hb rfl
      (cmdConnCreate_of_free ⟨hblock, hmode, hflags, hqpn, hfab, hplain, hpool, hport, hquota, hroom⟩ hci)
    by_cases h0 : mode = 0
    · refine ⟨openConn c ci 0 (draw t).2, ?_, ?_⟩
      · rw [hdone, if_pos h0, if_pos h0]
        rfl
      · rw [connOf_openConn, draw_reuse]
        exact ⟨rfl, rfl, rfl, (if_pos h0).symm, rfl, rfl, rfl, rfl, rfl, rfl, rfl⟩
    · refine ⟨askPartner id ci (openConn c ci (draw (draw t).2).1 (draw (draw t).2).2), ?_, ?_⟩
      · rw [hdone, if_neg h0, if_neg h0]
        rfl
      · rw [connOf_askPartner (thas_openConn c ci _ _), connOf_openConn, draw_reuse, draw_reuse]
        exact ⟨rfl, rfl, rfl, (if_neg h0).symm, rfl, rfl, rfl, rfl, rfl, rfl, rfl⟩
  case named =>
    intro ci hci
    refine ⟨fun hb hblock hzero6 hzeroC => ⟨?classOnly, ?state⟩, ?destroy,
      fun hb hblock hzero1 hzeroC hspi hkind => ⟨?outbound, ?inbound⟩⟩
    case classOnly =>
      intro hmask hcls u
      exact row_reply cmdConnModify hb rfl (cmdConnModify_of_class hci hblock hzero6 hzeroC hmask hcls)
    case state =>
      intro hmask x
      have change (hmay : mayChange x (u8 b 4) = true) :=
        row_reply (i := .connModify src pkt) cmdConnModify hb rfl (cmdConnModify_of_state hci hblock hzero6 hzeroC hmask hmay)
      refine ⟨fun hst hnew hstart hsa hcap => ?_, fun hst hnew => ?_, fun hst hnew => ?_⟩
      · rw [hnew] at change
        exact change (by simp [mayChange, hst, hstart, hsa, hcap])
      · rw [hnew] at change
        exact change (by simp [mayChange, hst])
      · rw [hnew] at change
        exact change (by simp [mayChange, hst])
    case destroy => exact fun hb hblock => row_reply cmdConnDestroy hb rfl (cmdConnDestroy_of_named hci hblock)
    case outbound =>
      exact fun hdir => row_reply cmdSaInstall hb rfl (cmdSaInstall_of_outbound hci hblock hzero1 hzeroC hspi hkind hdir)
    case inbound =>
      exact fun hdir hroom => row_reply cmdSaInstall hb rfl (cmdSaInstall_of_inbound hci hblock hzero1 hzeroC hspi hkind hdir hroom)
  case register =>
    intro i share off hb hblock haccess hzero hlen hstart hend hslots hcell hi
    refine ⟨_, _, row_reply cmdRegionRegister hb rfl
      (cmdRegionRegister_of_free ⟨hblock, haccess, hzero, hlen, hstart, hend, hslots, hcell⟩ hi), ?_, newRegion c i (draw t).1, ?_⟩
    · rw [newRegion, Nat.mul_add_mod_self_right]
    · exact ⟨region_registered c i t, rfl, rfl, rfl, rfl, rfl⟩
  case revoke =>
    intro i r hb hr hblock hlive
    exact row_after cmdRegionRevoke hb rfl (cmdRegionRevoke_of_named hr hblock hlive)
  case post =>
    rintro _ n v want hb rfl hlo hhi hlen hzero1 hzero4 hpool hgood hroom
    exact row_reply cmdSrqPost hb rfl (cmdSrqPost_of_room hlo hhi hlen hzero1 hzero4 hpool hgood hroom)

end Sys2Proof.Proofs

/-! PLACE_SET: a placement record placed, replaced, deleted (R201, R203, R326). -/

namespace Sys2Proof.Proofs

open Sys2Proof Sys2Proof.Machine Sys2Proof.Laws

/-! ### PLACE_SET (R201, R203, R326) -/

/-- What every PLACE_SET passes: a partition that exists, and a key and mask of a record's form (R201, R326). -/
structure PlaceForm (t : State) (c : Cmd) : Prop where
  tenant : u16 c.block 0 ≠ 0
  exists_ : (part t (u16 c.block 0)).exists_ = true
  block : blockIs c 0x70 = true
  zero : zeroIn c.block 3 0x10 = true
  key : placeKeyOk (placeRecOf c.block).key (placeRecOf c.block).mask = true

/-- The record of partition `p`, with its entry in the record table, that has the key and mask given. -/
def recOfKey (s : State) (p : Nat) (r : PlaceRec) : Option (Nat × PlaceRec) :=
  (part s p).placeRecs.find? (fun e => e.2.key == r.key && e.2.mask == r.mask)

section
variable {id ri : Nat} {c : Cmd} {t : State} (h : PlaceForm t c)
include h

/-- A key without a record takes a free pair of the placement banks and a free entry of the record table. -/
theorem cmdPlaceSet_of_new {index ci : Nat} (hop : u8 c.block 2 = 0) (hrec : placeRecOk (placeRecOf c.block) c.block = true)
    (hnone : recOfKey t (u16 c.block 0) (placeRecOf c.block) = none)
    (hindex : freeEntry t (u16 c.block 0) 2 (fun k => decide (placeBank0 (part t (u16 c.block 0)).match_ ≤ k)) = some index)
    (hri : findFree (thas (part t (u16 c.block 0)).placeRecs) 1048576 ((part t (u16 c.block 0)).placeRecs.length + 1) 0 = some ri)
    (hci : entryCell t (u16 c.block 0) index = some ci) :
    cmdPlaceSet id c t =
      let p := u16 c.block 0
      let r := placeRecOf c.block
      let u := modPart p (fun v => { v with placeRecs := tset v.placeRecs ri { r with index := index } })
        (putEntry ci (index % 1048576) 2 [r.key % 2 ^ 64, r.key / 2 ^ 64] [r.mask % 2 ^ 64, r.mask / 2 ^ 64] (ri + r.owner * 2 ^ 20) t)
      (if r.kind = 0x11 then spanPlaced p ri none u else homesChanged p t u, some (okRet (toLe 4 index ++ toLe 4 ri))) := by
  obtain ⟨hp, hex, hblock, hzero, hkey⟩ := h
  unfold recOfKey at hnone
  simp [cmdPlaceSet, recPlaced, writeEntry, hp, hex, hblock, hzero, hkey, hop, hrec, hnone, hindex, hri, hci]

section
variable {j : Nat} {o0 o : PlaceRec} {v : State} (hfound : recOfKey t (u16 c.block 0) (placeRecOf c.block) = some (j, o0))
  (hv : readIndex (u16 c.block 0) o0.index t = v) (hleft : recOfKey v (u16 c.block 0) (placeRecOf c.block) = some (ri, o))
include hfound hv hleft

/-- A record of a greater epoch takes an older one's place. -/
theorem cmdPlaceSet_of_newer (hop : u8 c.block 2 ≤ 1) (hrec : placeRecOk (placeRecOf c.block) c.block = true)
    (hepoch : o.epoch < (placeRecOf c.block).epoch) :
    cmdPlaceSet id c t =
      let p := u16 c.block 0
      let n := keepCoding o { placeRecOf c.block with index := o.index }
      (recPlaced p ri n (some o) v (modRec p ri (fun _ => n) (writeEntry p ri n v)), some (okRet (toLe 4 o.index ++ toLe 4 ri))) := by
  obtain ⟨hp, hex, hblock, hzero, hkey⟩ := h
  unfold recOfKey at hfound hleft
  have hset : ¬u8 c.block 2 = 2 := by omega
  have hknown : ¬2 < u8 c.block 2 := by omega
  simp only [cmdPlaceSet, hp, hex, hblock, hzero, hkey, hknown, hrec, hfound, hv, hleft, Nat.not_lt.mpr (Nat.le_of_lt hepoch),
    Nat.ne_of_gt hepoch]
  simp [hset]

/-- A deleted record leaves the match index and the record table. -/
theorem cmdPlaceSet_of_deleted {ci : Nat} (hop : u8 c.block 2 = 2) (hrest : zeroIn c.block 0x30 0x70 = true)
    (hci : entryCell v (u16 c.block 0) o.index = some ci) :
    cmdPlaceSet id c t =
      let p := u16 c.block 0
      let w := dropEntry ci (o.index % 1048576) 2 v
      let x := modPart p (fun v => { v with placeRecs := tdel v.placeRecs ri }) w
      (if o.kind = 0x10 then homesChanged p w x else x, some (okRet (toLe 4 o.index ++ toLe 4 ri))) := by
  obtain ⟨hp, hex, hblock, hzero, hkey⟩ := h
  unfold recOfKey at hfound hleft
  simp [cmdPlaceSet, hp, hex, hblock, hzero, hkey, hop, hrest, hfound, hv, hleft, hci]

end
end

/-- Settles O36: the command passes its checks, and its record is placed, replaced or deleted as the one with its key stands. -/
theorem placeCommand : Obligations.PlaceCommand := by
  unfold Obligations.PlaceCommand
  intro src pkt s t id c ri b p r hb hp hex hblock hzero hkey
  have h : PlaceForm t c := ⟨hp, hex, hblock, hzero, hkey⟩
  refine ⟨?new, fun j o0 o hfound => ?found⟩
  case new =>
    intro index ci hop hrec hnone hindex hri hci u
    exact row_reply cmdPlaceSet hb rfl (cmdPlaceSet_of_new h hop hrec hnone hindex hri hci)
  case found =>
    intro v hleft
    refine ⟨fun hop hrec hepoch => ?newer, fun ci hop hrest hci => ?deleted⟩
    case newer => exact row_reply cmdPlaceSet hb rfl (cmdPlaceSet_of_newer h hfound rfl hleft hop hrec hepoch)
    case deleted => exact row_reply cmdPlaceSet hb rfl (cmdPlaceSet_of_deleted h hfound rfl hleft hop hrest hci)

end Sys2Proof.Proofs

/-! RESET_LEVEL, state dumps, Frost and the TAP (R328, R329, R438 to R442, R454, R457, R458, R462, R511; log 6, 48, 53). -/

namespace Sys2Proof.Proofs

open Sys2Proof Sys2Proof.Machine Sys2Proof.Laws

/-! ### RESET_LEVEL (R328, R438 to R442) -/

section
variable {id : Nat} {c : Cmd} {t : State} (hblock : blockIs c 10 = true) (hzero1 : u8 c.block 1 = 0)
include hblock hzero1

/-- Level 1 ends the command of the issuer that TAG names, where it has a context. -/
theorem cmdResetLevel_of_context {n : Nat} {q : Cmd} (hlevel : u8 c.block 0 = 1) (hscope : u16 c.block 2 = 0) (hcore : u16 c.block 8 = 0)
    (hq : t.cmds.find? (fun e => e.2.src == c.src && e.2.tag == u32 c.block 4 && e.1 != id) = some (n, q))
    (hctx : q.ctx.isSome = true) :
    cmdResetLevel id c t =
      (postRecovery 1 0 8 c.part (part t c.part).inc c.part (endByReset n (err stCancelled) t), some (okRet [1])) := by
  have hctx : q.ctx.isNone = false := by simpa [Option.isSome_iff_ne_none] using hctx
  simp [cmdResetLevel, hblock, hzero1, hlevel, hscope, hcore, hq, hctx]

variable (htag : u32 c.block 4 = 0)
include htag

/-- Level 3 resets the partition that the block names: any for the operator, else the issuer's own (log 53). -/
theorem cmdResetLevel_of_partition {p : Nat} (hlevel : u8 c.block 0 = 3) (hcore : u16 c.block 8 = 0)
    (hp : u16 c.block 2 = p ∨ u16 c.block 2 = 0xFFFF ∧ p = c.part) (hown : c.part = 0 ∨ p = c.part) (hnot : p ≠ 0xFFFF)
    (hex : (part t p).exists_ = true) (hcreate : (part t p).creating = false) (hdestroy : (part t p).destroying = false) :
    cmdResetLevel id c t = (partReset p 8 (some id) (if c.part = 0 then unhalt 3 p t else t), none) := by
  have hnamed : (if u16 c.block 2 = 0xFFFF then c.part else u16 c.block 2) = p := by
    rcases hp with h | ⟨h, hp⟩
    · rw [h, if_neg hnot]
    · rw [if_pos h, hp]
  have hseen : (decide (c.part ≠ 0) && decide (p ≠ c.part)) = false := by
    rcases hown with h | h <;> simp [h]
  simp only [cmdResetLevel, hnamed, hblock, hzero1, hlevel, hcore, htag, hseen, hex, hcreate, hdestroy]
  simp

variable (hop : c.part = 0) (hscope : u16 c.block 2 = 0)
include hop hscope

theorem cmdResetLevel_of_core (hlevel : u8 c.block 0 = 2) (hcore : u16 c.block 8 < 384)
    (hpresent : bitOf t.node.cellsPresent (u16 c.block 8 / 16) = true)
    (hkept : bitOf (cell t (u16 c.block 8 / 16)).retiredCores (u16 c.block 8 % 16) = false) :
    cmdResetLevel id c t =
      (coreReset (u16 c.block 8 / 16) (u16 c.block 8 % 16) 8 false (some id) (unhalt 2 (u16 c.block 8) t), none) := by
  simp [cmdResetLevel, hblock, hzero1, htag, hop, hscope, hlevel, Nat.not_le.mpr hcore, hpresent, hkept]

variable (hcore : u16 c.block 8 = 0)
include hcore

theorem cmdResetLevel_of_node (hlevel : u8 c.block 0 = 4) :
    cmdResetLevel id c t = (nodeReset (if t.sec.mstate = 2 then 9 else 8) false false none (some id) t, none) := by
  simp [cmdResetLevel, hblock, hzero1, htag, hop, hscope, hlevel, hcore]

theorem cmdResetLevel_of_powerCycle (hlevel : u8 c.block 0 = 5) : cmdResetLevel id c t = (level5 8 (some id) t, none) := by
  simp [cmdResetLevel, hblock, hzero1, htag, hop, hscope, hlevel, hcore]

end

/-- Settles O43: at each level the command passes its checks and begins the level's reset. -/
theorem resetLevels : Obligations.ResetLevels := by
  unfold Obligations.ResetLevels
  intro src pkt s t id c hb b core hblock hzero1
  have goesOn {u : State} (h : cmdResetLevel id c t = (u, none)) : exec (.resetLevel src pkt) s = .next u :=
    row_later cmdResetLevel hb rfl h
  refine ⟨?context, fun htag => ⟨fun hop hscope => ⟨?core, ?node, ?powerCycle⟩, ?partition⟩⟩
  case context =>
    intro n q hlevel hscope hcore hq hctx
    exact row_reply cmdResetLevel hb rfl (cmdResetLevel_of_context hblock hzero1 hlevel hscope hcore hq hctx)
  case core =>
    exact fun hlevel hcore hpresent hkept =>
      goesOn (cmdResetLevel_of_core hblock hzero1 htag hop hscope hlevel hcore hpresent hkept)
  case node => exact fun hlevel hcore => goesOn (cmdResetLevel_of_node hblock hzero1 htag hop hscope hcore hlevel)
  case powerCycle => exact fun hlevel hcore => goesOn (cmdResetLevel_of_powerCycle hblock hzero1 htag hop hscope hcore hlevel)
  case partition =>
    exact fun p hlevel hcore hp hown hnot hex hcreate hdestroy =>
      goesOn (cmdResetLevel_of_partition hblock hzero1 htag hlevel hcore hp hown hnot hex hcreate hdestroy)

/-! ### State dumps (R329, R442, R454, R457) -/

theorem cmdDumpCollect_of_idle {id : Nat} {c : Cmd} {t : State} (hblock : blockIs c 5 = true) (hmask : u32 c.block 0 < 2 ^ 24)
    (hflags : u8 c.block 4 < 4) (hnone : t.dbg.dumps = []) (hidle : t.dbg.collect = none) :
    cmdDumpCollect id c t = (startDump 0 0 0xFFFF false (bitOf (u8 c.block 4) 1)
      (cellsUnits (bitList (u32 c.block 0) 24) ++ if bitOf (u8 c.block 4) 0 then hubUnits else []) (some id) t, none) := by
  simp only [cmdDumpCollect, hblock, Nat.not_le.mpr hmask, Nat.not_le.mpr hflags, hnone, hidle]
  simp

/-- A read within the dump returns its part, and discards the dump where FLAGS asks for that. -/
theorem cmdDumpRead_of_stored {id : Nat} {c : Cmd} {t : State} {d : Dump}
    (hd : t.dbg.dumps.find? (fun d => d.id == u32 c.block 0) = some d) (hblock : blockIs c 13 = true) (hflags : u8 c.block 12 ≤ 1)
    (hlo : 1 ≤ u32 c.block 8) (hhi : u32 c.block 8 ≤ (if isMctp c.src then 4032 else 1048576)) (hoff : u32 c.block 4 < dumpLen d)
    (hfit : fitsReply c (min (u32 c.block 8) (dumpLen d - u32 c.block 4)) = true) :
    cmdDumpRead id c t = (
      if u8 c.block 12 = 1 then modDbg (fun g => { g with dumps := g.dumps.filter (fun x => x.id != u32 c.block 0) }) t else t,
      some (okPay (toLe 4 (dumpLen d)) (slice (dumpImage t d) (u32 c.block 4) (u32 c.block 8)))) := by
  simp only [cmdDumpRead, hd, hblock, Nat.not_lt.mpr hflags, Nat.ne_of_gt hlo, Nat.not_lt.mpr hhi, Nat.not_le.mpr hoff, hfit, decide_false,
    Bool.not_true, Bool.or_self, Bool.false_eq_true, if_false]

@[simp] theorem bitOf_setBit_self (v i : Nat) : bitOf (setBit v i) i = true := by
  by_cases h : bitOf v i = true
  · simp [setBit, h]
  · have hodd : ¬v / 2 ^ i % 2 = 1 := by simpa [bitOf] using h
    have hadd : (v + 2 ^ i) / 2 ^ i = v / 2 ^ i + 1 := Nat.add_div_right v (Nat.two_pow_pos i)
    rw [setBit, if_neg h, bitOf, hadd, beq_iff_eq]
    omega

/-- The record of a unit that did not answer: empty, with its no-response flag. -/
def unanswered (unit : Nat) (r : DumpRec) : DumpRec := if r.unit = unit then { r with flags := setBit r.flags 0, len := 0 } else r

theorem unanswered_unit (unit : Nat) (r : DumpRec) : (unanswered unit r).unit = r.unit := by
  unfold unanswered
  split <;> rfl

theorem unanswered_of_unit {unit : Nat} {r : DumpRec} (h : r.unit = unit) :
    (unanswered unit r).len = 0 ∧ bitOf (unanswered unit r).flags 0 = true := by
  simp [unanswered, h]

theorem exec_dumpUnitWaitExpiry_of_collect {unit : Nat} {s : State} {x : Collect} (h : s.dbg.collect = some x) :
    exec (.dumpUnitWaitExpiry unit) s =
      .next (modDbg (fun g => { g with
        collect := some { x with dump := { x.dump with recs := x.dump.recs.map (unanswered unit) } } }) s) := by
  change execDumpUnitWaitExpiry unit s = _
  simp only [execDumpUnitWaitExpiry, modDbg, h]
  rfl

theorem exec_dumpTruncated_of_due {s : State} {x : Collect} (h : s.dbg.collect = some x) (hdue : x.at_ + 100000 ≤ s.node.time)
    (hgo : s.dbg.frozen = false) : exec .dumpTruncated s = .next (closeDump true s) := by
  change execDumpTruncated s = _
  simp [execDumpTruncated, h, now, hdue, hgo]

theorem exec_dumpHoldExpiry_of_due {s : State} (hheld : s.node.phase = .held) (hpin : s.node.pwrcyc = false)
    (hdue : s.node.holdUntil ≤ s.node.time) (hgo : s.dbg.frozen = false) :
    exec .dumpHoldExpiry s = .next (drivePin 1 false (modNode (fun n => { n with pwrcyc := true }) (closeDump false s))) := by
  change execDumpHoldExpiry s = _
  simp [execDumpHoldExpiry, hheld, hpin, now, hdue, hgo]

/-- Settles O46: the commands pass their checks, and each timer finds its dump or its hold due. -/
theorem dumps : Obligations.Dumps := by
  unfold Obligations.Dumps
  intro src pkt s t id c
  refine ⟨?collect, ?read, ?unit, fun x hx hdue hgo => exec_dumpTruncated_of_due hx hdue hgo, exec_dumpHoldExpiry_of_due⟩
  case collect =>
    exact fun hb hblock hmask hflags hnone hidle =>
      row_later cmdDumpCollect hb rfl (cmdDumpCollect_of_idle hblock hmask hflags hnone hidle)
  case read =>
    intro d off n hb hd hblock hflags hlo hhi hoff hfit
    exact row_reply cmdDumpRead hb rfl (cmdDumpRead_of_stored hd hblock hflags hlo hhi hoff hfit)
  case unit =>
    intro k x hx
    refine ⟨_, _, exec_dumpUnitWaitExpiry_of_collect hx, rfl, fun r hr hunit => ?_⟩
    obtain ⟨r, -, rfl⟩ := List.mem_map.mp hr
    exact unanswered_of_unit ((unanswered_unit k r).symm.trans hunit)

/-! ### Frost and the TAP (R329, R458, R462, R511; log 6) -/

theorem cmdFrostArm_of_form {id : Nat} {c : Cmd} {t : State} (hblock : blockIs c 8 = true) (htrigger : u8 c.block 0 ≤ 3)
    (hdelay : u32 c.block 4 ≤ 1000000) :
    cmdFrostArm id c t = (modDbg (fun g => { g with
      armTrigger := u8 c.block 0, armLevel := u8 c.block 1, armCode := u16 c.block 2, armDelay := u32 c.block 4
      fired := if u8 c.block 0 = 1 then some (now t + (u32 c.block 4 + 999) / 1000) else none }) t, some (okRet [])) := by
  simp only [cmdFrostArm, hblock, Nat.not_lt.mpr htrigger, Nat.not_lt.mpr hdelay, decide_false, Bool.not_true, Bool.or_self,
    Bool.false_eq_true, if_false]

section
variable {s : State}

theorem exec_frostNFall_of_canFreeze (h : canFreeze s = true) : exec .frostNFall s = .next (freeze 1 s) :=
  congrArg _ (if_pos h)

/-- An armed trigger whose time has come freezes the node: a FROST_ARM now as source 2, any other as source 3 (R458). -/
theorem exec_frostTrigger_of_due {w : Nat} (h : canFreeze s = true) (hfired : s.dbg.fired = some w) (hdue : w ≤ s.node.time)
    (harmed : s.dbg.armTrigger ≠ 0) :
    exec .frostTrigger s = .next (freeze (if s.dbg.armTrigger = 1 then 2 else 3) s) := by
  change execFrostTrigger s = _
  simp [execFrostTrigger, hfired, h, now, hdue, harmed]

section
variable (hfrozen : s.dbg.frozen = true) (hdriving : s.dbg.driving = false)
include hfrozen hdriving

theorem exec_frostNRise_of_untripped (h : s.dbg.tripped = none) : exec .frostNRise s = .next (fenceExpired (thaw s)) := by
  change execFrostNRise s = _
  simp [execFrostNRise, hfrozen, hdriving, h]

/-- The trip of a watchdog that froze the node goes on where it stopped. -/
theorem exec_frostNRise_of_tripped {level a b : Nat} (h : s.dbg.tripped = some (level, a, b)) :
    exec .frostNRise s = .next (tripAction level a b (fenceExpired (thaw s))) := by
  change execFrostNRise s = _
  simp [execFrostNRise, hfrozen, hdriving, h]

end

section
variable (hpower : s.node.phase ≠ .off)
include hpower

theorem exec_tapAccess_of_reset :
    exec (.tapAccess .reset) s = .next (modDbg (fun d => { d with tapIr := 1, tapAddr := 0 }) s) :=
  congrArg _ (if_neg hpower)

theorem exec_tapAccess_of_loadIr (code : Nat) :
    exec (.tapAccess (.loadIr code)) s = .next (modDbg (fun d => { d with tapIr := code % 16, tapAddr := 0 }) s) :=
  congrArg _ (if_neg hpower)

end
end

/-- Settles O47: the command passes its checks; each pin, trigger and access finds the node as it takes effect on it. -/
theorem frost : Obligations.Frost := by
  unfold Obligations.Frost
  intro src pkt s t id c
  refine ⟨?arm, fun h => ⟨?pin, ?trigger⟩, rfl, fun hfrozen hdriving => ⟨?run, ?trip⟩, fun hpower => ⟨?reset, ?load⟩⟩
  case arm =>
    exact fun hb hblock htrigger hdelay => row_reply cmdFrostArm hb rfl (cmdFrostArm_of_form hblock htrigger hdelay)
  case pin => exact exec_frostNFall_of_canFreeze h
  case trigger => exact fun w hfired hdue harmed => exec_frostTrigger_of_due h hfired hdue harmed
  case run => exact exec_frostNRise_of_untripped hfrozen hdriving
  case trip => exact fun level a b => exec_frostNRise_of_tripped hfrozen hdriving
  case reset => exact exec_tapAccess_of_reset hpower
  case load => exact exec_tapAccess_of_loadIr hpower

end Sys2Proof.Proofs

/-! The whole machine: the queue and the addressed memory along a step, the state before PWR_GOOD (R300, R409, R451, R462; log 1). -/

namespace Sys2Proof.Proofs

open Sys2Proof Sys2Proof.Machine Sys2Proof.Laws

/-- A property of the queue and the addressed memory that passes through what rewrites that memory passes through every row. -/
theorem keep_exec {P : State → Prop} (hP : Wide P) {s : State} (hs : P s) (i : Instr) : Next P (exec i s) :=
  have h := hP.stable
  match i with
  | .nop .. => keep_execNop h _ _ s hs
  | .identify .. => keep_execIdentify h _ _ s hs
  | .readState .. => keep_execReadState h _ _ s hs
  | .configStage .. => keep_execConfigStage h _ _ s hs
  | .configCommit .. => keep_execConfigCommit h _ _ s hs
  | .partitionCreate .. => keep_execPartitionCreate hP _ _ s hs
  | .partitionDestroy .. => keep_execPartitionDestroy hP _ _ s hs
  | .meterReport .. => keep_execMeterReport h _ _ s hs
  | .eventSubscribe .. => keep_execEventSubscribe h _ _ s hs
  | .seqCreate .. => keep_execSeqCreate h _ _ s hs
  | .seqDestroy .. => keep_execSeqDestroy h _ _ s hs
  | .appendCmd .. => keep_execAppendCmd h _ _ s hs
  | .pagePin .. => keep_execPagePin h _ _ s hs
  | .pageShare .. => keep_execPageShare h _ _ s hs
  | .pageMigrate .. => keep_execPageMigrate h _ _ s hs
  | .pageLend .. => keep_execPageLend h _ _ s hs
  | .pageRecall .. => keep_execPageRecall h _ _ s hs
  | .seqMapEdit .. => keep_execSeqMapEdit h _ _ s hs
  | .poolSet .. => keep_execPoolSet h _ _ s hs
  | .formatTableLoad .. => keep_execFormatTableLoad h _ _ s hs
  | .attend .. => keep_execAttend h _ _ s hs
  | .attendBwd .. => keep_execAttendBwd h _ _ s hs
  | .mergeCmd .. => keep_execMergeCmd h _ _ s hs
  | .digestBuild .. => keep_execDigestBuild h _ _ s hs
  | .scorerLoad .. => keep_execScorerLoad h _ _ s hs
  | .cancel .. => keep_execCancel h _ _ s hs
  | .matchInsert .. => keep_execMatchInsert h _ _ s hs
  | .matchDelete .. => keep_execMatchDelete h _ _ s hs
  | .matchSearch .. => keep_execMatchSearch h _ _ s hs
  | .matchStep .. => keep_execMatchStep h _ _ s hs
  | .matchConfig .. => keep_execMatchConfig h _ _ s hs
  | .bankOp .. => keep_execBankOp h _ _ s hs
  | .bankOpstat .. => keep_execBankOpstat h _ _ s hs
  | .connCreate .. => keep_execConnCreate h _ _ s hs
  | .connModify .. => keep_execConnModify h _ _ s hs
  | .connDestroy .. => keep_execConnDestroy h _ _ s hs
  | .regionRegister .. => keep_execRegionRegister h _ _ s hs
  | .regionRevoke .. => keep_execRegionRevoke h _ _ s hs
  | .saInstall .. => keep_execSaInstall h _ _ s hs
  | .srqPost .. => keep_execSrqPost h _ _ s hs
  | .leaseAcquire .. => keep_execLeaseAcquire h _ _ s hs
  | .leaseRenew .. => keep_execLeaseRenew h _ _ s hs
  | .leaseHandoff .. => keep_execLeaseHandoff h _ _ s hs
  | .leaseHandoffAtHome .. => keep_execLeaseHandoffAtHome h _ _ s hs
  | .leasePrompt .. => keep_execLeasePrompt h _ _ s hs
  | .leaseRelease .. => keep_execLeaseRelease h _ _ s hs
  | .placeSet .. => keep_execPlaceSet h _ _ s hs
  | .attestGet .. => keep_execAttestGet h _ _ s hs
  | .jobKeyInstall .. => keep_execJobKeyInstall h _ _ s hs
  | .keyRotate .. => keep_execKeyRotate h _ _ s hs
  | .zeroise .. => keep_execZeroise hP _ _ s hs
  | .powerState .. => keep_execPowerState h _ _ s hs
  | .budgetSet .. => keep_execBudgetSet h _ _ s hs
  | .resetLevel .. => keep_execResetLevel h _ _ s hs
  | .dumpCollect .. => keep_execDumpCollect h _ _ s hs
  | .dumpRead .. => keep_execDumpRead h _ _ s hs
  | .frostArm .. => keep_execFrostArm h _ _ s hs
  | .fwStage .. => keep_execFwStage h _ _ s hs
  | .fwActivate .. => keep_execFwActivate h _ _ s hs
  | .subRequest .. => keep_execSubRequest h _ _ s hs
  | .mirrorRead .. => keep_execMirrorRead h _ _ s hs
  | .reconstruction .. => keep_execReconstruction h _ _ s hs
  | .lendNeighbourAttend .. => keep_execLendNeighbourAttend h _ _ s hs
  | .writeThrough .. => keep_execWriteThrough h _ _ s hs
  | .lentPageReceive .. => keep_execLentPageReceive h _ _ _ _ s hs
  | .lendRelease .. => keep_execLendRelease h _ _ _ s hs
  | .lentLossReport .. => keep_execLentLossReport h _ _ s hs
  | .resyncPage .. => keep_execResyncPage h _ _ _ _ _ _ _ s hs
  | .parityStream .. => keep_execParityStream h _ _ _ _ _ _ _ _ s hs
  | .memberReply .. => keep_execMemberReply h _ _ _ _ _ s hs
  | .memberWaitExpiry .. => keep_execMemberWaitExpiry h _ _ s hs
  | .spanDeadlineExpiry .. => keep_execSpanDeadlineExpiry h _ _ s hs
  | .homeRecordExpiry .. => keep_execHomeRecordExpiry h _ _ s hs
  | .leaseExpiry .. => keep_execLeaseExpiry h _ _ s hs
  | .promptRepeat .. => keep_execPromptRepeat h _ _ s hs
  | .renewTimer .. => keep_execRenewTimer h _ _ _ _ s hs
  | .ownerLeaseEnd .. => keep_execOwnerLeaseEnd h _ _ _ _ s hs
  | .dispatchAdmit .. => keep_execDispatchAdmit h _ s hs
  | .tokenPull .. => keep_execTokenPull h _ _ s hs
  | .pageFetch .. => keep_execPageFetch h _ s hs
  | .pageFetchDone .. => keep_execPageFetchDone hP _ _ _ _ s hs
  | .vTileConsumed .. => keep_execVTileConsumed hP _ _ s hs
  | .tokenFinish .. => keep_execTokenFinish h _ _ _ s hs
  | .cellPartialReceive .. => keep_execCellPartialReceive h _ s hs
  | .deadlineExpiry .. => keep_execDeadlineExpiry h _ s hs
  | .selectionDone .. => keep_execSelectionDone h _ _ _ s hs
  | .gsetQueueResume .. => keep_execGsetQueueResume h _ _ s hs
  | .gradMessageDone .. => keep_execGradMessageDone h _ _ s hs
  | .editQueueResume .. => keep_execEditQueueResume h _ _ _ s hs
  | .epochAdvance .. => keep_execEpochAdvance h _ s hs
  | .clockSweep .. => keep_execClockSweep h _ s hs
  | .eviction .. => keep_execEviction h _ s hs
  | .poolStatUpdate .. => keep_execPoolStatUpdate h _ s hs
  | .scrubGranule .. => keep_execScrubGranule h _ _ s hs
  | .scrubRewrite .. => keep_execScrubRewrite h _ s hs
  | .stackTempReport .. => keep_execStackTempReport h _ _ s hs
  | .dieTempReport .. => keep_execDieTempReport h _ _ s hs
  | .throttleClear .. => keep_execThrottleClear h _ s hs
  | .avsPoll .. => keep_execAvsPoll h _ _ _ s hs
  | .avsVoltageReached .. => keep_execAvsVoltageReached h _ _ s hs
  | .avsTimeout .. => keep_execAvsTimeout h _ s hs
  | .envelopeTick .. => keep_execEnvelopeTick h _ s hs
  | .thermtrip => keep_execThermtrip h s hs
  | .cellOffDrained .. => keep_execCellOffDrained hP _ s hs
  | .drizzleQuiesced => keep_execDrizzleQuiesced h s hs
  | .drizzleQuiesceExpiry => keep_execDrizzleQuiesceExpiry h s hs
  | .wake => keep_execWake h s hs
  | .drizzleTimerExpiry => keep_execDrizzleTimerExpiry h s hs
  | .wakeN .. => keep_execWakeN h _ s hs
  | .refLoss .. => keep_execRefLoss h _ s hs
  | .ctxWdTrip .. => keep_execCtxWdTrip hP _ s hs
  | .coreWdTrip .. => keep_execCoreWdTrip hP _ _ s hs
  | .cellWdTrip .. => keep_execCellWdTrip hP _ _ s hs
  | .hubWdTrip .. => keep_execHubWdTrip hP _ s hs
  | .heartbeatMiss .. => keep_execHeartbeatMiss h _ s hs
  | .coreSelfCheckDone .. => keep_execCoreSelfCheckDone h _ _ _ s hs
  | .coreResetTimeout .. => keep_execCoreResetTimeout h _ _ s hs
  | .partResetTimeout .. => keep_execPartResetTimeout h _ s hs
  | .nodeResetTimeout => keep_execNodeResetTimeout h s hs
  | .controlRestartTimeout => keep_execControlRestartTimeout h s hs
  | .partitionResetDone .. => keep_execPartitionResetDone hP _ s hs
  | .nodeResetDone .. => keep_execNodeResetDone hP _ s hs
  | .dumpHoldExpiry => keep_execDumpHoldExpiry h s hs
  | .dumpUnitWaitExpiry .. => keep_execDumpUnitWaitExpiry h _ s hs
  | .dumpTruncated => keep_execDumpTruncated h s hs
  | .fwReportRunning => keep_execFwReportRunning h s hs
  | .fwActivateTimeout => keep_execFwActivateTimeout h s hs
  | .pwrGood .. => keep_execPwrGood hP _ _ _ _ s hs
  | .resetN => keep_execResetN h s hs
  | .perstN .. => keep_execPerstN h _ s hs
  | .powerLoss => keep_execPowerLoss hP s hs
  | .tamperN => keep_execTamperN hP s hs
  | .entropyTestFail .. => keep_execEntropyTestFail h _ s hs
  | .frostNFall => keep_execFrostNFall h s hs
  | .frostNRise => keep_execFrostNRise hP s hs
  | .frostTrigger => keep_execFrostTrigger h s hs
  | .spdmRequest .. => keep_execSpdmRequest h _ _ _ s hs
  | .pldmRequest .. => keep_execPldmRequest h _ s hs
  | .batchClose .. => keep_execBatchClose h _ _ s hs
  | .sweepStart .. => keep_execSweepStart h _ s hs
  | .sweepDone .. => keep_execSweepDone h _ s hs
  | .patrolCompare .. => keep_execPatrolCompare h _ s hs
  | .cursorTimeout .. => keep_execCursorTimeout h _ _ s hs
  | .bankElementDone .. => keep_execBankElementDone hP _ _ s hs
  | .elementWaitExpiry .. => keep_execElementWaitExpiry h _ _ s hs
  | .opRecordExpiry .. => keep_execOpRecordExpiry h _ _ s hs
  | .stdPacketReceive .. => keep_execStdPacketReceive hP _ s hs
  | .sprayPacketReceive .. => keep_execSprayPacketReceive hP _ s hs
  | .sprayAckReceive .. => keep_execSprayAckReceive h _ _ _ _ s hs
  | .ackDelayExpiry .. => keep_execAckDelayExpiry h _ s hs
  | .ackTimeout .. => keep_execAckTimeout h _ _ s hs
  | .capabilityDatagram .. => keep_execCapabilityDatagram h _ _ _ s hs
  | .capRetry .. => keep_execCapRetry h _ s hs
  | .cnpReceive .. => keep_execCnpReceive h _ s hs
  | .ccTimer .. => keep_execCcTimer h _ s hs
  | .rnrNakReceive .. => keep_execRnrNakReceive h _ _ s hs
  | .arpNdReceive .. => keep_execArpNdReceive h _ _ _ _ _ _ s hs
  | .autoneg .. => keep_execAutoneg h _ _ _ _ s hs
  | .linkTrainingDone .. => keep_execLinkTrainingDone h _ s hs
  | .linkLockTimeout .. => keep_execLinkLockTimeout h _ s hs
  | .capabilityBlock .. => keep_execCapabilityBlock h _ _ s hs
  | .weftTrainingDone .. => keep_execWeftTrainingDone h _ _ _ s hs
  | .linkLoss .. => keep_execLinkLoss h _ s hs
  | .lpiEntry .. => keep_execLpiEntry h _ s hs
  | .parkReq .. => keep_execParkReq h _ s hs
  | .parkAck .. => keep_execParkAck h _ s hs
  | .unpark .. => keep_execUnpark h _ _ s hs
  | .fastRetrainTimeout .. => keep_execFastRetrainTimeout h _ s hs
  | .sqDoorbell .. => keep_execSqDoorbell h _ _ _ s hs
  | .cqDoorbell .. => keep_execCqDoorbell h _ _ _ s hs
  | .sqEntryFetch .. => keep_execSqEntryFetch hP _ _ _ _ _ s hs
  | .completionPost .. => keep_execCompletionPost h _ _ _ s hs
  | .coalUsExpiry .. => keep_execCoalUsExpiry h _ _ s hs
  | .qpEnable .. => keep_execQpEnable h _ _ _ s hs
  | .qpDisable .. => keep_execQpDisable h _ _ _ s hs
  | .qpQuiesceDone .. => keep_execQpQuiesceDone h _ _ s hs
  | .flr .. => keep_execFlr h _ s hs
  | .d3hot .. => keep_execD3hot h _ _ s hs
  | .ringEnable .. => keep_execRingEnable h _ _ _ s hs
  | .ringHeadWrite .. => keep_execRingHeadWrite h _ _ _ s hs
  | .rawApertureAccess .. => keep_execRawApertureAccess hP _ _ _ _ _ s hs
  | .rwsWrite .. => keep_execRwsWrite h _ _ _ _ s hs
  | .commit .. => keep_execCommit h _ _ s hs
  | .discard .. => keep_execDiscard h _ _ s hs
  | .selftest .. => keep_execSelftest h _ s hs
  | .release => keep_execRelease h s hs
  | .mtrSel .. => keep_execMtrSel h _ _ s hs
  | .nodeIdWrite .. => keep_execNodeIdWrite h _ _ s hs
  | .registerWrite .. => keep_execRegisterWrite h _ _ _ _ _ s hs
  | .fabricReply .. => keep_execFabricReply h _ _ _ _ _ s hs
  | .handoffTimeout .. => keep_execHandoffTimeout h _ _ _ _ s hs
  | .recallRequest .. => keep_execRecallRequest h _ _ _ _ s hs
  | .lendReleaseWaitExpiry .. => keep_execLendReleaseWaitExpiry hP _ s hs
  | .cellOffExitDone .. => keep_execCellOffExitDone hP _ s hs
  | .pcieLinkDown => keep_execPcieLinkDown h s hs
  | .returnToD0 .. => keep_execReturnToD0 h _ s hs
  | .vfEnableClear .. => keep_execVfEnableClear h _ s hs
  | .resetNRelease => keep_execResetNRelease h s hs
  | .tapAccess .. => keep_execTapAccess h _ s hs
  | .i3cModeEntry => keep_execI3cModeEntry h s hs
  | .controlRestartDone => keep_execControlRestartDone h s hs
  | .contextResetTimeout i u => keep_execContextResetTimeout h i u s hs
  | .rnrTimerExpiry .. => keep_execRnrTimerExpiry h _ s hs
  | .packetSend .. => keep_execPacketSend h _ s hs
  | .selftestDone .. => keep_execSelftestDone h _ s hs
  | .meteringSecond .. => keep_execMeteringSecond h _ s hs
  | .bootDone .. => keep_execBootDone h _ s hs
  | .capabilityBlockRepeat .. => keep_execCapabilityBlockRepeat h _ s hs
  | .controlFrameReceive .. => keep_execControlFrameReceive h _ s hs

theorem exec_canon {i : Instr} {s t : State} (hs : Inv s) (h : exec i s = .next t) : Inv t :=
  (next_get (keep_exec (wide_canon s.pending) ⟨rfl, hs⟩ i) h).2

theorem tick_canon {s : State} (hs : Inv s) : Inv (tick s) := (keep_tick (wide_canon s.pending) s ⟨rfl, hs⟩).2

theorem step_of_empty {s : State} (h : s.pending = []) : step s = .next (tick s) := by
  unfold step
  rw [h]

theorem step_of_cons {c : Instr} {rest : List Instr} {s : State} (h : s.pending = c :: rest) :
    step s = exec c { s with pending := rest } := by
  unfold step
  rw [h]

/-- Settles O5: a tick and the meaning of every row keep the canonical form. -/
theorem stepKeepsInv : Obligations.StepKeepsInv := by
  unfold Obligations.StepKeepsInv
  intro s t hs h
  cases hq : s.pending with
  | nil =>
    rw [step_of_empty hq] at h
    cases h
    exact tick_canon hs
  | cons c rest =>
    rw [step_of_cons hq] at h
    exact exec_canon (s := { s with pending := rest }) hs h

/-- Settles O6: the queue passes through every row. -/
theorem execLeavesQueue : Obligations.ExecLeavesQueue := by
  unfold Obligations.ExecLeavesQueue
  exact fun c s t h => next_get (keep_exec (wide_queue s.pending) rfl c) h

/-- Settles O1: the step of a queue that is not empty. -/
theorem stepRunsFront : Obligations.StepRunsFront := by
  unfold Obligations.StepRunsFront
  exact fun c rest s h => step_of_cons h

theorem tick_of_off {s : State} (h : s.node.phase = .off) : tick s = s := by
  unfold tick
  rw [if_pos h]

theorem tick_of_frozen {s : State} (hpower : s.node.phase ≠ .off) (hfrozen : s.dbg.frozen = true) :
    tick s = modNode (fun n => { n with time := (n.time + 1) % 2 ^ 64 }) s := by
  simp [tick, hpower, hfrozen]

/-- Settles O2: the step of an empty queue, and the two ticks in which the clock's effects do not follow. -/
theorem idleStepIsTick : Obligations.IdleStepIsTick := by
  unfold Obligations.IdleStepIsTick
  exact fun s h => ⟨step_of_empty h, tick_of_off, tick_of_frozen⟩

/-- Settles O3: the tables are empty, and a key of an empty table reads as its record's reset value. -/
theorem resetState : Obligations.ResetState := by
  unfold Obligations.ResetState
  exact ⟨rfl, rfl, rfl, rfl, rfl, rfl, rfl, rfl, fun _ => rfl, fun _ => rfl, fun _ _ => ⟨rfl, rfl, rfl⟩⟩

/-- Settles O4: nothing is listed at reset. -/
theorem invAtReset : Obligations.InvAtReset := by
  unfold Obligations.InvAtReset
  rfl

/-- Settles O9: the meaning of every row is an outcome with a next state. -/
theorem noCommandStops : Obligations.NoCommandStops := by
  unfold Obligations.NoCommandStops
  intro c s
  cases c <;> exact ⟨_, rfl⟩

end Sys2Proof.Proofs

/-! Ports: Ethernet negotiation, the Weftlink exchange, training, parking and fast retrain (R336 to R348). -/

namespace Sys2Proof.Proofs

open Sys2Proof Sys2Proof.Machine Sys2Proof.Laws

/-! ### Ethernet ports (R336 to R339, R344) -/

section
variable {g : Nat} {s : State} (hlive : linkLive s = true) (hex : portExists s g = true)
include hlive hex

theorem exec_linkLoss_of_up (hup : portUp (portOf s g) = true) : exec (.linkLoss g) s = .next (downPort g s) := by
  change execLinkLoss g s = _
  simp [execLinkLoss, hlive, hex, hup]

section
variable (hg : g < 16)
include hg

/-- The state in which a port negotiates: one that carried traffic or trained has gone down (R336). -/
theorem exec_autoneg_of_common {page speeds k : Nat} (eee : Bool) (han : laneSet s g 2 ≠ 0) {u : State}
    (hu : u = if portUp (portOf s g) || (portOf s g).st = 2 then downPort g s else s)
    (hk : ((List.range 4).filter (fun k => bitOf (laneSet u g 1) k && bitOf speeds (4 * laneSet u g 5 + k))).getLast? = some k) :
    exec (.autoneg g page speeds eee) s =
      .next (modPort g (fun q => { (if (portOf s g).coef && (portOf s g).page == page then q else dropTaps q) with
        st := 2, rate := k + 1, fec := if k = 0 then 1 else 2, cable := laneSet u g 5 == 1, eeeOn := eee && laneSet u g 4 == 1, speed := k
        since := now u, fast := (portOf s g).coef && (portOf s g).page == page
        fastAt := if (portOf s g).coef && (portOf s g).page == page then some (q.fastAt.getD (now u)) else none, page := page }) u) := by
  change execAutoneg g page speeds eee s = _
  simp only [execAutoneg, hlive, hex, han, Nat.not_le.mpr hg, ← hu, hk]
  simp

theorem exec_autoneg_of_noCommon {page speeds : Nat} (eee : Bool) (han : laneSet s g 2 ≠ 0) {u : State}
    (hu : u = if portUp (portOf s g) || (portOf s g).st = 2 then downPort g s else s)
    (hk : ((List.range 4).filter (fun k => bitOf (laneSet u g 1) k && bitOf speeds (4 * laneSet u g 5 + k))).getLast? = none) :
    exec (.autoneg g page speeds eee) s = .next (modPort g (fun q => { dropTaps q with st := 6, page := page }) u) := by
  change execAutoneg g page speeds eee s = _
  simp only [execAutoneg, hlive, hex, han, Nat.not_le.mpr hg, ← hu, hk]
  simp

theorem exec_linkTrainingDone_of_training (hst : (portOf s g).st = 2) : exec (.linkTrainingDone g) s = .next (upPort g s) := by
  change execLinkTrainingDone g s = _
  simp [execLinkTrainingDone, hlive, hex, hg, hst]

theorem exec_linkLockTimeout_of_training (hst : (portOf s g).st = 2) : exec (.linkLockTimeout g) s = .next (startPort g s) := by
  change execLinkLockTimeout g s = _
  simp [execLinkLockTimeout, hlive, hex, hg, hst]

theorem exec_controlFrameReceive_of_up (hup : portUp (portOf s g) = true) :
    exec (.controlFrameReceive g) s = .next (modPort g (fun p => { p with ctrlDrops := satAdd 0xFFFF p.ctrlDrops 1 }) s) := by
  change execControlFrameReceive g s = _
  simp [execControlFrameReceive, hlive, hex, hg, hup]

omit hg in
theorem exec_lpiEntry_of_quiet (hst : (portOf s g).st = 3) (heee : (portOf s g).eeeOn = true)
    (hbusy : (portOf s g).lastBusy + 2 ≤ s.node.time) :
    exec (.lpiEntry g) s = .next (modPort g (fun p => { p with st := 5 }) s) := by
  change execLpiEntry g s = _
  simp [execLpiEntry, hlive, hex, hst, heee, now, hbusy]

end

end

/-- Settles O50: each row finds its port in the state that it acts on. -/
theorem ethernetPorts : Obligations.EthernetPorts := by
  unfold Obligations.EthernetPorts
  intro g s hlive hg hex p
  refine ⟨fun page speeds eee han => ⟨fun k hk => exec_autoneg_of_common hlive hex hg eee han rfl hk,
    fun hk => exec_autoneg_of_noCommon hlive hex hg eee han rfl hk⟩, ?train, ?up, exec_lpiEntry_of_quiet hlive hex⟩
  case train => exact fun h => ⟨exec_linkTrainingDone_of_training hlive hex hg h, exec_linkLockTimeout_of_training hlive hex hg h⟩
  case up => exact fun h => ⟨exec_linkLoss_of_up hlive hex h, exec_controlFrameReceive_of_up hlive hex hg h⟩

/-! ### Weftlink ports (R340 to R348) -/

@[simp] theorem checkStored_portOf (s : State) (g : Nat) : portOf (checkStored s) g = portOf s g := by
  unfold checkStored
  split
  · rfl
  · simp [portOf]

theorem blockKnown_of_ok {b : List Byte} (h : blockOk b = true) : blockKnown b = true := by
  simp only [blockOk, Bool.and_eq_true] at h
  exact h.1

/-- The port with a block that it has received, and how many equal ones came in succession (R340). -/
def countBlock (g : Nat) (b : List Byte) (s : State) : State :=
  modPort g (fun p => { p with block := b, run := if (portOf s g).block = b then (portOf s g).run + 1 else 1 }) (checkStored s)

section
variable {g : Nat} {s : State} (hlive : linkLive s = true) (hweft : 16 ≤ g) (hex : portExists s g = true)
include hlive hweft hex

/-- A valid block at a port in the exchange is counted, and the third leaves the exchange. -/
theorem exec_capabilityBlock_of_ok {b : List Byte} (hok : blockOk b = true) (hdown : portUp (portOf s g) = false)
    (hst : (portOf s g).st ≠ 2) : exec (.capabilityBlock g b) s =
      .next (if (if (portOf s g).block = b then (portOf s g).run + 1 else 1) < 3 then countBlock g b s
        else leaveExchange g b (countBlock g b s)) := by
  change execCapabilityBlock g b s = _
  simp [execCapabilityBlock, countBlock, hlive, Nat.not_lt.mpr hweft, hex, blockKnown_of_ok hok, hok, hst, hdown]

theorem exec_capabilityBlock_of_badCrc {b : List Byte} (hknown : blockKnown b = true) (hbad : blockOk b = false) :
    exec (.capabilityBlock g b) s = .next (modPort g (fun p => { p with run := 0 }) s) := by
  change execCapabilityBlock g b s = _
  simp [execCapabilityBlock, hlive, Nat.not_lt.mpr hweft, hex, hknown, hbad]

theorem exec_capabilityBlock_of_repeat {b : List Byte} (hok : blockOk b = true) (hst : (portOf s g).st = 2)
    (hblock : (portOf s g).block = b) : exec (.capabilityBlock g b) s = .next s := by
  change execCapabilityBlock g b s = _
  simp [execCapabilityBlock, hlive, Nat.not_lt.mpr hweft, hex, blockKnown_of_ok hok, hok, hst, hblock]

theorem exec_capabilityBlockRepeat_of_due (hdown : portUp (portOf s g) = false)
    (hdue : (portOf s g).blockAt.elim True (fun t => t + 10 ≤ s.node.time)) : exec (.capabilityBlockRepeat g) s =
      .next (emit (.link g 1 (ownBlock (checkStored s) (g - 16)))
        (modPort g (fun p => { p with blockAt := some (now (checkStored s)) }) (checkStored s))) := by
  change execCapabilityBlockRepeat g s = _
  have hdue' : (portOf s g).blockAt.elim true (fun t => decide (t + 10 ≤ now s)) = true := by
    cases h : (portOf s g).blockAt with
    | none => rfl
    | some t => exact decide_eq_true (by simpa [h, now] using hdue)
  simp [execCapabilityBlockRepeat, hlive, hweft, hex, hdown, hdue']

/-- Training that failed on no lane, at the side that follows: the partner's tag. -/
theorem exec_weftTrainingDone_of_follower (tag : Nat) (hst : (portOf s g).st = 2) (hlead : (portOf s g).partner ≤ s.node.nodeId) :
    exec (.weftTrainingDone g 0 tag) s = .next (upPort g (modPort g (fun p => { p with tag := tag % 65536 }) s)) := by
  change execWeftTrainingDone g 0 tag s = _
  cases h : (portOf s g).goodGroup <;>
    simp [execWeftTrainingDone, hlive, Nat.not_lt.mpr hweft, hex, hst, Nat.not_lt.mpr hlead, h]

/-- The same at the side that leads: the tag that it draws and sends. -/
theorem exec_weftTrainingDone_of_leader (tag : Nat) (hst : (portOf s g).st = 2) (hlead : s.node.nodeId < (portOf s g).partner) :
    exec (.weftTrainingDone g 0 tag) s = .next (upPort g (modPort g (fun p => { p with tag := (draw s).1 % 65535 + 1 })
      (emit (.link g 7 (toLe 2 ((draw s).1 % 65535 + 1))) (draw s).2))) := by
  change execWeftTrainingDone g 0 tag s = _
  cases h : (portOf s g).goodGroup <;>
    simp [execWeftTrainingDone, hlive, Nat.not_lt.mpr hweft, hex, hst, hlead, h]

/-- One group of eight lanes failed and both sides allow four: the port degrades to the other group. -/
theorem exec_weftTrainingDone_of_oneGroup {failed : Nat} (tag : Nat) (hst : (portOf s g).st = 2) (hfail : failed % 256 ≠ 0)
    (hgroup : failed % 256 % 16 = 0 ∨ failed % 256 / 16 = 0) (hwide : (portOf s g).width4 = false) (hown : weftSet s (g - 16) 1 = 1)
    (hpeer : bitOf (u8 (portOf s g).block 2) 1 = true) (hlead : (portOf s g).partner ≤ s.node.nodeId) :
    exec (.weftTrainingDone g failed tag) s = .next (upPort g (modPort g (fun p => { p with
      tag := tag % 65536, degraded := true, width4 := true, goodGroup := some (if failed % 256 % 16 = 0 then 0 else 1) }) s)) := by
  change execWeftTrainingDone g failed tag s = _
  have hone : (decide (failed % 256 % 16 = 0) || decide (failed % 256 / 16 = 0)) = true := by simpa using hgroup
  cases h : (portOf s g).goodGroup <;>
    simp only [execWeftTrainingDone, hlive, Nat.not_lt.mpr hweft, hex, hst, Nat.not_lt.mpr hlead, h, hfail, hwide, hown, hpeer,
      Bool.false_eq_true, if_false, hone] <;>
    simp

theorem exec_weftTrainingDone_of_narrow {failed : Nat} (tag : Nat) (hst : (portOf s g).st = 2) (hfail : failed % 256 ≠ 0)
    (hnarrow : (portOf s g).width4 = true) (hgroup : (portOf s g).goodGroup = none) :
    exec (.weftTrainingDone g failed tag) s = .next (startPort g s) := by
  change execWeftTrainingDone g failed tag s = _
  simp [execWeftTrainingDone, hlive, Nat.not_lt.mpr hweft, hex, hst, hfail, hnarrow, hgroup]

omit hweft in
theorem exec_fastRetrainTimeout_of_due {t : Nat} (hdown : portUp (portOf s g) = false) (hfast : (portOf s g).fastAt = some t)
    (hdue : t + 200000 ≤ s.node.time) : exec (.fastRetrainTimeout g) s = .next (startPort g (modPort g dropTaps s)) := by
  change execFastRetrainTimeout g s = _
  simp [execFastRetrainTimeout, hlive, hex, hdown, hfast, now, hdue]

section
variable (hup : portUp (portOf s g) = true)
include hup

theorem exec_parkReq_of_up (hpark : (portOf s g).park = true) : exec (.parkReq g) s =
    .next (emit (.link g 3 []) (modPort g (fun p => { p with st := 4, parkAsked := false }) s)) := by
  change execParkReq g s = _
  simp [execParkReq, hlive, hweft, hex, hup, hpark]

theorem exec_parkAck_of_asked (hasked : (portOf s g).parkAsked = true) : exec (.parkAck g) s =
    .next (modPort g (fun p => { p with st := 4, parkAsked := false }) s) := by
  change execParkAck g s = _
  simp [execParkAck, hlive, hweft, hex, hup, hasked]

theorem exec_unpark_of_unparked (ok : Bool) (hst : (portOf s g).st ≠ 4) : exec (.unpark g ok) s =
    .next (modPort g (fun p => { p with parkAsked := false }) s) := by
  change execUnpark g ok s = _
  simp [execUnpark, hlive, Nat.not_lt.mpr hweft, hex, hup, hst]

/-- A parked port whose lanes pass their check carries traffic again, one whose check fails goes down. -/
theorem exec_unpark_of_parked (ok : Bool) (hst : (portOf s g).st = 4) : exec (.unpark g ok) s =
    .next (if ok then modPort g (fun p => { p with st := 3 }) s
      else modPort g (fun p => { p with fastAt := some (now s) }) (downPort g s)) := by
  change execUnpark g ok s = _
  simp [execUnpark, hlive, Nat.not_lt.mpr hweft, hex, hup, hst]

end

end

/-! What the third equal block finds (R341, R342, R348): the node's own ID, the stored session, a common mode, or none. -/

/-- The stored session is the one that the partner's block names, and both sides retrain fast (R348). -/
def sameSession (own b : List Byte) (p : Port) : Bool :=
  bitOf (Nat.land (u16 own 4) (u16 b 4)) 1 && u16 b 6 == p.partner && u8 b 8 == p.page && u16 b 0xA == p.tag && p.tag != 0

/-- What the port keeps of its partner's block, received at `at_`. -/
def notePartner (own b : List Byte) (at_ : Nat) (p : Port) : Port :=
  { p with
    partner := u16 b 6, page := u8 b 8, park := bitOf (Nat.land (u16 own 4) (u16 b 4)) 0
    eeeOn := bitOf (Nat.land (u16 own 4) (u16 b 4)) 2, since := at_ }

/-- The side with the smaller node ID leads the training, with requests for coefficients (R342). -/
def leadTraining (g : Nat) (b : List Byte) (s : State) : State := if s.node.nodeId < u16 b 6 then emit (.link g 6 []) s else s

section
variable {g : Nat} {b : List Byte} {s : State}

theorem leaveExchange_of_loop (h : u16 b 6 = s.node.nodeId) : leaveExchange g b s = modPort g (fun p => { p with st := 7 }) s := by
  simp [leaveExchange, h]

variable (h : u16 b 6 ≠ s.node.nodeId)
include h

theorem leaveExchange_of_session (hsame : sameSession (ownBlock s (g - 16)) b (portOf s g) = true) :
    leaveExchange g b s = leadTraining g b (modPort g (fun p => { notePartner (ownBlock s (g - 16)) b (now s) p with
      st := 2, fast := true, fastAt := some (p.fastAt.getD (now s)) }) s) := by
  unfold sameSession at hsame
  simp only [leaveExchange, h, hsame]
  rfl

variable (hsame : sameSession (ownBlock s (g - 16)) b (portOf s g) = false)
include hsame

theorem leaveExchange_of_noMode (hmode : commonMode (ownBlock s (g - 16)) b = none) :
    leaveExchange g b s = modPort g (fun p => { notePartner (ownBlock s (g - 16)) b (now s) p with st := 6 }) s := by
  unfold sameSession at hsame
  simp only [leaveExchange, h, hsame, hmode]
  rfl

theorem leaveExchange_of_mode {rate fec : Nat} {four : Bool} (hmode : commonMode (ownBlock s (g - 16)) b = some (rate, fec, four)) :
    leaveExchange g b s = leadTraining g b (modPort g (fun p => { notePartner (ownBlock s (g - 16)) b (now s) p with
      st := 2, rate := rate, fec := fec, width4 := four, degraded := false, goodGroup := none, fast := false, fastAt := none }) s) := by
  unfold sameSession at hsame
  simp only [leaveExchange, h, hsame, hmode]
  rfl

end

/-- Settles O51: each row finds its port in the state that it acts on. -/
theorem weftPorts : Obligations.WeftPorts := by
  unfold Obligations.WeftPorts
  intro g s hlive hweft hex p v
  refine ⟨?block, fun b => exec_capabilityBlock_of_badCrc hlive hweft hex, fun b => exec_capabilityBlock_of_repeat hlive hweft hex,
    exec_capabilityBlockRepeat_of_due hlive hweft hex, fun hst => ⟨?follow, ?lead, ?group, ?narrow⟩,
    fun hup => ⟨exec_parkReq_of_up hlive hweft hex hup, exec_parkAck_of_asked hlive hweft hex hup,
      fun ok => exec_unpark_of_unparked hlive hweft hex hup ok,
      fun hst => ⟨exec_unpark_of_parked hlive hweft hex hup true hst, exec_unpark_of_parked hlive hweft hex hup false hst⟩⟩,
    fun t => exec_fastRetrainTimeout_of_due hlive hex⟩
  case follow => exact fun tag => exec_weftTrainingDone_of_follower hlive hweft hex tag hst
  case lead => exact fun tag => exec_weftTrainingDone_of_leader hlive hweft hex tag hst
  case group => exact fun failed tag => exec_weftTrainingDone_of_oneGroup hlive hweft hex tag hst
  case narrow => exact fun failed tag => exec_weftTrainingDone_of_narrow hlive hweft hex tag hst
  case block =>
    intro b hok hdown hst run u own feats same keep lead
    have hrow := exec_capabilityBlock_of_ok hlive hweft hex hok hdown hst
    have hleaves (h : 3 ≤ run) : exec (.capabilityBlock g b) s = .next (leaveExchange g b u) := by
      rw [hrow, if_neg (Nat.not_lt.mpr h)]
      rfl
    refine ⟨fun h => ?count, fun h hloop => ?loop, fun h hpeer hsame => ?session, fun h hpeer hnew => ⟨fun hmode => ?noMode, ?mode⟩⟩
    case count =>
      rw [hrow, if_pos h]
      rfl
    case loop => rw [hleaves h, leaveExchange_of_loop hloop]
    case session => exact (hleaves h).trans (congrArg _ (leaveExchange_of_session hpeer hsame))
    case noMode => exact (hleaves h).trans (congrArg _ (leaveExchange_of_noMode hpeer hnew hmode))
    case mode => exact fun rate fec four hmode => (hleaves h).trans (congrArg _ (leaveExchange_of_mode hpeer hnew hmode))

end Sys2Proof.Proofs

/-! A connection's timers, and what arrives from the network (R339, R352, R356, R357, R359, R364, R366, R372, R374, R376, R377, R380; log 36). -/

namespace Sys2Proof.Proofs

open Sys2Proof Sys2Proof.Machine Sys2Proof.Laws

/-! ### The timers of a connection (R356, R359, R360, R374, R380) -/

theorem connOf_of_some {s : State} {ci : Nat} {x : Conn} (h : tget? s.conns ci = some x) : connOf s ci = x := by
  simp [connOf, tget, h]

theorem thas_of_some {s : State} {ci : Nat} {x : Conn} (h : tget? s.conns ci = some x) : thas s.conns ci = true := by
  simp [thas, h]

/-- How often the capability datagrams of a connection go out: NET_TIMERS' count, at most 8 where it may fall back (R356). -/
def capMost (s : State) (x : Conn) : Nat :=
  if x.asked = 2 then min (heldSetting (tget {} s.cmds (x.capCmd.getD 0)) 0x0102 4 netTimerDflt) 8
  else heldSetting (tget {} s.cmds (x.capCmd.getD 0)) 0x0102 4 netTimerDflt

section
variable {ci : Nat} {s : State} {x : Conn} (hnet : netLive s = true) (hx : tget? s.conns ci = some x)
include hnet hx

section
variable (hcap : x.capCmd.isSome = true) (hdue : x.capDue ≤ s.node.time)
include hcap hdue

theorem exec_capRetry_of_tries (h : x.capTries < capMost s x) : exec (.capRetry ci) s = .next (capSend ci 1 (peerIp s ci)
    (modConn ci (fun c => { c with capTries := c.capTries + 1, capDue := now s + 1000 }) s)) := by
  unfold capMost at h
  change execCapRetry ci s = _
  simp [execCapRetry, hx, hnet, Option.isSome_iff_ne_none.mp hcap, now, Nat.not_lt.mpr hdue, h]

theorem exec_capRetry_of_sprayOnly (h : capMost s x ≤ x.capTries) (hasked : x.asked = 1) :
    exec (.capRetry ci) s = .next (capEnd ci (some (err stTimeout)) s) := by
  unfold capMost at h
  change execCapRetry ci s = _
  simp only [execCapRetry, hx, hnet, now, Nat.not_lt.mpr hdue, Nat.not_lt.mpr h]
  simp [hasked, Option.isSome_iff_ne_none.mp hcap]

theorem exec_capRetry_of_fallback (h : capMost s x ≤ x.capTries) (hasked : x.asked ≠ 1) :
    exec (.capRetry ci) s = .next (capEnd ci none (modConn ci (fun c => { c with mode := 0, startSet := false }) s)) := by
  unfold capMost at h
  change execCapRetry ci s = _
  simp only [execCapRetry, hx, hnet, now, Nat.not_lt.mpr hdue, Nat.not_lt.mpr h]
  simp [hasked, Option.isSome_iff_ne_none.mp hcap]

end

section
variable (hready : x.state = 1)
include hready

theorem readyConnAt_of_ready : readyConnAt s ci = true := by
  simp [readyConnAt, hnet, hx, hready]

theorem exec_ccTimer_of_due (hdue : x.cc.nextTimer ≤ s.node.time) : exec (.ccTimer ci) s = .next (ccTick ci s) := by
  change execCcTimer ci s = _
  simp [execCcTimer, readyConnAt_of_ready hnet hx hready, connOf_of_some hx, now, hdue]

/-- A packet without an acknowledgement in time goes again: in Spray itself, in Standard with all that follow (R359, R366). -/
theorem exec_ackTimeout_of_due {psn : Nat} {u : Unacked} (hu : x.unacked.find? (fun u => u.psn == psn && !u.marked) = some u)
    (hdue : (if x.mode = 1 then u.sentAt else x.ackedAt) + netTimer s x.part 0 ≤ s.node.time) (hrnr : x.rnrUntil = none) :
    exec (.ackTimeout ci psn) s = .next (if x.mode = 1 then resendPsn ci psn s
      else goBack ci ((x.unacked.head?.map (·.psn)).getD psn) (modConn ci (fun c => { c with ackedAt := now s }) s)) := by
  change execAckTimeout ci psn s = _
  simp only [execAckTimeout, readyConnAt_of_ready hnet hx hready, connOf_of_some hx, hu, hrnr, now, Nat.not_lt.mpr hdue]
  simp

/-- A packet of a message that has begun goes again. -/
theorem exec_rnrTimerExpiry_of_waiting (hrnr : x.rnrUntil.isSome = true) :
    exec (.rnrTimerExpiry ci) s = .next (x.unacked.foldl (fun s u => (msgOfPsn (connOf s ci) u.psn).elim s (fun m =>
      emitPacket ci m (psnDist m.start u.psn) 0 true (modConn ci (fun c => { c with
        unacked := c.unacked.map (fun x => if x.psn = u.psn then { x with sentAt := now s } else x) }) s)))
      (modConn ci (fun c => { c with rnrUntil := none }) s)) := by
  change execRnrTimerExpiry ci s = _
  have hkeep : (connOf (modConn ci (fun c => { c with rnrUntil := none }) s) ci).unacked = x.unacked := by
    rw [connOf_modConn _ _ _ (thas_of_some hx), connOf_of_some hx]
  simp only [execRnrTimerExpiry, readyConnAt_of_ready hnet hx hready, connOf_of_some hx, hrnr, hkeep]
  simp only [Bool.and_self, if_true]
  congr 2
  funext s u
  cases msgOfPsn (connOf s ci) u.psn <;> rfl

theorem exec_packetSend_of_turn (hturn : outranked s ci = false) : exec (.packetSend ci) s = .next (sendNext ci s) := by
  change execPacketSend ci s = _
  simp [execPacketSend, readyConnAt_of_ready hnet hx hready, hturn]

theorem exec_ackDelayExpiry_of_due {t : Nat} (ht : x.ackDue = some t) (hdue : t ≤ s.node.time) :
    exec (.ackDelayExpiry ci) s = .next (sendAck ci 0 0 s) := by
  change execAckDelayExpiry ci s = _
  simp [execAckDelayExpiry, readyConnAt_of_ready hnet hx hready, connOf_of_some hx, ht, now, hdue]

end

end

/-- Settles O32: each timer finds what it waits for due. -/
theorem connectionTimers : Obligations.ConnectionTimers := by
  unfold Obligations.ConnectionTimers
  intro ci s x hnet hx
  exact ⟨fun hcap hdue => ⟨exec_capRetry_of_tries hnet hx hcap hdue, exec_capRetry_of_sprayOnly hnet hx hcap hdue,
    exec_capRetry_of_fallback hnet hx hcap hdue⟩, fun hready => ⟨exec_ccTimer_of_due hnet hx hready,
    fun psn u => exec_ackTimeout_of_due hnet hx hready, exec_rnrTimerExpiry_of_waiting hnet hx hready,
    exec_packetSend_of_turn hnet hx hready, fun t => exec_ackDelayExpiry_of_due hnet hx hready⟩⟩

/-! ### What arrives from the network (R352, R356, R359, R364, R372, R374, R377) -/

/-- A node that is not asleep has nothing to wake. -/
theorem finishWake_of_active {s : State} (h : s.node.phase = .active) : finishWake s = s := by
  simp [finishWake, h]

/-- The form that every received packet has to have before its connection is looked for (R339, R353, R376, R377). -/
def Arrives (s : State) (h : NetHead) : Prop :=
  (h.port < 16 → h.frame ≤ 9216) ∧ h.fragment = false ∧ portUsable s h.port = true ∧ fromPartner s h.port h.src = true

section
variable {s : State} (hnet : netLive s = true) (hgo : s.dbg.frozen = false) (hactive : s.node.phase = .active)
include hnet hgo hactive

section
variable {h : NetHead} (harr : Arrives s h)
include harr

theorem meetPacket_of_unknown (mode : Nat) (run : Nat → State → State) (hqpn : qpnConn s h.qpn = none) :
    meetPacket mode h run s = modPort h.port (fun g => { g with dropQpn := g.dropQpn + 1 }) s := by
  obtain ⟨hframe, hwhole, hport, hpartner⟩ := harr
  have hlong : ¬(h.port < 16 ∧ 9216 < h.frame) := fun ⟨h1, h2⟩ => absurd (hframe h1) (Nat.not_le.mpr h2)
  simp [meetPacket, hgo, hnet, hlong, latchWake_of_active hactive, finishWake_of_active hactive, hwhole, hport, hpartner, hqpn]

/-- A packet that authenticates at its connection, which is in the packet's mode, is received (R357, R372). -/
theorem meetPacket_of_authentic {ci : Nat} {x : Conn} {u : State} (run : Nat → State → State) (hx : tget? s.conns ci = some x)
    (hready : x.state = 1) (hqpn : h.qpn = 0x800000 + ci) (hpkey : h.pkey % 2 ^ 15 = 2 ^ 15 - 1) (htver : h.tver = 0)
    (hauth : authPacket ci h.spi h.auth h.espSeq s = some u) : meetPacket x.mode h run s = run ci u := by
  obtain ⟨hframe, hwhole, hport, hpartner⟩ := harr
  have hlong : ¬(h.port < 16 ∧ 9216 < h.frame) := fun ⟨h1, h2⟩ => absurd (hframe h1) (Nat.not_le.mpr h2)
  have hfound : qpnConn s h.qpn = some ci := by
    simp [qpnConn, hqpn, readyConnAt_of_ready hnet hx hready]
  simp only [meetPacket, hgo, hnet, latchWake_of_active hactive, finishWake_of_active hactive, hwhole, hport, hpartner, hfound,
    connOf_of_some hx, hpkey, htver, hauth]
  simp [hlong]

end

end

/-- A packet that finds its receiver not ready waits, and the last try of its message fails the connection (R359). -/
theorem rnrMet_of_msg {ci psn : Nat} {u v : State} {m : MsgOut}
    (hv : v = modConn ci (fun c => { c with ackedAt := now u }) (ackedTo ci psn u)) (hm : msgOfPsn (connOf v ci) psn = some m) :
    rnrMet ci psn u = if netTimer v (connOf v ci).part 3 ≤ rnrTries (connOf v ci) m.msn then failConn ci v
      else modConn ci (fun c => { c with rnrCount := rnrTries c m.msn, rnrMsn := m.msn, rnrUntil := some (now v) }) v := by
  rw [rnrMet, ← hv, rnrWait, hm]

section
variable {s : State} {ci : Nat} {x : Conn} {port : Nat} {addr d : List Byte} (hnet : netLive s = true)
  (hactive : s.node.phase = .active) (hx : tget? s.conns ci = some x) (hport : portUsable s port = true) (hok : capOk d = true)
  (hpartner : fromPartner s port addr = true) (hmatch : capMatch s addr d = some (ci, x))
include hnet hactive hx hport hok hpartner hmatch

theorem exec_capabilityDatagram_of_request (hcap : x.capCmd = none) (hready : x.state = 1) (hreq : u8 d 2 = 1) :
    exec (.capabilityDatagram port addr d) s =
      .next (emit (.datagram (connId s ci) port addr (netSet s 0) (capDatagram s ci 2)) (useTx port s)) := by
  change execCapabilityDatagram port addr d s = _
  simp [execCapabilityDatagram, hnet, hport, latchWake_of_active hactive, hok, hpartner, hmatch, hcap, hready, hreq, thas_of_some hx]

omit hx in
theorem exec_capabilityDatagram_of_spray (hcap : x.capCmd ≠ none) (hspray : bitOf (u8 d 3) 0 = true) (hack : u8 d 2 ≠ 1) :
    exec (.capabilityDatagram port addr d) s = .next (capEnd ci none (modConn ci (fun c => { c with
      mode := 1, peerInit := u32 d 0xC, entropy := min 16 (u8 d 0x1A), peerQpn := if c.kind = 2 then u32 d 4 else c.peerQpn }) s)) := by
  change execCapabilityDatagram port addr d s = _
  simp [execCapabilityDatagram, hnet, hport, latchWake_of_active hactive, hok, hpartner, hmatch, Option.isSome_iff_ne_none.mpr hcap,
    hspray, hack]

end

/-- The neighbours with a sender's address as it has just been learnt: the newest first, at most 4,096 (R377). -/
def learnt (sender mac : List Byte) (s : State) : List Neigh :=
  ({ addr := sender, mac := mac } :: s.neigh.filter (fun n => n.addr != sender)).take 4096

theorem exec_arpNdReceive_of_own {s : State} {port : Nat} {isNd : Bool} {target : List Byte} (sender mac : List Byte)
    (hnet : netLive s = true) (hlane : port < 16) (hport : portUsable s port = true) (hown : target = ownAddr s port isNd)
    (hset : allZero target = false) : exec (.arpNdReceive port isNd true target sender mac) s =
      .next { emit (.neighbour port (target ++ sender ++ mac)) (useTx port s) with neigh := learnt sender mac s } := by
  subst hown
  change execArpNdReceive port isNd true _ sender mac s = _
  simp [execArpNdReceive, hnet, Nat.not_le.mpr hlane, hport, hset, learnt]
  rfl

/-- Settles O33: each message passes what every received packet meets, and finds the connection or the address that it names. -/
theorem networkReceipt : Obligations.NetworkReceipt := by
  unfold Obligations.NetworkReceipt
  intro s ci x hnet hgo hactive hx
  refine ⟨fun hready h u hqpn hwhole hframe hport hpartner hpkey htver hauth => ?packet,
    fun h hframe hwhole hport hpartner hqpn => ?unknown,
    fun port addr d hport hok hpartner hmatch => ⟨exec_capabilityDatagram_of_request hnet hactive hx hport hok hpartner hmatch,
      exec_capabilityDatagram_of_spray hnet hactive hport hok hpartner hmatch⟩, ?address⟩
  case unknown => exact congrArg _ (meetPacket_of_unknown hnet hgo hactive ⟨hframe, hwhole, hport, hpartner⟩ 0 _ hqpn)
  case address =>
    intro port isNd target sender mac hlane hport hown hset
    refine ⟨_, exec_arpNdReceive_of_own sender mac hnet hlane hport hown hset, rfl, rfl, ?_⟩
    exact (List.length_take_le _ _)
  case packet =>
    have hmeet (run : Nat → State → State) : meetPacket x.mode h run s = run ci u :=
      meetPacket_of_authentic hnet hgo hactive ⟨hframe, hwhole, hport, hpartner⟩ run hx hready hqpn hpkey htver hauth
    refine ⟨fun p hp => ⟨fun hmode => ?std, fun hmode => ?spray⟩, fun hmode => ?cnp, fun psn m hmode hany => ?rnr,
      fun a hmode ha => ?sack⟩
    case std =>
      rw [hmode, hp] at hmeet
      exact congrArg _ (hmeet _)
    case spray =>
      rw [hmode, hp] at hmeet
      exact congrArg _ (hmeet _)
    case cnp =>
      rw [hmode] at hmeet
      exact congrArg _ (hmeet _)
    case sack =>
      rw [hmode, ha] at hmeet
      exact congrArg _ (hmeet _)
    case rnr =>
      intro v hm
      have hrow : exec (.rnrNakReceive h psn) s = .next (rnrMet ci psn u) := by
        rw [hmode] at hmeet
        refine congrArg _ ((hmeet _).trans ?_)
        simp [hany]
      rw [hrow, rnrMet_of_msg rfl hm]
      exact ⟨fun hleft => by rw [if_neg (Nat.not_le.mpr hleft)], fun hout => by rw [if_pos hout]⟩

end Sys2Proof.Proofs

/-! Job keys, attestation, zeroisation, tampering, self-tests and SPDM (R387 to R401; log 3, 14). -/

namespace Sys2Proof.Proofs

open Sys2Proof Sys2Proof.Machine Sys2Proof.Laws

/-! ### ATTEST_GET, JOB_KEY_INSTALL, KEY_ROTATE and ZEROISE (R387, R389, R391, R396, R400) -/

/-- What ATTEST_GET is asked for: the certificate chain, the measurements that the partition sees, both or neither (R396). -/
def attestPay (what p : Nat) (t : State) : List Byte :=
  (if bitOf what 0 then toLe 4 Config.certChain.length ++ Config.certChain else []) ++
    (if bitOf what 1 then toLe 4 (measBlocks t (measIndices p)).length ++ (measBlocks t (measIndices p)).flatten else [])

theorem cmdAttestGet_of_form {id : Nat} {c : Cmd} {t : State} (hlen : c.block.length = 64) (hwhat : u8 c.block 0 ≤ 3)
    (hpad : zeroIn c.block 1 32 = true) (hfit : fitsReply c ((attestPay (u8 c.block 0) c.part t).length + 96) = true) :
    cmdAttestGet id c t =
      ((signed (slice c.block 0x20 32 ++ attestPay (u8 c.block 0) c.part t) t).2, some (okPay [] (attestPay (u8 c.block 0) c.part t ++
        (signed (slice c.block 0x20 32 ++ attestPay (u8 c.block 0) c.part t) t).1))) := by
  unfold attestPay at hfit ⊢
  simp only [cmdAttestGet, hlen, Nat.not_lt.mpr hwhat, hpad, hfit]
  simp

section
variable {id : Nat} {c : Cmd} {t : State} (hlen : c.block.length = 0x130) (hpad : zeroIn c.block 5 0x20 = true)
  (hpad2 : zeroIn c.block 0x81 0x90 = true) (hpad3 : zeroIn c.block 0xF1 0xF4 = true)
include hlen hpad hpad2 hpad3

theorem cmdJobKeyInstall_of_install (haction : u8 c.block 4 = 0) : cmdJobKeyInstall id c t = installKey c.part c.block t := by
  simp [cmdJobKeyInstall, hlen, hpad, hpad2, hpad3, haction]

theorem cmdJobKeyInstall_of_removal {k : JobKey} (haction : u8 c.block 4 = 1) (hrest : zeroIn c.block 0x20 0x130 = true)
    (hkey : tget? (part t c.part).keys (u32 c.block 0) = some k) (hfree : jobHeld t c.part (u32 c.block 0) = false) :
    cmdJobKeyInstall id c t =
      (failJob c.part (u32 c.block 0) (modPart c.part (fun v => { v with keys := tdel v.keys (u32 c.block 0) }) t),
        some (okRet (toLe 4 (kcvOf k.secret)))) := by
  simp [cmdJobKeyInstall, hlen, hpad, hpad2, hpad3, haction, hrest, hkey, hfree]

end

theorem keepSecret_of_new {p job : Nat} {t : State} (owner secret : List Byte) (hnew : tget? (part t p).keys job = none)
    (hroom : (part t p).keys.length < 1024) : keepSecret p job owner secret t =
      (modPart p (fun v => { v with keys := tset v.keys job { secret := secret, owner := owner, jkg := 1 } }) t,
        some (okRet (toLe 4 (kcvOf secret)))) := by
  simp [keepSecret, hnew, Nat.not_le.mpr hroom]

theorem cmdKeyRotate_of_closed {id : Nat} {c : Cmd} {t : State} {k : JobKey}
    (hkey : tget? (part t c.part).keys (u32 c.block 0) = some k) (hblock : blockIs c 4 = true) (hclosed : rotationOpen t k = false) :
    cmdKeyRotate id c t = (modPart c.part (fun v => { v with keys := tset v.keys (u32 c.block 0) { k with
        jkg := k.jkg + 1
        rotating := ((jobConns t c.part (u32 c.block 0)).filter (fun i => (connOf t i).state == 1)).map
          (fun i => (i, (connOf t i).sndNext)) } }) t,
      some (okRet (toLe 4 (k.jkg + 1) ++ toLe 4 (Config.rotateCheck k.secret (k.jkg + 1))))) := by
  simp [cmdKeyRotate, hkey, hblock, hclosed]

theorem cmdZeroise_of_form {id : Nat} {c : Cmd} {t : State} (hblock : blockIs c 4 = true) (hword : u32 c.block 0 = 0x5A45524F) :
    cmdZeroise id c t = (modSec (fun x => { x with zeroised := true }) (zeroiseAll (some id) t), some (okRet [])) := by
  simp [cmdZeroise, hblock, hword]

/-- Settles O37: each command passes its checks, and its meaning then is the effect that the statement names. -/
theorem securityCommands : Obligations.SecurityCommands := by
  unfold Obligations.SecurityCommands
  intro src pkt s t id c
  refine ⟨?attest, fun hb hlen hpad hpad2 hpad3 => ⟨fun q e haction hq he => ?install, fun k haction hrest hkey hfree => ?remove⟩,
    fun k hb hkey hblock hclosed => row_reply cmdKeyRotate hb rfl (cmdKeyRotate_of_closed hkey hblock hclosed),
    fun hb hblock hword => row_reply cmdZeroise hb rfl (cmdZeroise_of_form hblock hword)⟩
  case attest =>
    exact fun hb hlen hwhat hpad hfit => row_reply cmdAttestGet hb rfl (cmdAttestGet_of_form hlen hwhat hpad hfit)
  case remove => exact row_reply cmdJobKeyInstall hb rfl (cmdJobKeyInstall_of_removal hlen hpad hpad2 hpad3 haction hrest hkey hfree)
  case install =>
    have hcmd := cmdJobKeyInstall_of_install (id := id) (t := t) hlen hpad hpad2 hpad3 haction
    refine ⟨fun hunwrap => ?fails, fun secret hunwrap hnew hroom => ?unwraps⟩
    case fails =>
      refine row_reply cmdJobKeyInstall hb rfl (hcmd.trans ?_)
      simp only [installKey, hq, he, hunwrap]
    case unwraps =>
      refine row_reply cmdJobKeyInstall hb rfl (hcmd.trans ?_)
      simp only [installKey, hq, he, hunwrap]
      exact keepSecret_of_new _ _ hnew hroom

/-! ### TAMPER_N, self-tests, the error state and SPDM (R392, R399, R400; log 14) -/

/-- In service, an Active node's BAR writes find it awake. -/
theorem exec_selftest_of_active {s : State} (hbars : barsLive s = true) (hactive : s.node.phase = .active) :
    exec (.selftest 0) s = .next (startSelftest s) := by
  change execSelftest 0 s = _
  simp [execSelftest, tlp_of_active hactive, hbars]

theorem exec_selftestDone_of_running {s : State} (k : Nat) (hgo : s.dbg.frozen = false) (hrun : s.sec.selftest = true) :
    exec (.selftestDone k) s = .next (if k = 0 then modSec (fun x => { x with selftest := false }) s else errorState k s) := by
  change execSelftestDone k s = _
  simp [execSelftestDone, hgo, hrun]

section
variable {s : State} (hpower : s.node.phase ≠ .off) (hcool : s.node.phase ≠ .tripped)
include hpower hcool

theorem exec_tamperN_of_untampered (h : s.sec.mstate ≠ 3) {u : State}
    (hu : u = assertFault (modSec (fun x => { x with mstate := 3, tamperSeen := true }) (zeroiseAll none s))) :
    exec .tamperN s = .next (postEvent ((draw u).1 % 65536) 0 0 [] (draw u).2) := by
  change execTamperN s = _
  simp [execTamperN, hpower, hcool, h, hu]

section
variable (hgo : s.dbg.frozen = false)
include hgo

theorem exec_entropyTestFail_of_sound (test : Nat) (h : s.sec.mstate < 2) : exec (.entropyTestFail test) s = .next (errorState test s) := by
  change execEntropyTestFail test s = _
  simp [execEntropyTestFail, hpower, hcool, hgo, Nat.not_le.mpr h]

section
variable (param : Nat) (body : List Byte)

theorem exec_spdmRequest_version : exec (.spdmRequest 0x84 param body) s =
    .next (emit (.mctp 2 (spdmMsg 0x04 0 0 (toLe 1 0 ++ toLe 1 2 ++ toLe 2 0x1200 ++ toLe 2 0x1300)))
      (modSec (fun y => { y with spdmVersion := true, spdmCaps := false, spdmAlgs := false }) s)) := by
  change execSpdmRequest 0x84 param body s = _
  simp [execSpdmRequest, spdmCodes, hpower, hcool, hgo]

theorem exec_spdmRequest_capabilities (h : s.sec.spdmVersion = true) : exec (.spdmRequest 0xE1 param body) s =
    .next (emit (.mctp 2 (spdmMsg 0x61 0 0 (zeros 4 ++ toLe 4 0x16)))
      (modSec (fun y => { y with spdmCaps := true, spdmAlgs := false }) s)) := by
  change execSpdmRequest 0xE1 param body s = _
  simp [execSpdmRequest, spdmCodes, hpower, hcool, hgo, h]

theorem exec_spdmRequest_algorithms (h : s.sec.spdmCaps = true) : exec (.spdmRequest 0xE3 param body) s =
    .next (emit (.mctp 2 (spdmMsg 0x63 0 0 (toLe 4 0x80 ++ toLe 4 0x02))) (modSec (fun y => { y with spdmAlgs := true }) s)) := by
  change execSpdmRequest 0xE3 param body s = _
  simp [execSpdmRequest, spdmCodes, hpower, hcool, hgo, h]

theorem exec_spdmRequest_digests : exec (.spdmRequest 0x81 param body) s =
    .next (emit (.mctp 2 (if s.sec.spdmAlgs then spdmMsg 0x01 0 1 (sha384 Config.certChain) else spdmMsg 0x7F 4 0 [])) s) := by
  change execSpdmRequest 0x81 param body s = _
  cases h : s.sec.spdmAlgs <;> simp [execSpdmRequest, spdmCodes, hpower, hcool, hgo, h]

end

end

end

/-- Settles O38: each pin, test and request finds the node in service, and a request its negotiation as far as it asks. -/
theorem securityEvents : Obligations.SecurityEvents := by
  unfold Obligations.SecurityEvents
  intro s hpower hcool
  refine ⟨fun h => exec_tamperN_of_untampered hpower hcool h rfl, fun hgo =>
    ⟨exec_entropyTestFail_of_sound hpower hcool hgo, fun hbars hactive happroved => ?begins, fun hrun => ⟨?passes, fun k hk => ?fails⟩,
      fun param body => ⟨exec_spdmRequest_version hpower hcool hgo param body, exec_spdmRequest_capabilities hpower hcool hgo param body,
        exec_spdmRequest_algorithms hpower hcool hgo param body, fun h => ?digests, fun h => ?early⟩⟩⟩
  case begins => rw [exec_selftest_of_active hbars hactive, startSelftest, if_pos happroved]
  case passes => rw [exec_selftestDone_of_running 0 hgo hrun, if_pos rfl]
  case fails => rw [exec_selftestDone_of_running k hgo hrun, if_neg hk]
  case digests => rw [exec_spdmRequest_digests hpower hcool hgo, h, if_pos rfl]
  case early => rw [exec_spdmRequest_digests hpower hcool hgo, h]; rfl

end Sys2Proof.Proofs

/-! Power states, budgets, sensors and Drizzle (R328, R410 to R427; log 67, 109). -/

namespace Sys2Proof.Proofs

open Sys2Proof Sys2Proof.Machine Sys2Proof.Laws

/-! ### POWER_STATE and BUDGET_SET (R328, R410 to R414, R422; log 67, 109) -/

theorem cmdPowerState_of_drizzle {id : Nat} {c : Cmd} {t : State} (hblock : blockIs c 6 = true) (hop : c.part = 0)
    (hscope : u8 c.block 0 = 0) (hce : u8 c.block 1 = 0) (hst : u8 c.block 2 = 4) (hpad : u8 c.block 3 = 0) (hmhz : u16 c.block 4 = 0)
    (hstill : ∀ k < 24, cellMoving t k = false) (hnode : t.pwr.nodeCmd = none) (hdrizzle : t.node.drizzleCmd = none) :
    cmdPowerState id c t =
      (modNode (fun n => { n with phase := .quiescing, drizzleCmd := some id, drizzleAt := n.time }) t, none) := by
  simp [cmdPowerState, nodePower, hblock, hop, hscope, hce, hst, hpad, hmhz, hnode, hdrizzle]
  exact hstill

section
variable {id : Nat} {c : Cmd} {t : State} (hblock : blockIs c 6 = true) (hop : c.part = 0) (hscope : u8 c.block 0 = 1)
  (hce : u8 c.block 1 ≤ 23) (hpad : u8 c.block 3 = 0) (hmhz : u16 c.block 4 = 0) (howner : cellOwner t (u8 c.block 1) ≠ 0)
  (hstill : cellMoving t (u8 c.block 1) = false)
include hblock hop hscope hce hpad hmhz howner hstill

/-- The operator's POWER_STATE of a cell that a partition owns and whose state is not changing is the cell's own (R410): of STATE 0 and
2, which carry no clock and ask for no check of what the stack holds. -/
theorem cmdPowerState_of_cell (hst : u8 c.block 2 = 0 ∨ u8 c.block 2 = 2) :
    cmdPowerState id c t = cellPower id (u8 c.block 1) (u8 c.block 2) 0 t := by
  rcases hst with hst | hst <;>
    simp [cmdPowerState, hblock, hop, hscope, Nat.not_lt.mpr hce, hst, hpad, hmhz, howner, hstill]

end

theorem cellPower_of_running {id k : Nat} {t : State} (h : (cell t k).pwr.st ≤ 1) :
    cellPower id k 2 0 t = (enterCellOff k 2 (some id) (loseOps k t), none) := by
  have hne : (cell t k).pwr.st ≠ 2 := by omega
  simp [cellPower, hne, Nat.not_le.mpr (Nat.lt_succ_of_le h)]

theorem cellPower_of_reached {id k : Nat} {t : State} (h : (cell t k).pwr.st = 2) :
    cellPower id k 2 0 t = (t, some (okRet (toLe 1 2 ++ zeros 7))) := by
  simp [cellPower, h]

theorem cellPower_of_off {id k : Nat} {t : State} (h : 2 ≤ (cell t k).pwr.st) :
    cellPower id k 0 0 t = (leaveCellOff k 0 0 (some id) t, none) := by
  simp [cellPower, Nat.not_le.mpr h]

theorem cmdBudgetSet_of_package {id : Nat} {c : Cmd} {t : State} (hblock : blockIs c 6 = true) (hpad : zeroIn c.block 2 4 = true)
    (hall : u16 c.block 0 = 0xFFFF) : cmdBudgetSet id c t =
      (modPwr (fun q => { q with budget := min 3000 (max 500 (u16 c.block 4)) }) t,
        some (okRet (toLe 2 (min 3000 (max 500 (u16 c.block 4)))))) := by
  simp [cmdBudgetSet, hblock, hpad, hall]

/-! A cell's way into and out of Cell-off ends (R411, R412, R413). -/

theorem exec_cellOffDrained_of_idle {k : Nat} {s : State} (hlive : nodeLive s = true) (hst : (cell s k).pwr.st = 5)
    (hidle : cellIdle s k = true) {st : Nat} (hto : st = (cell s k).pwr.target.getD 2) {u : State}
    (hu : u = modCellPwr k (fun w => { w with
      st := st, target := none, cmd := none, coreMhz := 0, vddMv := 0, wroteMv := 0, wroteAt := none, pendMhz := none })
      (powerDownUnits k s)) :
    exec (.cellOffDrained k) s = .next ((cell s k).pwr.cmd.elim (if st = 3 then loseStack k u else u)
      (fun n => powerReply n st (if st = 3 then loseStack k u else u))) := by
  subst hto hu
  change execCellOffDrained k s = _
  cases h : (cell s k).pwr.cmd <;> simp [execCellOffDrained, hlive, hst, hidle, h]

theorem exec_cellOffExitDone_of_waking {k : Nat} {s : State} (hgo : s.dbg.frozen = false) (hst : (cell s k).pwr.st = 6) {st : Nat}
    (hto : st = (cell s k).pwr.target.getD 0) {u : State} (hu : u = powerUp k st (if (cell s k).pwr.prev = 3 then rejoinCell k s else s))
    {v : State} (hv : v = (cell s k).pwr.cmd.elim u (fun n => powerReply n st u)) :
    exec (.cellOffExitDone k) s = .next (createReady (cellOwner v k) v) := by
  subst hto hu hv
  change execCellOffExitDone k s = _
  cases h : (cell s k).pwr.cmd <;> simp [execCellOffExitDone, hgo, hst, h]

/-- Settles O39: both commands pass their checks, and a transition that is done is answered. -/
theorem powerCommands : Obligations.PowerCommands := by
  unfold Obligations.PowerCommands
  intro src pkt s t id c
  refine ⟨?drizzle, ?cells, fun hb hblock hpad hall => row_reply cmdBudgetSet hb rfl (cmdBudgetSet_of_package hblock hpad hall),
    fun k hlive hst hidle => exec_cellOffDrained_of_idle hlive hst hidle rfl rfl,
    fun k hgo hst => exec_cellOffExitDone_of_waking hgo hst rfl rfl rfl⟩
  case drizzle =>
    exact fun hb hblock hop hscope hce hst hpad hmhz hstill hnode hdrizzle =>
      row_later cmdPowerState hb rfl (cmdPowerState_of_drizzle hblock hop hscope hce hst hpad hmhz hstill hnode hdrizzle)
  case cells =>
    intro hb hblock hop hscope hce hpad hmhz howner hstill
    have hcmd := cmdPowerState_of_cell (id := id) hblock hop hscope hce hpad hmhz howner hstill
    refine ⟨fun hst hrun => ?enter, fun hst hoff => ?reached, fun hst hoff => ?leave⟩
    case enter => exact row_later cmdPowerState hb rfl ((hcmd (.inr hst)).trans (by rw [hst, cellPower_of_running hrun]))
    case reached => exact row_reply cmdPowerState hb rfl ((hcmd (.inr hst)).trans (by rw [hst, cellPower_of_reached hoff]))
    case leave => exact row_later cmdPowerState hb rfl ((hcmd (.inl hst)).trans (by rw [hst, cellPower_of_off hoff]))

/-! ### Temperature, voltage and power sensors (R418 to R427) -/

@[simp] theorem powerSet_modPwr (f : Pwr → Pwr) (s : State) (i : Nat) : powerSet (modPwr f s) i = powerSet s i := rfl

@[simp] theorem powerSet_modCellPwr (k : Nat) (f : CellPwr → CellPwr) (s : State) (i : Nat) :
    powerSet (modCellPwr k f s) i = powerSet s i := rfl

@[simp] theorem modCellPwr_pwr (k : Nat) (f : CellPwr → CellPwr) (s : State) : (modCellPwr k f s).pwr = s.pwr := rfl

section
variable {s : State} (hon : sensing s = true)
include hon

theorem exec_dieTempReport_hub {temp : Nat} (hwarn : temp < powerSet s 4) (hcool : temp < 97) (hcause : bitOf s.pwr.causes 3 = false) :
    exec (.dieTempReport 24 temp) s = .next (modPwr (fun w => { w with hubTemp := temp }) s) := by
  change execDieTempReport 24 temp s = _
  have h100 : temp < 100 := by omega
  have h105 : temp < 105 := by omega
  have h115 : temp < 115 := by omega
  simp [execDieTempReport, hon, Nat.not_le.mpr hwarn, Nat.not_le.mpr h100, Nat.not_le.mpr h105, Nat.not_le.mpr h115, clearCond, hcause]

theorem exec_dieTempReport_cell {k temp : Nat} (hk : k < 24) (hwarn : temp < powerSet s 4) (hcool : temp < 97)
    (hcause : bitOf s.pwr.causes 2 = false) :
    exec (.dieTempReport k temp) s = .next (modCellPwr k (fun w => { w with loomT := temp }) s) := by
  change execDieTempReport k temp s = _
  have h100 : temp < 100 := by omega
  have h105 : temp < 105 := by omega
  have h115 : temp < 115 := by omega
  simp [execDieTempReport, hon, hk, Nat.not_lt.mpr (Nat.le_of_lt hk), Nat.not_le.mpr hwarn, Nat.not_le.mpr h100, Nat.not_le.mpr h105,
    Nat.not_le.mpr h115, clearCond, hcause]

/-- From 115 °C a reading ends in the node's trip (R427). -/
theorem exec_dieTempReport_trips {k temp : Nat} (hk : k ≤ 24) (hhot : 115 ≤ temp) :
    ∃ u, exec (.dieTempReport k temp) s = .next (tripThermal u) := by
  change ∃ u, execDieTempReport k temp s = _
  simp only [execDieTempReport, hon, Nat.not_lt.mpr hk, hhot]
  exact ⟨_, rfl⟩

theorem exec_throttleClear_of_others {k t0 : Nat} (hreg : k ≠ 5) (hclear : tget? s.pwr.clearing k = some t0)
    (hcause : bitOf s.pwr.causes k = true) (hdue : t0 + 10000 ≤ s.node.time) (hothers : clearBit s.pwr.causes k ≠ 0) :
    exec (.throttleClear k) s =
      .next (modPwr (fun w => { w with causes := clearBit w.causes k, clearing := tdel w.clearing k }) s) := by
  change execThrottleClear k s = _
  simp [execThrottleClear, clearCause, hon, hclear, hcause, now, hdue, hreg, hothers]

section
variable {w : Nat} {peak : Bool} (hcurrent : bitOf s.pwr.causes 1 = false) (hreg : bitOf s.pwr.causes 5 = false)

include hcurrent hreg in
theorem exec_avsPoll_within (hw : w ≤ s.pwr.budget) (hpower : bitOf s.pwr.causes 0 = false) :
    exec (.avsPoll w false []) s = .next (modPwr (fun q => { q with pkgW := w }) s) := by
  change execAvsPoll w false [] s = _
  simp [execAvsPoll, hon, Nat.not_lt.mpr hw, clearCond, hcurrent, hreg, hpower]

/-- Over the budget, or at a peak, the cause of the package's power stands (R424). -/
theorem exec_avsPoll_over (hover : peak = true ∨ s.pwr.budget < w) {u : State} (hu : u = modPwr (fun q => { q with pkgW := w }) s) :
    exec (.avsPoll w peak []) s =
      .next (clearCond 5 (regClear (clearCond 1 true (setCause 0 u))) (clearCond 1 true (setCause 0 u))) := by
  subst hu
  change execAvsPoll w peak [] s = _
  rcases hover with h | h <;> simp [execAvsPoll, hon, h]

end

theorem exec_avsVoltageReached_of_settled {k : Nat} (mv : Nat) (hk : k < 24) (hpend : (cell s k).pwr.pendMhz = none)
    (hreg : bitOf s.pwr.causes 5 = false) : exec (.avsVoltageReached k mv) s = .next (settlePower
      (modCellPwr k (fun w => { w with vddMv := mv, wroteAt := if w.wroteMv ≤ mv then none else w.wroteAt }) s)) := by
  change execAvsVoltageReached k mv s = _
  simp [execAvsVoltageReached, hon, Nat.not_le.mpr hk, hpend, clearCond, hreg]

theorem exec_avsTimeout_of_due {k t0 : Nat} (hk : k < 24) (hwrote : (cell s k).pwr.wroteAt = some t0) (hdue : t0 + 500 ≤ s.node.time) :
    exec (.avsTimeout k) s = .next (settlePower (regFault k s)) := by
  change execAvsTimeout k s = _
  simp [execAvsTimeout, hon, Nat.not_le.mpr hk, hwrote, now, hdue]

theorem exec_envelopeTick_of_noDraw : exec (.envelopeTick []) s = .next (applyClocks s) := by
  change execEnvelopeTick [] s = _
  simp [execEnvelopeTick, hon]

/-- A ceiling under an envelope of `lim`, of which `w` is drawn (R423). -/
def moveCeil (s : State) (w lim v : Nat) : Nat :=
  if lim < w then max 400 (min v (powerSet s 0) - 25)
  else if w * 100 < 95 * lim then min (powerSet s 0) (min v (powerSet s 0) + 25) else v

theorem exec_envelopeTick_of_draw {p lim : Nat} (w : Nat) (hp : p ≠ 0) (hexists : (part s p).exists_ = true)
    (hlim : (part s p).envelope = some lim) {u : State} (hu : u = modPart p (fun v => { v with drawW := w }) s) :
    exec (.envelopeTick [(p, w)]) s = .next (applyClocks ((partCells u p).foldl
      (fun t c => modCellPwr c (fun q => { q with ceilMhz := moveCeil s w lim q.ceilMhz }) t) u)) := by
  subst hu
  change execEnvelopeTick [(p, w)] s = _
  simp [execEnvelopeTick, hon, hp, hexists, hlim, moveCeil]

end

@[simp] theorem assertFault_pwr (s : State) : (assertFault s).pwr = s.pwr := by
  unfold assertFault
  split <;> rfl

/-- The trip latches, with the node stopped and out of Frost (R427). -/
theorem tripThermal_latches {s : State} (hpower : s.node.phase ≠ .off) :
    (tripThermal s).node.phase = .tripped ∧ (tripThermal s).pwr.thermtrip = true ∧ (tripThermal s).dbg.frozen = false := by
  simp [tripThermal, hpower]

theorem phase_ne_off_of_sensing {s : State} (h : sensing s = true) : s.node.phase ≠ .off := by
  simp only [sensing, Bool.and_eq_true, bne_iff_ne] at h
  exact h.1.1

/-- Settles O41: the node senses; each reading finds the causes, the registers and the envelopes that it is compared with. -/
theorem sensors : Obligations.Sensors := by
  unfold Obligations.Sensors
  intro s hon
  refine ⟨fun temp => exec_dieTempReport_hub hon, fun k temp => exec_dieTempReport_cell hon, fun k temp => exec_dieTempReport_trips hon,
    fun k t0 => exec_throttleClear_of_others hon, fun w peak hcurrent hreg => ⟨fun hpeak hw hpower => ?within, fun hover => ?beyond⟩,
    fun k mv => exec_avsVoltageReached_of_settled hon mv, fun k t0 => exec_avsTimeout_of_due hon, exec_envelopeTick_of_noDraw hon,
    fun p w lim hp hexists hlim => exec_envelopeTick_of_draw hon w hp hexists hlim rfl,
    tripThermal s, rfl, tripThermal_latches (phase_ne_off_of_sensing hon)⟩
  case within =>
    subst hpeak
    exact exec_avsPoll_within hon hcurrent hreg hw hpower
  case beyond => exact exec_avsPoll_over hon hover rfl

/-! ### Drizzle (R414 to R417) -/

section
variable {s : State} (hgo : s.dbg.frozen = false)
include hgo

theorem exec_drizzleQuiesced_of_quiet (hphase : s.node.phase = .quiescing) (hquiet : quiet s = true) :
    exec .drizzleQuiesced s = .next (sleepLinks (sleepRails (modNode (fun n => { n with
      phase := .drizzle, drizzleCmd := none, drizzleAt := n.time, drizzleWake := if powerSet s 3 = 0 then 0 else n.time + powerSet s 3 })
      (powerReply (s.node.drizzleCmd.getD 0) 4 s)))) := by
  change execDrizzleQuiesced s = _
  simp [execDrizzleQuiesced, hgo, hphase, hquiet]

omit hgo in
/-- A quiesce that something wakes is abandoned (R414). -/
theorem latchWake_of_quiescing (hphase : s.node.phase = .quiescing) : latchWake s = abandonDrizzle s := by
  simp [latchWake, hphase]

omit hgo in
/-- A node that sleeps begins to wake (R416). -/
theorem latchWake_of_drizzle (hphase : s.node.phase = .drizzle) :
    latchWake s = modNode (fun n => { n with phase := .waking, drizzleAt := n.time }) s := by
  simp [latchWake, hphase]

omit hgo in
theorem exec_drizzleQuiesceExpiry_of_due (hlive : nodeLive s = true) (hphase : s.node.phase = .quiescing)
    (hdue : s.node.drizzleAt + powerSet s 2 ≤ s.node.time) : exec .drizzleQuiesceExpiry s = .next (abandonDrizzle s) := by
  change execDrizzleQuiesceExpiry s = _
  simp [execDrizzleQuiesceExpiry, hlive, hphase, now, hdue]

theorem exec_wakeN_low : exec (.wakeN true) s = .next (latchWake s) := by
  change execWakeN true s = _
  simp [execWakeN, hgo]

theorem exec_wake_of_running : exec .wake s = .next (finishWake (latchWake s)) := by
  change execWake s = _
  simp [execWake, hgo]

theorem exec_drizzleTimerExpiry_of_due (hphase : s.node.phase = .drizzle) (hset : s.node.drizzleWake ≠ 0)
    (hdue : s.node.drizzleWake ≤ s.node.time) : exec .drizzleTimerExpiry s = .next (latchWake s) := by
  change execDrizzleTimerExpiry s = _
  simp [execDrizzleTimerExpiry, hgo, hphase, hset, now, hdue]

end

/-- Settles O42: each row finds the node quiescing or asleep. -/
theorem drizzle : Obligations.Drizzle := by
  unfold Obligations.Drizzle
  intro s hgo
  refine ⟨exec_drizzleQuiesced_of_quiet hgo, fun hphase hlive hdue => ⟨exec_drizzleQuiesceExpiry_of_due hlive hphase hdue, ?abandon⟩,
    fun hphase => ?asleep⟩
  case abandon => rw [exec_wakeN_low hgo, latchWake_of_quiescing hphase]
  case asleep =>
    have hwake := latchWake_of_drizzle hphase
    refine ⟨?wake, ?pin, fun hset hdue => ?timer⟩
    case wake => rw [exec_wake_of_running hgo, hwake]
    case pin => rw [exec_wakeN_low hgo, hwake]
    case timer => rw [exec_drizzleTimerExpiry_of_due hgo hphase hset hdue, hwake]

end Sys2Proof.Proofs

/-! Watchdogs, heartbeats and resets that end or climb (R421, R432, R434, R438, R439, R444, R450, R458, R467; log 15, 48). -/

namespace Sys2Proof.Proofs

open Sys2Proof Sys2Proof.Machine Sys2Proof.Laws

/-! ### Watchdogs, heartbeats and the references (R421, R432, R434) -/

section
variable {s : State} (hwork : working_ s = true)
include hwork

/-- A trip that Frost is not armed on starts what its level is to start (R432). -/
theorem trip_of_unarmed {level a b : Nat} (harm : s.dbg.armTrigger ≠ 3) : trip level a b s = tripAction level a b s := by
  simp [trip, hwork, harm]

/-- One at or above the armed level freezes the node first (R458). -/
theorem trip_of_armed {level a b : Nat} (harm : s.dbg.armTrigger = 3) (hlevel : s.dbg.armLevel ≤ level) :
    trip level a b s = modDbg (fun g => { g with tripped := some (level, a, b) }) (freeze 3 s) := by
  simp [trip, hwork, harm, hlevel]

theorem exec_heartbeatMiss_security (hrun : s.node.restart = none) :
    exec (.heartbeatMiss .securityMissed) s = .next (controlRestart s) := by
  change execHeartbeatMiss .securityMissed s = _
  simp [execHeartbeatMiss, hwork, hrun]

theorem exec_heartbeatMiss_control :
    exec (.heartbeatMiss .controlMissed) s = .next (nodeReset 6 true false none none s) := by
  change execHeartbeatMiss .controlMissed s = _
  simp [execHeartbeatMiss, hwork]

theorem exec_refLoss_system : exec (.refLoss .system) s = .next (modNode (fun n => { n with refLoss := true })
    (nodeReset 0x0A false false none none (assertFault ((s.parts.map (·.1)).foldl (fun s p => fenceAll p s) s)))) := by
  change execRefLoss .system s = _
  simp [execRefLoss, hwork]

theorem frozen_of_working : s.dbg.frozen = false := by
  simp only [working_, Bool.and_eq_true, Bool.not_eq_true'] at hwork
  exact hwork.1

theorem exec_refLoss_serdes (hlive : linkLive s = true) : exec (.refLoss .serdes) s =
    .next ((List.range 24).foldl (fun s g => if portExists s g then downPort g s else s) s) := by
  change execRefLoss .serdes s = _
  simp [execRefLoss, hlive, frozen_of_working hwork]

end

theorem exec_refLoss_pcie {s : State} (hpcie : pcieOn s = true) : exec (.refLoss .pcie) s = .next (flrAll s) := by
  change execRefLoss .pcie s = _
  simp [execRefLoss, hpcie]

theorem exec_ctxWdTrip_of_context {i : Nat} {x : Ctx} {s : State} (hx : tget? s.ctxs i = some x) :
    exec (.ctxWdTrip i) s = .next (trip 1 i 0 s) := by
  change execCtxWdTrip i s = _
  simp [execCtxWdTrip, thas, hx]

theorem exec_coreWdTrip_of_inService {k j : Nat} {s : State} (hk : k < 24) (hj : j < 16) (hst : (coreOf (cell s k) j).st = 0) :
    exec (.coreWdTrip k j) s = .next (trip 2 k j s) := by
  change execCoreWdTrip k j s = _
  simp [execCoreWdTrip, hk, hj, hst]

theorem exec_cellWdTrip_of_cell {k u : Nat} {s : State} (hk : k < 24) (hu : u < 6) : exec (.cellWdTrip k u) s = .next (trip 3 k u s) := by
  change execCellWdTrip k u s = _
  simp [execCellWdTrip, hk, hu]

theorem exec_hubWdTrip_of_unit {u : Nat} {s : State} (hu : u < 8) : exec (.hubWdTrip u) s = .next (trip 4 u 0 s) := by
  change execHubWdTrip u s = _
  simp [execHubWdTrip, hu]

/-- Settles O44: a trip goes to the reset of its level, or to Frost where that is armed on it. -/
theorem watchdogs : Obligations.Watchdogs := by
  unfold Obligations.Watchdogs
  intro s hwork
  refine ⟨fun harm => ⟨fun i x cm hx hcm hheld => ?context, fun k j hk hj hst => ?core, fun k u hk hu howner hreset => ?cell,
    fun u hu => ?hub⟩, fun harm k j hk hj hst hlevel => ?frost, exec_heartbeatMiss_security hwork, exec_heartbeatMiss_control hwork,
    exec_refLoss_system hwork, exec_refLoss_pcie, exec_refLoss_serdes hwork⟩
  case context =>
    rw [exec_ctxWdTrip_of_context hx, trip_of_unarmed hwork harm]
    simp [tripAction, hx, hcm, hheld]
  case core =>
    rw [exec_coreWdTrip_of_inService hk hj hst, trip_of_unarmed hwork harm]
    simp [tripAction, hk, hj, hst]
  case cell =>
    rw [exec_cellWdTrip_of_cell hk hu, trip_of_unarmed hwork harm]
    simp [tripAction, Nat.not_le.mpr hk, howner, hreset]
  case hub =>
    rw [exec_hubWdTrip_of_unit hu, trip_of_unarmed hwork harm]
    simp [tripAction]
  case frost => rw [exec_coreWdTrip_of_inService hk hj hst, trip_of_armed hwork harm hlevel]

/-! ### Resets that end or climb (R438, R439, R444, R467; log 15, 48) -/

/-- A core that passes its check is in service again, and RECOVERY says so (R439, R450). -/
def coreRecovered (k j : Nat) (s : State) : State :=
  let u := modCore k j (fun v => { v with st := 0, cmd := none }) s
  postRecovery 2 0 (coreOf (cell s k) j).cause (16 * k + j) (coreOf (cell s k) j).inc (cellOwner u k) u

section
variable {s : State} (hwork : working_ s = true)
include hwork

section
variable {k j : Nat} (hst : (coreOf (cell s k) j).st = 1) (hrun : (2, 16 * k + j) ∉ s.dbg.halted)
include hst hrun

theorem exec_coreSelfCheckDone_of_pass : exec (.coreSelfCheckDone k j true) s =
    .next ((coreOf (cell s k) j).cmd.elim (coreRecovered k j s) (fun id => conclude id (okRet [2]) (coreRecovered k j s))) := by
  change execCoreSelfCheckDone k j true s = _
  cases h : (coreOf (cell s k) j).cmd <;> simp [execCoreSelfCheckDone, coreRecovered, hst, hwork, hrun, h]

theorem exec_coreResetTimeout_of_due (hdue : (coreOf (cell s k) j).checkAt + 2000 ≤ s.node.time) (howner : cellOwner s k ≠ 0)
    (hreset : (part s (cellOwner s k)).inReset = false) : exec (.coreResetTimeout k j) s =
      .next (climb3 2 (16 * k + j) (coreOf (cell s k) j).inc (cellOwner s k) (coreOf (cell s k) j).cmd s) := by
  change execCoreResetTimeout k j s = _
  simp [execCoreResetTimeout, hst, hwork, hrun, now, hdue, howner, hreset]

end

theorem exec_contextResetTimeout_core {k j : Nat} (i : Nat) (hk : k < 24) (hj : j < 16) (hst : (coreOf (cell s k) j).st = 0)
    (hclimb : 2 ≤ recSet s 6) : exec (.contextResetTimeout i (.core k j)) s = .next (coreReset k j 7 false none
      (postRecovery 1 1 s.dbg.lastCause (cellOwner s k) (part s (cellOwner s k)).inc (cellOwner s k) s)) := by
  change execContextResetTimeout i (.core k j) s = _
  simp [execContextResetTimeout, hwork, Nat.not_le.mpr hk, Nat.not_le.mpr hj, hst, Nat.not_lt.mpr hclimb]

theorem exec_contextResetTimeout_cellUnit {k : Nat} (i u : Nat) (hk : k < 24) (howner : cellOwner s k ≠ 0)
    (hreset : (part s (cellOwner s k)).inReset = false) : exec (.contextResetTimeout i (.cellUnit k u)) s =
      .next (climb3 1 (cellOwner s k) (part s (cellOwner s k)).inc (cellOwner s k) none s) := by
  change execContextResetTimeout i (.cellUnit k u) s = _
  simp [execContextResetTimeout, hwork, Nat.not_le.mpr hk, howner, hreset]

theorem exec_contextResetTimeout_hubBlock (i b : Nat) : exec (.contextResetTimeout i (.hubBlock b)) s =
    .next (climb4 1 0xFFFF s.node.nodeInc 0 none s) := by
  change execContextResetTimeout i (.hubBlock b) s = _
  simp [execContextResetTimeout, hwork]

section
variable {r : Restart} (hr : s.node.restart = some r) (hown : r.activate = false)
include hr hown

theorem exec_controlRestartDone_of_restart : exec .controlRestartDone s = .next (firmwareRuns
    (postRecovery 0 0 5 0xFFFF s.node.nodeInc 0 (modNode (fun n => { n with restart := none }) s))) := by
  change execControlRestartDone s = _
  simp [execControlRestartDone, hr, hown, frozen_of_working hwork]

theorem exec_controlRestartTimeout_of_due (hdue : r.at_ + 2000000 ≤ s.node.time) :
    exec .controlRestartTimeout s = .next (climb4 0 0xFFFF s.node.nodeInc 0 none s) := by
  change execControlRestartTimeout s = _
  simp [execControlRestartTimeout, hr, hown, hwork, now, hdue]

end

end

section
variable {s : State} (hphase : s.node.phase = .level4) (hpin : s.node.resetHeld = false) (hgo : s.dbg.frozen = false)
include hphase hpin hgo

theorem exec_nodeResetDone_of_level4 (present : Nat) :
    exec (.nodeResetDone present) s = .next (nodeResetDone (present % 2 ^ 24) s) := by
  change execNodeResetDone present s = _
  simp [execNodeResetDone, hphase, hpin, hgo]

theorem exec_nodeResetTimeout_of_due (hdue : s.node.level4At + 6000000 ≤ s.node.time) :
    exec .nodeResetTimeout s = .next (climb5 s) := by
  change execNodeResetTimeout s = _
  simp [execNodeResetTimeout, hphase, hpin, hgo, now, hdue]

end

/-- Settles O45: each row finds the reset that it ends or whose time it is. -/
theorem resetEnds : Obligations.ResetEnds := by
  unfold Obligations.ResetEnds
  refine ⟨fun s hwork => ⟨fun k j => ?core, fun i k j => exec_contextResetTimeout_core hwork i,
    fun i k u => exec_contextResetTimeout_cellUnit hwork i u, exec_contextResetTimeout_hubBlock hwork,
    fun r hr hown => ⟨exec_controlRestartDone_of_restart hwork hr hown, exec_controlRestartTimeout_of_due hwork hr hown⟩⟩,
    fun s hphase hpin hgo => ⟨exec_nodeResetDone_of_level4 hphase hpin hgo, exec_nodeResetTimeout_of_due hphase hpin hgo⟩⟩
  case core =>
    intro v hst hrun
    refine ⟨⟨fun hcmd => ?silent, fun id hcmd => ?answers⟩, exec_coreResetTimeout_of_due hwork hst hrun⟩
    case silent =>
      rw [exec_coreSelfCheckDone_of_pass hwork hst hrun, hcmd]
      rfl
    case answers =>
      rw [exec_coreSelfCheckDone_of_pass hwork hst hrun, hcmd]
      rfl

end Sys2Proof.Proofs

/-! Firmware, power-up and the pins, PLDM and the I3C mode (R329, R443, R451, R464 to R468, R507). -/

namespace Sys2Proof.Proofs

open Sys2Proof Sys2Proof.Machine Sys2Proof.Laws

/-! ### Firmware staged and activated (R464 to R467) -/

theorem cmdFwStage_of_form {id : Nat} {c : Cmd} {t : State} (hlen : c.block.length = 32 + u32 c.block 12) (hfinal : u8 c.block 8 ≤ 1)
    (hpad : zeroIn c.block 9 12 = true) (hpad2 : zeroIn c.block 16 32 = true) : cmdFwStage id c t =
      ((stageChunk (u32 c.block 0) (u32 c.block 4) (u8 c.block 8 == 1) (c.block.drop 32) t).1,
        some (stageChunk (u32 c.block 0) (u32 c.block 4) (u8 c.block 8 == 1) (c.block.drop 32) t).2) := by
  simp [cmdFwStage, hlen, Nat.not_lt.mpr hfinal, hpad, hpad2]

theorem exec_fwActivate_of_begun {src : Source} {pkt : Packet} {s t : State} {id : Nat} {c : Cmd} (hb : Begun 0x0808 src pkt s id c t)
    (hblock : blockIs c 0 = true) : exec (.fwActivate src pkt) s = .next (after id (activate (some id) t)) := by
  change Host.Outcome.next (submitOp 0x0808 src pkt cmdFwActivate s) = _
  rw [submitOp_of_begins cmdFwActivate hb.1 hb.2, cmdFwActivate, if_pos hblock]

/-- The node with the new image's slot selected (R465). -/
def imageReports (s : State) : State :=
  firmwareRuns (modNode (fun n => { n with slotSelect := n.activeSlot, activating := false, restart := none }) s)

/-- The node with the old image active again (R466). -/
def imageFails (s : State) : State :=
  firmwareRuns (modNode (fun n => { n with
    activeSlot := 1 - n.activeSlot, activating := false, restart := none, ctrlInc := (n.ctrlInc + 1) % 65536 }) s)

section
variable {s : State} {r : Restart} (hr : s.node.restart = some r) (hact : r.activate = true) (hgo : s.dbg.frozen = false)
include hr hact hgo

theorem exec_fwReportRunning_of_activation : exec .fwReportRunning s =
    .next (r.cmd.elim (imageReports s) (fun q => conclude q (fwReply (imageReports s)) (imageReports s))) := by
  change execFwReportRunning s = _
  cases h : r.cmd <;> simp [execFwReportRunning, imageReports, hr, hact, hgo, h]

theorem exec_fwActivateTimeout_of_due (hdue : r.at_ + 2000000 ≤ s.node.time) : exec .fwActivateTimeout s =
    .next (r.cmd.elim (imageFails s) (fun q => conclude q (err stInternal 0x0F01) (imageFails s))) := by
  change execFwActivateTimeout s = _
  cases h : r.cmd <;> simp [execFwActivateTimeout, imageFails, hr, hact, hgo, now, hdue, h]

end

/-- Settles O48: both commands pass their checks, and an activation is answered where a command asked for it. -/
theorem firmware : Obligations.Firmware := by
  unfold Obligations.Firmware
  intro src pkt s t id c
  refine ⟨?stage, exec_fwActivate_of_begun, fun r hr hact hgo =>
    ⟨⟨fun hcmd => ?reports, fun q hcmd => ?answers⟩, fun hdue => ?expires⟩⟩
  case stage =>
    exact fun hb hlen hfinal hpad hpad2 => row_reply cmdFwStage hb rfl (cmdFwStage_of_form hlen hfinal hpad hpad2)
  case reports =>
    rw [exec_fwReportRunning_of_activation hr hact hgo, hcmd]
    rfl
  case answers =>
    rw [exec_fwReportRunning_of_activation hr hact hgo, hcmd]
    rfl
  case expires =>
    have hrow := exec_fwActivateTimeout_of_due hr hact hgo hdue
    refine ⟨fun hcmd => ?_, fun q hcmd => ?_⟩
    all_goals
      rw [hrow, hcmd]
      rfl

/-! ### Power-up, boot and the pins (R443, R451, R468) -/

/-- The node whose power is good, before it loads its image: the straps, the next incarnation, a fresh nonce (R451, R468). -/
def powerUpNode (straps : Nat) (s : State) : State :=
  modNode (fun k => { k with
    phase := .booting, trayPos := straps % 32, nodeInc := (k.nodeInc + 1) % 65536, resetHeld := false
    bootNonce := (draw (powerGone s)).1 }) (draw (powerGone s)).2

theorem exec_pwrGood_of_good {s : State} (straps : Nat) (hoff : s.node.phase = .off) :
    exec (.pwrGood straps true true true) s = .next (loadImage (powerUpNode straps s)) := by
  change execPwrGood straps true true true s = _
  simp [execPwrGood, powerUpNode, hoff]

theorem powerUpNode_nodeInc (straps : Nat) (s : State) : (powerUpNode straps s).node.nodeInc = (s.node.nodeInc + 1) % 65536 := by
  simp [powerUpNode, powerGone]

/-- FAULT_N rises where no fault stands, which leaves the phase, the cells present, the partitions and the security engine (R497). -/
theorem releaseFault_frame (s : State) : (releaseFault s).node.phase = s.node.phase ∧
    (releaseFault s).node.cellsPresent = s.node.cellsPresent ∧ (releaseFault s).parts = s.parts ∧ (releaseFault s).sec = s.sec := by
  unfold releaseFault
  split <;> exact ⟨rfl, rfl, rfl, rfl⟩

/-- The node whose boot is done: active, approved unless a self-test failed, with partition 0 and the cells present (R399, R468). -/
def booted (present : Nat) (s : State) : State :=
  modPart 0 (fun v => { v with exists_ := true })
    (modNode (fun n => { n with phase := .active, linkChecked := true, cellsPresent := present % 2 ^ 24 })
      (modSec (fun x => { x with mstate := if x.mstate = 2 then 2 else 1 }) s))

theorem exec_bootDone_of_booting {s : State} (present : Nat) (hphase : s.node.phase = .booting) (hpin : s.node.resetHeld = false)
    (htamper : s.sec.mstate ≠ 3) (hgo : s.dbg.frozen = false) :
    exec (.bootDone present) s = .next (releaseFault (booted present s)) := by
  change execBootDone present s = _
  simp [execBootDone, booted, hphase, hpin, htamper, hgo]

theorem exec_resetN_of_active {s : State} (hactive : s.node.phase = .active) :
    exec .resetN s = .next (nodeReset 0x0B true true none none s) := by
  change execResetN s = _
  simp [execResetN, hactive]

theorem exec_resetNRelease_of_held {s : State} (hpin : s.node.resetHeld = true) :
    exec .resetNRelease s = .next (modNode (fun n => { n with resetHeld := false, level4At := n.time }) s) := by
  change execResetNRelease s = _
  simp [execResetNRelease, hpin]

/-- Settles O49: each pin finds the node in the phase that it acts on. -/
theorem bootAndPins : Obligations.BootAndPins := by
  unfold Obligations.BootAndPins
  intro s
  refine ⟨fun hoff straps => ⟨powerUpNode straps s, exec_pwrGood_of_good straps hoff, rfl, rfl, powerUpNode_nodeInc straps s, rfl, rfl⟩,
    fun hphase hpin htamper hgo present => ⟨_, exec_bootDone_of_booting present hphase hpin htamper hgo, ?boot⟩,
    exec_resetN_of_active, exec_resetNRelease_of_held, rfl⟩
  case boot =>
    obtain ⟨hp, hcells, hparts, hsec⟩ := releaseFault_frame (booted present s)
    refine ⟨hp, hcells, ?_, by rw [hsec]; rfl⟩
    rw [part, hparts]
    exact congrArg Partn.exists_ (part_modPart 0 _ _)

/-! ### PLDM and the I3C mode (R329, R465, R507) -/

/-- Settles O60: an Active node answers over the sideband, which runs the same meanings as the commands. -/
theorem sidebandManagement : Obligations.SidebandManagement := by
  unfold Obligations.SidebandManagement
  intro s hlive hactive hgo hrun hsound
  have hwake := latchWake_of_active hactive
  refine ⟨fun k => ?sensor, fun off len final chunk => ?data, ?activate, ?i3c⟩
  case sensor =>
    change execPldmRequest (.sensor k) s = _
    simp [execPldmRequest, hlive]
  case data =>
    change execPldmRequest (.fwData off len final chunk) s = _
    simp [execPldmRequest, hlive, hwake, Nat.not_le.mpr hsound, hrun]
  case activate =>
    change execPldmRequest .fwActivate s = _
    simp [execPldmRequest, hlive, hwake, Nat.not_le.mpr hsound]
  case i3c =>
    change execI3cModeEntry s = _
    simp [execI3cModeEntry, hactive, hgo]

end Sys2Proof.Proofs

/-! Queue pairs, rings, PCI Express, register writes and the raw aperture (R470 to R489; log 51, 52). -/

namespace Sys2Proof.Proofs

open Sys2Proof Sys2Proof.Machine Sys2Proof.Laws

/-! ### Queue pairs (R479 to R481; log 52) -/

/-- A change of a queue pair is what it does to the queue pair as it is. -/
theorem modQp_congr {f q : Nat} {g h : Qp → Qp} {s : State} (e : g (qpOf s f q) = h (qpOf s f q)) : modQp f q g s = modQp f q h s := by
  unfold qpOf at e
  simp only [modQp, modFn, e]

@[simp] theorem bitOf_clearBit_self (v i : Nat) : bitOf (clearBit v i) i = false := by
  by_cases h : bitOf v i = true
  · have hodd : v / 2 ^ i % 2 = 1 := beq_iff_eq.mp h
    have hsub : (v - 2 ^ i) / 2 ^ i = v / 2 ^ i - 1 := by
      rw [← Nat.sub_mul_div v (2 ^ i) 1, Nat.mul_one]
    rw [clearBit, if_pos h, bitOf, hsub, beq_eq_false_iff_ne]
    omega
  · simp [clearBit, h]

/-- A doorbell's register takes an index: HEAD of the CQ, TAIL of the SQ (R479). -/
def putIndex (cq : Bool) (f q i : Nat) (s : State) : State :=
  modQp f q (fun v => if cq then { v with cqHead := i } else { v with sqTail := i }) s

/-- A doorbell at a running queue pair: an index beyond the ring is error 1 (R480). -/
theorem doorbell_of_running {f q i : Nat} {s : State} (cq : Bool) (hbars : barsLive s = true) (hactive : s.node.phase = .active)
    (hqp : qpExists f q = true) (hrun : (qpOf s f q).state = 1) (hi : i < 65536) : doorbell cq f q i s =
      if 2 ^ ((if cq then (qpOf s f q).cqLog else (qpOf s f q).sqLog) + 4) ≤ i then qpFault f q 1 (putIndex cq f q i s)
      else putIndex cq f q i s := by
  cases cq <;> simp [doorbell, putIndex, hbars, hqp, latchWake_of_active hactive, Nat.mod_eq_of_lt hi, hrun]

/-- What a write of HUB_QP_CFG stores: the coalescing at any time, sizes and vector where the queue pair is disabled (R481). -/
def putCfg (cfg : Nat) (v : Qp) : Qp :=
  let w := { v with coalCount := bitsOf cfg 16 8, coalUs := bitsOf cfg 24 8 }
  if w.state = 0 then { w with sqLog := bitsOf cfg 0 4, cqLog := bitsOf cfg 4 4, vector := bitsOf cfg 8 7 } else w

theorem putCfg_of_disabled {cfg : Nat} {v : Qp} (h : v.state = 0) : putCfg cfg v = { v with
    coalCount := bitsOf cfg 16 8, coalUs := bitsOf cfg 24 8, sqLog := bitsOf cfg 0 4, cqLog := bitsOf cfg 4 4
    vector := bitsOf cfg 8 7 } := if_pos h

theorem putCfg_state (cfg : Nat) (v : Qp) : (putCfg cfg v).state = v.state := by
  by_cases h : v.state = 0 <;> simp [putCfg, h]

section
variable {f q cfg : Nat} {s : State} (hwindow : windowLive s f = true) (hqp : qpExists f q = true)
include hwindow hqp

theorem writeQpCfg_of_live : writeQpCfg f q cfg s =
    let v := putCfg cfg (qpOf s f q)
    let t := modQp f q (putCfg cfg) s
    if bitOf cfg 15 then
      if v.state ≠ 0 then t
      else if 12 < v.sqLog || 12 < v.cqLog || vecMax f < v.vector then qpErr f q 4 t
      else modQp f q (fun v => { v with
        en := true, state := 1, err := 0, sqHead := 0, cqTail := 0, sqTail := 0, cqHead := 0, phase := true, coalesced := 0 }) t
    else if v.state = 1 || v.state = 2 then modQp f q (fun v => { v with en := false, state := 3 }) t else t := by
  simp only [writeQpCfg, hwindow, hqp, qpOf_modQp]
  rfl

theorem writeQpCfg_of_badSize (hen : bitOf cfg 15 = true) (hst : (qpOf s f q).state = 0)
    (hbad : 12 < bitsOf cfg 0 4 ∨ 12 < bitsOf cfg 4 4 ∨ vecMax f < bitsOf cfg 8 7) :
    writeQpCfg f q cfg s = qpErr f q 4 (modQp f q (putCfg cfg) s) := by
  simp [writeQpCfg_of_live hwindow hqp, hen, putCfg_of_disabled hst, hst, or_assoc, hbad]

theorem writeQpCfg_of_enabling (hen : bitOf cfg 15 = true) (hst : (qpOf s f q).state = 0) (hsq : bitsOf cfg 0 4 ≤ 12)
    (hcq : bitsOf cfg 4 4 ≤ 12) (hvec : bitsOf cfg 8 7 ≤ vecMax f) :
    writeQpCfg f q cfg s = modQp f q (fun v => { v with
      en := true, state := 1, err := 0, sqHead := 0, cqTail := 0, sqTail := 0, cqHead := 0, phase := true, coalesced := 0 })
      (modQp f q (putCfg cfg) s) := by
  simp [writeQpCfg_of_live hwindow hqp, hen, putCfg_of_disabled hst, hst, Nat.not_lt.mpr hsq, Nat.not_lt.mpr hcq, Nat.not_lt.mpr hvec]

theorem writeQpCfg_of_disabling (hen : bitOf cfg 15 = false) (hst : (qpOf s f q).state = 1 ∨ (qpOf s f q).state = 2) :
    writeQpCfg f q cfg s = modQp f q (fun v => { v with en := false, state := 3 }) (modQp f q (putCfg cfg) s) := by
  simp [writeQpCfg_of_live hwindow hqp, hen, putCfg_state, hst]

end

theorem exec_qpQuiesceDone_of_idle {f q : Nat} {s : State} (hst : (qpOf s f q).state = 3) (hready : (qpOf s f q).ready = [])
    (hcmds : ∀ e ∈ s.cmds, e.2.src ≠ .qp f q) (hgo : s.dbg.frozen = false) : exec (.qpQuiesceDone f q) s =
      .next (modQp f q (fun v => { v with state := 0, sqHead := 0, cqTail := 0, err := 0, coalesced := 0 }) s) := by
  change execQpQuiesceDone f q s = _
  have hnone : s.cmds.any (fun c => c.2.src == .qp f q) = false := by simpa using fun a b h => hcmds (a, b) h
  simp [execQpQuiesceDone, hst, hready, hnone, hgo]

/-- Settles O52: a doorbell's index lies within its ring or beyond it, and a write of the configuration finds its queue pair disabled
or running. -/
theorem queuePairs : Obligations.QueuePairs := by
  unfold Obligations.QueuePairs
  intro f q s hbars hactive hqp
  refine ⟨fun i hrun hi => ?doorbells, fun cfg hwindow hst => ⟨fun hbad => ?bad, fun hsq hcq hvec => ?enable⟩,
    fun cfg hwindow hst => ?disable, exec_qpQuiesceDone_of_idle⟩
  case doorbells =>
    have hdoor (cq : Bool) := doorbell_of_running cq hbars hactive hqp hrun hi
    refine ⟨fun h => congrArg _ ((hdoor false).trans (if_neg (Nat.not_le.mpr h))),
      fun h => congrArg _ ((hdoor true).trans (if_neg (Nat.not_le.mpr h))), fun h => congrArg _ ((hdoor false).trans (if_pos h)),
      fun h => congrArg _ ((hdoor true).trans (if_pos h))⟩
  case bad =>
    change execQpEnable f q cfg s = _
    rw [execQpEnable, tlp_of_active hactive, writeQpCfg_of_badSize hwindow hqp (bitOf_setBit_self _ _) hst hbad]
    exact congrArg (fun t => Host.Outcome.next (qpErr f q 4 t)) (modQp_congr (g := putCfg _) (putCfg_of_disabled hst))
  case enable =>
    refine ⟨_, congrArg Host.Outcome.next ((congrArg _ (tlp_of_active hactive)).trans
      (writeQpCfg_of_enabling hwindow hqp (bitOf_setBit_self _ _) hst hsq hcq hvec)), ?_⟩
    simp [putCfg_of_disabled hst]
  case disable =>
    refine ⟨_, congrArg Host.Outcome.next ((congrArg _ (tlp_of_active hactive)).trans
      (writeQpCfg_of_disabling hwindow hqp (bitOf_clearBit_self _ _) hst)), ?_⟩
    simp

/-! ### Rings at work (R476 to R478, R481 to R483) -/

section
variable {f q : Nat} {s : State} (hfetch : ringsFetched s = true) (hlive : srcLive s (.qp f q) = true)
  (hmore : (qpOf s f q).sqHead % 2 ^ ((qpOf s f q).sqLog + 4) ≠ (qpOf s f q).sqTail % 2 ^ ((qpOf s f q).sqLog + 4))
include hfetch hlive hmore

theorem exec_sqEntryFetch_of_fault (entry params : List Byte) :
    exec (.sqEntryFetch f q entry params true) s = .next (qpFault f q 2 s) := by
  change execSqEntryFetch f q entry params true s = _
  simp [execSqEntryFetch, hfetch, hlive, hmore]

/-- An entry that is fetched: of the data path, or of a control command where the control processor runs and fewer than 32 wait. -/
theorem exec_sqEntryFetch_of_room {entry params : List Byte}
    (hroom : isDataPath (u16 (entryPacket entry params).bytes 0) = true ∨ (s.node.restart = none ∧
      (s.cmds.filter (fun e => e.2.src == .qp f q && !isDataPath e.2.opcode)).length < 32)) :
    exec (.sqEntryFetch f q entry params false) s = .next (submit (.qp f q) (entryPacket entry params) runOp
      (modQp f q (fun v => { v with sqHead := (v.sqHead + 1) % 2 ^ ((qpOf s f q).sqLog + 4) }) s)) := by
  change execSqEntryFetch f q entry params false s = _
  rcases hroom with h | ⟨hrun, h⟩
  · simp [execSqEntryFetch, hfetch, hlive, hmore, h]
  · simp only [execSqEntryFetch, hfetch, hlive, hmore, hrun, Nat.not_le.mpr h]
    simp

end

/-- The queue pair whose first reply has been posted: how many entries it has coalesced, and when the oldest is raised (R478, R483). -/
def postReady (rest : List Completion) (tail coalesced coalAt : Nat) (v : Qp) : Qp :=
  { v with
    ready := rest, cqTail := tail, phase := if tail = 0 then !v.phase else v.phase, coalesced := coalesced, coalAt := coalAt }

/-- The state in which a reply has been posted as an entry. -/
def posted (f q : Nat) (c : Completion) (rest : List Completion) (s : State) (coalesced coalAt : Nat) : State :=
  let v := qpOf s f q
  emit (.cqEntry f q v.cqTail (cqEntry v q c)) (modQp f q (postReady rest ((v.cqTail + 1) % 2 ^ (v.cqLog + 4)) coalesced coalAt) s)

/-- When the oldest entry that has not been raised is: COAL_US after the first (R483). -/
def coalDue (f q : Nat) (s : State) : Nat :=
  if (qpOf s f q).coalesced = 0 then now s + (qpOf s f q).coalUs else (qpOf s f q).coalAt

/-- How many entries wait for the vector once a reply is posted that asks for an interrupt or does not (R483). -/
def coalNext (ask : Bool) (v : Qp) : Nat := if ask || v.coalCount = 0 then v.coalesced else v.coalesced + 1

/-- The entry reaches COAL_COUNT (R483). -/
def coalFull (ask : Bool) (v : Qp) : Bool := !ask && v.coalCount != 0 && decide (v.coalCount ≤ coalNext ask v)

section
variable (v : Qp)

theorem coal_of_ask : coalFull true v = false ∧ coalNext true v = v.coalesced := by simp [coalFull, coalNext]

theorem coal_of_off (hoff : v.coalCount = 0) : coalFull false v = false ∧ coalNext false v = v.coalesced := by
  simp [coalFull, coalNext, hoff]

theorem coal_of_few (hon : v.coalCount ≠ 0) (hfew : v.coalesced + 1 < v.coalCount) :
    coalFull false v = false ∧ coalNext false v = v.coalesced + 1 := by
  simp [coalFull, coalNext, hon, hfew]

theorem coal_of_many (hon : v.coalCount ≠ 0) (hmany : v.coalCount ≤ v.coalesced + 1) : coalFull false v = true := by
  simp [coalFull, coalNext, hon, hmany]

end

section
variable {f q : Nat} {s : State} {c : Completion} {rest : List Completion} (hready : (qpOf s f q).ready = c :: rest)
  (hst : (qpOf s f q).state ≠ 0) (herr : (qpOf s f q).err ≠ 3) (hd0 : (fnOf s f).d0 = true) (hbme : (fnOf s f).bme = true)
  (hbars : barsLive s = true)
include hready hst herr hd0 hbme hbars

theorem exec_completionPost_of_fault : exec (.completionPost f q true) s = .next (qpFault f q 3 s) := by
  change execCompletionPost f q true s = _
  simp [execCompletionPost, hready, hst, herr, hd0, hbme, hbars]

/-- A reply is posted; it counts as coalesced where it does not ask for an interrupt, and the one that reaches COAL_COUNT raises the
vector as one that asks does (R483). -/
theorem exec_completionPost_of_ready : exec (.completionPost f q false) s =
    .next ((if c.notify || coalFull c.notify (qpOf s f q) then raiseMsi f (qpOf s f q).vector else id)
      (posted f q c rest s (if coalFull c.notify (qpOf s f q) then 0 else coalNext c.notify (qpOf s f q))
        (if c.notify then (qpOf s f q).coalAt else coalDue f q s))) := by
  change execCompletionPost f q false s = _
  simp only [execCompletionPost, posted, hready, hst, herr, hd0, hbme, hbars]
  rw [modQp_congr (h := postReady rest (((qpOf s f q).cqTail + 1) % 2 ^ ((qpOf s f q).cqLog + 4))
    (if coalFull c.notify (qpOf s f q) then 0 else coalNext c.notify (qpOf s f q))
    (if c.notify then (qpOf s f q).coalAt else coalDue f q s))]
  · rw [ite_apply]
    rfl
  · cases c.notify <;> simp [postReady, coalDue, coalFull, coalNext]

end

theorem exec_coalUsExpiry_of_due {f q : Nat} {s : State} (hst : (qpOf s f q).state ≠ 0) (hcount : (qpOf s f q).coalCount ≠ 0)
    (hsome : 0 < (qpOf s f q).coalesced) (hdue : (qpOf s f q).coalAt ≤ s.node.time) (hbars : barsLive s = true) :
    exec (.coalUsExpiry f q) s = .next (raiseMsi f (qpOf s f q).vector (modQp f q (fun v => { v with coalesced := 0 }) s)) := by
  change execCoalUsExpiry f q s = _
  simp [execCoalUsExpiry, hst, hcount, hsome, now, hdue, hbars]

/-- Settles O53: an entry waits in a ring that is fetched, and a reply in one that is posted. -/
theorem ringTraffic : Obligations.RingTraffic := by
  unfold Obligations.RingTraffic
  intro f q s
  refine ⟨fun hfetch hlive hmore entry params => ⟨exec_sqEntryFetch_of_room hfetch hlive hmore,
    exec_sqEntryFetch_of_fault hfetch hlive hmore entry params⟩, fun c rest hready hst herr hd0 hbme hbars => ?posts,
    exec_coalUsExpiry_of_due⟩
  case posts =>
    have hpost := exec_completionPost_of_ready hready hst herr hd0 hbme hbars
    refine ⟨fun hask => ?asks, fun hquiet hoff => ?off, fun hquiet hon hfew => ?counts, fun hquiet hon hmany => ?reaches,
      exec_completionPost_of_fault hready hst herr hd0 hbme hbars⟩
    case asks =>
      obtain ⟨hfull, hnext⟩ := coal_of_ask (qpOf s f q)
      rw [hask, hfull, hnext] at hpost
      exact hpost
    case off =>
      obtain ⟨hfull, hnext⟩ := coal_of_off (qpOf s f q) hoff
      rw [hquiet, hfull, hnext] at hpost
      exact hpost
    case counts =>
      obtain ⟨hfull, hnext⟩ := coal_of_few (qpOf s f q) hon hfew
      rw [hquiet, hfull, hnext] at hpost
      exact hpost
    case reaches =>
      rw [hquiet, coal_of_many (qpOf s f q) hon hmany] at hpost
      exact hpost

/-! ### PCI Express (R470 to R472; log 51) -/

section
variable {s : State} (hpcie : pcieOn s = true)
include hpcie

section
variable (hgo : s.dbg.frozen = false)
include hgo

theorem exec_flr_of_pf : exec (.flr 0) s = .next (flrAll s) := by
  change execFlr 0 s = _
  simp [execFlr, hpcie, hgo]

theorem exec_flr_of_vf {f : Nat} (hvf : 1 ≤ f) (hmax : f ≤ 24) : exec (.flr f) s = .next (flrFn f s) := by
  change execFlr f s = _
  simp [execFlr, hpcie, hgo, Nat.ne_of_gt hvf, hmax]

theorem exec_vfEnableClear_of_zero : exec (.vfEnableClear 0) s = .next (flrAll s) := by
  change execVfEnableClear 0 s = _
  simp [execVfEnableClear, hpcie, hgo]

theorem exec_vfEnableClear_of_some {n : Nat} (hn : n ≠ 0) : exec (.vfEnableClear n) s =
    .next (((List.range 25).filter (fun f => n < f)).foldl (fun s f => flrFn f s) s) := by
  change execVfEnableClear n s = _
  simp [execVfEnableClear, hpcie, hgo, hn]

end

theorem exec_pcieLinkDown_of_on : exec .pcieLinkDown s = .next (flrAll s) := by
  change execPcieLinkDown s = _
  simp [execPcieLinkDown, hpcie]

theorem exec_perstN_of_on (low : Bool) : exec (.perstN low) s = .next (if low then modNode (fun n => { n with perstHeld := true }) (flrAll s)
    else modNode (fun n => { n with perstHeld := false }) s) := by
  change execPerstN low s = _
  simp [execPerstN, hpcie]

section
variable {f : Nat} (hmax : f ≤ 24)
include hmax

theorem exec_d3hot_of_on (bmeOnly : Bool) : exec (.d3hot f bmeOnly) s =
    .next (modFn f (fun v => if bmeOnly then { v with bme := false } else { v with d0 := false }) s) := by
  change execD3hot f bmeOnly s = _
  simp [execD3hot, hpcie, Nat.not_lt.mpr hmax]

/-- The function back in D0, with what waited in its event ring posted (R472). -/
def backInD0 (f : Nat) (s : State) : State := drainRing f .event (modFn f (fun v => { v with d0 := true, bme := true, pending := [] }) s)

theorem exec_returnToD0_of_on : exec (.returnToD0 f) s = .next ((fnOf s f).pending.foldl (fun s v => raiseMsi f v s)
    (((part (backInD0 f s) f).poolRings.map (·.1)).foldl (fun s i => drainRing f (.pool i) s) (backInD0 f s))) := by
  change execReturnToD0 f s = _
  simp [execReturnToD0, hpcie, Nat.not_lt.mpr hmax, backInD0]

end

end

/-- A function whose event ring has nothing waiting posts nothing there. -/
theorem backInD0_of_nothing {f : Nat} {s : State} (h : (fnOf s f).evt.waiting = []) :
    (backInD0 f s).parts = s.parts ∧ (backInD0 f s).out = s.out ∧ (fnOf (backInD0 f s) f).d0 = true ∧
      (fnOf (backInD0 f s) f).bme = true := by
  simp [backInD0, drainRing, h]

/-- Settles O54: the link is powered; each event resets the functions that it names, or changes the power state of one. -/
theorem pcieEvents : Obligations.PcieEvents := by
  unfold Obligations.PcieEvents
  intro s hpcie
  refine ⟨fun hgo => ⟨exec_flr_of_pf hpcie hgo, fun f => exec_flr_of_vf hpcie hgo⟩, exec_pcieLinkDown_of_on hpcie,
    exec_refLoss_pcie hpcie, fun hgo => ⟨exec_vfEnableClear_of_zero hpcie hgo, fun n => exec_vfEnableClear_of_some hpcie hgo⟩,
    exec_perstN_of_on hpcie true, exec_perstN_of_on hpcie false, fun f hmax => ⟨exec_d3hot_of_on hpcie hmax false,
      exec_d3hot_of_on hpcie hmax true, exec_returnToD0_of_on hpcie hmax, fun hrings hevents hvectors => ?nothing⟩⟩
  case nothing =>
    obtain ⟨hparts, hout, hd0, hbme⟩ := backInD0_of_nothing hevents
    refine ⟨_, exec_returnToD0_of_on hpcie hmax, ?_⟩
    have hnone : (part (backInD0 f s) f).poolRings = [] := by
      rw [part, hparts]
      exact hrings
    rw [hvectors, hnone]
    exact ⟨hd0, hbme, hout⟩

/-! ### Register writes (R5, R8, R401, R484, R489, R492; log 52) -/

/-- An event ring with nothing waiting is left as it is. -/
theorem drainRing_event_of_nothing {f : Nat} {s : State} (h : (fnOf s f).evt.waiting = []) :
    fnOf (drainRing f .event s) f = fnOf s f := by
  simp only [drainRing, h, List.foldl_nil]
  split
  · rw [fnOf_modFn, ← h]
  · rfl

section
variable {f : Nat} {s : State} (hactive : s.node.phase = .active)
include hactive

section
variable (hwindow : windowLive s f = true)
include hwindow

omit hactive in
/-- An event ring that is enabled posts from TAIL 0 (R484). -/
theorem writeRingCtl_of_eventEnable {ctl : Nat} (hbit : bitOf ctl 5 = true) (hen : (fnOf s f).evt.en = false) (hmin : 6 ≤ bitsOf ctl 0 5)
    (hmax : bitsOf ctl 0 5 ≤ 16) :
    writeRingCtl f .event ctl s = drainRing f .event (modRing f .event (fun v => { v with en := true, tail := 0 })
      (modRing f .event (fun v => { v with
        logSize := if v.en then v.logSize else bitsOf ctl 0 5, vector := 0
        head := bitsOf ctl 16 16 % 2 ^ (if v.en then v.logSize else bitsOf ctl 0 5) }) s)) := by
  simp [writeRingCtl, hwindow, ringOf, modRing, hbit, hen, Nat.not_lt.mpr hmin, Nat.not_lt.mpr hmax]

theorem exec_ringHeadWrite_of_live (r : RingId) (h : Nat) : exec (.ringHeadWrite f r h) s =
    .next (drainRing f r (modRing f r (fun v => { v with head := h % 2 ^ v.logSize }) s)) := by
  change execRingHeadWrite f r h s = _
  simp [execRingHeadWrite, tlp_of_active hactive, hwindow]

theorem exec_mtrSel_of_live (job : Nat) : exec (.mtrSel f job) s = .next (writeMtrSel f (job % 2 ^ 32) s) := by
  change execMtrSel f job s = _
  simp [execMtrSel, tlp_of_active hactive, hwindow]

/-- A write in BAR0 acts on the register that its address names (R5). -/
theorem exec_registerWrite_bar0 {off : Nat} (half : Half) (val : BitVec 64) (hfn : f ≤ 24) (halign : off % 8 = 0) :
    exec (.registerWrite f 0 off half val) s = .next ((regPlace f off).elim s (fun r =>
      if r.1 then writeGlobal r.2 (halfVal half val) (halfBits half).1 (halfBits half).2 half val s
      else writeWindow f r.2 (halfVal half val) (halfBits half).1 (halfBits half).2 half val s)) := by
  change execRegisterWrite f 0 off half val s = _
  rcases h : regPlace f off with _ | ⟨_ | _, o⟩ <;>
    simp [execRegisterWrite, tlp_of_active hactive, hwindow, Nat.not_lt.mpr hfn, halign, h]

end

theorem exec_nodeIdWrite_of_pf (n : Nat) (hbars : barsLive s = true) : exec (.nodeIdWrite 0 n) s = .next (writeNodeId n s) := by
  change execNodeIdWrite 0 n s = _
  simp [execNodeIdWrite, tlp_of_active hactive, hbars]

end

/-- A write of the first half of a doorbell's register in BAR2 is the doorbell (R474). -/
theorem exec_registerWrite_doorbell {f : Nat} {s : State} (q : Nat) (cq : Bool) {half : Half} (val : BitVec 64) (hfn : f ≤ 24)
    (hhalf : (halfBits half).1 = 0) :
    exec (.registerWrite f 2 (4096 * q + if cq then 8 else 0) half val) s = .next (doorbell cq f q (halfVal half val) s) := by
  change execRegisterWrite f 2 _ half val s = _
  have hq : (4096 * q + 8) / 4096 = q := by omega
  have hr : (4096 * q + 8) % 4096 = 8 := by omega
  have h8 : 4096 * q % 8 = 0 := by omega
  have h88 : (4096 * q + 8) % 8 = 0 := by omega
  cases cq <;> simp [execRegisterWrite, Nat.not_lt.mpr hfn, hhalf, hq, hr, h8, h88]

/-- Settles O55: each write acts on its register. -/
theorem registers : Obligations.Registers := by
  unfold Obligations.Registers
  intro f s hwindow hactive
  refine ⟨fun ctl hen hmin hmax hnone => ?ring, fun i h => exec_ringHeadWrite_of_live hactive hwindow _ h,
    exec_mtrSel_of_live hactive hwindow, fun n hbars => ⟨exec_nodeIdWrite_of_pf hactive n hbars, exec_selftest_of_active hbars hactive⟩,
    fun hfn off half val halign => ?bar0, fun hfn q half val hhalf => ⟨exec_registerWrite_doorbell q false val hfn hhalf,
      exec_registerWrite_doorbell q true val hfn hhalf⟩⟩
  case ring =>
    refine ⟨_, congrArg Host.Outcome.next ((congrArg _ (tlp_of_active hactive)).trans
      (writeRingCtl_of_eventEnable hwindow (bitOf_setBit_self _ _) hen hmin hmax)), ?_⟩
    rw [drainRing_event_of_nothing (by simp [modRing, hnone])]
    simp [modRing, hen]
  case bar0 =>
    have hrow := exec_registerWrite_bar0 hactive hwindow half val hfn halign
    refine ⟨fun h => ?_, fun o h => ?_, fun o h => ?_⟩
    all_goals
      rw [hrow, h]
      rfl

/-! ### The raw aperture (R485, R486) -/

/-- Two offsets of an aperture show two bytes (R486). -/
theorem apertureByte_injective {p steer i j a : Nat} {s : State} (hi : apertureByte s p steer i = some a)
    (hj : apertureByte s p steer j = some a) : i = j := by
  unfold apertureByte at hi hj
  simp only [rawKey] at hi hj
  split at hi
  · cases hi
  · split at hj
    · cases hj
    · simp only [Option.some.injEq] at hi hj
      omega

/-- The byte that an aperture's offset shows takes a value, where it shows one. -/
def putByte (p steer off : Nat) (b : Byte) (s : State) : State := (apertureByte s p steer off).elim s (fun a => putRaw a [b] s)

theorem apertureWrite_cons (p steer off : Nat) (b : Byte) (bs : List Byte) (s : State) :
    apertureWrite p steer off (b :: bs) s = apertureWrite p steer (off + 1) bs (putByte p steer off b s) := by
  cases h : apertureByte s p steer off <;> simp [apertureWrite, putByte, h]

/-- A byte that is put changes the addressed memory alone. -/
theorem putByte_eq (p steer off : Nat) (b : Byte) (s : State) :
    putByte p steer off b s = { s with raw := (putByte p steer off b s).raw } := by
  unfold putByte
  cases apertureByte s p steer off <;> rfl

/-- What an aperture shows where depends on the partitions and the cells. -/
@[simp] theorem apertureByte_putByte (p steer off : Nat) (b : Byte) (s : State) :
    apertureByte (putByte p steer off b s) = apertureByte s := by
  rw [putByte_eq]
  rfl

theorem wf_putByte {p steer off : Nat} {s : State} (b : Byte) (h : Inv s) : Inv (putByte p steer off b s) := by
  unfold putByte
  cases apertureByte s p steer off with
  | none => exact h
  | some a => exact wf_rawSet a b h

theorem rawGet_putByte_self {p steer off a : Nat} {s : State} (b : Byte) (hs : Inv s) (h : apertureByte s p steer off = some a) :
    rawGet (putByte p steer off b s).raw a = b := by
  rw [putByte, h]
  exact rawGet_rawSet_self a b hs

theorem rawGet_putByte_ne {p steer off a : Nat} {s : State} (b : Byte) (h : apertureByte s p steer off ≠ some a) :
    rawGet (putByte p steer off b s).raw a = rawGet s.raw a := by
  unfold putByte
  cases hd : apertureByte s p steer off with
  | none => rfl
  | some d => exact rawGet_rawSet_ne b (fun e => h (hd.trans (congrArg some e.symm)))

/-- A write changes the addressed memory alone. -/
theorem apertureWrite_eq (p steer : Nat) (data : List Byte) : ∀ (off : Nat) (s : State),
    apertureWrite p steer off data s = { s with raw := (apertureWrite p steer off data s).raw } := by
  induction data with
  | nil => exact fun _ _ => rfl
  | cons b bs ih =>
    intro off s
    rw [apertureWrite_cons, ih, putByte_eq]

/-- A byte that no offset of the write shows keeps its value. -/
theorem rawGet_apertureWrite_out {p steer a : Nat} (data : List Byte) : ∀ (off : Nat) (s : State),
    (∀ i < data.length, apertureByte s p steer (off + i) ≠ some a) →
      rawGet (apertureWrite p steer off data s).raw a = rawGet s.raw a := by
  induction data with
  | nil => exact fun _ _ _ => rfl
  | cons b bs ih =>
    intro off s h
    have hhead : apertureByte s p steer off ≠ some a := h 0 (Nat.zero_lt_succ _)
    have htail (i : Nat) (hi : i < bs.length) : apertureByte (putByte p steer off b s) p steer (off + 1 + i) ≠ some a := by
      rw [apertureByte_putByte, Nat.add_assoc, Nat.add_comm 1 i]
      exact h (i + 1) (Nat.succ_lt_succ hi)
    rw [apertureWrite_cons, ih _ _ htail, rawGet_putByte_ne b hhead]

/-- A byte that an offset of the write shows has the value written there, which no later one overwrites. -/
theorem rawGet_apertureWrite_in {p steer a : Nat} (data : List Byte) : ∀ (off i : Nat) (s : State), Inv s → i < data.length →
    apertureByte s p steer (off + i) = some a → rawGet (apertureWrite p steer off data s).raw a = data.getD i 0 := by
  induction data with
  | nil => exact fun _ _ _ _ hi => absurd hi (Nat.not_lt_zero _)
  | cons b bs ih =>
    intro off i s hs hi h
    rw [apertureWrite_cons]
    cases i with
    | zero =>
      have hhead : apertureByte s p steer off = some a := h
      have hlater (j : Nat) (_ : j < bs.length) : apertureByte (putByte p steer off b s) p steer (off + 1 + j) ≠ some a := by
        rw [apertureByte_putByte]
        intro hj
        have := apertureByte_injective hhead hj
        omega
      rw [rawGet_apertureWrite_out bs _ _ hlater, rawGet_putByte_self b hs hhead, List.getD_cons_zero]
    | succ j =>
      rw [List.getD_cons_succ]
      refine ih (off + 1) j _ (wf_putByte b hs) (Nat.lt_of_succ_lt_succ hi) ?_
      rw [apertureByte_putByte, Nat.add_assoc, Nat.add_comm 1 j]
      exact h

theorem bankAccess_of_free {c bank : Nat} {s : State} (h : (tget [] (cell s c).banks bank).head?.map (·.first) ≠ some true) :
    bankAccess c bank s = s := by
  have hfree : ¬((tget [] (cell s c).banks bank).head?.map (·.first)).getD false = true := by
    rcases hhead : (tget [] (cell s c).banks bank).head?.map (·.first) with _ | _ | _
    · simp [hhead]
    · simp [hhead]
    · exact absurd hhead h
  rw [bankAccess, if_neg hfree]

/-- An access of an Active node to a bank that no element has taken goes through at once (R266, R486). -/
theorem exec_rawApertureAccess_of_free {f : Nat} (off len : Nat) {s : State} (data : Option (List Byte)) (hbars : barsLive s = true)
    (hactive : s.node.phase = .active)
    (hbank : (tget [] (cell s (bitsOf (apertureOf s f f) 0 5)).banks (bitsOf (apertureOf s f f) 8 11)).head?.map (·.first) ≠ some true) :
    exec (.rawApertureAccess f f off len data) s = .next (data.elim
      (emit (.apertureData f (apertureRead s f (apertureOf s f f) off len)) s)
      (fun b => apertureWrite f (apertureOf s f f) off (b.take len) s)) := by
  change execRawApertureAccess f f off len data s = _
  cases data <;> simp [execRawApertureAccess, hbars, latchWake_of_active hactive, finishWake_of_active hactive,
    bankAccess_of_free hbank]

/-- Settles O56: a write puts its bytes one by one, each where its offset points, and two offsets point to two bytes. -/
theorem rawAperture : Obligations.RawAperture := by
  unfold Obligations.RawAperture
  intro f off len s hbars hactive steer hbank
  refine ⟨exec_rawApertureAccess_of_free off len none hbars hactive hbank, fun data hlen => ?write⟩
  have hrow := exec_rawApertureAccess_of_free off len (some data) hbars hactive hbank
  rw [Option.elim_some, List.take_of_length_le hlen] at hrow
  refine ⟨_, hrow, fun a h => rawGet_apertureWrite_out data off s h, fun hs i a => rawGet_apertureWrite_in data off i s hs, ?frame⟩
  rw [apertureWrite_eq]
  exact ⟨rfl, rfl, rfl, rfl, rfl⟩

end Sys2Proof.Proofs
